-- ==== Sys2Proof/Word.lean ====
section
/-!
DEFINITION. The word types of the Quinlis Q9 (spec/00_scope.md R2, R3) and their plainest arithmetic.
-/
namespace Sys2Proof

/-- A byte of memory (R3). -/
abbrev Byte := BitVec 8

/-- An x register, a lane register's bits, an address (R104, R143). -/
abbrev Word := BitVec 64

/-- A lane mask or predicate: bit `l` belongs to lane `l` (R104). -/
abbrev Mask := BitVec 64

/-- A descriptor register (R104). -/
abbrev Desc := BitVec 512

/-- The exit address of R118. -/
def exitAddress : Word := 0x01FFFFFFFFFFFFF8#64

end Sys2Proof
end

