-- ==== Sys2Proof/Syntax.lean ====
section
/-!
DEFINITION. The operations of the Quinlis Q9, one constructor per row of spec/opcode_table.json: the Kararyx
instructions with their operands decoded (spec/03, spec/04), the pair word, the undefined encodings, and the
events of the device, whose arguments carry which agent acts and what comes from outside the package.
-/
namespace Sys2Proof

/-- Source modes, Table 3.4 (R69). -/
inductive SrcMode where
  | wait | trap | take | peek
  deriving DecidableEq, Repr

/-- A register of kind x as a source: x0-x31 or rowid (Table 4.1). -/
inductive XName where
  | x (i : Fin 32)
  | rowid
  deriving DecidableEq, Repr

/-- A source of kind x with its mode. -/
structure XSrc where
  name : XName
  mode : SrcMode
  deriving DecidableEq, Repr

/-- Field B where it takes an x register, the class 10 immediate or the class 11 literal (R72, R74, R95). -/
inductive XOp where
  | reg (s : XSrc)
  | imm (i : BitVec 31)
  | lit (w : Word)
  deriving DecidableEq, Repr

/-- A source of kind v: v0-v63, the north port, or the lane number (Table 4.1). -/
inductive VName where
  | v (i : Fin 64)
  | n
  | lane
  deriving DecidableEq, Repr

structure VSrc where
  name : VName
  mode : SrcMode
  deriving DecidableEq, Repr

/-- Field B of a lane instruction: a lane source, an immediate converted by R72, or a literal taken by R74. -/
inductive VOp where
  | reg (s : VSrc)
  | imm (i : BitVec 31)
  | lit (w : Word)
  deriving DecidableEq, Repr

/-- A destination of kind v: v0-v63 or the south port. -/
inductive VDst where
  | v (i : Fin 64)
  | s
  deriving DecidableEq, Repr

/-- A source that must be a lane register (kinds vr and ve). -/
structure RSrc where
  reg  : Fin 64
  mode : SrcMode
  deriving DecidableEq, Repr

structure ASrc where
  reg  : Fin 4
  mode : SrcMode
  deriving DecidableEq, Repr

structure WSrc where
  reg  : Fin 4
  mode : SrcMode
  deriving DecidableEq, Repr

structure PSrc where
  reg  : Fin 8
  mode : SrcMode
  deriving DecidableEq, Repr

structure DSrc where
  reg  : Fin 8
  mode : SrcMode
  deriving DecidableEq, Repr

/-- Destination of MSTEPN: an accumulator or the south port (Table 4.4). -/
inductive ADst where
  | a (i : Fin 4)
  | s
  deriving DecidableEq, Repr

/-- Destination of PRECV: a lane register or an accumulator. -/
inductive RecvDst where
  | v (i : Fin 64)
  | a (i : Fin 4)
  deriving DecidableEq, Repr

/-- Source of PSEND: a lane register, an accumulator or a stationary register. -/
inductive SendSrc where
  | v (s : RSrc)
  | a (s : ASrc)
  | w (s : WSrc)
  deriving DecidableEq, Repr

/-- Field B of ACCADD: an accumulator or the north port. -/
inductive AccOp where
  | a (s : ASrc)
  | n (mode : SrcMode)
  deriving DecidableEq, Repr

/-- The guard of a lane instruction with G = 1 (R64). -/
structure Guard where
  neg : Bool
  p   : Fin 8
  deriving DecidableEq, Repr

/-- Rounding modes, Table 2.6 (R47). -/
inductive RMode where
  | rne | rtz | rup | rdn | rna | sr | dyn
  deriving DecidableEq, Repr

/-- Format tags, Table 2.1 (R31). -/
inductive Fmt where
  | raw | i8 | i16 | i32 | i64 | fp16 | bf16 | fp32
  | e4m3 | e5m2 | mxe4m3 | mxe5m2 | mxe2m1 | mxi8 | pl16 | acc48
  deriving DecidableEq, Repr

/-- Scopes, Table 11.1 (R274), in order of width. -/
inductive Scope where
  | row | band | field | die | pkg | host | pod | cluster | sys
  deriving DecidableEq, Repr

/-- Access widths, Table 10.1 (R237). -/
inductive Width where
  | w8 | w16 | w32 | w64
  deriving DecidableEq, Repr

/-- Condition codes of VCMP (R155). -/
inductive Cmp where
  | eq | ne | lt | le | gt | ge | uo
  deriving DecidableEq, Repr

/-- Reduction operations of VRED and VSCAN (R158). -/
inductive RedOp where
  | add | min | max | and | or | xor
  deriving DecidableEq, Repr

/-- Operations of the atomics, Table 10.3 (R248). -/
inductive AtomOp where
  | add | min | max | and | or | xor | xchg | cas
  deriving DecidableEq, Repr

/-- Kinds of weights a WLD reads (R190). -/
inductive WKind where
  | dense | lat | sp
  deriving DecidableEq, Repr

/-- Chunk and page kinds (R205, R217). -/
inductive ChunkKind where
  | plain | comp | lat
  deriving DecidableEq, Repr

/-- Kinds of port value (Table 8.3). -/
inductive PortKind where
  | vv | acc | wc
  deriving DecidableEq, Repr

/-- Fence kinds (R252). -/
inductive FenceKind where
  | full | acq | rel
  deriving DecidableEq, Repr

/-- The memory modifier of Table 10.1; `ordered` is ord = 0b01, `x` is `.dram` or `.sx`. -/
structure MemMod where
  scope   : Scope
  fmt     : Fmt
  ordered : Bool
  x       : Bool
  width   : Width
  deriving DecidableEq, Repr

/-- The atomic modifier of Table 10.3; `wide` is width 64. -/
structure AtomMod where
  scope  : Scope
  op     : AtomOp
  f      : Bool
  un     : Bool
  glob   : Bool
  acqrel : Bool
  wide   : Bool
  deriving DecidableEq, Repr

/-- Trap causes, Table 16.1 (R384). -/
inductive Cause where
  | illegal | resoperand | resfield | emptysrc | tagmismatch | partialmask | nestovf | misalign
  | xlate | denied | compressed | portunbound | sparsemeta | latticepart | barmismatch | poison
  | asyncfault | swtrap | baddesc | depthlimit | brk | divzero | counterpoison
  deriving DecidableEq, Repr

/-- What an access from outside names: HBM, a field's side memory, a die's queue SRAM, or the host's register block BAR0
(R334, R335, Table 9.6). -/
inductive ExtTarget where
  | hbm
  | side (field : Fin 64)
  | queue (die : Fin 8)
  | csr
  deriving DecidableEq, Repr

/-- An access by an agent outside the package: a host CXL.mem access or register read, an access of the management
controller (`mgmt`), or a peer's request (R235, R284, R334, R335). `addr` counts within the target. A read has no data; `len`
bytes are read. -/
structure ExtAccess where
  addr   : BitVec 40
  target : ExtTarget
  mgmt   : Bool
  write  : Bool
  len    : Nat
  data   : List Byte
  deriving DecidableEq, Repr

/-- The read-modify-write a peer's request asks for: the operation, float, unsigned and 64-bit forms, its lanes' operands and
new values (R250, R284). -/
structure ExtAtom where
  op   : AtomOp
  f    : Bool
  un   : Bool
  wide : Bool
  ops  : List Word
  news : List Word
  deriving DecidableEq, Repr

/-- A flit of a Prardat port (Table 13.5): its type code, numbers and payload; `crcOk` is the CRC's verdict
at the receiver. -/
structure Flit where
  seq     : BitVec 16
  ack     : BitVec 16
  type    : BitVec 8
  payload : List Byte
  crc     : BitVec 64
  deriving DecidableEq, Repr

/-- Where an uncorrectable error arises (R233, R386). -/
inductive ErrTarget where
  | memWord (loc : Nat)
  | register (slot : Nat) (code : BitVec 7)
  | portValue (slot : Nat)
  deriving DecidableEq, Repr

/-- One constructor per row of the opcode table. -/
inductive Instr where
  -- Group 0: scalar integer and address (R125)
  | nop
  | add (d : Fin 32) (a : XSrc) (b : XOp)
  | sub (d : Fin 32) (a : XSrc) (b : XOp)
  | mul (d : Fin 32) (a : XSrc) (b : XOp)
  | mulh (d : Fin 32) (a : XSrc) (b : XOp)
  | mulhn (d : Fin 32) (a : XSrc) (b : XOp)
  | div (d : Fin 32) (a : XSrc) (b : XOp)
  | divn (d : Fin 32) (a : XSrc) (b : XOp)
  | rem (d : Fin 32) (a : XSrc) (b : XOp)
  | remn (d : Fin 32) (a : XSrc) (b : XOp)
  | and (d : Fin 32) (a : XSrc) (b : XOp)
  | or (d : Fin 32) (a : XSrc) (b : XOp)
  | xor (d : Fin 32) (a : XSrc) (b : XOp)
  | andn (d : Fin 32) (a : XSrc) (b : XOp)
  | shl (d : Fin 32) (a : XSrc) (b : XOp)
  | shr (d : Fin 32) (a : XSrc) (b : XOp)
  | sar (d : Fin 32) (a : XSrc) (b : XOp)
  | rot (d : Fin 32) (a : XSrc) (b : XOp)
  | min (d : Fin 32) (a : XSrc) (b : XOp)
  | max (d : Fin 32) (a : XSrc) (b : XOp)
  | minn (d : Fin 32) (a : XSrc) (b : XOp)
  | maxn (d : Fin 32) (a : XSrc) (b : XOp)
  | clz (d : Fin 32) (a : XSrc)
  | ctz (d : Fin 32) (a : XSrc)
  | popc (d : Fin 32) (a : XSrc)
  | seq (d : Fin 32) (a : XSrc) (b : XOp)
  | sne (d : Fin 32) (a : XSrc) (b : XOp)
  | slt (d : Fin 32) (a : XSrc) (b : XOp)
  | sltn (d : Fin 32) (a : XSrc) (b : XOp)
  | sle (d : Fin 32) (a : XSrc) (b : XOp)
  | slen (d : Fin 32) (a : XSrc) (b : XOp)
  | sel (d : Fin 32) (a : XSrc) (b : XOp) (c : XSrc)
  | lea (d : Fin 32) (a : XSrc) (b : XOp) (k : Fin 8)
  | mov (d : Fin 32) (a : XSrc)
  | li (d : Fin 32) (b : XOp)
  | bfx (d : Fin 32) (a : XSrc) (b : XSrc) (sx : Bool)
  | bfi (d : Fin 32) (a : XSrc) (b : XSrc)
  | madd (d : Fin 32) (a : XSrc) (b : XOp) (c : XSrc)
  -- Group 1: control and lane structure (R129-R142)
  | j (imm : BitVec 31)
  | jr (a : XSrc)
  | bz (a : XSrc) (imm : BitVec 31)
  | bnz (a : XSrc) (imm : BitVec 31)
  | call (d : Fin 32) (imm : BitVec 31)
  | callr (d : Fin 32) (a : XSrc)
  | dbnz (d : Fin 32) (a : XSrc) (imm : BitVec 31)
  | lif (p : PSrc)
  | lelse
  | lendif
  | lloop
  | lbreak (p : PSrc) (k : Fin 32)
  | lcont (p : PSrc) (k : Fin 32)
  | lendl (p : PSrc) (back : BitVec 13)
  | lany (d : Fin 32) (p : PSrc)
  | lall (d : Fin 32) (p : PSrc)
  | lcnt (d : Fin 32) (p : PSrc)
  | waitc (d : Fin 32) (a : DSrc) (b : XOp)
  | yield (b : XOp)
  | exit
  | trap (b : XOp)
  | brk
  -- Group 2: vector arithmetic (R152-R160)
  | vadd (g : Option Guard) (d : VDst) (a : VSrc) (b : VOp) (rm : RMode) (sat un : Bool)
  | vsub (g : Option Guard) (d : VDst) (a : VSrc) (b : VOp) (rm : RMode) (sat un : Bool)
  | vmul (g : Option Guard) (d : VDst) (a : VSrc) (b : VOp) (rm : RMode) (sat un : Bool)
  | vfma (g : Option Guard) (d : VDst) (a : VSrc) (b : VOp) (c : VSrc) (rm : RMode) (sat un : Bool)
  | vfms (g : Option Guard) (d : VDst) (a : VSrc) (b : VOp) (c : VSrc) (rm : RMode) (sat un : Bool)
  | vmin (g : Option Guard) (d : VDst) (a : VSrc) (b : VOp) (un : Bool)
  | vmax (g : Option Guard) (d : VDst) (a : VSrc) (b : VOp) (un : Bool)
  | vabs (g : Option Guard) (d : VDst) (a : VSrc) (sat : Bool)
  | vneg (g : Option Guard) (d : VDst) (a : VSrc) (sat : Bool)
  | vrcp (g : Option Guard) (d : VDst) (a : VSrc) (rm : RMode) (sat : Bool)
  | vrsq (g : Option Guard) (d : VDst) (a : VSrc) (rm : RMode) (sat : Bool)
  | vsqrt (g : Option Guard) (d : VDst) (a : VSrc) (rm : RMode) (sat : Bool)
  | vexp2 (g : Option Guard) (d : VDst) (a : VSrc) (rm : RMode) (sat : Bool)
  | vlog2 (g : Option Guard) (d : VDst) (a : VSrc) (rm : RMode) (sat : Bool)
  | vtanh (g : Option Guard) (d : VDst) (a : VSrc) (rm : RMode) (sat : Bool)
  | vcmp (g : Option Guard) (d : Fin 8) (a : VSrc) (b : VOp) (cc : Cmp) (any un : Bool)
  | vsel (g : Option Guard) (d : VDst) (a : VSrc) (b : VSrc) (c : PSrc)
  | vand (g : Option Guard) (d : VDst) (a : VSrc) (b : VOp)
  | vor (g : Option Guard) (d : VDst) (a : VSrc) (b : VOp)
  | vxor (g : Option Guard) (d : VDst) (a : VSrc) (b : VOp)
  | vshl (g : Option Guard) (d : VDst) (a : VSrc) (b : VOp) (sat un : Bool)
  | vshr (g : Option Guard) (d : VDst) (a : VSrc) (b : VOp)
  | vsar (g : Option Guard) (d : VDst) (a : VSrc) (b : VOp)
  | vdot (g : Option Guard) (d : VDst) (a : VSrc) (b : VOp) (c : VSrc) (rm : RMode) (sat un : Bool)
  | vsplat (g : Option Guard) (d : VDst) (a : XSrc) (fmt : Fmt)
  | vmovx (g : Option Guard) (d : Fin 32) (a : VSrc) (b : XOp)
  | vins (g : Option Guard) (d : VDst) (a : XSrc) (b : XOp) (fmt : Fmt)
  | vred (g : Option Guard) (d : Fin 32) (a : VSrc) (op : RedOp) (rm : RMode) (sat un : Bool)
  | vscan (g : Option Guard) (d : VDst) (a : VSrc) (op : RedOp) (rm : RMode) (sat un excl : Bool)
  -- Group 3: conversion, lattice, crossbar and predicates (R161-R171)
  | vcvt (g : Option Guard) (d : VDst) (a : VSrc) (fmt : Fmt) (rm : RMode) (sat un : Bool)
  | vpack (g : Option Guard) (d : VDst) (a : VSrc) (b : VSrc) (fmt : Fmt) (rm : RMode) (sat un : Bool)
  | vunpk (g : Option Guard) (d : VDst) (a : VSrc) (fmt : Fmt) (rm : RMode) (sat un : Bool) (part : Fin 4)
  | vtag (g : Option Guard) (d : VDst) (a : VSrc) (fmt : Fmt)
  | vscl (g : Option Guard) (d : VDst) (a : VSrc) (b : XOp) (add : Bool)
  | vquant (g : Option Guard) (d : Fin 64) (a : RSrc) (b : XOp) (word : Fin 4)
  | vdeq (g : Option Guard) (d : Fin 64) (a : RSrc) (b : XOp) (fmt : Fmt) (rm : RMode) (sat : Bool) (word : Fin 4)
  | xbar (g : Option Guard) (d : VDst) (a : VSrc) (k : Fin 16)
  | xbld (a : XSrc) (k : Fin 16)
  | vrot (g : Option Guard) (d : VDst) (a : VSrc) (b : XOp)
  | vbcast (g : Option Guard) (d : VDst) (a : VSrc) (b : XOp)
  | pand (d : Fin 8) (a b : PSrc)
  | por (d : Fin 8) (a b : PSrc)
  | pxor (d : Fin 8) (a b : PSrc)
  | pnot (d : Fin 8) (a : PSrc)
  | pset (d : Fin 8) (b : XOp)
  | vrng (g : Option Guard) (d : VDst)
  | vseed (g : Option Guard) (a : VSrc)
  -- Group 4: tensor and ports (R180-R199)
  | mstep (g : Option Guard) (d : Fin 4) (a : VSrc) (b : WSrc) (kw : BitVec 5) (slice : Fin 8)
  | mstepn (g : Option Guard) (d : ADst) (a : RSrc) (b : WSrc) (c : SrcMode) (kw : BitVec 5) (slice : Fin 8)
  | msteps (g : Option Guard) (d : Fin 4) (a : RSrc) (b : WSrc) (kw : BitVec 5) (slice : Fin 8)
  | accz (g : Option Guard) (d : Fin 4)
  | accrd (g : Option Guard) (d : VDst) (a : ASrc) (b : Option RSrc) (fmt : Fmt) (rm : RMode) (sat clr : Bool)
  | accwr (g : Option Guard) (d : Fin 4) (a : RSrc)
  | accadd (g : Option Guard) (d : Fin 4) (a : ASrc) (b : AccOp)
  | wld (g : Option Guard) (d : Fin 4) (a : XSrc) (b : XOp) (fmt : Fmt) (kind : WKind)
  | wrecv (g : Option Guard) (d : Fin 4) (a : SrcMode)
  | wsend (g : Option Guard) (a : WSrc)
  | psend (g : Option Guard) (a : SendSrc) (rel : Bool)
  | precv (g : Option Guard) (d : RecvDst) (a : SrcMode)
  | pbind (a : DSrc) (kind : PortKind) (nad : Bool)
  | pflush
  | wscl (g : Option Guard) (d : Fin 4) (a : RSrc)
  -- Group 5: memory (R242-R257)
  | ld (g : Option Guard) (d : VDst) (a : XSrc) (b : RSrc) (m : MemMod)
  | ldv (g : Option Guard) (d : VDst) (a : XSrc) (b : XOp) (m : MemMod)
  | ldb (g : Option Guard) (d : VDst) (a : XSrc) (b : XOp) (m : MemMod)
  | st (g : Option Guard) (a : XSrc) (b : RSrc) (c : RSrc) (m : MemMod)
  | stv (g : Option Guard) (a : XSrc) (b : XOp) (c : RSrc) (m : MemMod)
  | lds (d : Fin 32) (a : XSrc) (b : XOp) (m : MemMod)
  | sts (a : XSrc) (b : XOp) (c : XSrc) (m : MemMod)
  | gld (g : Option Guard) (d : VDst) (a : XSrc) (b : RSrc) (m : MemMod)
  | gst (g : Option Guard) (a : XSrc) (b : RSrc) (c : RSrc) (m : MemMod)
  | atom (g : Option Guard) (d : VDst) (a : XSrc) (b : RSrc) (c : RSrc) (m : AtomMod)
  | red (g : Option Guard) (a : XSrc) (b : RSrc) (c : RSrc) (m : AtomMod)
  | cas (g : Option Guard) (d : VDst) (a : XSrc) (b : RSrc) (c : RSrc) (m : AtomMod)
  | atoms (d : Fin 32) (a : XSrc) (b : XOp) (c : XSrc) (m : AtomMod)
  | fence (scope : Scope) (kind : FenceKind)
  | fencex (scope : Scope) (kind : FenceKind) (paths : BitVec 7)
  | pref (a : XSrc) (b : XOp)
  | sgrow (d : Fin 32) (b : XOp) (kind : ChunkKind)
  | sfree (d : Fin 32) (b : XOp)
  -- Group 6: copy and descriptors (R259-R270)
  | copy (d : Fin 32) (a : DSrc) (b : DSrc) (c : XSrc)
  | copyef (d : Fin 32) (a : DSrc) (b : DSrc) (c : DSrc)
  | copys (d : Fin 32) (a : DSrc) (b : XSrc)
  | ldd (d : Fin 8) (a : XSrc) (b : XOp) (loc : Bool)
  | std (a : XSrc) (b : XOp) (c : DSrc) (loc : Bool)
  | dset (d : Fin 8) (a : XSrc) (k : Fin 8)
  | dget (d : Fin 32) (a : DSrc) (k : Fin 8)
  | ccancel (a : XName)
  -- Group 7: queues and collectives (R298-R328)
  | enq (d : Fin 32) (a : XSrc) (b : XSrc) (c : XSrc) (t loc : Bool)
  | enqb (d : Fin 32) (a : XSrc) (b : XSrc) (c : XSrc) (t loc : Bool)
  | qflush (a : XSrc)
  | qstat (d : Fin 32) (a : XSrc)
  | recdone
  | deq (d : Fin 32) (b : XOp)
  | coll (d : Fin 32) (a : DSrc) (b : XOp)
  | cstat (d : Fin 32) (a : XSrc)
  -- Group 8: counters and barriers (R365-R379)
  | jinit (a : XSrc) (b : XSrc) (loc : Bool)
  | jdec (d : Fin 32) (a : XSrc)
  | jread (d : Fin 32) (a : XSrc)
  | barr (a : XSrc) (b : XOp)
  | bara (a : XSrc) (b : XOp)
  | barw (b : XOp)
  | acnt (a : XSrc) (b : XOp) (rel : Bool)
  | aset (a : XSrc) (b : XOp)
  | evsel (a : XSrc) (b : XOp)
  | evrd (d : Fin 32) (a : XSrc)
  -- Group 9: system (R116, R389)
  | csrr (d : Fin 32) (csr : BitVec 12)
  | csrw (a : XSrc) (csr : BitVec 12)
  | csrs (a : XSrc) (csr : BitVec 12)
  | csrc (a : XSrc) (csr : BitVec 12)
  | rett
  -- Pair words and undefined encodings (R75-R79)
  | pairWord (h0 h1 : Instr)
  | undefinedEncoding (cause : Cause) (half : Bool) (field : BitVec 6)
  -- Completions of issued work
  | killComplete (band : Nat)
  | deferredFaultFound (id : Nat)
  | loadComplete (id : Nat)
  | lddComplete (id : Nat)
  | wldComplete (id : Nat)
  | xbldComplete (id : Nat)
  | atomicComplete (id k : Nat)
  | redRequestPerform (id k : Nat)
  | storePerform (id k : Nat)
  | pageWalkComplete (slot : Nat)
  | faultBufferEntryTaken (die : Nat)
  | copyQueueEntryGrant (field : Nat)
  | copyGranule (field engine : Nat)
  | copyComplete (field id : Nat)
  | bindingStart (band : Nat) (nad : Bool)
  | zenithRead (band : Nat)
  | nadirWrite (band : Nat)
  | pflushComplete (slot : Nat)
  | portValueArrive (slot : Nat)
  | portResultWrite (slot : Nat)
  | waitcMet (slot : Nat)
  | waitcTimeout (slot : Nat)
  | sgrowGrant (slot : Nat)
  | sgrowRefuse (field : Nat)
  | sfreeComplete (slot : Nat)
  | recdoneRelease (slot : Nat)
  -- Record queues, launcher, counters
  | enqArrival (id : Nat)
  | enqbRetry (die : Nat)
  | enqbTimeout (id : Nat)
  | qflushArrival (id : Nat)
  | qstatArrival (id : Nat)
  | deqRefill (id : Nat)
  | launchAgeExpiry (node : Nat)
  | poisonedRecordRemove (node : Nat)
  | placement
  | bandRelease (band : Nat)
  | bandRetire (band : Nat)
  | jinitArrival (id : Nat)
  | jdecArrival (id : Nat)
  | joinRecordAccept (die : Nat)
  | jreadArrival (id : Nat)
  -- Collectives and links
  | collQueueEntryGrant (engine : Nat)
  | collStart (engine : Nat)
  | collStepEnd (id : Nat) (received : List Byte)
  | collComplete (id : Nat) (partnerError : Bool)
  | collStopProposal (id : Nat) (step : Nat)
  | peerRequest (req : ExtAccess) (atom : Option ExtAtom)
  | flitSend (port : Nat) (type : BitVec 8) (payload : List Byte)
  | flitReceive (port : Nat) (f : Flit)
  | laneRepair (port : Nat)
  | retrainComplete (port : Nat)
  | portDown (port : Nat)
  -- Host registers
  | hostMemAccess (req : ExtAccess)
  | subtailWrite (v : Word)
  | submissionConsume
  | fbrespWrite (v : Word)
  | logdrainWrite (v : Word)
  | registerWrite (offset : Nat) (v : Word)
  -- Management commands
  | nodewr | noderd | regbase | rbsync | asidroot | shoot | migwr | migrd | aclwr | aclrd
  | keyload | keyclr | keywb | patwr | grpwr | grprd | spillset | thresh | pkgset | portrst
  | suspend | resume | reset | parkans | pwrstat
  -- Twilight, power, pre-emption
  | yieldDeadlineExpiry
  | eclipseEnter
  | powerOn
  | powerLoss
  | preemptionRequest
  | bandSave (band : Nat)
  | bandYield (band : Nat)
  | yieldWithdraw (band : Nat)
  | bandRestore (band : Nat)
  -- Memory controllers, clock, errors, fetch
  | migrationBackgroundFill (quadrant entry : Nat)
  | refreshManagement (quadrant : Nat)
  | bankAvailable (quadrant : Nat)
  | midBurstRefresh (quadrant bank : Nat)
  | tick
  | uncorrectableError (at_ : ErrTarget)
  | instructionCacheFill (slot : Nat)
  | periodicRefresh (quadrant bank : Nat) (postpone : Bool)
  deriving DecidableEq, Repr

end Sys2Proof
end

