-- ==== Sys2Proof/Machine/Codes.lean ====
section
/-!
DEFINITION. The numeric codes of the spec's small name sets: source modes (Table 3.4), rounding modes (Table 2.6),
format tags (Table 2.1), scopes (Table 11.1), trap causes (Table 16.1) and the modifier codes of the entries.
Each set has its code and its reading of a code; a reading answers none for a reserved code.
-/
namespace Sys2Proof

def SrcMode.code : SrcMode → BitVec 2
  | .wait => 0 | .trap => 1 | .take => 2 | .peek => 3

def SrcMode.ofCode (c : BitVec 2) : SrcMode :=
  if c = 0 then .wait else if c = 1 then .trap else if c = 2 then .take else .peek

def RMode.code : RMode → BitVec 3
  | .rne => 0 | .rtz => 1 | .rup => 2 | .rdn => 3 | .rna => 4 | .sr => 5 | .dyn => 6

def RMode.ofCode (c : BitVec 3) : Option RMode :=
  match c.toNat with
  | 0 => some .rne | 1 => some .rtz | 2 => some .rup | 3 => some .rdn
  | 4 => some .rna | 5 => some .sr | 6 => some .dyn | _ => none

def Fmt.code : Fmt → BitVec 4
  | .raw => 0 | .i8 => 1 | .i16 => 2 | .i32 => 3 | .i64 => 4 | .fp16 => 5 | .bf16 => 6 | .fp32 => 7
  | .e4m3 => 8 | .e5m2 => 9 | .mxe4m3 => 10 | .mxe5m2 => 11 | .mxe2m1 => 12 | .mxi8 => 13
  | .pl16 => 14 | .acc48 => 15

def Fmt.ofCode (c : BitVec 4) : Fmt :=
  match c.toNat with
  | 0 => .raw | 1 => .i8 | 2 => .i16 | 3 => .i32 | 4 => .i64 | 5 => .fp16 | 6 => .bf16 | 7 => .fp32
  | 8 => .e4m3 | 9 => .e5m2 | 10 => .mxe4m3 | 11 => .mxe5m2 | 12 => .mxe2m1 | 13 => .mxi8
  | 14 => .pl16 | _ => .acc48

def Scope.code : Scope → BitVec 4
  | .row => 0 | .band => 1 | .field => 2 | .die => 3 | .pkg => 4 | .host => 5 | .pod => 6
  | .cluster => 7 | .sys => 8

def Scope.ofCode (c : BitVec 4) : Option Scope :=
  match c.toNat with
  | 0 => some .row | 1 => some .band | 2 => some .field | 3 => some .die | 4 => some .pkg
  | 5 => some .host | 6 => some .pod | 7 => some .cluster | 8 => some .sys | _ => none

def Width.code : Width → BitVec 2
  | .w8 => 0 | .w16 => 1 | .w32 => 2 | .w64 => 3

def Width.ofCode (c : BitVec 2) : Width :=
  if c = 0 then .w8 else if c = 1 then .w16 else if c = 2 then .w32 else .w64

/-- The bytes of an access width (Table 10.1). -/
def Width.bytes : Width → Nat
  | .w8 => 1 | .w16 => 2 | .w32 => 4 | .w64 => 8

def Cmp.code : Cmp → BitVec 3
  | .eq => 0 | .ne => 1 | .lt => 2 | .le => 3 | .gt => 4 | .ge => 5 | .uo => 6

def Cmp.ofCode (c : BitVec 3) : Option Cmp :=
  match c.toNat with
  | 0 => some .eq | 1 => some .ne | 2 => some .lt | 3 => some .le | 4 => some .gt | 5 => some .ge
  | 6 => some .uo | _ => none

def RedOp.code : RedOp → BitVec 3
  | .add => 0 | .min => 1 | .max => 2 | .and => 3 | .or => 4 | .xor => 5

def RedOp.ofCode (c : BitVec 3) : Option RedOp :=
  match c.toNat with
  | 0 => some .add | 1 => some .min | 2 => some .max | 3 => some .and | 4 => some .or | 5 => some .xor
  | _ => none

def AtomOp.code : AtomOp → BitVec 3
  | .add => 0 | .min => 1 | .max => 2 | .and => 3 | .or => 4 | .xor => 5 | .xchg => 6 | .cas => 7

def AtomOp.ofCode (c : BitVec 3) : AtomOp :=
  match c.toNat with
  | 0 => .add | 1 => .min | 2 => .max | 3 => .and | 4 => .or | 5 => .xor | 6 => .xchg | _ => .cas

def WKind.code : WKind → BitVec 2
  | .dense => 0 | .lat => 1 | .sp => 2

def WKind.ofCode (c : BitVec 2) : Option WKind :=
  if c = 0 then some .dense else if c = 1 then some .lat else if c = 2 then some .sp else none

def ChunkKind.code : ChunkKind → BitVec 2
  | .plain => 0 | .comp => 1 | .lat => 2

def ChunkKind.ofCode (c : BitVec 2) : Option ChunkKind :=
  if c = 0 then some .plain else if c = 1 then some .comp else if c = 2 then some .lat else none

def PortKind.code : PortKind → BitVec 2
  | .vv => 0 | .acc => 1 | .wc => 2

def PortKind.ofCode (c : BitVec 2) : Option PortKind :=
  if c = 0 then some .vv else if c = 1 then some .acc else if c = 2 then some .wc else none

def FenceKind.code : FenceKind → BitVec 2
  | .full => 0 | .acq => 1 | .rel => 2

def FenceKind.ofCode (c : BitVec 2) : Option FenceKind :=
  if c = 0 then some .full else if c = 1 then some .acq else if c = 2 then some .rel else none

/-- Trap cause codes, Table 16.1. -/
def Cause.code : Cause → BitVec 8
  | .illegal => 0x01 | .resoperand => 0x02 | .resfield => 0x03 | .emptysrc => 0x04
  | .tagmismatch => 0x05 | .partialmask => 0x06 | .nestovf => 0x07 | .misalign => 0x08
  | .xlate => 0x09 | .denied => 0x0A | .compressed => 0x0B | .portunbound => 0x0C
  | .sparsemeta => 0x0D | .latticepart => 0x0E | .barmismatch => 0x0F | .poison => 0x10
  | .asyncfault => 0x11 | .swtrap => 0x12 | .baddesc => 0x13 | .depthlimit => 0x14
  | .brk => 0x15 | .divzero => 0x16 | .counterpoison => 0x17

end Sys2Proof
end

