-- ==== Sys2Proof/Decode.lean ====
section
/-!
DEFINITION. Decoding of Kararyx words (spec/03 R62-R79, spec/04 R93-R103) and, after it, encoding. A word is cut into the
fields of Tables 3.2 and 3.5 once (`RawWord`), and each opcode's decoder checks its fields from the most significant
down (R79), so the first offending field decides the trap. Decoding never refuses a whole word: every word that is not
an instruction is the instruction `undefinedEncoding` with the trap the spec gives it (R78).
-/
namespace Sys2Proof

/-- The register counts an operand may name (R18). -/
structure Footprint where
  v : Nat
  w : Nat
  a : Nat
  d : Nat
  deriving DecidableEq, Repr

/-- The largest footprint a node may declare (Table 1.4). -/
def Footprint.full : Footprint := ⟨64, 4, 4, 8⟩

/-- The decode trap of a word: its cause and the item of Table 3.9 (R79). -/
structure Undef where
  cause : Cause
  half  : Bool
  field : BitVec 6
  deriving DecidableEq, Repr

abbrev Dec (α : Type) := Except Undef α

/-- The fields of Tables 3.2 and 3.5: `low` is bits [30:0], the immediate of class 10. -/
structure RawWord where
  cls : BitVec 2
  opc : BitVec 10
  g   : BitVec 1
  n   : BitVec 1
  gp  : BitVec 3
  d   : BitVec 7
  a   : BitVec 7
  ma  : BitVec 2
  low : BitVec 31
  deriving DecidableEq, Repr

def RawWord.ofWord (w : Word) : RawWord where
  cls := w.extractLsb' 62 2
  opc := w.extractLsb' 52 10
  g   := w.extractLsb' 51 1
  n   := w.extractLsb' 50 1
  gp  := w.extractLsb' 47 3
  d   := w.extractLsb' 40 7
  a   := w.extractLsb' 33 7
  ma  := w.extractLsb' 31 2
  low := w.extractLsb' 0 31

def RawWord.toWord (r : RawWord) : Word :=
  (r.cls ++ r.opc ++ r.g ++ r.n ++ r.gp ++ r.d ++ r.a ++ r.ma ++ r.low).cast (by decide)

def RawWord.b (r : RawWord) : BitVec 7 := r.low.extractLsb' 24 7
def RawWord.mb (r : RawWord) : BitVec 2 := r.low.extractLsb' 22 2

/-- An immediate word runs with operand C absent and every modifier bit zero (R72). -/
def RawWord.c (r : RawWord) : BitVec 7 := if r.cls = 2 then 0 else r.low.extractLsb' 15 7
def RawWord.mc (r : RawWord) : BitVec 2 := if r.cls = 2 then 0 else r.low.extractLsb' 13 2
def RawWord.m (r : RawWord) : BitVec 13 := if r.cls = 2 then 0 else r.low.extractLsb' 0 13

/-! ## The decode traps and the checks of single fields -/

def Undef.illegal (f : Nat) : Dec α := .error ⟨.illegal, false, .ofNat 6 f⟩
def Undef.operand (f : Nat) : Dec α := .error ⟨.resoperand, false, .ofNat 6 f⟩
def Undef.fieldVal (f : Nat) : Dec α := .error ⟨.resfield, false, .ofNat 6 f⟩

/-- Succeeds when the condition holds, and otherwise is the given trap. -/
def Dec.need (p : Bool) (e : Dec Unit) : Dec Unit := if p then .ok () else e

/-- The number of the lowest set bit below `k` (R79). -/
def lowestBit (m : Nat) : Nat → Nat
  | 0 => 0
  | k + 1 => if m % 2 = 1 then 0 else 1 + lowestBit (m / 2) k

/-- Step 1 of R79: the class must be among those the opcode admits, and class 11 must hold B = 0x7F. -/
def admitCls (f i x : Bool) (r : RawWord) : Dec Unit := do
  Dec.need ((f && r.cls == 0) || (i && r.cls == 2) || (x && r.cls == 3)) (Undef.illegal 52)
  Dec.need (r.cls != 3 || r.b == 0x7F) (Undef.illegal 24)

/-- The guard fields of a scalar-only instruction (R64). -/
def guardS (r : RawWord) : Dec Unit := do
  Dec.need (r.g == 0) (Undef.fieldVal 51)
  Dec.need (r.n == 0) (Undef.fieldVal 50)
  Dec.need (r.gp == 0) (Undef.fieldVal 47)

/-- The guard fields of a lane instruction (R64). -/
def guardL (r : RawWord) : Dec (Option Guard) := do
  if r.g == 1 then
    return some ⟨r.n == 1, ⟨r.gp.toNat, r.gp.isLt⟩⟩
  else
    Dec.need (r.n == 0) (Undef.fieldVal 50)
    Dec.need (r.gp == 0) (Undef.fieldVal 47)
    return none

/-- x0-x31 (Table 3.3). -/
def xCode (c : BitVec 7) (f : Nat) : Dec (Fin 32) :=
  if h : c.toNat < 32 then .ok ⟨c.toNat, h⟩ else Undef.operand f

/-- Kind x as a source (Table 4.1). -/
def xName (c : BitVec 7) (f : Nat) : Dec XName :=
  if c = 0x7B then .ok .rowid else XName.x <$> xCode c f

/-- A lane register within the footprint (R18). -/
def vCode (fp : Footprint) (c : BitVec 7) (f : Nat) : Dec (Fin 64) :=
  if h : 0x20 ≤ c.toNat ∧ c.toNat < 0x60 ∧ c.toNat - 0x20 < fp.v then
    .ok ⟨c.toNat - 0x20, by omega⟩
  else Undef.operand f

def vName (fp : Footprint) (c : BitVec 7) (f : Nat) : Dec VName :=
  if c = 0x78 then .ok .n else if c = 0x7A then .ok .lane else VName.v <$> vCode fp c f

def vDst (fp : Footprint) (c : BitVec 7) (f : Nat) : Dec VDst :=
  if c = 0x79 then .ok .s else VDst.v <$> vCode fp c f

def aCode (fp : Footprint) (c : BitVec 7) (f : Nat) : Dec (Fin 4) :=
  if h : 0x60 ≤ c.toNat ∧ c.toNat < 0x64 ∧ c.toNat - 0x60 < fp.a then
    .ok ⟨c.toNat - 0x60, by omega⟩
  else Undef.operand f

def wCode (fp : Footprint) (c : BitVec 7) (f : Nat) : Dec (Fin 4) :=
  if h : 0x64 ≤ c.toNat ∧ c.toNat < 0x68 ∧ c.toNat - 0x64 < fp.w then
    .ok ⟨c.toNat - 0x64, by omega⟩
  else Undef.operand f

def pCode (c : BitVec 7) (f : Nat) : Dec (Fin 8) :=
  if h : 0x68 ≤ c.toNat ∧ c.toNat < 0x70 then .ok ⟨c.toNat - 0x68, by omega⟩ else Undef.operand f

def dCode (fp : Footprint) (c : BitVec 7) (f : Nat) : Dec (Fin 8) :=
  if h : 0x70 ≤ c.toNat ∧ c.toNat < 0x78 ∧ c.toNat - 0x70 < fp.d then
    .ok ⟨c.toNat - 0x70, by omega⟩
  else Undef.operand f

/-- A group of `k` consecutive lane registers from `i` lies within v63 and the footprint. -/
def vGroup (fp : Footprint) (i : Fin 64) (k f : Nat) : Dec Unit :=
  Dec.need (decide (i.val + k ≤ 64 ∧ i.val + k ≤ fp.v)) (Undef.operand f)

/-! ### Fields D, A, B and C of a full word -/

def dNone (r : RawWord) : Dec Unit := Dec.need (r.d == 0) (Undef.operand 40)
def dSouth (r : RawWord) : Dec Unit := Dec.need (r.d == 0x79) (Undef.operand 40)

def aNone (r : RawWord) : Dec Unit := do
  Dec.need (r.a == 0) (Undef.operand 33)
  Dec.need (r.ma == 0) (Undef.fieldVal 31)

def bNone (r : RawWord) : Dec Unit := do
  Dec.need (r.b == 0) (Undef.operand 24)
  Dec.need (r.mb == 0) (Undef.fieldVal 22)

def cNone (r : RawWord) : Dec Unit := do
  Dec.need (r.c == 0) (Undef.operand 15)
  Dec.need (r.mc == 0) (Undef.fieldVal 13)

def RawWord.aMode (r : RawWord) : SrcMode := .ofCode r.ma
def RawWord.bMode (r : RawWord) : SrcMode := .ofCode r.mb
def RawWord.cMode (r : RawWord) : SrcMode := .ofCode r.mc

def aX (r : RawWord) : Dec XSrc := do return ⟨← xName r.a 33, r.aMode⟩
def cX (r : RawWord) : Dec XSrc := do return ⟨← xName r.c 15, r.cMode⟩
def bXr (r : RawWord) : Dec XSrc := do return ⟨← xName r.b 24, r.bMode⟩

/-- Field B of kind x in any class (R72, R74, R95). -/
def bX (r : RawWord) (lit : Word) : Dec XOp :=
  if r.cls = 2 then .ok (.imm r.low)
  else if r.cls = 3 then do
    Dec.need (r.mb == 0) (Undef.fieldVal 22)
    return .lit lit
  else do return .reg (← bXr r)

def aV (fp : Footprint) (r : RawWord) : Dec VSrc := do return ⟨← vName fp r.a 33, r.aMode⟩
def bVr (fp : Footprint) (r : RawWord) : Dec VSrc := do return ⟨← vName fp r.b 24, r.bMode⟩
def cV (fp : Footprint) (r : RawWord) : Dec VSrc := do return ⟨← vName fp r.c 15, r.cMode⟩

/-- Field B of kind v in any class. -/
def bV (fp : Footprint) (r : RawWord) (lit : Word) : Dec VOp :=
  if r.cls = 2 then .ok (.imm r.low)
  else if r.cls = 3 then do
    Dec.need (r.mb == 0) (Undef.fieldVal 22)
    return .lit lit
  else do return .reg (← bVr fp r)

def aR (fp : Footprint) (r : RawWord) : Dec RSrc := do return ⟨← vCode fp r.a 33, r.aMode⟩
def bR (fp : Footprint) (r : RawWord) : Dec RSrc := do return ⟨← vCode fp r.b 24, r.bMode⟩
def cR (fp : Footprint) (r : RawWord) : Dec RSrc := do return ⟨← vCode fp r.c 15, r.cMode⟩
def aA (fp : Footprint) (r : RawWord) : Dec ASrc := do return ⟨← aCode fp r.a 33, r.aMode⟩
def aW (fp : Footprint) (r : RawWord) : Dec WSrc := do return ⟨← wCode fp r.a 33, r.aMode⟩
def bW (fp : Footprint) (r : RawWord) : Dec WSrc := do return ⟨← wCode fp r.b 24, r.bMode⟩
def aP (r : RawWord) : Dec PSrc := do return ⟨← pCode r.a 33, r.aMode⟩
def bP (r : RawWord) : Dec PSrc := do return ⟨← pCode r.b 24, r.bMode⟩
def cP (r : RawWord) : Dec PSrc := do return ⟨← pCode r.c 15, r.cMode⟩
def aD (fp : Footprint) (r : RawWord) : Dec DSrc := do return ⟨← dCode fp r.a 33, r.aMode⟩
def bD (fp : Footprint) (r : RawWord) : Dec DSrc := do return ⟨← dCode fp r.b 24, r.bMode⟩
def cD (fp : Footprint) (r : RawWord) : Dec DSrc := do return ⟨← dCode fp r.c 15, r.cMode⟩

/-- A must be the north port (kind n). -/
def aN (r : RawWord) : Dec SrcMode := do
  Dec.need (r.a == 0x78) (Undef.operand 33)
  return r.aMode

/-- The even register of a ve operand and its successor (R95). -/
def vePair (fp : Footprint) (i : Fin 64) (f : Nat) : Dec Unit :=
  Dec.need (decide (i.val % 2 = 0 ∧ i.val + 1 < fp.v)) (Undef.operand f)

/-- `n` names the port in at most one source field (R67, R68). -/
def oneN (x y : Bool) (f : Nat) : Dec Unit := Dec.need (!(x && y)) (Undef.operand f)

def VSrc.isN (s : VSrc) : Bool := s.name == .n
def VOp.isN : VOp → Bool
  | .reg s => s.isN
  | _ => false

/-! ### Sub-fields of the modifier -/

/-- Modifier bits [hi:lo]. -/
def RawWord.mbits (r : RawWord) (lo len : Nat) : BitVec len := r.m.extractLsb' lo len
def RawWord.mbit (r : RawWord) (i : Nat) : Bool := r.m.getLsbD i

/-- A gap [lo+len-1:lo] of undefined modifier bits must be zero; the trap names the lowest non-zero bit that the
entry leaves undefined, `undef` being the mask of those bits (R66, R79; a SAT bit beside lower ones: log entry 39). -/
def gap (r : RawWord) (undef : BitVec 13) (lo len : Nat) : Dec Unit :=
  Dec.need (r.mbits lo len == 0) (Undef.fieldVal (lowestBit (r.m &&& undef).toNat 13))

def modZero (r : RawWord) : Dec Unit := gap r 0x1FFF 0 13

def mRound (r : RawWord) : Dec RMode :=
  match RMode.ofCode (r.mbits 10 3) with
  | some m => .ok m
  | none => Undef.fieldVal 10

def mScope (r : RawWord) : Dec Scope :=
  match Scope.ofCode (r.mbits 9 4) with
  | some m => .ok m
  | none => Undef.fieldVal 9

def RawWord.fmt (r : RawWord) : Fmt := .ofCode (r.mbits 5 4)

/-- Table 10.1; `fmtOk` and `xOk` say whether a fmt and the x bit may be non-zero. -/
def mMem (fmtOk xOk : Bool) (r : RawWord) : Dec MemMod := do
  let sc ← mScope r
  Dec.need (fmtOk || r.fmt == .raw) (Undef.fieldVal 5)
  Dec.need (r.mbits 4 1 == 0) (Undef.fieldVal 3)
  Dec.need (xOk || !r.mbit 2) (Undef.fieldVal 2)
  return ⟨sc, r.fmt, r.mbit 3, r.mbit 2, .ofCode (r.mbits 0 2)⟩

/-- Table 10.3 for ATOM and RED (`scalar` false) and ATOMS (`scalar` true). -/
def mAtom (scalar : Bool) (r : RawWord) : Dec AtomMod := do
  let sc ← mScope r
  let op := AtomOp.ofCode (r.mbits 6 3)
  let f := r.mbit 5
  let un := r.mbit 4
  Dec.need (scalar || op != .cas) (Undef.fieldVal 6)
  Dec.need (!f || op == .add || op == .min || op == .max) (Undef.fieldVal 5)
  Dec.need (!un || ((op == .min || op == .max) && !f)) (Undef.fieldVal 4)
  Dec.need (!(scalar && r.mbit 3)) (Undef.fieldVal 3)
  Dec.need (r.mbit 1) (Undef.fieldVal 0)
  Dec.need (!(f && r.mbit 0)) (Undef.fieldVal 0)
  return ⟨sc, op, f, un, r.mbit 3, r.mbit 2, r.mbit 0⟩

/-- Table 10.3 for CAS: op, f and un are zero (R248). -/
def mCas (r : RawWord) : Dec AtomMod := do
  let sc ← mScope r
  Dec.need (r.mbits 6 3 == 0) (Undef.fieldVal 6)
  Dec.need (!r.mbit 5) (Undef.fieldVal 5)
  Dec.need (!r.mbit 4) (Undef.fieldVal 4)
  Dec.need (r.mbit 1) (Undef.fieldVal 0)
  return ⟨sc, .cas, false, false, r.mbit 3, r.mbit 2, r.mbit 0⟩

/-- A conversion's destination format: any code but RAW and PL16 (R150). -/
def mCvtFmt (r : RawWord) : Dec Fmt := do
  Dec.need (r.fmt != .raw && r.fmt != .pl16) (Undef.fieldVal 5)
  return r.fmt

/-- A CSR number that Table 5.3 assigns. -/
def csrAssigned (c : BitVec 12) : Bool := c.toNat ≤ 0x015 || (0x020 ≤ c.toNat && c.toNat ≤ 0x023)

/-- The CSR number of an immediate (R100, R116). -/
def csrNum (r : RawWord) : Dec (BitVec 12) := do
  Dec.need (r.low.extractLsb' 12 19 == 0) (Undef.fieldVal (12 + lowestBit (r.low.extractLsb' 12 19).toNat 19))
  Dec.need (csrAssigned (r.low.extractLsb' 0 12)) (Undef.fieldVal 0)
  return r.low.extractLsb' 0 12

/-! ## The shapes of Tables 4.2 to 4.6 -/

abbrev XXB := Fin 32 → XSrc → XOp → Instr

/-- D, A and B of kind x in every class (Table 4.2). -/
def dXXB (mk : XXB) (r : RawWord) (lit : Word) : Dec Instr := do
  admitCls true true true r; guardS r
  let d ← xCode r.d 40; let a ← aX r; let b ← bX r lit
  cNone r; modZero r; return mk d a b

def dXX (mk : Fin 32 → XSrc → Instr) (r : RawWord) : Dec Instr := do
  admitCls true false false r; guardS r
  let d ← xCode r.d 40; let a ← aX r
  bNone r; cNone r; modZero r; return mk d a

def dXXBC (mk : Fin 32 → XSrc → XOp → XSrc → Instr) (r : RawWord) (lit : Word) : Dec Instr := do
  admitCls true false true r; guardS r
  let d ← xCode r.d 40; let a ← aX r; let b ← bX r lit; let c ← cX r
  modZero r; return mk d a b c

/-- An instruction with no operand field. -/
def dNil (i : Instr) (r : RawWord) : Dec Instr := do
  admitCls true false false r; guardS r
  dNone r; aNone r; bNone r; cNone r; modZero r; return i

/-- Class 10 with no D and an optional A (J, BZ, BNZ). -/
def dAImm (mk : XSrc → BitVec 31 → Instr) (r : RawWord) : Dec Instr := do
  admitCls false true false r; guardS r
  dNone r; let a ← aX r; return mk a r.low

/-- Only A of kind x, class 00. -/
def dA (mk : XSrc → Instr) (r : RawWord) : Dec Instr := do
  admitCls true false false r; guardS r
  dNone r; let a ← aX r; bNone r; cNone r; modZero r; return mk a

/-- Only B of kind x; `x` admits class 11. -/
def dB (x : Bool) (mk : XOp → Instr) (r : RawWord) (lit : Word) : Dec Instr := do
  admitCls true true x r; guardS r
  dNone r; aNone r; let b ← bX r lit; cNone r; modZero r; return mk b

/-- A and B of kind x; `x` admits class 11. -/
def dAB (x : Bool) (mk : XSrc → XOp → Instr) (r : RawWord) (lit : Word) : Dec Instr := do
  admitCls true true x r; guardS r
  dNone r; let a ← aX r; let b ← bX r lit; cNone r; modZero r; return mk a b

/-- D and B of kind x in classes 00 and 10. -/
def dDB (mk : Fin 32 → XOp → Instr) (r : RawWord) (lit : Word) : Dec Instr := do
  admitCls true true false r; guardS r
  let d ← xCode r.d 40; aNone r; let b ← bX r lit; cNone r; modZero r; return mk d b

/-- The lane-structure instructions on a predicate. -/
def dP (mk : PSrc → Instr) (r : RawWord) : Dec Instr := do
  admitCls true false false r; guardS r
  dNone r; let p ← aP r; bNone r; cNone r; modZero r; return mk p

def dPk (mk : PSrc → Fin 32 → Instr) (r : RawWord) : Dec Instr := do
  admitCls true false false r; guardS r
  dNone r; let p ← aP r; bNone r; cNone r
  gap r 0x1FE0 5 8
  return mk p ⟨(r.mbits 0 5).toNat, (r.mbits 0 5).isLt⟩

def dXP (mk : Fin 32 → PSrc → Instr) (r : RawWord) : Dec Instr := do
  admitCls true false false r; guardS r
  let d ← xCode r.d 40; let p ← aP r; bNone r; cNone r; modZero r; return mk d p

/-- Modifier of the element arithmetic: rounding, SAT and un (Table 7.2). -/
def mArith (r : RawWord) : Dec (RMode × Bool × Bool) := do
  let rm ← mRound r
  gap r 0x01EF 5 4
  gap r 0x01EF 0 4
  return (rm, r.mbit 9, r.mbit 4)

def dVArith (mk : Option Guard → VDst → VSrc → VOp → RMode → Bool → Bool → Instr) (fp : Footprint) (r : RawWord)
    (lit : Word) : Dec Instr := do
  admitCls true true true r
  let g ← guardL r; let d ← vDst fp r.d 40; let a ← aV fp r; let b ← bV fp r lit
  oneN a.isN b.isN 24; cNone r
  let (rm, sat, un) ← mArith r
  return mk g d a b rm sat un

def dVFma (mk : Option Guard → VDst → VSrc → VOp → VSrc → RMode → Bool → Bool → Instr) (fp : Footprint) (r : RawWord)
    (lit : Word) : Dec Instr := do
  admitCls true false true r
  let g ← guardL r; let d ← vDst fp r.d 40; let a ← aV fp r; let b ← bV fp r lit
  oneN a.isN b.isN 24
  let c ← cV fp r
  oneN (a.isN || b.isN) c.isN 15
  let (rm, sat, un) ← mArith r
  return mk g d a b c rm sat un

/-- VMIN and VMAX: only un. -/
def dVMinMax (mk : Option Guard → VDst → VSrc → VOp → Bool → Instr) (fp : Footprint) (r : RawWord) (lit : Word) :
    Dec Instr := do
  admitCls true true true r
  let g ← guardL r; let d ← vDst fp r.d 40; let a ← aV fp r; let b ← bV fp r lit
  oneN a.isN b.isN 24; cNone r
  gap r 0x1FEF 5 8; gap r 0x1FEF 0 4
  return mk g d a b (r.mbit 4)

/-- VABS and VNEG: only SAT. -/
def dVAbs (mk : Option Guard → VDst → VSrc → Bool → Instr) (fp : Footprint) (r : RawWord) : Dec Instr := do
  admitCls true false false r
  let g ← guardL r; let d ← vDst fp r.d 40; let a ← aV fp r; bNone r; cNone r
  gap r 0x1DFF 10 3; gap r 0x1DFF 0 9
  return mk g d a (r.mbit 9)

/-- The function instructions: rounding and SAT. -/
def dVFun (mk : Option Guard → VDst → VSrc → RMode → Bool → Instr) (fp : Footprint) (r : RawWord) : Dec Instr := do
  admitCls true false false r
  let g ← guardL r; let d ← vDst fp r.d 40; let a ← aV fp r; bNone r; cNone r
  let rm ← mRound r
  gap r 0x01FF 0 9
  return mk g d a rm (r.mbit 9)

/-- Lane instructions with D, A, B of kind v and no modifier. -/
def dVVV (mk : Option Guard → VDst → VSrc → VOp → Instr) (fp : Footprint) (r : RawWord) (lit : Word) : Dec Instr := do
  admitCls true true true r
  let g ← guardL r; let d ← vDst fp r.d 40; let a ← aV fp r; let b ← bV fp r lit
  oneN a.isN b.isN 24; cNone r; modZero r
  return mk g d a b

/-- D, A of kind v and B of kind x, classes 00 and 11. -/
def dVVX (mk : Option Guard → VDst → VSrc → XOp → Instr) (fp : Footprint) (r : RawWord) (lit : Word) : Dec Instr := do
  admitCls true false true r
  let g ← guardL r; let d ← vDst fp r.d 40; let a ← aV fp r; let b ← bX r lit; cNone r; modZero r
  return mk g d a b

def dPPP (mk : Fin 8 → PSrc → PSrc → Instr) (r : RawWord) : Dec Instr := do
  admitCls true false false r; guardS r
  let d ← pCode r.d 40; let a ← aP r; let b ← bP r; cNone r; modZero r; return mk d a b

/-- The tensor steps' modifier (R180). -/
def mTensor (r : RawWord) : Dec (BitVec 5 × Fin 8) := do
  gap r 0x1F00 8 5
  return (r.mbits 3 5, ⟨(r.mbits 0 3).toNat, (r.mbits 0 3).isLt⟩)

/-- Loads with a lane register offset (LD, GLD). -/
def dLdR (xOk : Bool) (mk : Option Guard → VDst → XSrc → RSrc → MemMod → Instr) (fp : Footprint) (r : RawWord) :
    Dec Instr := do
  admitCls true false false r
  let g ← guardL r; let d ← vDst fp r.d 40; let a ← aX r; let b ← bR fp r; cNone r
  let m ← mMem true xOk r
  return mk g d a b m

/-- Loads with an x stride or offset (LDV, LDB). -/
def dLdX (mk : Option Guard → VDst → XSrc → XOp → MemMod → Instr) (fp : Footprint) (r : RawWord) (lit : Word) :
    Dec Instr := do
  admitCls true true true r
  let g ← guardL r; let d ← vDst fp r.d 40; let a ← aX r; let b ← bX r lit; cNone r
  let m ← mMem true false r
  return mk g d a b m

/-- Stores with a lane register offset (ST, GST). -/
def dStR (mk : Option Guard → XSrc → RSrc → RSrc → MemMod → Instr) (fp : Footprint) (r : RawWord) : Dec Instr := do
  admitCls true false false r
  let g ← guardL r; dNone r; let a ← aX r; let b ← bR fp r; let c ← cR fp r
  let m ← mMem false false r
  return mk g a b c m

/-- ENQ and ENQB (R298). -/
def dEnq (mk : Fin 32 → XSrc → XSrc → XSrc → Bool → Bool → Instr) (r : RawWord) : Dec Instr := do
  admitCls true false false r; guardS r
  let d ← xCode r.d 40; let a ← aX r; let b ← bXr r; let c ← cX r
  gap r 0x1FFC 2 11
  return mk d a b c (r.mbit 1) (r.mbit 0)

def dCsrW (mk : XSrc → BitVec 12 → Instr) (r : RawWord) : Dec Instr := do
  admitCls false true false r; guardS r
  dNone r; let a ← aX r; let c ← csrNum r; return mk a c

/-- SGROW and SFREE's D, B of classes 00 and 10. -/
def dSide (r : RawWord) (lit : Word) : Dec (Fin 32 × XOp) := do
  admitCls true true false r; guardS r
  let d ← xCode r.d 40; aNone r; let b ← bX r lit; cNone r; return (d, b)

/-! ## The opcode map, Tables 4.2 to 4.7 -/

def decodeG0 (r : RawWord) (lit : Word) : Dec Instr :=
  match r.opc.toNat with
  | 0x000 => dNil .nop r
  | 0x001 => dXXB .add r lit | 0x002 => dXXB .sub r lit | 0x003 => dXXB .mul r lit
  | 0x004 => dXXB .mulh r lit | 0x005 => dXXB .mulhn r lit | 0x006 => dXXB .div r lit
  | 0x007 => dXXB .divn r lit | 0x008 => dXXB .rem r lit | 0x009 => dXXB .remn r lit
  | 0x00A => dXXB .and r lit | 0x00B => dXXB .or r lit | 0x00C => dXXB .xor r lit
  | 0x00D => dXXB .andn r lit | 0x00E => dXXB .shl r lit | 0x00F => dXXB .shr r lit
  | 0x010 => dXXB .sar r lit | 0x011 => dXXB .rot r lit | 0x012 => dXXB .min r lit
  | 0x013 => dXXB .max r lit | 0x014 => dXXB .minn r lit | 0x015 => dXXB .maxn r lit
  | 0x016 => dXX .clz r | 0x017 => dXX .ctz r | 0x018 => dXX .popc r
  | 0x019 => dXXB .seq r lit | 0x01A => dXXB .sne r lit | 0x01B => dXXB .slt r lit
  | 0x01C => dXXB .sltn r lit | 0x01D => dXXB .sle r lit | 0x01E => dXXB .slen r lit
  | 0x01F => dXXBC .sel r lit
  | 0x020 => do
    admitCls true true true r; guardS r
    let d ← xCode r.d 40; let a ← aX r; let b ← bX r lit; cNone r
    gap r 0x1FF8 3 10
    return .lea d a b ⟨(r.mbits 0 3).toNat, (r.mbits 0 3).isLt⟩
  | 0x021 => dXX .mov r
  | 0x022 => do
    admitCls false true true r; guardS r
    let d ← xCode r.d 40; aNone r; let b ← bX r lit; cNone r; modZero r; return .li d b
  | 0x023 => do
    admitCls true false false r; guardS r
    let d ← xCode r.d 40; let a ← aX r; let b ← bXr r; cNone r
    gap r 0x1FFE 1 12
    return .bfx d a b (r.mbit 0)
  | 0x024 => do
    admitCls true false false r; guardS r
    let d ← xCode r.d 40; let a ← aX r; let b ← bXr r; cNone r; modZero r; return .bfi d a b
  | 0x025 => dXXBC .madd r lit
  | _ => Undef.illegal 52

def decodeG1 (fp : Footprint) (r : RawWord) (lit : Word) : Dec Instr :=
  match r.opc.toNat with
  | 0x040 => do admitCls false true false r; guardS r; dNone r; aNone r; return .j r.low
  | 0x041 => dA .jr r
  | 0x042 => dAImm .bz r
  | 0x043 => dAImm .bnz r
  | 0x044 => do
    admitCls false true false r; guardS r; let d ← xCode r.d 40; aNone r; return .call d r.low
  | 0x045 => dXX .callr r
  | 0x046 => do
    admitCls false true false r; guardS r; let d ← xCode r.d 40; let a ← aX r; return .dbnz d a r.low
  | 0x047 => dP .lif r
  | 0x048 => dNil .lelse r
  | 0x049 => dNil .lendif r
  | 0x04A => dNil .lloop r
  | 0x04B => dPk .lbreak r
  | 0x04C => dPk .lcont r
  | 0x04D => do
    admitCls true false false r; guardS r; dNone r; let p ← aP r; bNone r; cNone r; return .lendl p r.m
  | 0x04E => dXP .lany r
  | 0x04F => dXP .lall r
  | 0x050 => dXP .lcnt r
  | 0x051 => do
    admitCls true true true r; guardS r
    let d ← xCode r.d 40; let a ← aD fp r; let b ← bX r lit; cNone r; modZero r; return .waitc d a b
  | 0x052 => dB true .yield r lit
  | 0x053 => dNil .exit r
  | 0x054 => dB false .trap r lit
  | 0x055 => dNil .brk r
  | _ => Undef.illegal 52

def decodeG2 (fp : Footprint) (r : RawWord) (lit : Word) : Dec Instr :=
  match r.opc.toNat with
  | 0x080 => dVArith .vadd fp r lit | 0x081 => dVArith .vsub fp r lit | 0x082 => dVArith .vmul fp r lit
  | 0x083 => dVFma .vfma fp r lit | 0x084 => dVFma .vfms fp r lit
  | 0x085 => dVMinMax .vmin fp r lit | 0x086 => dVMinMax .vmax fp r lit
  | 0x087 => dVAbs .vabs fp r | 0x088 => dVAbs .vneg fp r
  | 0x089 => dVFun .vrcp fp r | 0x08A => dVFun .vrsq fp r | 0x08B => dVFun .vsqrt fp r
  | 0x08C => dVFun .vexp2 fp r | 0x08D => dVFun .vlog2 fp r | 0x08E => dVFun .vtanh fp r
  | 0x08F => do
    admitCls true true true r
    let g ← guardL r; let d ← pCode r.d 40; let a ← aV fp r; let b ← bV fp r lit
    oneN a.isN b.isN 24; cNone r
    gap r 0x1FE0 5 8
    match Cmp.ofCode (r.mbits 0 3) with
    | some cc => return .vcmp g d a b cc (r.mbit 3) (r.mbit 4)
    | none => Undef.fieldVal 0
  | 0x090 => do
    admitCls true false false r
    let g ← guardL r; let d ← vDst fp r.d 40; let a ← aV fp r; let b ← bVr fp r
    oneN a.isN b.isN 24
    let c ← cP r
    modZero r; return .vsel g d a b c
  | 0x091 => dVVV .vand fp r lit | 0x092 => dVVV .vor fp r lit | 0x093 => dVVV .vxor fp r lit
  | 0x094 => do
    admitCls true true true r
    let g ← guardL r; let d ← vDst fp r.d 40; let a ← aV fp r; let b ← bV fp r lit
    oneN a.isN b.isN 24; cNone r
    gap r 0x1DEF 10 3; gap r 0x1DEF 5 4; gap r 0x1DEF 0 4
    return .vshl g d a b (r.mbit 9) (r.mbit 4)
  | 0x095 => dVVV .vshr fp r lit | 0x096 => dVVV .vsar fp r lit
  | 0x097 => dVFma .vdot fp r lit
  | 0x098 => do
    admitCls true false false r
    let g ← guardL r; let d ← vDst fp r.d 40; let a ← aX r; bNone r; cNone r
    gap r 0x1E1F 9 4; gap r 0x1E1F 0 5
    return .vsplat g d a r.fmt
  | 0x099 => do
    admitCls true false true r
    let g ← guardL r; let d ← xCode r.d 40; let a ← aV fp r; let b ← bX r lit; cNone r; modZero r
    return .vmovx g d a b
  | 0x09A => do
    admitCls true false true r
    let g ← guardL r; let d ← vDst fp r.d 40; let a ← aX r; let b ← bX r lit; cNone r
    gap r 0x1E1F 9 4; gap r 0x1E1F 0 5
    return .vins g d a b r.fmt
  | 0x09B => do
    admitCls true false false r
    let g ← guardL r; let d ← xCode r.d 40; let a ← aV fp r; bNone r; cNone r
    let rm ← mRound r
    Dec.need (rm != .sr) (Undef.fieldVal 10)
    gap r 0x01E8 5 4; gap r 0x01E8 3 1
    match RedOp.ofCode (r.mbits 0 3) with
    | some op => return .vred g d a op rm (r.mbit 9) (r.mbit 4)
    | none => Undef.fieldVal 0
  | 0x09C => do
    admitCls true false false r
    let g ← guardL r; let d ← vDst fp r.d 40; let a ← aV fp r; bNone r; cNone r
    let rm ← mRound r
    gap r 0x01E0 5 4
    match RedOp.ofCode (r.mbits 0 3) with
    | some op => return .vscan g d a op rm (r.mbit 9) (r.mbit 4) (r.mbit 3)
    | none => Undef.fieldVal 0
  | _ => Undef.illegal 52

/-- Registers that hold eight elements of a format: VDEQ's and ACCRD's q (R169, R187). -/
def regsOfEight : Fmt → Nat
  | .fp32 | .i32 => 4
  | .fp16 | .bf16 => 2
  | .acc48 => 8
  | _ => 1

def decodeG3 (fp : Footprint) (r : RawWord) (lit : Word) : Dec Instr :=
  match r.opc.toNat with
  | 0x0C0 => do
    admitCls true false false r
    let g ← guardL r; let d ← vDst fp r.d 40; let a ← aV fp r; bNone r; cNone r
    let rm ← mRound r; let fmt ← mCvtFmt r
    gap r 0x000F 0 4
    return .vcvt g d a fmt rm (r.mbit 9) (r.mbit 4)
  | 0x0C1 => do
    admitCls true false false r
    let g ← guardL r; let d ← vDst fp r.d 40; let a ← aV fp r; let b ← bVr fp r
    oneN a.isN b.isN 24; cNone r
    let rm ← mRound r; let fmt ← mCvtFmt r
    gap r 0x000F 0 4
    return .vpack g d a b fmt rm (r.mbit 9) (r.mbit 4)
  | 0x0C2 => do
    admitCls true false false r
    let g ← guardL r; let d ← vDst fp r.d 40; let a ← aV fp r; bNone r; cNone r
    let rm ← mRound r; let fmt ← mCvtFmt r
    gap r 0x000C 2 2
    return .vunpk g d a fmt rm (r.mbit 9) (r.mbit 4) ⟨(r.mbits 0 2).toNat, (r.mbits 0 2).isLt⟩
  | 0x0C3 => do
    admitCls true false false r
    let g ← guardL r; let d ← vDst fp r.d 40; let a ← aV fp r; bNone r; cNone r
    gap r 0x1E1F 9 4; gap r 0x1E1F 0 5
    return .vtag g d a r.fmt
  | 0x0C4 => do
    admitCls true false true r
    let g ← guardL r; let d ← vDst fp r.d 40; let a ← aV fp r; let b ← bX r lit; cNone r
    gap r 0x1FFE 1 12
    return .vscl g d a b (r.mbit 0)
  | 0x0C5 => do
    admitCls true false true r
    let g ← guardL r; let d ← vCode fp r.d 40; let a ← aR fp r; vGroup fp a.reg 4 33
    let b ← bX r lit; cNone r
    gap r 0x1FFC 2 11
    return .vquant g d a b ⟨(r.mbits 0 2).toNat, (r.mbits 0 2).isLt⟩
  | 0x0C6 => do
    admitCls true false true r
    let g ← guardL r; let d ← vCode fp r.d 40
    vGroup fp d (if r.fmt = .fp32 ∨ r.fmt = .fp16 ∨ r.fmt = .bf16 then regsOfEight r.fmt else 1) 40
    let a ← aR fp r; let b ← bX r lit; cNone r
    let rm ← mRound r
    Dec.need (r.fmt == .fp32 || r.fmt == .fp16 || r.fmt == .bf16) (Undef.fieldVal 5)
    gap r 0x001C 2 3
    return .vdeq g d a b r.fmt rm (r.mbit 9) ⟨(r.mbits 0 2).toNat, (r.mbits 0 2).isLt⟩
  | 0x0C7 => do
    admitCls true false false r
    let g ← guardL r; let d ← vDst fp r.d 40; let a ← aV fp r; bNone r; cNone r
    gap r 0x1FF0 4 9
    return .xbar g d a ⟨(r.mbits 0 4).toNat, (r.mbits 0 4).isLt⟩
  | 0x0C8 => do
    admitCls true false false r; guardS r
    dNone r; let a ← aX r; bNone r; cNone r
    gap r 0x1FF0 4 9
    return .xbld a ⟨(r.mbits 0 4).toNat, (r.mbits 0 4).isLt⟩
  | 0x0C9 => dVVX .vrot fp r lit
  | 0x0CA => dVVX .vbcast fp r lit
  | 0x0CB => dPPP .pand r | 0x0CC => dPPP .por r | 0x0CD => dPPP .pxor r
  | 0x0CE => do
    admitCls true false false r; guardS r
    let d ← pCode r.d 40; let a ← aP r; bNone r; cNone r; modZero r; return .pnot d a
  | 0x0CF => do
    admitCls true true true r; guardS r
    let d ← pCode r.d 40; aNone r; let b ← bX r lit; cNone r; modZero r; return .pset d b
  | 0x0D0 => do
    admitCls true false false r
    let g ← guardL r; let d ← vDst fp r.d 40; aNone r; bNone r; cNone r; modZero r; return .vrng g d
  | 0x0D1 => do
    admitCls true false false r
    let g ← guardL r; dNone r; let a ← aV fp r; bNone r; cNone r; modZero r; return .vseed g a
  | _ => Undef.illegal 52

def decodeG4 (fp : Footprint) (r : RawWord) (lit : Word) : Dec Instr :=
  match r.opc.toNat with
  | 0x100 => do
    admitCls true false false r
    let g ← guardL r; let d ← aCode fp r.d 40; let a ← aV fp r; let b ← bW fp r; cNone r
    let (kw, sl) ← mTensor r
    return .mstep g d a b kw sl
  | 0x101 => do
    admitCls true false false r
    let g ← guardL r
    let d ← if r.d = 0x79 then pure ADst.s else ADst.a <$> aCode fp r.d 40
    let a ← aR fp r; let b ← bW fp r
    Dec.need (r.c == 0x78) (Undef.operand 15)
    let (kw, sl) ← mTensor r
    return .mstepn g d a b r.cMode kw sl
  | 0x102 => do
    admitCls true false false r
    let g ← guardL r; let d ← aCode fp r.d 40; let a ← aR fp r; vePair fp a.reg 33
    let b ← bW fp r; cNone r
    let (kw, sl) ← mTensor r
    return .msteps g d a b kw sl
  | 0x103 => do
    admitCls true false false r
    let g ← guardL r; let d ← aCode fp r.d 40; aNone r; bNone r; cNone r; modZero r; return .accz g d
  | 0x104 => do
    admitCls true false false r
    let g ← guardL r
    let d ← if r.d = 0x79 then
        (do Dec.need (r.fmt == .e4m3 || r.fmt == .e5m2) (Undef.operand 40); pure VDst.s)
      else VDst.v <$> vCode fp r.d 40
    match d with
    | .v i => vGroup fp i (if r.fmt = .fp32 ∨ r.fmt = .fp16 ∨ r.fmt = .bf16 then regsOfEight r.fmt else 1) 40
    | .s => pure ()
    let a ← aA fp r
    let b ← if r.b = 0 then
        (do Dec.need (r.mb == 0) (Undef.fieldVal 22); pure none)
      else (do let b ← bR fp r; vGroup fp b.reg 4 24; pure (some b))
    cNone r
    let rm ← mRound r
    Dec.need (r.fmt == .fp32 || r.fmt == .bf16 || r.fmt == .fp16 || r.fmt == .e4m3 || r.fmt == .e5m2)
      (Undef.fieldVal 5)
    gap r 0x001E 1 4
    return .accrd g d a b r.fmt rm (r.mbit 9) (r.mbit 0)
  | 0x105 => do
    admitCls true false false r
    let g ← guardL r; let d ← aCode fp r.d 40; let a ← aR fp r; bNone r; cNone r; modZero r
    return .accwr g d a
  | 0x106 => do
    admitCls true false false r
    let g ← guardL r; let d ← aCode fp r.d 40; let a ← aA fp r
    let b ← if r.b = 0x78 then pure (AccOp.n r.bMode)
      else (do let i ← aCode fp r.b 24; pure (AccOp.a ⟨i, r.bMode⟩))
    cNone r; modZero r; return .accadd g d a b
  | 0x107 => do
    admitCls true true true r
    let g ← guardL r; let d ← wCode fp r.d 40; let a ← aX r; let b ← bX r lit; cNone r
    gap r 0x1E07 9 4
    Dec.need (r.fmt != .i16 && r.fmt != .i32 && r.fmt != .i64 && r.fmt != .fp32 && r.fmt != .acc48)
      (Undef.fieldVal 5)
    match WKind.ofCode (r.mbits 3 2) with
    | none => Undef.fieldVal 3
    | some k =>
      Dec.need (!(k == .lat && r.fmt != .pl16 && r.fmt != .raw)) (Undef.fieldVal 3)
      Dec.need (!(r.fmt == .pl16 && k != .lat)) (Undef.fieldVal 3)
      Dec.need (!(k == .sp && r.fmt == .mxe2m1)) (Undef.fieldVal 3)
      gap r 0x1E07 0 3
      return .wld g d a b r.fmt k
  | 0x108 => do
    admitCls true false false r
    let g ← guardL r; let d ← wCode fp r.d 40; let a ← aN r; bNone r; cNone r; modZero r; return .wrecv g d a
  | 0x109 => do
    admitCls true false false r
    let g ← guardL r; dSouth r; let a ← aW fp r; bNone r; cNone r; modZero r; return .wsend g a
  | 0x10A => do
    admitCls true false false r
    let g ← guardL r; dSouth r
    let a ← if 0x60 ≤ r.a.toNat ∧ r.a.toNat < 0x64 then SendSrc.a <$> aA fp r
      else if 0x64 ≤ r.a.toNat ∧ r.a.toNat < 0x68 then SendSrc.w <$> aW fp r
      else SendSrc.v <$> aR fp r
    bNone r; cNone r
    gap r 0x1FFE 1 12
    return .psend g a (r.mbit 0)
  | 0x10B => do
    admitCls true false false r
    let g ← guardL r
    let d ← if 0x60 ≤ r.d.toNat ∧ r.d.toNat < 0x64 then RecvDst.a <$> aCode fp r.d 40
      else RecvDst.v <$> vCode fp r.d 40
    let a ← aN r; bNone r; cNone r; modZero r; return .precv g d a
  | 0x10C => do
    admitCls true false false r; guardS r
    dNone r; let a ← aD fp r; bNone r; cNone r
    gap r 0x1FF8 3 10
    match PortKind.ofCode (r.mbits 1 2) with
    | some k => return .pbind a k (r.mbit 0)
    | none => Undef.fieldVal 1
  | 0x10D => dNil .pflush r
  | 0x10E => do
    admitCls true false false r
    let g ← guardL r; let d ← wCode fp r.d 40; let a ← aR fp r; bNone r; cNone r; modZero r; return .wscl g d a
  | _ => Undef.illegal 52

/-- Modifier of FENCE and FENCEX: scope, kind and path set (R252). -/
def mFence (r : RawWord) : Dec (Scope × FenceKind) := do
  let sc ← mScope r
  match FenceKind.ofCode (r.mbits 7 2) with
  | some k => return (sc, k)
  | none => Undef.fieldVal 7

def decodeG5 (fp : Footprint) (r : RawWord) (lit : Word) : Dec Instr :=
  match r.opc.toNat with
  | 0x140 => dLdR false .ld fp r
  | 0x141 => dLdX .ldv fp r lit
  | 0x142 => dLdX .ldb fp r lit
  | 0x143 => dStR .st fp r
  | 0x144 => do
    admitCls true false true r
    let g ← guardL r; dNone r; let a ← aX r; let b ← bX r lit; let c ← cR fp r
    let m ← mMem false false r
    return .stv g a b c m
  | 0x145 => do
    admitCls true true true r; guardS r
    let d ← xCode r.d 40; let a ← aX r; let b ← bX r lit; cNone r
    let m ← mMem false true r
    return .lds d a b m
  | 0x146 => do
    admitCls true false true r; guardS r
    dNone r; let a ← aX r; let b ← bX r lit; let c ← cX r
    let m ← mMem false false r
    return .sts a b c m
  | 0x147 => dLdR true .gld fp r
  | 0x148 => dStR .gst fp r
  | 0x149 => do
    admitCls true false false r
    let g ← guardL r; let d ← vDst fp r.d 40; let a ← aX r; let b ← bR fp r; let c ← cR fp r
    let m ← mAtom false r
    return .atom g d a b c m
  | 0x14A => do
    admitCls true false false r
    let g ← guardL r; dNone r; let a ← aX r; let b ← bR fp r; let c ← cR fp r
    let m ← mAtom false r
    return .red g a b c m
  | 0x14B => do
    admitCls true false false r
    let g ← guardL r; let d ← vDst fp r.d 40; let a ← aX r; let b ← bR fp r; let c ← cR fp r
    vePair fp c.reg 15
    let m ← mCas r
    return .cas g d a b c m
  | 0x14C => do
    admitCls true false true r; guardS r
    let d ← xCode r.d 40; let a ← aX r; let b ← bX r lit
    let c ← if r.mbits 6 3 = 7 then cX r else (do cNone r; pure ⟨.x 0, .wait⟩)
    let m ← mAtom true r
    return .atoms d a b c m
  | 0x14D => do
    admitCls true false false r; guardS r; dNone r; aNone r; bNone r; cNone r
    let (sc, k) ← mFence r
    Dec.need (r.mbits 0 7 == 0) (Undef.fieldVal 0)
    return .fence sc k
  | 0x14E => do
    admitCls true false false r; guardS r; dNone r; aNone r; bNone r; cNone r
    let (sc, k) ← mFence r
    Dec.need (r.mbits 0 7 != 0) (Undef.fieldVal 0)
    return .fencex sc k (r.mbits 0 7)
  | 0x14F => dAB true .pref r lit
  | 0x150 => do
    let (d, b) ← dSide r lit
    gap r 0x1FFC 2 11
    match ChunkKind.ofCode (r.mbits 0 2) with
    | some k => return .sgrow d b k
    | none => Undef.fieldVal 0
  | 0x151 => do
    let (d, b) ← dSide r lit
    modZero r; return .sfree d b
  | _ => Undef.illegal 52

def decodeG6 (fp : Footprint) (r : RawWord) (lit : Word) : Dec Instr :=
  match r.opc.toNat with
  | 0x180 => do
    admitCls true false false r; guardS r
    let d ← xCode r.d 40; let a ← aD fp r; let b ← bD fp r; let c ← cX r; modZero r; return .copy d a b c
  | 0x181 => do
    admitCls true false false r; guardS r
    let d ← xCode r.d 40; let a ← aD fp r; let b ← bD fp r; let c ← cD fp r; modZero r; return .copyef d a b c
  | 0x182 => do
    admitCls true false false r; guardS r
    let d ← xCode r.d 40; let a ← aD fp r; let b ← bXr r; cNone r; modZero r; return .copys d a b
  | 0x183 => do
    admitCls true true true r; guardS r
    let d ← dCode fp r.d 40; let a ← aX r; let b ← bX r lit; cNone r
    gap r 0x1FFE 1 12
    return .ldd d a b (r.mbit 0)
  | 0x184 => do
    admitCls true false true r; guardS r
    dNone r; let a ← aX r; let b ← bX r lit; let c ← cD fp r
    gap r 0x1FFE 1 12
    return .std a b c (r.mbit 0)
  | 0x185 => do
    admitCls true false false r; guardS r
    let d ← dCode fp r.d 40; let a ← aX r; bNone r; cNone r
    gap r 0x1FF8 3 10
    return .dset d a ⟨(r.mbits 0 3).toNat, (r.mbits 0 3).isLt⟩
  | 0x186 => do
    admitCls true false false r; guardS r
    let d ← xCode r.d 40; let a ← aD fp r; bNone r; cNone r
    gap r 0x1FF8 3 10
    return .dget d a ⟨(r.mbits 0 3).toNat, (r.mbits 0 3).isLt⟩
  | 0x187 => do
    admitCls true false false r; guardS r
    dNone r; let a ← xName r.a 33
    Dec.need (r.ma == 0) (Undef.fieldVal 31)
    bNone r; cNone r; modZero r; return .ccancel a
  | _ => Undef.illegal 52

def decodeG7 (fp : Footprint) (r : RawWord) (lit : Word) : Dec Instr :=
  match r.opc.toNat with
  | 0x1C0 => dEnq .enq r
  | 0x1C1 => dEnq .enqb r
  | 0x1C2 => dA .qflush r
  | 0x1C3 => dXX .qstat r
  | 0x1C4 => dNil .recdone r
  | 0x1C5 => dDB .deq r lit
  | 0x1E0 => do
    admitCls true true true r; guardS r
    let d ← xCode r.d 40; let a ← aD fp r; let b ← bX r lit; cNone r; modZero r; return .coll d a b
  | 0x1E1 => dXX .cstat r
  | _ => Undef.illegal 52

def decodeG89 (r : RawWord) (lit : Word) : Dec Instr :=
  match r.opc.toNat with
  | 0x200 => do
    admitCls true false false r; guardS r
    dNone r; let a ← aX r; let b ← bXr r; cNone r
    gap r 0x1FFE 1 12
    return .jinit a b (r.mbit 0)
  | 0x201 => dXX .jdec r
  | 0x202 => dXX .jread r
  | 0x203 => dAB false .barr r lit
  | 0x204 => dAB false .bara r lit
  | 0x205 => dB false .barw r lit
  | 0x206 => do
    admitCls true true true r; guardS r
    dNone r; let a ← aX r; let b ← bX r lit; cNone r
    gap r 0x1FFE 1 12
    return .acnt a b (r.mbit 0)
  | 0x207 => dAB true .aset r lit
  | 0x208 => dAB false .evsel r lit
  | 0x209 => dXX .evrd r
  | 0x240 => do
    admitCls false true false r; guardS r
    let d ← xCode r.d 40; aNone r; let c ← csrNum r; return .csrr d c
  | 0x241 => dCsrW .csrw r
  | 0x242 => dCsrW .csrs r
  | 0x243 => dCsrW .csrc r
  | 0x244 => dNil .rett r
  | _ => Undef.illegal 52

/-- A word of class 00, 10 or 11 (R93: bits [61:58] are the group). -/
def decodeSingle (fp : Footprint) (r : RawWord) (lit : Word) : Dec Instr :=
  match (r.opc.extractLsb' 6 4).toNat with
  | 0 => decodeG0 r lit
  | 1 => decodeG1 fp r lit
  | 2 => decodeG2 fp r lit
  | 3 => decodeG3 fp r lit
  | 4 => decodeG4 fp r lit
  | 5 => decodeG5 fp r lit
  | 6 => decodeG6 fp r lit
  | 7 => decodeG7 fp r lit
  | 8 => decodeG89 r lit
  | 9 => decodeG89 r lit
  | _ => Undef.illegal 52

/-! ## Pair words (R75-R77, R102, R103) -/

/-- The fields of Table 3.6. -/
structure RawHalf where
  op : BitVec 7
  d  : BitVec 7
  a  : BitVec 7
  b  : BitVec 7
  m  : BitVec 3
  deriving DecidableEq, Repr

def RawHalf.ofBits (h : BitVec 31) : RawHalf :=
  ⟨h.extractLsb' 24 7, h.extractLsb' 17 7, h.extractLsb' 10 7, h.extractLsb' 3 7, h.extractLsb' 0 3⟩

def RawHalf.toBits (h : RawHalf) : BitVec 31 := h.op ++ h.d ++ h.a ++ h.b ++ h.m

def hX (c : BitVec 7) (f : Nat) : Dec XSrc := do return ⟨.x (← xCode c f), .wait⟩
def hXb (c : BitVec 7) (f : Nat) : Dec XOp := do return .reg (← hX c f)
def hV (fp : Footprint) (c : BitVec 7) (f : Nat) : Dec VSrc := do return ⟨.v (← vCode fp c f), .wait⟩
def hVb (fp : Footprint) (c : BitVec 7) (f : Nat) : Dec VOp := do return .reg (← hV fp c f)
def hVd (fp : Footprint) (c : BitVec 7) : Dec VDst := do return .v (← vCode fp c 17)
def hR (fp : Footprint) (c : BitVec 7) (f : Nat) : Dec RSrc := do return ⟨← vCode fp c f, .wait⟩
def hNone (c : BitVec 7) (f : Nat) : Dec Unit := Dec.need (c == 0) (Undef.operand f)
def hNoMod (h : RawHalf) : Dec Unit := Dec.need (h.m == 0) (Undef.fieldVal 0)
def hRound (h : RawHalf) : Dec RMode :=
  match RMode.ofCode h.m with
  | some m => .ok m
  | none => Undef.fieldVal 0

def hMem (h : RawHalf) : Dec MemMod := do
  Dec.need (h.m.toNat < 4) (Undef.fieldVal 0)
  return ⟨.row, .raw, false, false, .ofCode (h.m.extractLsb' 0 2)⟩

def hVArith (mk : Option Guard → VDst → VSrc → VOp → RMode → Bool → Bool → Instr) (fp : Footprint) (h : RawHalf) :
    Dec Instr := do
  let d ← hVd fp h.d; let a ← hV fp h.a 10; let b ← hVb fp h.b 3; let rm ← hRound h
  return mk none d a b rm false false

def hVVV (mk : VDst → VSrc → VOp → Instr) (fp : Footprint) (h : RawHalf) : Dec Instr := do
  let d ← hVd fp h.d; let a ← hV fp h.a 10; let b ← hVb fp h.b 3; hNoMod h; return mk d a b

def hVV (mk : VDst → VSrc → Instr) (fp : Footprint) (h : RawHalf) : Dec Instr := do
  let d ← hVd fp h.d; let a ← hV fp h.a 10; hNone h.b 3; hNoMod h; return mk d a

def hVVX (mk : VDst → VSrc → XOp → Instr) (fp : Footprint) (h : RawHalf) : Dec Instr := do
  let d ← hVd fp h.d; let a ← hV fp h.a 10; let b ← hXb h.b 3; hNoMod h; return mk d a b

def hXXB (mk : XXB) (h : RawHalf) : Dec Instr := do
  let d ← xCode h.d 17; let a ← hX h.a 10; let b ← hXb h.b 3; hNoMod h; return mk d a b

/-- Table 4.8: the opcodes of slot H0. -/
def h0Assigned (op : BitVec 7) : Bool := op.toNat ≤ 0x0E || (0x10 ≤ op.toNat && op.toNat ≤ 0x14)

/-- Table 4.9: the opcodes of slot H1. -/
def h1Assigned (op : BitVec 7) : Bool :=
  0x40 ≤ op.toNat && (op.toNat ≤ 0x4E || (0x50 ≤ op.toNat && op.toNat ≤ 0x54))

def decodeH0 (fp : Footprint) (h : RawHalf) : Dec Instr :=
  match h.op.toNat with
  | 0x00 => hVArith .vadd fp h | 0x01 => hVArith .vsub fp h | 0x02 => hVArith .vmul fp h
  | 0x03 => hVVV (fun d a b => .vmin none d a b false) fp h
  | 0x04 => hVVV (fun d a b => .vmax none d a b false) fp h
  | 0x05 => hVV (fun d a => .vabs none d a false) fp h
  | 0x06 => hVV (fun d a => .vneg none d a false) fp h
  | 0x07 => hVVV (.vand none) fp h | 0x08 => hVVV (.vor none) fp h | 0x09 => hVVV (.vxor none) fp h
  | 0x0A => hVVV (fun d a b => .vshl none d a b false false) fp h
  | 0x0B => hVVV (.vshr none) fp h | 0x0C => hVVV (.vsar none) fp h
  | 0x0D => hVVX (.vrot none) fp h | 0x0E => hVVX (.vbcast none) fp h
  | 0x10 => do
    let d ← aCode fp h.d 17; let a ← hV fp h.a 10; let b ← wCode fp h.b 3; hNoMod h
    return .mstep none d a ⟨b, .wait⟩ 0 0
  | 0x11 => do
    let d ← aCode fp h.d 17; let a ← hR fp h.a 10; vePair fp a.reg 10; let b ← wCode fp h.b 3; hNoMod h
    return .msteps none d a ⟨b, .wait⟩ 0 0
  | 0x12 => do
    let d ← aCode fp h.d 17; hNone h.a 10; hNone h.b 3; hNoMod h; return .accz none d
  | 0x13 => do
    let d ← aCode fp h.d 17; let a ← hR fp h.a 10; hNone h.b 3; hNoMod h; return .accwr none d a
  | 0x14 => do
    let d ← aCode fp h.d 17; let a ← aCode fp h.a 10; let b ← aCode fp h.b 3; hNoMod h
    return .accadd none d ⟨a, .wait⟩ (.a ⟨b, .wait⟩)
  | _ => Undef.illegal 24

def decodeH1 (fp : Footprint) (h : RawHalf) : Dec Instr :=
  match h.op.toNat with
  | 0x40 => hXXB .add h | 0x41 => hXXB .sub h | 0x42 => hXXB .mul h
  | 0x43 => hXXB .and h | 0x44 => hXXB .or h | 0x45 => hXXB .xor h
  | 0x46 => hXXB .shl h | 0x47 => hXXB .shr h | 0x48 => hXXB .sar h
  | 0x49 => hXXB .min h | 0x4A => hXXB .max h
  | 0x4B => hXXB .slt h | 0x4C => hXXB .sltn h | 0x4D => hXXB .seq h
  | 0x4E => do
    let d ← xCode h.d 17; let a ← hX h.a 10; hNone h.b 3; hNoMod h; return .mov d a
  | 0x50 => do
    let d ← hVd fp h.d; let a ← hX h.a 10; let b ← hR fp h.b 3; let m ← hMem h; return .ld none d a b m
  | 0x51 => do
    let d ← hVd fp h.d; let a ← hX h.a 10; let b ← hXb h.b 3; let m ← hMem h; return .ldv none d a b m
  | 0x52 => do
    let d ← hVd fp h.d; let a ← hX h.a 10; let b ← hXb h.b 3; let m ← hMem h; return .ldb none d a b m
  | 0x53 => do
    let d ← xCode h.d 17; let a ← hX h.a 10; let b ← hXb h.b 3; let m ← hMem h; return .lds d a b m
  | 0x54 => do
    hNone h.d 17; let a ← hX h.a 10; let b ← hXb h.b 3; hNoMod h; return .pref a b
  | _ => Undef.illegal 24

/-- The v registers the two source fields of a half read (rule 4 of R76); a ve operand counts both its registers. -/
def halfVRegs (h : RawHalf) : List Nat :=
  ([h.a, h.b].filterMap fun c => if 0x20 ≤ c.toNat ∧ c.toNat < 0x60 then some (c.toNat - 0x20) else none) ++
    (if h.op = 0x11 then [h.a.toNat - 0x20 + 1] else [])

/-- Rules 3 and 4 of R76. -/
def pairRules (h0 h1 : RawHalf) : Bool :=
  let regs := (halfVRegs h0 ++ halfVRegs h1).eraseDups
  (h0.d != h1.d || h0.d == 0) &&
    (List.range 4).all fun bank => (regs.filter fun i => i % 4 == bank).length ≤ 2

/-- A trap of half H1 carries the half bit of Table 3.9. -/
def inH1 (x : Dec α) : Dec α :=
  match x with
  | .error e => .error { e with half := true }
  | .ok a => .ok a

def decodePair (fp : Footprint) (w : Word) : Dec Instr := do
  let h0 := RawHalf.ofBits (w.extractLsb' 31 31)
  let h1 := RawHalf.ofBits (w.extractLsb' 0 31)
  Dec.need (h0Assigned h0.op) (Undef.illegal 24)
  inH1 (Dec.need (h1Assigned h1.op) (Undef.illegal 24))
  let i0 ← decodeH0 fp h0
  let i1 ← inH1 (decodeH1 fp h1)
  Dec.need (pairRules h0 h1) (Undef.operand 63)
  return .pairWord i0 i1

/-- Decodes a word, `lit` being the word after it, under a footprint. -/
def decodeIn (fp : Footprint) (w lit : Word) : Instr :=
  match (if w.extractLsb' 62 2 = 1 then decodePair fp w else decodeSingle fp (RawWord.ofWord w) lit) with
  | .ok i => i
  | .error e => .undefinedEncoding e.cause e.half e.field

/-- Decodes a word whatever the node declares. -/
def decode (w lit : Word) : Instr := decodeIn .full w lit

/-- Class 11 takes the following literal word (R62). -/
def wordIsExtended (w : Word) : Bool := w.extractLsb' 62 2 == 3

/-- Why a byte list holds no instruction word. -/
inductive DecodeError where
  | truncated
  deriving DecidableEq, Repr

/-- The little-endian value of a byte list (R3). -/
def leNat : List Byte → Nat
  | [] => 0
  | b :: bs => b.toNat + 256 * leNat bs

/-- The low `k` bytes of a value, least significant first (R3). -/
def leBytes : Nat → Nat → List Byte
  | 0, _ => []
  | k + 1, v => BitVec.ofNat 8 v :: leBytes k (v / 256)

/-- Decodes the first instruction of a byte list and answers the bytes after it. -/
def decodeBytes (bs : List Byte) : Except DecodeError (Instr × List Byte) :=
  if bs.length < 8 then .error .truncated
  else
    let w : Word := .ofNat 64 (leNat (bs.take 8))
    if wordIsExtended w then
      if bs.length < 16 then .error .truncated
      else .ok (decode w (.ofNat 64 (leNat ((bs.drop 8).take 8))), bs.drop 16)
    else .ok (decode w 0, bs.drop 8)

/-- The decoder on a table word: bits counted from bit 0 of the first word, zero above `nbits`. -/
def decodeTableWord (nbits w : Nat) : Option Instr :=
  match decodeBytes (leBytes 16 (w % 2 ^ nbits)) with
  | .ok (i, _) => some i
  | .error _ => none

/-! ## Encoding, from the same tables -/

/-- Field B as it is encoded. -/
inductive BEnc where
  | reg (code : BitVec 7) (mode : BitVec 2)
  | imm (i : BitVec 31)
  | lit (w : Word)
  deriving DecidableEq, Repr

def XName.code : XName → BitVec 7
  | .x i => .ofNat 7 i.val
  | .rowid => 0x7B

def VName.code : VName → BitVec 7
  | .v i => .ofNat 7 (0x20 + i.val)
  | .n => 0x78
  | .lane => 0x7A

def VDst.code : VDst → BitVec 7
  | .v i => .ofNat 7 (0x20 + i.val)
  | .s => 0x79

def vEnc (i : Fin 64) : BitVec 7 := .ofNat 7 (0x20 + i.val)
def xEnc (i : Fin 32) : BitVec 7 := .ofNat 7 i.val
def aEnc (i : Fin 4) : BitVec 7 := .ofNat 7 (0x60 + i.val)
def wEnc (i : Fin 4) : BitVec 7 := .ofNat 7 (0x64 + i.val)
def pEnc (i : Fin 8) : BitVec 7 := .ofNat 7 (0x68 + i.val)
def dEnc (i : Fin 8) : BitVec 7 := .ofNat 7 (0x70 + i.val)

def XOp.enc : XOp → BEnc
  | .reg s => .reg s.name.code s.mode.code
  | .imm i => .imm i
  | .lit w => .lit w

def VOp.enc : VOp → BEnc
  | .reg s => .reg s.name.code s.mode.code
  | .imm i => .imm i
  | .lit w => .lit w

/-- A source as a code and a mode. -/
abbrev SEnc := BitVec 7 × BitVec 2

def XSrc.enc (s : XSrc) : SEnc := (s.name.code, s.mode.code)
def VSrc.enc (s : VSrc) : SEnc := (s.name.code, s.mode.code)
def RSrc.enc (s : RSrc) : SEnc := (vEnc s.reg, s.mode.code)
def ASrc.enc (s : ASrc) : SEnc := (aEnc s.reg, s.mode.code)
def WSrc.enc (s : WSrc) : SEnc := (wEnc s.reg, s.mode.code)
def PSrc.enc (s : PSrc) : SEnc := (pEnc s.reg, s.mode.code)
def DSrc.enc (s : DSrc) : SEnc := (dEnc s.reg, s.mode.code)
def noSrc : SEnc := (0, 0)
def SEnc.b (s : SEnc) : BEnc := .reg s.1 s.2

def SendSrc.enc : SendSrc → SEnc
  | .v s => s.enc
  | .a s => s.enc
  | .w s => s.enc

def AccOp.enc : AccOp → SEnc
  | .a s => s.enc
  | .n m => (0x78, m.code)

def ADst.code : ADst → BitVec 7
  | .a i => aEnc i
  | .s => 0x79

def RecvDst.code : RecvDst → BitVec 7
  | .v i => vEnc i
  | .a i => aEnc i

/-- The words of an instruction from its fields: opcode, guard, D, A, B, C and modifier. -/
def encWords (opc : BitVec 10) (g : Option Guard) (d : BitVec 7) (a : SEnc) (b : BEnc) (c : SEnc) (m : BitVec 13) :
    List Word :=
  let gb : BitVec 1 := if g.isSome then 1 else 0
  let nb : BitVec 1 := match g with | some x => if x.neg then 1 else 0 | none => 0
  let gp : BitVec 3 := match g with | some x => .ofNat 3 x.p.val | none => 0
  match b with
  | .reg code mode => [RawWord.toWord ⟨0, opc, gb, nb, gp, d, a.1, a.2, code ++ mode ++ c.1 ++ c.2 ++ m⟩]
  | .imm i => [RawWord.toWord ⟨2, opc, gb, nb, gp, d, a.1, a.2, i⟩]
  | .lit w => [RawWord.toWord ⟨3, opc, gb, nb, gp, d, a.1, a.2, 0x7F#7 ++ 0#2 ++ c.1 ++ c.2 ++ m⟩, w]

/-- The common modifier of R65. -/
def modR (rm : RMode) (sat : Bool) (fmt : Fmt) (low : BitVec 5) : BitVec 13 :=
  rm.code ++ BitVec.ofBool sat ++ fmt.code ++ low

def modUn (un : Bool) (low : BitVec 4) : BitVec 5 := BitVec.ofBool un ++ low

def MemMod.enc (m : MemMod) : BitVec 13 :=
  m.scope.code ++ m.fmt.code ++ 0#1 ++ BitVec.ofBool m.ordered ++ BitVec.ofBool m.x ++ m.width.code

def AtomMod.enc (m : AtomMod) (op : BitVec 3) : BitVec 13 :=
  m.scope.code ++ op ++ BitVec.ofBool m.f ++ BitVec.ofBool m.un ++ BitVec.ofBool m.glob ++
    BitVec.ofBool m.acqrel ++ 1#1 ++ BitVec.ofBool m.wide

def encXXB (opc : BitVec 10) (d : Fin 32) (a : XSrc) (b : XOp) : List Word :=
  encWords opc none (xEnc d) a.enc b.enc noSrc 0

def encXX (opc : BitVec 10) (d : Fin 32) (a : XSrc) : List Word :=
  encWords opc none (xEnc d) a.enc noSrc.b noSrc 0

def encNil (opc : BitVec 10) : List Word := encWords opc none 0 noSrc noSrc.b noSrc 0

/-- A pair half's fields for an instruction of Tables 4.8 and 4.9, none for any other. -/
def RawHalf.ofInstr : Instr → Option RawHalf
  | .vadd _ d a b rm _ _ => some ⟨0x00, d.code, a.enc.1, hb b.enc, rm.code⟩
  | .vsub _ d a b rm _ _ => some ⟨0x01, d.code, a.enc.1, hb b.enc, rm.code⟩
  | .vmul _ d a b rm _ _ => some ⟨0x02, d.code, a.enc.1, hb b.enc, rm.code⟩
  | .vmin _ d a b _ => some ⟨0x03, d.code, a.enc.1, hb b.enc, 0⟩
  | .vmax _ d a b _ => some ⟨0x04, d.code, a.enc.1, hb b.enc, 0⟩
  | .vabs _ d a _ => some ⟨0x05, d.code, a.enc.1, 0, 0⟩
  | .vneg _ d a _ => some ⟨0x06, d.code, a.enc.1, 0, 0⟩
  | .vand _ d a b => some ⟨0x07, d.code, a.enc.1, hb b.enc, 0⟩
  | .vor _ d a b => some ⟨0x08, d.code, a.enc.1, hb b.enc, 0⟩
  | .vxor _ d a b => some ⟨0x09, d.code, a.enc.1, hb b.enc, 0⟩
  | .vshl _ d a b _ _ => some ⟨0x0A, d.code, a.enc.1, hb b.enc, 0⟩
  | .vshr _ d a b => some ⟨0x0B, d.code, a.enc.1, hb b.enc, 0⟩
  | .vsar _ d a b => some ⟨0x0C, d.code, a.enc.1, hb b.enc, 0⟩
  | .vrot _ d a b => some ⟨0x0D, d.code, a.enc.1, hb b.enc, 0⟩
  | .vbcast _ d a b => some ⟨0x0E, d.code, a.enc.1, hb b.enc, 0⟩
  | .mstep _ d a b _ _ => some ⟨0x10, aEnc d, a.enc.1, b.enc.1, 0⟩
  | .msteps _ d a b _ _ => some ⟨0x11, aEnc d, a.enc.1, b.enc.1, 0⟩
  | .accz _ d => some ⟨0x12, aEnc d, 0, 0, 0⟩
  | .accwr _ d a => some ⟨0x13, aEnc d, a.enc.1, 0, 0⟩
  | .accadd _ d a b => some ⟨0x14, aEnc d, a.enc.1, b.enc.1, 0⟩
  | .add d a b => some ⟨0x40, xEnc d, a.enc.1, hb b.enc, 0⟩
  | .sub d a b => some ⟨0x41, xEnc d, a.enc.1, hb b.enc, 0⟩
  | .mul d a b => some ⟨0x42, xEnc d, a.enc.1, hb b.enc, 0⟩
  | .and d a b => some ⟨0x43, xEnc d, a.enc.1, hb b.enc, 0⟩
  | .or d a b => some ⟨0x44, xEnc d, a.enc.1, hb b.enc, 0⟩
  | .xor d a b => some ⟨0x45, xEnc d, a.enc.1, hb b.enc, 0⟩
  | .shl d a b => some ⟨0x46, xEnc d, a.enc.1, hb b.enc, 0⟩
  | .shr d a b => some ⟨0x47, xEnc d, a.enc.1, hb b.enc, 0⟩
  | .sar d a b => some ⟨0x48, xEnc d, a.enc.1, hb b.enc, 0⟩
  | .min d a b => some ⟨0x49, xEnc d, a.enc.1, hb b.enc, 0⟩
  | .max d a b => some ⟨0x4A, xEnc d, a.enc.1, hb b.enc, 0⟩
  | .slt d a b => some ⟨0x4B, xEnc d, a.enc.1, hb b.enc, 0⟩
  | .sltn d a b => some ⟨0x4C, xEnc d, a.enc.1, hb b.enc, 0⟩
  | .seq d a b => some ⟨0x4D, xEnc d, a.enc.1, hb b.enc, 0⟩
  | .mov d a => some ⟨0x4E, xEnc d, a.enc.1, 0, 0⟩
  | .ld _ d a b m => some ⟨0x50, d.code, a.enc.1, b.enc.1, 0#1 ++ m.width.code⟩
  | .ldv _ d a b m => some ⟨0x51, d.code, a.enc.1, hb b.enc, 0#1 ++ m.width.code⟩
  | .ldb _ d a b m => some ⟨0x52, d.code, a.enc.1, hb b.enc, 0#1 ++ m.width.code⟩
  | .lds d a b m => some ⟨0x53, xEnc d, a.enc.1, hb b.enc, 0#1 ++ m.width.code⟩
  | .pref a b => some ⟨0x54, 0, a.enc.1, hb b.enc, 0⟩
  | _ => none
where
  /-- The register code of field B; an immediate has no pair form. -/
  hb : BEnc → BitVec 7
    | .reg c _ => c
    | _ => 0x7F

/-- The words of an instruction; an event, an undefined encoding or a pair of other instructions has none. -/
def encode : Instr → Option (List Word)
  | .nop => some (encNil 0x000)
  | .add d a b => some (encXXB 0x001 d a b)
  | .sub d a b => some (encXXB 0x002 d a b)
  | .mul d a b => some (encXXB 0x003 d a b)
  | .mulh d a b => some (encXXB 0x004 d a b)
  | .mulhn d a b => some (encXXB 0x005 d a b)
  | .div d a b => some (encXXB 0x006 d a b)
  | .divn d a b => some (encXXB 0x007 d a b)
  | .rem d a b => some (encXXB 0x008 d a b)
  | .remn d a b => some (encXXB 0x009 d a b)
  | .and d a b => some (encXXB 0x00A d a b)
  | .or d a b => some (encXXB 0x00B d a b)
  | .xor d a b => some (encXXB 0x00C d a b)
  | .andn d a b => some (encXXB 0x00D d a b)
  | .shl d a b => some (encXXB 0x00E d a b)
  | .shr d a b => some (encXXB 0x00F d a b)
  | .sar d a b => some (encXXB 0x010 d a b)
  | .rot d a b => some (encXXB 0x011 d a b)
  | .min d a b => some (encXXB 0x012 d a b)
  | .max d a b => some (encXXB 0x013 d a b)
  | .minn d a b => some (encXXB 0x014 d a b)
  | .maxn d a b => some (encXXB 0x015 d a b)
  | .clz d a => some (encXX 0x016 d a)
  | .ctz d a => some (encXX 0x017 d a)
  | .popc d a => some (encXX 0x018 d a)
  | .seq d a b => some (encXXB 0x019 d a b)
  | .sne d a b => some (encXXB 0x01A d a b)
  | .slt d a b => some (encXXB 0x01B d a b)
  | .sltn d a b => some (encXXB 0x01C d a b)
  | .sle d a b => some (encXXB 0x01D d a b)
  | .slen d a b => some (encXXB 0x01E d a b)
  | .sel d a b c => some (encWords 0x01F none (xEnc d) a.enc b.enc c.enc 0)
  | .lea d a b k => some (encWords 0x020 none (xEnc d) a.enc b.enc noSrc (.ofNat 13 k.val))
  | .mov d a => some (encXX 0x021 d a)
  | .li d b => some (encWords 0x022 none (xEnc d) noSrc b.enc noSrc 0)
  | .bfx d a b sx => some (encWords 0x023 none (xEnc d) a.enc b.enc.b noSrc (0#12 ++ BitVec.ofBool sx))
  | .bfi d a b => some (encWords 0x024 none (xEnc d) a.enc b.enc.b noSrc 0)
  | .madd d a b c => some (encWords 0x025 none (xEnc d) a.enc b.enc c.enc 0)
  | .j imm => some (encWords 0x040 none 0 noSrc (.imm imm) noSrc 0)
  | .jr a => some (encWords 0x041 none 0 a.enc noSrc.b noSrc 0)
  | .bz a imm => some (encWords 0x042 none 0 a.enc (.imm imm) noSrc 0)
  | .bnz a imm => some (encWords 0x043 none 0 a.enc (.imm imm) noSrc 0)
  | .call d imm => some (encWords 0x044 none (xEnc d) noSrc (.imm imm) noSrc 0)
  | .callr d a => some (encXX 0x045 d a)
  | .dbnz d a imm => some (encWords 0x046 none (xEnc d) a.enc (.imm imm) noSrc 0)
  | .lif p => some (encWords 0x047 none 0 p.enc noSrc.b noSrc 0)
  | .lelse => some (encNil 0x048)
  | .lendif => some (encNil 0x049)
  | .lloop => some (encNil 0x04A)
  | .lbreak p k => some (encWords 0x04B none 0 p.enc noSrc.b noSrc (.ofNat 13 k.val))
  | .lcont p k => some (encWords 0x04C none 0 p.enc noSrc.b noSrc (.ofNat 13 k.val))
  | .lendl p back => some (encWords 0x04D none 0 p.enc noSrc.b noSrc back)
  | .lany d p => some (encWords 0x04E none (xEnc d) p.enc noSrc.b noSrc 0)
  | .lall d p => some (encWords 0x04F none (xEnc d) p.enc noSrc.b noSrc 0)
  | .lcnt d p => some (encWords 0x050 none (xEnc d) p.enc noSrc.b noSrc 0)
  | .waitc d a b => some (encWords 0x051 none (xEnc d) a.enc b.enc noSrc 0)
  | .yield b => some (encWords 0x052 none 0 noSrc b.enc noSrc 0)
  | .exit => some (encNil 0x053)
  | .trap b => some (encWords 0x054 none 0 noSrc b.enc noSrc 0)
  | .brk => some (encNil 0x055)
  | .vadd g d a b rm sat un => some (encWords 0x080 g d.code a.enc b.enc noSrc (modR rm sat .raw (modUn un 0)))
  | .vsub g d a b rm sat un => some (encWords 0x081 g d.code a.enc b.enc noSrc (modR rm sat .raw (modUn un 0)))
  | .vmul g d a b rm sat un => some (encWords 0x082 g d.code a.enc b.enc noSrc (modR rm sat .raw (modUn un 0)))
  | .vfma g d a b c rm sat un => some (encWords 0x083 g d.code a.enc b.enc c.enc (modR rm sat .raw (modUn un 0)))
  | .vfms g d a b c rm sat un => some (encWords 0x084 g d.code a.enc b.enc c.enc (modR rm sat .raw (modUn un 0)))
  | .vmin g d a b un => some (encWords 0x085 g d.code a.enc b.enc noSrc (modR .rne false .raw (modUn un 0)))
  | .vmax g d a b un => some (encWords 0x086 g d.code a.enc b.enc noSrc (modR .rne false .raw (modUn un 0)))
  | .vabs g d a sat => some (encWords 0x087 g d.code a.enc noSrc.b noSrc (modR .rne sat .raw 0))
  | .vneg g d a sat => some (encWords 0x088 g d.code a.enc noSrc.b noSrc (modR .rne sat .raw 0))
  | .vrcp g d a rm sat => some (encWords 0x089 g d.code a.enc noSrc.b noSrc (modR rm sat .raw 0))
  | .vrsq g d a rm sat => some (encWords 0x08A g d.code a.enc noSrc.b noSrc (modR rm sat .raw 0))
  | .vsqrt g d a rm sat => some (encWords 0x08B g d.code a.enc noSrc.b noSrc (modR rm sat .raw 0))
  | .vexp2 g d a rm sat => some (encWords 0x08C g d.code a.enc noSrc.b noSrc (modR rm sat .raw 0))
  | .vlog2 g d a rm sat => some (encWords 0x08D g d.code a.enc noSrc.b noSrc (modR rm sat .raw 0))
  | .vtanh g d a rm sat => some (encWords 0x08E g d.code a.enc noSrc.b noSrc (modR rm sat .raw 0))
  | .vcmp g d a b cc any un =>
    some (encWords 0x08F g (pEnc d) a.enc b.enc noSrc (modR .rne false .raw (modUn un (BitVec.ofBool any ++ cc.code))))
  | .vsel g d a b c => some (encWords 0x090 g d.code a.enc b.enc.b c.enc 0)
  | .vand g d a b => some (encWords 0x091 g d.code a.enc b.enc noSrc 0)
  | .vor g d a b => some (encWords 0x092 g d.code a.enc b.enc noSrc 0)
  | .vxor g d a b => some (encWords 0x093 g d.code a.enc b.enc noSrc 0)
  | .vshl g d a b sat un => some (encWords 0x094 g d.code a.enc b.enc noSrc (modR .rne sat .raw (modUn un 0)))
  | .vshr g d a b => some (encWords 0x095 g d.code a.enc b.enc noSrc 0)
  | .vsar g d a b => some (encWords 0x096 g d.code a.enc b.enc noSrc 0)
  | .vdot g d a b c rm sat un => some (encWords 0x097 g d.code a.enc b.enc c.enc (modR rm sat .raw (modUn un 0)))
  | .vsplat g d a fmt => some (encWords 0x098 g d.code a.enc noSrc.b noSrc (modR .rne false fmt 0))
  | .vmovx g d a b => some (encWords 0x099 g (xEnc d) a.enc b.enc noSrc 0)
  | .vins g d a b fmt => some (encWords 0x09A g d.code a.enc b.enc noSrc (modR .rne false fmt 0))
  | .vred g d a op rm sat un =>
    some (encWords 0x09B g (xEnc d) a.enc noSrc.b noSrc (modR rm sat .raw (modUn un (0#1 ++ op.code))))
  | .vscan g d a op rm sat un excl =>
    some (encWords 0x09C g d.code a.enc noSrc.b noSrc (modR rm sat .raw (modUn un (BitVec.ofBool excl ++ op.code))))
  | .vcvt g d a fmt rm sat un => some (encWords 0x0C0 g d.code a.enc noSrc.b noSrc (modR rm sat fmt (modUn un 0)))
  | .vpack g d a b fmt rm sat un => some (encWords 0x0C1 g d.code a.enc b.enc.b noSrc (modR rm sat fmt (modUn un 0)))
  | .vunpk g d a fmt rm sat un part =>
    some (encWords 0x0C2 g d.code a.enc noSrc.b noSrc (modR rm sat fmt (modUn un (.ofNat 4 part.val))))
  | .vtag g d a fmt => some (encWords 0x0C3 g d.code a.enc noSrc.b noSrc (modR .rne false fmt 0))
  | .vscl g d a b add => some (encWords 0x0C4 g d.code a.enc b.enc noSrc (0#12 ++ BitVec.ofBool add))
  | .vquant g d a b word => some (encWords 0x0C5 g (vEnc d) a.enc b.enc noSrc (.ofNat 13 word.val))
  | .vdeq g d a b fmt rm sat word =>
    some (encWords 0x0C6 g (vEnc d) a.enc b.enc noSrc (modR rm sat fmt (.ofNat 5 word.val)))
  | .xbar g d a k => some (encWords 0x0C7 g d.code a.enc noSrc.b noSrc (.ofNat 13 k.val))
  | .xbld a k => some (encWords 0x0C8 none 0 a.enc noSrc.b noSrc (.ofNat 13 k.val))
  | .vrot g d a b => some (encWords 0x0C9 g d.code a.enc b.enc noSrc 0)
  | .vbcast g d a b => some (encWords 0x0CA g d.code a.enc b.enc noSrc 0)
  | .pand d a b => some (encWords 0x0CB none (pEnc d) a.enc b.enc.b noSrc 0)
  | .por d a b => some (encWords 0x0CC none (pEnc d) a.enc b.enc.b noSrc 0)
  | .pxor d a b => some (encWords 0x0CD none (pEnc d) a.enc b.enc.b noSrc 0)
  | .pnot d a => some (encWords 0x0CE none (pEnc d) a.enc noSrc.b noSrc 0)
  | .pset d b => some (encWords 0x0CF none (pEnc d) noSrc b.enc noSrc 0)
  | .vrng g d => some (encWords 0x0D0 g d.code noSrc noSrc.b noSrc 0)
  | .vseed g a => some (encWords 0x0D1 g 0 a.enc noSrc.b noSrc 0)
  | .mstep g d a b kw sl => some (encWords 0x100 g (aEnc d) a.enc b.enc.b noSrc (0#5 ++ kw ++ BitVec.ofNat 3 sl.val))
  | .mstepn g d a b c kw sl =>
    some (encWords 0x101 g d.code a.enc b.enc.b (0x78, c.code) (0#5 ++ kw ++ BitVec.ofNat 3 sl.val))
  | .msteps g d a b kw sl => some (encWords 0x102 g (aEnc d) a.enc b.enc.b noSrc (0#5 ++ kw ++ BitVec.ofNat 3 sl.val))
  | .accz g d => some (encWords 0x103 g (aEnc d) noSrc noSrc.b noSrc 0)
  | .accrd g d a b fmt rm sat clr =>
    some (encWords 0x104 g d.code a.enc ((b.map RSrc.enc).getD noSrc).b noSrc (modR rm sat fmt (0#4 ++ BitVec.ofBool clr)))
  | .accwr g d a => some (encWords 0x105 g (aEnc d) a.enc noSrc.b noSrc 0)
  | .accadd g d a b => some (encWords 0x106 g (aEnc d) a.enc b.enc.b noSrc 0)
  | .wld g d a b fmt k => some (encWords 0x107 g (wEnc d) a.enc b.enc noSrc (0#4 ++ fmt.code ++ k.code ++ 0#3))
  | .wrecv g d a => some (encWords 0x108 g (wEnc d) (0x78, a.code) noSrc.b noSrc 0)
  | .wsend g a => some (encWords 0x109 g 0x79 a.enc noSrc.b noSrc 0)
  | .psend g a rel => some (encWords 0x10A g 0x79 a.enc noSrc.b noSrc (0#12 ++ BitVec.ofBool rel))
  | .precv g d a => some (encWords 0x10B g d.code (0x78, a.code) noSrc.b noSrc 0)
  | .pbind a k nad => some (encWords 0x10C none 0 a.enc noSrc.b noSrc (0#10 ++ k.code ++ BitVec.ofBool nad))
  | .pflush => some (encNil 0x10D)
  | .wscl g d a => some (encWords 0x10E g (wEnc d) a.enc noSrc.b noSrc 0)
  | .ld g d a b m => some (encWords 0x140 g d.code a.enc b.enc.b noSrc m.enc)
  | .ldv g d a b m => some (encWords 0x141 g d.code a.enc b.enc noSrc m.enc)
  | .ldb g d a b m => some (encWords 0x142 g d.code a.enc b.enc noSrc m.enc)
  | .st g a b c m => some (encWords 0x143 g 0 a.enc b.enc.b c.enc m.enc)
  | .stv g a b c m => some (encWords 0x144 g 0 a.enc b.enc c.enc m.enc)
  | .lds d a b m => some (encWords 0x145 none (xEnc d) a.enc b.enc noSrc m.enc)
  | .sts a b c m => some (encWords 0x146 none 0 a.enc b.enc c.enc m.enc)
  | .gld g d a b m => some (encWords 0x147 g d.code a.enc b.enc.b noSrc m.enc)
  | .gst g a b c m => some (encWords 0x148 g 0 a.enc b.enc.b c.enc m.enc)
  | .atom g d a b c m => some (encWords 0x149 g d.code a.enc b.enc.b c.enc (m.enc m.op.code))
  | .red g a b c m => some (encWords 0x14A g 0 a.enc b.enc.b c.enc (m.enc m.op.code))
  | .cas g d a b c m => some (encWords 0x14B g d.code a.enc b.enc.b c.enc (m.enc 0))
  | .atoms d a b c m => some (encWords 0x14C none (xEnc d) a.enc b.enc c.enc (m.enc m.op.code))
  | .fence sc k => some (encWords 0x14D none 0 noSrc noSrc.b noSrc (sc.code ++ k.code ++ 0#7))
  | .fencex sc k paths => some (encWords 0x14E none 0 noSrc noSrc.b noSrc (sc.code ++ k.code ++ paths))
  | .pref a b => some (encWords 0x14F none 0 a.enc b.enc noSrc 0)
  | .sgrow d b k => some (encWords 0x150 none (xEnc d) noSrc b.enc noSrc (0#11 ++ k.code))
  | .sfree d b => some (encWords 0x151 none (xEnc d) noSrc b.enc noSrc 0)
  | .copy d a b c => some (encWords 0x180 none (xEnc d) a.enc b.enc.b c.enc 0)
  | .copyef d a b c => some (encWords 0x181 none (xEnc d) a.enc b.enc.b c.enc 0)
  | .copys d a b => some (encWords 0x182 none (xEnc d) a.enc b.enc.b noSrc 0)
  | .ldd d a b loc => some (encWords 0x183 none (dEnc d) a.enc b.enc noSrc (0#12 ++ BitVec.ofBool loc))
  | .std a b c loc => some (encWords 0x184 none 0 a.enc b.enc c.enc (0#12 ++ BitVec.ofBool loc))
  | .dset d a k => some (encWords 0x185 none (dEnc d) a.enc noSrc.b noSrc (.ofNat 13 k.val))
  | .dget d a k => some (encWords 0x186 none (xEnc d) a.enc noSrc.b noSrc (.ofNat 13 k.val))
  | .ccancel a => some (encWords 0x187 none 0 (a.code, 0) noSrc.b noSrc 0)
  | .enq d a b c t loc =>
    some (encWords 0x1C0 none (xEnc d) a.enc b.enc.b c.enc (0#11 ++ BitVec.ofBool t ++ BitVec.ofBool loc))
  | .enqb d a b c t loc =>
    some (encWords 0x1C1 none (xEnc d) a.enc b.enc.b c.enc (0#11 ++ BitVec.ofBool t ++ BitVec.ofBool loc))
  | .qflush a => some (encWords 0x1C2 none 0 a.enc noSrc.b noSrc 0)
  | .qstat d a => some (encXX 0x1C3 d a)
  | .recdone => some (encNil 0x1C4)
  | .deq d b => some (encWords 0x1C5 none (xEnc d) noSrc b.enc noSrc 0)
  | .coll d a b => some (encWords 0x1E0 none (xEnc d) a.enc b.enc noSrc 0)
  | .cstat d a => some (encXX 0x1E1 d a)
  | .jinit a b loc => some (encWords 0x200 none 0 a.enc b.enc.b noSrc (0#12 ++ BitVec.ofBool loc))
  | .jdec d a => some (encXX 0x201 d a)
  | .jread d a => some (encXX 0x202 d a)
  | .barr a b => some (encWords 0x203 none 0 a.enc b.enc noSrc 0)
  | .bara a b => some (encWords 0x204 none 0 a.enc b.enc noSrc 0)
  | .barw b => some (encWords 0x205 none 0 noSrc b.enc noSrc 0)
  | .acnt a b rel => some (encWords 0x206 none 0 a.enc b.enc noSrc (0#12 ++ BitVec.ofBool rel))
  | .aset a b => some (encWords 0x207 none 0 a.enc b.enc noSrc 0)
  | .evsel a b => some (encWords 0x208 none 0 a.enc b.enc noSrc 0)
  | .evrd d a => some (encXX 0x209 d a)
  | .csrr d c => some (encWords 0x240 none (xEnc d) noSrc (.imm (0#19 ++ c)) noSrc 0)
  | .csrw a c => some (encWords 0x241 none 0 a.enc (.imm (0#19 ++ c)) noSrc 0)
  | .csrs a c => some (encWords 0x242 none 0 a.enc (.imm (0#19 ++ c)) noSrc 0)
  | .csrc a c => some (encWords 0x243 none 0 a.enc (.imm (0#19 ++ c)) noSrc 0)
  | .rett => some (encNil 0x244)
  | .pairWord i0 i1 =>
    match RawHalf.ofInstr i0, RawHalf.ofInstr i1 with
    | some h0, some h1 => some [((1#2 ++ h0.toBits ++ h1.toBits).cast (by decide) : Word)]
    | _, _ => none
  | _ => none

end Sys2Proof
end

