-- ==== Sys2Proof/Machine/Num.lean ====
section
/-!
DEFINITION. Number formats and exact arithmetic (spec/02_number_formats.md): format layouts (R31, R33), the exact value
of every element code, exact sums and products with the zero signs of R52, and the roundings RoundTo (R51),
RoundACC (R39) and LaneRandom (R50).
-/
namespace Sys2Proof

/-- Element width of a tag (Table 2.1); ACC48 has 48 bits in a 64-bit register. -/
def Fmt.bits : Fmt → Nat
  | .raw => 64 | .i8 => 8 | .i16 => 16 | .i32 => 32 | .i64 => 64
  | .fp16 => 16 | .bf16 => 16 | .fp32 => 32 | .e4m3 => 8 | .e5m2 => 8
  | .mxe4m3 => 8 | .mxe5m2 => 8 | .mxe2m1 => 4 | .mxi8 => 8 | .pl16 => 16 | .acc48 => 48

/-- The distance in bits between two sub-elements of a register (R143). -/
def Fmt.stride (f : Fmt) : Nat := if f = .acc48 then 64 else f.bits

/-- Sub-elements in a 64-bit lane register (Table 2.1); for PL16 the words. -/
def Fmt.count (f : Fmt) : Nat := 64 / f.stride

def Fmt.isInt : Fmt → Bool
  | .i8 | .i16 | .i32 | .i64 => true
  | _ => false

def Fmt.isFloat : Fmt → Bool
  | .fp16 | .bf16 | .fp32 => true
  | _ => false

def Fmt.isNarrow : Fmt → Bool
  | .e4m3 | .e5m2 => true
  | _ => false

def Fmt.isMx : Fmt → Bool
  | .mxe4m3 | .mxe5m2 | .mxe2m1 | .mxi8 => true
  | _ => false

/-- The tag uses the scale field (R36). -/
def Fmt.usesScale (f : Fmt) : Bool := f.isMx || f = .pl16

/-- LANESTAT flags (Table 2.8), in the bit places of Table 5.5. -/
abbrev Flags := BitVec 6

def flNone : Flags := 0#6
def flInvalid : Flags := 1#6
def flOverflow : Flags := 2#6
def flUnderflow : Flags := 4#6
def flInexact : Flags := 8#6
def flSat : Flags := 16#6
def flLatovf : Flags := 32#6

/-- An exact value. `fin neg m e st`: magnitude `m * 2^e`, or strictly between `m * 2^e` and `(m+1) * 2^e` when `st`. -/
inductive Val where
  | nan
  | inf (neg : Bool)
  | fin (neg : Bool) (m : Nat) (e : Int) (st : Bool)
  deriving DecidableEq, Repr

def Val.zero (neg : Bool) : Val := .fin neg 0 0 false

def Val.ofInt (i : Int) : Val := .fin (decide (i < 0)) i.natAbs 0 false

def Val.isNan : Val → Bool
  | .nan => true
  | _ => false

def Val.isZero : Val → Bool
  | .fin _ m _ st => m == 0 && !st
  | _ => false

def Val.isNeg : Val → Bool
  | .nan => false
  | .inf n => n
  | .fin n _ _ _ => n

def Val.negate : Val → Val
  | .nan => .nan
  | .inf n => .inf (!n)
  | .fin n m e st => .fin (!n) m e st

/-- Exact multiplication by a power of two. -/
def Val.scale (v : Val) (k : Int) : Val :=
  match v with
  | .fin n m e st => .fin n m (e + k) st
  | w => w

/-- How a floating-point layout spends its top exponent code (Table 2.2). -/
inductive Special where
  | ieee | e4m3 | none_
  deriving DecidableEq, Repr

/-- A floating-point layout (Table 2.2): exponent bits, fraction bits, bias. -/
structure Layout where
  eb   : Nat
  mb   : Nat
  bias : Nat
  spec : Special
  deriving DecidableEq, Repr

/-- The layout of a floating-point tag's element; none for the others. -/
def Fmt.layout : Fmt → Option Layout
  | .fp16 => some ⟨5, 10, 15, .ieee⟩
  | .bf16 => some ⟨8, 7, 127, .ieee⟩
  | .fp32 => some ⟨8, 23, 127, .ieee⟩
  | .e4m3 | .mxe4m3 => some ⟨4, 3, 7, .e4m3⟩
  | .e5m2 | .mxe5m2 => some ⟨5, 2, 15, .ieee⟩
  | .mxe2m1 => some ⟨2, 1, 1, .none_⟩
  | .acc48 => some ⟨10, 37, 511, .ieee⟩
  | _ => none

/-- Sign bit of a layout set. -/
def Layout.signBit (L : Layout) (neg : Bool) : Nat := if neg then 2 ^ (L.eb + L.mb) else 0

/-- The value of a code of a layout (R33, R34). -/
def Layout.value (L : Layout) (c : Nat) : Val :=
  let neg := Nat.testBit c (L.eb + L.mb)
  let E := (c / 2 ^ L.mb) % 2 ^ L.eb
  let F := c % 2 ^ L.mb
  if L.spec = .ieee ∧ E = 2 ^ L.eb - 1 then (if F = 0 then .inf neg else .nan)
  else if L.spec = .e4m3 ∧ E = 2 ^ L.eb - 1 ∧ F = 2 ^ L.mb - 1 then .nan
  else if E = 0 then .fin neg F (1 - (L.bias : Int) - L.mb) false
  else .fin neg (2 ^ L.mb + F) ((E : Int) - L.bias - L.mb) false

/-- The code is a subnormal: exponent field zero, fraction not. -/
def Layout.subnormal (L : Layout) (c : Nat) : Bool :=
  (c / 2 ^ L.mb) % 2 ^ L.eb == 0 && c % 2 ^ L.mb != 0

/-- The code of the largest finite magnitude (Table 2.2), without sign. -/
def Layout.maxCode (L : Layout) : Nat :=
  match L.spec with
  | .ieee => (2 ^ L.eb - 2) * 2 ^ L.mb + (2 ^ L.mb - 1)
  | .e4m3 => 2 ^ (L.eb + L.mb) - 2
  | .none_ => 2 ^ (L.eb + L.mb) - 1

/-- The canonical NaN (Table 2.2); E2M1 has none and gives +0 (R51). -/
def Layout.nanCode (L : Layout) : Nat :=
  match L.spec with
  | .ieee => (2 ^ L.eb - 1) * 2 ^ L.mb + 2 ^ (L.mb - 1)
  | .e4m3 => 2 ^ (L.eb + L.mb) - 1
  | .none_ => 0

/-- The signed reading of a `w`-bit code. -/
def signedOf (w : Nat) (c : Nat) : Int :=
  if c % 2 ^ w < 2 ^ (w - 1) then ((c % 2 ^ w : Nat) : Int) else ((c % 2 ^ w : Nat) : Int) - (2 ^ w : Nat)

/-- The integer reading of a `w`-bit code under un (R32). -/
def intOf (w : Nat) (un : Bool) (c : Nat) : Int :=
  if un then ((c % 2 ^ w : Nat) : Int) else signedOf w c

/-- The low `w` bits of an integer (R32). -/
def wrapInt (w : Nat) (i : Int) : Nat := (i % ((2 ^ w : Nat) : Int)).toNat

/-- The element value of a code under a tag, without the register's scale (R33, R37); subnormals of a flushed
class read as zero of their sign (R53). -/
def Fmt.value (f : Fmt) (un flush : Bool) (c : Nat) : Val :=
  match f.layout with
  | some L => if flush && L.subnormal c then .zero (Nat.testBit c (L.eb + L.mb)) else L.value c
  | none =>
    if f = .mxi8 then (Val.ofInt (signedOf 8 c)).scale (-6)
    else Val.ofInt (intOf f.bits un c)

/-- The canonical NaN of a format, 0 where it has none. -/
def Fmt.nanCode (f : Fmt) : Nat :=
  match f.layout with
  | some L => L.nanCode
  | none => 0

/-- A scale field's factor applied to a value; 0xFF makes it NaN (R36, R37). -/
def applyScale (s : BitVec 8) (v : Val) : Val :=
  if s = 0xFF#8 then .nan else v.scale ((s.toNat : Int) - 127)

/-! ### Exact sums and products -/

/-- The exact product, and whether it is the invalid 0 × ∞ (Table 2.8). -/
def Val.mul (a b : Val) : Val × Flags :=
  match a, b with
  | .nan, _ => (.nan, flNone)
  | _, .nan => (.nan, flNone)
  | .inf n, x => if x.isZero then (.nan, flInvalid) else (.inf (n != x.isNeg), flNone)
  | x, .inf n => if x.isZero then (.nan, flInvalid) else (.inf (n != x.isNeg), flNone)
  | .fin n m e st, .fin n' m' e' st' =>
    if st || st' then
      -- an inexact factor keeps an interior point of its interval
      (.fin (n != n') ((2 * m + 1) * (2 * m' + 1)) (e + e' - 2) true, flNone)
    else (.fin (n != n') (m * m') (e + e') false, flNone)

/-- The least exponent of the finite terms. -/
def minExp : List Val → Int → Int
  | [], e => e
  | .fin _ _ e _ :: t, e' => minExp t (if e < e' then e else e')
  | _ :: t, e' => minExp t e'

/-- The terms as integers at exponent `e`, summed. -/
def sumAt (e : Int) : List Val → Int
  | [] => 0
  | .fin n m ex _ :: t =>
    let k := (m <<< (ex - e).toNat : Nat)
    (if n then -(k : Int) else (k : Int)) + sumAt e t
  | _ :: t => sumAt e t

/-- The exact sum of exact terms: a NaN term passes, +∞ with −∞ is invalid (R55), a zero sum takes its sign by R52. -/
def sumVals (ts : List Val) (mode : RMode) : Val × Flags :=
  if ts.any Val.isNan then (.nan, flNone)
  else
    let pos := ts.any (fun v => v = .inf false)
    let neg := ts.any (fun v => v = .inf true)
    if pos && neg then (.nan, flInvalid)
    else if pos then (.inf false, flNone)
    else if neg then (.inf true, flNone)
    else
      let e := match ts with
        | .fin _ _ e _ :: t => minExp t e
        | _ => 0
      let i := sumAt e ts
      if i = 0 then
        let allZero := ts.all Val.isZero
        if allZero && ts.all (fun v => !v.isNeg) then (.zero false, flNone)
        else if allZero && ts.all Val.isNeg then (.zero true, flNone)
        else (.zero (decide (mode = .rdn)), flNone)
      else (.fin (decide (i < 0)) i.natAbs e false, flNone)

/-- Comparison of exact values: none when either is NaN; +0 equals −0 (R155). -/
def Val.cmp (a b : Val) : Option Ordering :=
  match a, b with
  | .nan, _ => none
  | _, .nan => none
  | .inf n, .inf n' => some (if n = n' then .eq else if n then .lt else .gt)
  | .inf n, _ => some (if n then .lt else .gt)
  | _, .inf n => some (if n then .gt else .lt)
  | .fin n m e _, .fin n' m' e' _ =>
    let b := if e < e' then e else e'
    let x := (m <<< (e - b).toNat : Nat)
    let y := (m' <<< (e' - b).toNat : Nat)
    some (compare (if n then -(x : Int) else x) (if n' then -(y : Int) else y))

/-! ### The lane RNG -/

/-- LaneRandom's next state (R50); the value drawn is the new state. -/
def rngNext (s : Word) : Word :=
  let a := s ^^^ (s <<< 13)
  let b := a ^^^ (a >>> 7)
  b ^^^ (b <<< 17)

/-! ### Rounding -/

/-- A rounded element: its code, the flags raised and the RNG state after. -/
structure Rounded where
  code : Nat
  fl   : Flags
  rng  : Word
  deriving DecidableEq, Repr

/-- The integer `n` with `n * 2^q` the rounding of magnitude `m * 2^e` (or its open interval) under a mode, whether it
is inexact, and the RNG state after (R47, R49). -/
def roundMag (neg : Bool) (m : Nat) (e : Int) (st : Bool) (q : Int) (mode : RMode) (rng : Word) : Nat × Bool × Word :=
  if q ≤ e ∧ st = false then (m <<< (e - q).toNat, false, rng)
  else
    let m' := if q ≤ e then m <<< ((e - q).toNat + 1) else m
    let sh := if q ≤ e then 1 else (q - e).toNat
    let n := m' >>> sh
    let r := m' % 2 ^ sh
    let half := 2 ^ (sh - 1)
    let inx := r != 0 || st
    if !inx then (n, false, rng)
    else
      let above := decide (r > half) || (decide (r = half) && st)
      let tie := decide (r = half) && !st
      let up : Bool := match mode with
        | .rne => above || (tie && n % 2 == 1)
        | .rtz => false
        | .rup => !neg
        | .rdn => neg
        | .rna => above || tie
        | _ => false
      if mode = .sr then
        let rng' := rngNext rng
        let t := (rng' >>> 40).toNat
        -- floor(|v|/u + t * 2^-24): the fraction's first 24 bits plus t carry into the next neighbour
        let frac := (r <<< 24) >>> sh
        (n + (frac + t) / 2 ^ 24, true, rng')
      else (if up then n + 1 else n, true, rng)

/-- The code of `n * 2^q` in a layout, `n` below `2^(mb+1)` or equal to it. -/
def Layout.code (L : Layout) (neg : Bool) (n : Nat) (q : Int) : Nat :=
  let n' := if n < 2 ^ (L.mb + 1) then n else n / 2
  let q' := if n < 2 ^ (L.mb + 1) then q else q + 1
  L.signBit neg + (if n' < 2 ^ L.mb then n' else (q' + L.mb + L.bias).toNat * 2 ^ L.mb + (n' - 2 ^ L.mb))

/-- The infinity of a layout, and the E4M3 NaN code or E2M1 limit that stands for it (Table 2.7). -/
def Layout.infCode (L : Layout) (neg : Bool) : Nat :=
  L.signBit neg + (match L.spec with
    | .ieee => (2 ^ L.eb - 1) * 2 ^ L.mb
    | .e4m3 => L.nanCode
    | .none_ => L.maxCode)

/-- `n * 2^q` exceeds the largest finite magnitude. -/
def Layout.exceeds (L : Layout) (n : Nat) (q : Int) : Bool :=
  let mant := if L.spec = .e4m3 then 2 ^ (L.mb + 1) - 2 else 2 ^ (L.mb + 1) - 1
  let topE : Int := (if L.spec = .ieee then (2 ^ L.eb : Nat) - 2 else (2 ^ L.eb : Nat) - 1) - L.bias - L.mb
  if topE ≤ q then decide (mant < n <<< (q - topE).toNat) else decide (mant <<< (topE - q).toNat < n)

/-- RoundTo into a floating-point layout (R51, R53, R54, Table 2.7). A result that rounds to zero is no non-zero
result and sets no underflow (DEDUCED, log entry 17). -/
def roundFloat (L : Layout) (v : Val) (mode : RMode) (sat flush : Bool) (rng : Word) : Rounded :=
  match v with
  | .nan => ⟨L.nanCode, if L.spec = .none_ then flInvalid else flNone, rng⟩
  | .inf neg =>
    if sat || decide (L.spec = .none_) then ⟨L.signBit neg + L.maxCode, flSat, rng⟩
    else ⟨L.infCode neg, if L.spec = .e4m3 then flInvalid else flNone, rng⟩
  | .fin neg m e st =>
    if m = 0 ∧ st = false then ⟨L.signBit neg, flNone, rng⟩
    else
      let qmin : Int := 1 - (L.bias : Int) - L.mb
      let lead : Int := if m = 0 then e - 1 else (Nat.log2 m : Int) + e
      let q : Int := if lead - L.mb < qmin then qmin else lead - L.mb
      let (n, inx, rng') := roundMag neg m e st q mode rng
      let flx := if inx then flInexact else flNone
      if L.exceeds n q then
        let fl := flx ||| flOverflow ||| flInexact
        if sat then ⟨L.signBit neg + L.maxCode, fl ||| flSat, rng'⟩
        else
          let toInf : Bool := match mode with
            | .rtz => false
            | .rup => !neg
            | .rdn => neg
            | _ => true
          if toInf then ⟨L.infCode neg, if L.spec = .none_ then fl ||| flSat else fl, rng'⟩
          else ⟨L.signBit neg + L.maxCode, fl, rng'⟩
      else if n = 0 then ⟨L.signBit neg, flx, rng'⟩
      else if q = qmin ∧ n < 2 ^ L.mb then
        if flush then ⟨L.signBit neg, flx ||| flUnderflow ||| flInexact, rng'⟩
        else ⟨L.code neg n q, if inx then flx ||| flUnderflow else flx, rng'⟩
      else ⟨L.code neg n q, flx, rng'⟩

/-- RoundTo into a `w`-bit integer (R51). -/
def roundInt (w : Nat) (un : Bool) (v : Val) (mode : RMode) (sat : Bool) (rng : Word) : Rounded :=
  let lo : Int := if un then 0 else -((2 ^ (w - 1) : Nat) : Int)
  let hi : Int := if un then ((2 ^ w : Nat) : Int) - 1 else ((2 ^ (w - 1) : Nat) : Int) - 1
  match v with
  | .nan => ⟨0, flInvalid, rng⟩
  | .inf neg => if sat then ⟨wrapInt w (if neg then lo else hi), flSat, rng⟩ else ⟨0, flInvalid, rng⟩
  | .fin neg m e st =>
    let (n, inx, rng') := roundMag neg m e st 0 mode rng
    let i : Int := if neg then -(n : Int) else n
    let flx := if inx then flInexact else flNone
    if i < lo ∨ hi < i then
      if sat then ⟨wrapInt w (if i < lo then lo else hi), flx ||| flSat, rng'⟩
      else ⟨wrapInt w i, flx, rng'⟩
    else ⟨wrapInt w i, flx, rng'⟩

/-- The code of the ACC48 infinity or NaN and of a rounded value, and the overflow flag alone (R39). -/
def roundACC (v : Val) : Nat × Flags :=
  match Fmt.acc48.layout with
  | some L =>
    let r := roundFloat L v .rne false false 0#64
    (r.code, r.fl &&& flOverflow)
  | none => (0, flNone)

/-- RoundTo(fmt, v, mode, sat) of R51, into the element format of a tag; ACC48 by R38, R39. RAW and PL16 are no
destinations (R150) and give 0. -/
def roundTo (f : Fmt) (v : Val) (mode : RMode) (sat un flush : Bool) (rng : Word) : Rounded :=
  match f with
  | .i8 | .i16 | .i32 | .i64 => roundInt f.bits un v mode sat rng
  | .mxi8 => roundInt 8 false (v.scale 6) mode sat rng
  | .acc48 => ⟨(roundACC v).1, (roundACC v).2, rng⟩
  | .raw | .pl16 => ⟨0, flNone, rng⟩
  | _ => match f.layout with
    | some L => roundFloat L v mode sat flush rng
    | none => ⟨0, flNone, rng⟩

/-- The flush bit of a format's class in FPMODE (R53, Table 5.4). -/
def flushOf (fpmode : Word) (f : Fmt) : Bool :=
  match f with
  | .fp32 => fpmode.getLsbD 4
  | .fp16 | .bf16 => fpmode.getLsbD 5
  | .e4m3 | .e5m2 | .mxe4m3 | .mxe5m2 | .mxe2m1 => fpmode.getLsbD 6
  | _ => false

/-- The rounding mode in force: DYN takes FPMODE's mode field (R48). -/
def RMode.resolve (m : RMode) (fpmode : Word) : RMode :=
  match m with
  | .dyn => (RMode.ofCode (fpmode.extractLsb' 0 3)).getD .rne
  | r => r

end Sys2Proof
end

