-- ==== Sys2Proof/Machine/Func.lean ====
section
/-!
DEFINITION. The correctly rounded functions of R153 (spec/07): 1/a, 1/√a, √a, 2^a, log2 a and tanh a of a positive or
signed dyadic number, each as an exact value or as an open interval far narrower than any rounding granule, so that
RoundTo rounds the true value once. The transcendental three are enclosed by fixed-point series with a bounded error
(log entry 7).
-/
namespace Sys2Proof

/-- Integer square root, one bit of the root at a time from bit `k - 1` down. -/
def isqrtFrom (n : Nat) : Nat → Nat → Nat
  | 0, r => r
  | k + 1, r => if (r + 2 ^ k) * (r + 2 ^ k) ≤ n then isqrtFrom n k (r + 2 ^ k) else isqrtFrom n k r

def isqrt (n : Nat) : Nat := isqrtFrom n (Nat.log2 n / 2 + 1) 0

/-- 1/(m * 2^e) as a value of its sign (m nonzero). -/
def recipVal (neg : Bool) (m : Nat) (e : Int) : Val :=
  .fin neg (2 ^ 200 / m) (-200 - e) (2 ^ 200 % m != 0)

/-- The square root of m * 2^e. -/
def sqrtVal (m : Nat) (e : Int) : Val :=
  let m' := if e % 2 = 0 then m else 2 * m
  let e' := if e % 2 = 0 then e else e - 1
  let n := m' * 2 ^ 200
  let s := isqrt n
  .fin false s (e' / 2 - 100) (s * s != n)

/-- The reciprocal square root of m * 2^e (m nonzero). -/
def rsqrtVal (m : Nat) (e : Int) : Val :=
  let m' := if e % 2 = 0 then m else 2 * m
  let e' := if e % 2 = 0 then e else e - 1
  let s := isqrt (2 ^ 400 / m')
  .fin false s (-200 - e' / 2) (s * s * m' != 2 ^ 400)

/-- Fixed-point `Σ z^(2k+1)/(2k+1)` from term `t = z^(2k+1)`, `p` fraction bits, at most `fuel` terms. -/
def atanhSeries (p z2 : Nat) : Nat → Nat → Nat → Nat → Nat
  | 0, _, _, acc => acc
  | fuel + 1, k, t, acc =>
    if t = 0 then acc else atanhSeries p z2 fuel (k + 2) (t * z2 / 2 ^ p) (acc + t / k)

/-- atanh of the fixed-point number `z` below 1/2, with `p` fraction bits. -/
def atanhFix (p z : Nat) : Nat := atanhSeries p (z * z / 2 ^ p) 600 1 z 0

/-- ln 2 = 2 atanh(1/3) with `p` fraction bits. -/
def ln2Fix (p : Nat) : Nat := 2 * atanhFix p (2 ^ p / 3)

/-- Fixed-point `Σ y^k/k!` from term `t = y^k/k!`. -/
def expSeries (p y : Nat) : Nat → Nat → Nat → Nat → Nat
  | 0, _, _, acc => acc
  | fuel + 1, k, t, acc =>
    if t = 0 then acc else expSeries p y fuel (k + 1) (t * y / 2 ^ p / (k + 1)) (acc + t)

/-- e^y for a fixed-point `y` below 1, with `p` fraction bits. -/
def expFix (p y : Nat) : Nat := expSeries p y 600 0 (2 ^ p) 0

/-- The first of the given precisions whose approximation, with error at most 2^40 units, fixes the value to
2^-150: the interval (n, n+1) * 2^-150. -/
def enclose (f : Nat → Nat) : List Nat → Nat
  | [] => 0
  | p :: ps =>
    let s := f p
    let lo := (s - 2 ^ 40) / 2 ^ (p - 150)
    let hi := (s + 2 ^ 40) / 2 ^ (p - 150)
    if lo = hi ∨ ps = [] then lo else enclose f ps

/-- The working precisions, in fraction bits. -/
def precisions : List Nat := [256, 384, 640, 1024]

/-- The fraction of (m * 2^e) * 2^p below one, rounded down; `m * 2^e` negative when `neg`. -/
def fixFrac (neg : Bool) (m : Nat) (e : Int) (p : Nat) : Nat :=
  let x : Int := if 0 ≤ e then ((m <<< e.toNat : Nat) : Int) * (2 ^ p : Nat) else
    ((m <<< p : Nat) : Int)
  let q : Int := if 0 ≤ e then (2 ^ p : Nat) else ((2 ^ (-e).toNat * 2 ^ p : Nat) : Int)
  let r := (if neg then -x else x) % q
  if 0 ≤ e then r.toNat else r.toNat / 2 ^ (-e).toNat

/-- floor of ±m * 2^e. -/
def floorVal (neg : Bool) (m : Nat) (e : Int) : Int :=
  let x : Int := if neg then -(m : Int) else m
  if 0 ≤ e then x * (2 ^ e.toNat : Nat) else x / ((2 ^ (-e).toNat : Nat) : Int)

/-- 2^a for a = ±m * 2^e. -/
def exp2Val (neg : Bool) (m : Nat) (e : Int) : Val :=
  if m = 0 then .fin false 1 0 false
  else
    let lead : Int := (Nat.log2 m : Int) + e
    let whole := decide (0 ≤ e) || m % 2 ^ (-e).toNat == 0
    if 12 ≤ lead then .fin false 1 (if neg then -5000 else 5000) (neg || !whole)
    else if lead < -62 then
      (if neg then .fin false (2 ^ 60 - 1) (-60) true else .fin false (2 ^ 60) (-60) true)
    else
      let n := floorVal neg m e
      if whole then .fin false 1 n false
      else
        let k := enclose (fun p => expFix p (fixFrac neg m e p * ln2Fix p / 2 ^ p)) precisions
        .fin false k (n - 150) true

/-- log2 of m * 2^e, m nonzero. -/
def log2Val (m : Nat) (e : Int) : Val :=
  let l := Nat.log2 m
  if m = 2 ^ l then Val.ofInt ((l : Int) + e)
  else
    -- m = t * 2^l with t in (1, 2); above 3/2 the reduced t is t/2
    let big := decide (3 * 2 ^ l < 2 * m)
    let k : Int := (l : Int) + e + (if big then 1 else 0)
    let d := if big then 2 ^ (l + 1) else 2 ^ l
    -- |ln(m/d)| = 2 atanh(|m - d| / (m + d))
    let num := if big then d - m else m - d
    let absLog (p : Nat) : Nat := 2 * atanhFix p (num * 2 ^ p / (m + d)) * 2 ^ p / ln2Fix p
    -- |k + log2| with sign
    let neg := decide (k < 0) || (decide (k = 0) && big)
    let mag (p : Nat) : Nat :=
      let k' := k.natAbs * 2 ^ p
      if k = 0 then absLog p
      else if decide (k < 0) == big then k' + absLog p else k' - absLog p
    .fin neg (enclose mag precisions) (-150) true

/-- tanh of a = ±m * 2^e, m nonzero. -/
def tanhVal (neg : Bool) (m : Nat) (e : Int) : Val :=
  let lead : Int := (Nat.log2 m : Int) + e
  if lead < -40 then .fin neg (m * 2 ^ 50 - 1) (e - 50) true
  else if 6 ≤ lead then .fin neg (2 ^ 60 - 1) (-60) true
  else
    -- E = e^(2a) = 2^n * e^r with r = 2a - n ln2
    let f (p : Nat) : Nat :=
      let y := if 0 ≤ e + 1 then m <<< (e + 1).toNat <<< p else (m <<< p) / 2 ^ (-(e + 1)).toNat
      let n := y / ln2Fix p
      let E := expFix p (y % ln2Fix p) * 2 ^ n
      (E - 2 ^ p) * 2 ^ p / (E + 2 ^ p)
    .fin neg (enclose f precisions) (-150) true

end Sys2Proof
end

