-- ==== Sys2Proof/Machine/Lattice.lean ====
section
/-!
DEFINITION. The Pleiad lattice format (spec/02_number_formats.md R40-R46): decoding a PL16 word and the nearest-point
quantisation QuantPL16. Coordinates are held doubled, so that both cosets are integers.
-/
namespace Sys2Proof

/-- The doubled coordinate of a code (Table 2.4). -/
def plCoord (h : Bool) (c : Nat) : Int :=
  if h then (if c = 0 then 1 else if c = 1 then 3 else if c = 2 then -1 else -3)
  else (if c = 0 then 0 else if c = 1 then 2 else if c = 2 then -2 else 4)

/-- Doubled coordinate 7 from the doubled sum of coordinates 0 to 6 and e (Table 2.5). -/
def plLast (h e : Bool) (s : Int) : Int :=
  if h then
    (if (s + 1) % 4 = 0 then (if e then -3 else 1) else (if e then 3 else -1))
  else
    (if s % 4 = 0 then (if e then 4 else 0) else (if e then -2 else 2))

/-- The doubled coordinates of a PL16 word (R40, R41). -/
def plDecode (w : Nat) : List Int :=
  let h := Nat.testBit w 15
  let e := Nat.testBit w 14
  let cs := (List.range 7).map (fun i => plCoord h ((w / 4 ^ i) % 4))
  cs ++ [plLast h e cs.sum]

/-- DecodePL16 (R43): the eight element values under an E8M0 scale. -/
def decodePL16 (w : Nat) (scale : BitVec 8) : List Val :=
  (plDecode w).map (fun x => applyScale scale ((Val.ofInt x).scale (-1)))

/-- Nearest integer to `z / u`, ties to even. -/
def nearestEven (z : Int) (u : Nat) : Int :=
  let q := z / (u : Int)
  let r := (z % (u : Int)).toNat
  if 2 * r > u then q + 1 else if 2 * r = u then (if q % 2 = 0 then q else q + 1) else q

/-- The flip of a rounded coordinate (R45). -/
def plFlip (z f : Int) (u : Nat) : Int := if z < f * (u : Int) then f - 1 else f + 1

/-- The place of the acceptable coordinate with the largest error, the lowest place on a tie. -/
def plPick (lo hi : Int) (boxed : Bool) (u : Nat) : List (Int × Int) → Nat → Option (Nat × Nat) → Option Nat
  | [], _, best => best.map Prod.fst
  | (z, f) :: t, i, best =>
    let g := plFlip z f u
    let err := (z - f * (u : Int)).natAbs
    let ok := !boxed || (decide (lo ≤ g) && decide (g ≤ hi))
    let best' := if ok then
        (match best with
          | none => some (i, err)
          | some (j, b) => if b < err then some (i, err) else some (j, b))
      else best
    plPick lo hi boxed u t (i + 1) best'

/-- CosetRound of R45 over numbers in units of `1/u`. -/
def cosetRound (z : List Int) (u : Nat) (lo hi : Int) (boxed : Bool) : List Int :=
  let f := z.map (fun x => nearestEven x u)
  if f.sum % 2 = 0 then f
  else
    match plPick lo hi boxed u (z.zip f) 0 none with
    | none => f
    | some k => (z.zip f).zipIdx.map (fun p => if p.2 = k then plFlip p.1.1 p.1.2 u else p.1.2)

/-- The squared distance of `y` (units of `1/u`) to a point of doubled coordinates, in units of `1/(2u)` squared. -/
def plDist2 (y : List Int) (u : Nat) (c : List Int) : Int :=
  ((y.zip c).map (fun p => (2 * p.1 - p.2 * (u : Int)) * (2 * p.1 - p.2 * (u : Int)))).sum

/-- A point of doubled coordinates lies in the box (R42). -/
def plInBox (half : Bool) (c : List Int) : Bool :=
  c.all (fun x => if half then decide (-3 ≤ x) && decide (x ≤ 3) else decide (-2 ≤ x) && decide (x ≤ 4))

/-- The code of one doubled coordinate (Table 2.4). -/
def plCode (half : Bool) (x : Int) : Nat :=
  if half then (if x = 1 then 0 else if x = 3 then 1 else if x = -1 then 2 else 3)
  else (if x = 0 then 0 else if x = 2 then 1 else if x = -2 then 2 else 3)

/-- The word of a point of the box (Tables 2.3 to 2.5). -/
def plEncode (half : Bool) (c : List Int) : Nat :=
  let low := ((c.take 7).zipIdx.map (fun p => plCode half p.1 * 4 ^ p.2)).sum
  let h := if half then 2 ^ 15 else 0
  let e := if plLast half false (c.take 7).sum = c.getD 7 0 then 0 else 2 ^ 14
  h + e + low

/-- QuantPL16 of eight values in units of `1/u`, `u` even: the word and whether the lattice overflowed (R45, R46). -/
def quantUnits (y : List Int) (u : Nat) : Nat × Bool :=
  let uh : Int := (u / 2 : Nat)
  let dbl (l : List Int) := l.map (fun x => 2 * x)
  let dblH (l : List Int) := l.map (fun x => 2 * x + 1)
  let I := dbl (cosetRound y u (-1) 2 false)
  let H := dblH (cosetRound (y.map (fun x => x - uh)) u (-2) 1 false)
  let iNear := decide (plDist2 y u I ≤ plDist2 y u H)
  if (if iNear then plInBox false I else plInBox true H) then
    (if iNear then plEncode false I else plEncode true H, false)
  else
    let clampI (lo hi x : Int) : Int := if x < lo then lo else if hi < x then hi else x
    let I' := if plInBox false I then I
      else dbl (cosetRound (y.map (clampI (-(u : Int)) (2 * u))) u (-1) 2 true)
    let H' := if plInBox true H then H
      else dblH (cosetRound (y.map (fun x => clampI (-(3 * uh)) (3 * uh) x - uh)) u (-2) 1 true)
    if plDist2 y u I' ≤ plDist2 y u H' then (plEncode false I', true) else (plEncode true H', true)

/-- The value in units of `2^e`, `e` at most its exponent; none when not finite. -/
def Val.units (e : Int) : Val → Option Int
  | .fin n m ex _ => some (let k : Int := ((m <<< (ex - e).toNat : Nat) : Int); if n then -k else k)
  | _ => none

/-- QuantPL16 of R45: the word and its flags. -/
def quantPL16 (y : List Val) : Nat × Flags :=
  let e := minExp y (-1)
  match y.mapM (Val.units e) with
  | none => (0, flInvalid)
  | some l =>
    let r := quantUnits l (2 ^ (-e).toNat)
    (r.1, if r.2 then flLatovf else flNone)

end Sys2Proof
end

