-- ==== Sys2Proof/Machine/Lane.lean ====
section
/-!
DEFINITION. What a vector instruction computes in one lane (spec/07): the lane register, the element arithmetic, the
functions, compares, shifts, conversions and Pleiad words. Each function answers none where the lane's tags make the
instruction trap TAGMISMATCH (R147).
-/
namespace Sys2Proof

/-- A lane register in one lane: 64 bits, a tag and an E8M0 scale (R143). -/
structure LaneReg where
  bits  : Word
  tag   : Fmt
  scale : BitVec 8
  deriving DecidableEq, Repr

/-- The start value of Table 5.10. -/
def LaneReg.zero : LaneReg := ⟨0#64, .raw, 0x7F#8⟩

/-- What rounds the elements of a lane: FPMODE, the resolved mode, SAT and un (R150). -/
structure RoundCtx where
  fpmode : Word
  mode   : RMode
  sat    : Bool
  un     : Bool
  deriving DecidableEq, Repr

/-- The result of an instruction in one lane: bits, tag, the scale where the entry sets one, the flags raised and the
lane's RNG state after. -/
structure LaneOut where
  bits  : Word
  tag   : Fmt
  scale : Option (BitVec 8)
  fl    : Flags
  rng   : Word
  deriving DecidableEq, Repr

/-- Sub-element `i` under a tag (R143). -/
def subElem (f : Fmt) (b : Word) (i : Nat) : Nat := (b.toNat >>> (i * f.stride)) % 2 ^ f.bits

/-- Every sub-element, from bit 0 up. -/
def subElems (f : Fmt) (b : Word) : List Nat := (List.range f.count).map (subElem f b)

/-- A register's bits from its sub-elements. -/
def joinElems (f : Fmt) (cs : List Nat) : Word :=
  BitVec.ofNat 64 (cs.foldr (fun c acc => acc * 2 ^ f.stride + c % 2 ^ f.bits) 0)

/-- One code in every sub-element. -/
def splatElems (f : Fmt) (c : Nat) : Word := joinElems f (List.replicate f.count c)

/-- An element result: a code taken as it is, or an exact value still to be rounded. -/
inductive ElemRes where
  | code (c : Nat) (fl : Flags)
  | round (v : Val) (fl : Flags)
  deriving DecidableEq, Repr

/-- Round the elements in sub-element order (R49), collecting flags and RNG draws. -/
def settle (g : Fmt) (k : RoundCtx) : List ElemRes → Flags → Word → List Nat × Flags × Word
  | [], fl, rng => ([], fl, rng)
  | .code c f :: t, fl, rng =>
    let (cs, fl', rng') := settle g k t (fl ||| f) rng
    (c :: cs, fl', rng')
  | .round v f :: t, fl, rng =>
    let r := roundTo g v k.mode k.sat k.un (flushOf k.fpmode g) rng
    let (cs, fl', rng') := settle g k t (fl ||| f ||| r.fl) r.rng
    (r.code :: cs, fl', rng')

/-- A lane result of format `g` from element results. -/
def laneOut (g : Fmt) (k : RoundCtx) (es : List ElemRes) (rng : Word) : LaneOut :=
  let (cs, fl, rng') := settle g k es flNone rng
  ⟨joinElems g cs, g, none, fl, rng'⟩

/-- An operation's exact value: a NaN made by it is the canonical NaN, any other value is rounded (R152). -/
def ElemRes.ofVal (f : Fmt) (p : Val × Flags) : ElemRes :=
  match p.1 with
  | .nan => .code f.nanCode p.2
  | v => .round v p.2

/-- Element value for the arithmetic: un in integer formats, subnormals flushed by the class's bit. -/
def elemVal (k : RoundCtx) (f : Fmt) (c : Nat) : Val := f.value k.un (flushOf k.fpmode f) c

inductive ArithOp where
  | add | sub | mul
  deriving DecidableEq, Repr

/-- The exact value of the two-operand operations (Table 7.4). -/
def arithVal (op : ArithOp) (mode : RMode) (a b : Val) : Val × Flags :=
  match op with
  | .add => sumVals [a, b] mode
  | .sub => sumVals [a, b.negate] mode
  | .mul => a.mul b

/-- a × b + c, or a × b − c when `sub` (Table 7.4). -/
def fmaVal (sub : Bool) (mode : RMode) (a b c : Val) : Val × Flags :=
  let p := a.mul b
  let s := sumVals [p.1, if sub then c.negate else c] mode
  (s.1, p.2 ||| s.2)

/-- The lane formats of the element arithmetic (Table 7.1). -/
def arithFmt (f : Fmt) : Bool := f.isInt || f.isFloat

/-- VADD, VSUB, VMUL in one lane (R152). -/
def laneArith (op : ArithOp) (k : RoundCtx) (a b : LaneReg) (rng : Word) : Option LaneOut :=
  let f := a.tag
  if arithFmt f && decide (b.tag = f) then
    some (laneOut f k ((List.range f.count).map (fun i =>
      let x := elemVal k f (subElem f a.bits i)
      let y := elemVal k f (subElem f b.bits i)
      if x.isNan || y.isNan then .code f.nanCode flNone
      else .ofVal f (arithVal op k.mode x y))) rng)
  else none

/-- VFMA, VFMS in one lane (R152). -/
def laneFma (sub : Bool) (k : RoundCtx) (a b c : LaneReg) (rng : Word) : Option LaneOut :=
  let f := a.tag
  if arithFmt f && decide (b.tag = f) && decide (c.tag = f) then
    some (laneOut f k ((List.range f.count).map (fun i =>
      let x := elemVal k f (subElem f a.bits i)
      let y := elemVal k f (subElem f b.bits i)
      let z := elemVal k f (subElem f c.bits i)
      if x.isNan || y.isNan || z.isNan then .code f.nanCode flNone
      else .ofVal f (fmaVal sub k.mode x y z))) rng)
  else none

/-- A code with a flushed subnormal replaced by the zero of its sign, and any NaN by the canonical one. -/
def cleanCode (k : RoundCtx) (f : Fmt) (c : Nat) : Nat :=
  match f.layout with
  | none => c
  | some L =>
    if (L.value c).isNan then L.nanCode
    else if flushOf k.fpmode f && L.subnormal c then L.signBit (Nat.testBit c (L.eb + L.mb))
    else c

/-- `x` is the lesser of two non-NaN values; −0 counts as less than +0. -/
def valLe (x y : Val) : Bool :=
  match x.cmp y with
  | some .lt => true
  | some .eq => x.isNeg || !y.isNeg
  | _ => false

/-- VMIN (`max` false) and VMAX of two codes. -/
def minMaxCode (k : RoundCtx) (f : Fmt) (max : Bool) (c d : Nat) : Nat :=
  let x := elemVal k f c
  let y := elemVal k f d
  if x.isNan || y.isNan then f.nanCode
  else if valLe x y != max then cleanCode k f c else cleanCode k f d

/-- VMIN, VMAX in one lane (R152): never rounds, sets no flag. -/
def laneMinMax (max : Bool) (k : RoundCtx) (a b : LaneReg) (rng : Word) : Option LaneOut :=
  let f := a.tag
  if arithFmt f && decide (b.tag = f) then
    some ⟨joinElems f ((List.range f.count).map (fun i =>
      minMaxCode k f max (subElem f a.bits i) (subElem f b.bits i))), f, none, flNone, rng⟩
  else none

/-- VABS (`neg` false) and VNEG in one lane (R152). -/
def laneSign (neg : Bool) (k : RoundCtx) (a : LaneReg) (rng : Word) : Option LaneOut :=
  let f := a.tag
  if f.isFloat then
    let s := 2 ^ (f.bits - 1)
    some ⟨joinElems f ((subElems f a.bits).map (fun c =>
      if (elemVal k f c).isNan then f.nanCode
      else
        let d := cleanCode k f c
        if neg then d ^^^ s else d % s)), f, none, flNone, rng⟩
  else if f.isInt then
    some (laneOut f k ((subElems f a.bits).map (fun c =>
      let i := signedOf f.bits c
      .round (Val.ofInt (if neg then -i else if i < 0 then -i else i)) flNone)) rng)
  else none

inductive FunOp where
  | rcp | rsq | sqrt | exp2 | log2 | tanh
  deriving DecidableEq, Repr

/-- The special operands of Table 7.5: the code delivered without RoundTo, and its flags. -/
def funSpecial (op : FunOp) (L : Layout) (v : Val) : Option (Nat × Flags) :=
  let inf := L.infCode
  let one := L.bias * 2 ^ L.mb
  match v with
  | .nan => some (L.nanCode, flNone)
  | .inf false => some (match op with
    | .rcp | .rsq => 0 | .sqrt | .exp2 | .log2 => inf false | .tanh => one, flNone)
  | .inf true => some (match op with
    | .rcp => (L.signBit true, flNone) | .exp2 => (0, flNone) | .tanh => (L.signBit true + one, flNone)
    | .rsq | .sqrt | .log2 => (L.nanCode, flInvalid))
  | .fin neg m _ _ =>
    if m = 0 then some (match op with
      | .rcp | .rsq => inf neg | .sqrt | .tanh => L.signBit neg | .exp2 => one | .log2 => inf true, flNone)
    else if neg then
      match op with
      | .rsq | .sqrt | .log2 => some (L.nanCode, flInvalid)
      | _ => none
    else none

/-- The true value of the function at a finite nonzero operand. -/
def funVal (op : FunOp) (neg : Bool) (m : Nat) (e : Int) : Val :=
  match op with
  | .rcp => recipVal neg m e
  | .rsq => rsqrtVal m e
  | .sqrt => sqrtVal m e
  | .exp2 => exp2Val neg m e
  | .log2 => log2Val m e
  | .tanh => tanhVal neg m e

/-- The function instructions in one lane (R153). -/
def laneFun (op : FunOp) (k : RoundCtx) (a : LaneReg) (rng : Word) : Option LaneOut :=
  match a.tag.isFloat, a.tag.layout with
  | true, some L =>
    some (laneOut a.tag k ((subElems a.tag a.bits).map (fun c =>
      let v := elemVal k a.tag c
      match funSpecial op L v with
      | some (c', fl) => .code c' fl
      | none => match v with
        | .fin n m e _ => .round (funVal op n m e) flNone
        | w => .round w flNone)) rng)
  | _, _ => none

/-- Result format of VDOT (R154). -/
def dotResult (f : Fmt) : Option Fmt :=
  match f with
  | .i8 | .i16 => some .i32
  | .fp16 | .bf16 | .e4m3 | .e5m2 | .mxe4m3 | .mxe5m2 | .mxi8 => some .fp32
  | _ => none

/-- A register's element value with its scale where the tag uses one (R37). -/
def scaledVal (k : RoundCtx) (r : LaneReg) (i : Nat) : Val :=
  let v := elemVal k r.tag (subElem r.tag r.bits i)
  if r.tag.isMx then applyScale r.scale v else v

/-- The exact products of corresponding elements, and their flags. -/
def products : List (Val × Val) → List Val × Flags
  | [] => ([], flNone)
  | (x, y) :: t =>
    let p := x.mul y
    let r := products t
    (p.1 :: r.1, p.2 ||| r.2)

/-- VDOT in one lane (R154). -/
def laneDot (k : RoundCtx) (a b c : LaneReg) (rng : Word) : Option LaneOut :=
  match dotResult a.tag with
  | none => none
  | some g =>
    if b.tag = a.tag ∧ c.tag = g then
      let m := a.tag.count / 2
      some (laneOut g k ([0, 1].map (fun h =>
        let xs := (List.range m).map (fun i => (scaledVal k a (h * m + i), scaledVal k b (h * m + i)))
        let z := elemVal k g (subElem g c.bits h)
        if z.isNan || xs.any (fun p => p.1.isNan || p.2.isNan) then .code g.nanCode flNone
        else
          let p := products xs
          let s := sumVals (z :: p.1) k.mode
          .ofVal g (s.1, p.2 ||| s.2))) rng)
    else none

/-- A condition code on a comparison (R155). -/
def Cmp.holds (cc : Cmp) (o : Option Ordering) : Bool :=
  match o with
  | none => cc = .ne || cc = .uo
  | some o => match cc with
    | .eq => o = .eq | .ne => o ≠ .eq | .lt => o = .lt | .le => o ≠ .gt
    | .gt => o = .gt | .ge => o ≠ .lt | .uo => false

/-- VCMP in one lane (R155). -/
def laneCmp (cc : Cmp) (any : Bool) (k : RoundCtx) (a b : LaneReg) : Option Bool :=
  let f := a.tag
  if arithFmt f && decide (b.tag = f) then
    let rs := (List.range f.count).map (fun i =>
      cc.holds ((elemVal k f (subElem f a.bits i)).cmp (elemVal k f (subElem f b.bits i))))
    some (if any then rs.any id else rs.all id)
  else none

inductive ShiftOp where
  | shl | shr | sar
  deriving DecidableEq, Repr

/-- VSHL, VSHR, VSAR in one lane (R157). -/
def laneShift (op : ShiftOp) (k : RoundCtx) (a b : LaneReg) (rng : Word) : Option LaneOut :=
  let f := a.tag
  if (f.isInt || decide (f = .raw)) && decide (b.tag = f) then
    let w := f.bits
    some (laneOut f k ((List.range f.count).map (fun i =>
      let c := subElem f a.bits i
      let s := subElem f b.bits i % w
      match op with
      | .shl => if f = .raw ∨ k.sat = false then .code ((c * 2 ^ s) % 2 ^ w) flNone
                else .round (Val.ofInt (intOf w k.un c * (2 ^ s : Nat))) flNone
      | .shr => .code (c / 2 ^ s) flNone
      | .sar => .code (wrapInt w (signedOf w c / ((2 ^ s : Nat) : Int))) flNone)) rng)
  else none

/-- The immediate of a class 10 lane instruction in a lane whose A tag is `t` (R72, R149). -/
def laneImm (t : Fmt) (i : BitVec 31) : LaneReg :=
  let c := if arithFmt t || t.isNarrow then (roundTo t (Val.ofInt i.toInt) .rne false false false 0#64).code
    else wrapInt t.bits i.toInt
  ⟨splatElems t c, t, 0x7F#8⟩

/-- The literal of a class 11 lane instruction (R74). -/
def laneLit (t : Fmt) (w : Word) : LaneReg := ⟨w, t, 0x7F#8⟩

/-- The lane number as a lane source (R146). -/
def laneNumber (l : Nat) : LaneReg := ⟨BitVec.ofNat 64 l, .i64, 0x7F#8⟩

/-! ### Conversions -/

/-- The source formats of the conversions (Table 7.1). -/
def convFmt (f : Fmt) : Bool := !(decide (f = .raw) || decide (f = .pl16))

/-- A NaN reaches the format as its canonical NaN without a flag (R164). -/
def hasNan (g : Fmt) : Bool := g.layout.isSome && decide (g ≠ .mxe2m1)

/-- One converted element: the source value, already scaled, brought to `g` under D's scale `sd` (R164); 0xFF there counts as the
exponent 128 (log entry 45). -/
def convElem (g : Fmt) (sd : BitVec 8) (v : Val) : ElemRes :=
  if v.isNan && hasNan g then .code g.nanCode flNone
  else .round (if g.isMx then v.scale (127 - (sd.toNat : Int)) else v) flNone

/-- VCVT in one lane (R165); `sd` is the scale D holds there before the write. -/
def laneCvt (g : Fmt) (k : RoundCtx) (a : LaneReg) (sd : BitVec 8) (rng : Word) : Option LaneOut :=
  let n := a.tag.count
  if convFmt a.tag && decide (n ≤ g.count) then
    some (laneOut g k ((List.range g.count).map (fun i =>
      if i < n then convElem g sd (scaledVal k a i) else .code 0 flNone)) rng)
  else none

/-- VPACK in one lane (R165). -/
def lanePack (g : Fmt) (k : RoundCtx) (a b : LaneReg) (sd : BitVec 8) (rng : Word) : Option LaneOut :=
  let n := a.tag.count
  if convFmt a.tag && decide (g.count = 2 * n) && decide (b.tag = a.tag) then
    some (laneOut g k ((List.range g.count).map (fun i =>
      convElem g sd (if i < n then scaledVal k a i else scaledVal k b (i - n)))) rng)
  else none

/-- VUNPK in one lane (R165). -/
def laneUnpk (g : Fmt) (part : Nat) (k : RoundCtx) (a : LaneReg) (sd : BitVec 8) (rng : Word) : Option LaneOut :=
  let n := a.tag.count
  let m := g.count
  if convFmt a.tag && decide (m < n) && decide (part * m < n) then
    some (laneOut g k ((List.range m).map (fun i => convElem g sd (scaledVal k a (part * m + i)))) rng)
  else none

/-- VSCL of one scale: set, or raised and clamped (R167). -/
def sclScale (add : Bool) (b : Word) (old : BitVec 8) : BitVec 8 × Flags :=
  if add then
    if old = 0xFF#8 then (old, flNone)
    else
      let s : Int := (old.toNat : Int) + b.toInt
      if s < 0 then (0#8, flSat) else if 254 < s then (254#8, flSat) else (BitVec.ofNat 8 s.toNat, flNone)
  else (b.setWidth 8, flNone)

/-- VQUANT in one lane: the eight FP32 elements of the four sources, the old bits of D, the scale code and the word
number (R168). -/
def laneQuant (fpmode : Word) (as : List LaneReg) (old : Word) (c : BitVec 8) (word : Nat) (rng : Word) : Option LaneOut :=
  if as.all (fun r => r.tag = .fp32) then
    let xs := as.flatMap (fun r => (subElems .fp32 r.bits).map (fun e => Fmt.fp32.value false (flushOf fpmode .fp32) e))
    let q := if c = 0xFF#8 then (0, flInvalid) else quantPL16 (xs.map (fun v => v.scale (127 - (c.toNat : Int))))
    let ws := (subElems .pl16 old).zipIdx.map (fun p => if p.2 = word then q.1 else p.1)
    some ⟨joinElems .pl16 ws, .pl16, some c, q.2, rng⟩
  else none

/-- VDEQ in one lane: the results of the consecutive destinations, in order (R169). An exponent beyond 4096 in magnitude takes
every element below the smallest or above the largest number of every format, as 4096 does: the result and its flags are the same. -/
def laneDeq (g : Fmt) (k : RoundCtx) (a : LaneReg) (b : Word) (word : Nat) (rng : Word) :
    Option (List Word × Flags × Word) :=
  if a.tag = .pl16 then
    let es := (decodePL16 (subElem .pl16 a.bits word) a.scale).map (fun v =>
      if v.isNan then .code g.nanCode flNone else .round (v.scale (max (-4096) (min b.toInt 4096))) flNone)
    let (cs, fl, rng') := settle g k es flNone rng
    let n := g.count
    some ((List.range (8 / n)).map (fun q => joinElems g ((cs.drop (q * n)).take n)), fl, rng')
  else none

/-! ### Across lanes -/

/-- The element values a reduction reads from one lane. -/
def redVals (k : RoundCtx) (f : Fmt) (r : LaneReg) : List Val := (subElems f r.bits).map (elemVal k f)

/-- The lane formats a reduction accepts for its operation (R158). -/
def redFmt (op : RedOp) (f : Fmt) : Bool :=
  match op with
  | .add | .min | .max => arithFmt f
  | .and | .or | .xor => f.isInt

/-- The bit operations over codes. -/
def redBits (op : RedOp) (w : Nat) (cs : List Nat) : Nat :=
  match op with
  | .and => cs.foldl (· &&& ·) (2 ^ w - 1)
  | .or => cs.foldl (· ||| ·) 0
  | _ => cs.foldl (· ^^^ ·) 0

/-- The least or greatest of a list of codes; a NaN gives the canonical NaN. -/
def redMinMax (k : RoundCtx) (f : Fmt) (max : Bool) : List Nat → Nat
  | [] => 0
  | [c] => if (elemVal k f c).isNan then f.nanCode else cleanCode k f c
  | c :: d :: t => minMaxCode k f max c (redMinMax k f max (d :: t))

/-- VRED over the element codes of the active lanes, all of format `f` (R158). -/
def redResult (op : RedOp) (k : RoundCtx) (f : Fmt) (cs : List Nat) (rng : Word) : Word × Flags :=
  match op with
  | .add =>
    let vs := cs.map (elemVal k f)
    if f.isFloat then
      if vs.any Val.isNan then (BitVec.ofNat 64 f.nanCode, flNone)
      else
        let mode := if k.mode = .sr then .rne else k.mode
        let s := sumVals vs mode
        match s.1 with
        | .nan => (BitVec.ofNat 64 f.nanCode, s.2)
        | v =>
          let r := roundTo f v mode k.sat false (flushOf k.fpmode f) rng
          (BitVec.ofNat 64 r.code, s.2 ||| r.fl)
    else
      let r := roundTo .i64 (sumVals vs .rne).1 .rne k.sat k.un false rng
      (BitVec.ofNat 64 r.code, r.fl)
  | .min | .max =>
    let c := redMinMax k f (decide (op = .max)) cs
    (if f.isInt then BitVec.ofInt 64 (intOf f.bits k.un c) else BitVec.ofNat 64 c, flNone)
  | .and | .or | .xor => (BitVec.ofNat 64 (redBits op f.bits cs), flNone)

/-- The identity of an operation, what an exclusive scan gives its lowest active lane (R159). -/
def scanIdentity (op : RedOp) (f : Fmt) (un : Bool) : Nat :=
  match op with
  | .add | .or | .xor => 0
  | .and => 2 ^ f.bits - 1
  | .min => match f.layout with
    | some L => L.infCode false
    | none => if un then 2 ^ f.bits - 1 else 2 ^ (f.bits - 1) - 1
  | .max => match f.layout with
    | some L => L.infCode true
    | none => if un then 0 else 2 ^ (f.bits - 1)

/-- One prefix result of VSCAN over the codes before it, in lane order (R159). -/
def scanElem (op : RedOp) (k : RoundCtx) (f : Fmt) (cs : List Nat) : ElemRes :=
  if cs = [] then .code (scanIdentity op f k.un) flNone
  else match op with
    | .add =>
      let vs := cs.map (elemVal k f)
      if vs.any Val.isNan then .code f.nanCode flNone else .ofVal f (sumVals vs k.mode)
    | .min | .max => .code (redMinMax k f (decide (op = .max)) cs) flNone
    | .and | .or | .xor => .code (redBits op f.bits cs) flNone

/-- VSCAN in the lane whose prefix registers are `rs` (R159). -/
def laneScan (op : RedOp) (k : RoundCtx) (f : Fmt) (rs : List LaneReg) (rng : Word) : LaneOut :=
  let k' := if f.isInt && decide (op = .add) then { k with mode := .rne } else k
  laneOut f k' ((List.range f.count).map (fun i => scanElem op k' f (rs.map (fun r => subElem f r.bits i)))) rng

end Sys2Proof
end

