-- ==== Sys2Proof/Config.lean ====
section
/-!
DEFINITION. What the spec leaves open as a value: free values, opaque constants that no proof can evaluate.
-/
namespace Sys2Proof.Config

/-- A byte of HBM after a power-on (spec/17 R409: undefined) or of the eclipse area after a suspend (spec/17 R406: the
image of the on-die state, encrypted under a key no master can read, in a layout the spec does not give). The first
argument is the draw, the second the HBM address (log entry 12). -/
opaque freeByte : Nat → Nat → BitVec 8

/-- The byte a granule that stops at an XLATE or DENIED error leaves: whether its new value landed (spec/10 R268: each
byte may hold its old value or its new one). Arguments: the draw and the byte's place (log entry 18). -/
opaque granuleLands : Nat → Nat → Bool

/-- Where block `i` of an all-reduce of `n` elements over `G` members begins, where G does not divide n: the spec states no
division (spec/13 R326). Arguments: n, G, i (log entry 31). -/
opaque collSplit : Nat → Nat → Nat → Nat

/-- The Prardat port by which a collective's flits reach a member, by the member's address (spec/13 R333; log entry 31). -/
opaque memberPort : Nat → Nat

/-- Which of a full set's lines a halo cache evicts, and which of a full instruction cache's words goes (spec/09 R211, R214:
no replacement rule). Arguments: the candidates and a draw; the answer counts modulo their number (log entry 11). -/
opaque victim : List Nat → Nat → Nat

end Sys2Proof.Config
end

