-- ==== Sys2Proof/Machine/Tab.lean ====
section
/-!
DEFINITION. Sparse tables as plain data: a list of (key, value) pairs with strictly rising keys in which no entry
equals the table's default, what an unlisted key reads as. Memory and every register file and table of the device
that is mostly at one value is held so; equal tables are equal lists.
-/
namespace Sys2Proof

/-- A table from numbers to `α`; the default is the caller's. -/
abbrev Tab (α : Type) := List (Nat × α)

/-- The value at key `k`, `d` where none is listed. -/
def Tab.get {α : Type} (d : α) : List (Nat × α) → Nat → α
  | [], _ => d
  | (j, v) :: t, k => if j = k then v else Tab.get d t k

/-- The listed value at key `k`. -/
def Tab.find {α : Type} : List (Nat × α) → Nat → Option α
  | [], _ => none
  | (j, v) :: t, k => if j = k then some v else Tab.find t k

/-- The table without key `k`. -/
def Tab.erase {α : Type} : List (Nat × α) → Nat → List (Nat × α)
  | [], _ => []
  | (j, v) :: t, k => if j = k then Tab.erase t k else (j, v) :: Tab.erase t k

/-- The table with `v` at key `k`, keys kept rising. -/
def Tab.insert {α : Type} : List (Nat × α) → Nat → α → List (Nat × α)
  | [], k, v => [(k, v)]
  | (j, w) :: t, k, v =>
    if k < j then (k, v) :: (j, w) :: t
    else if j = k then (k, v) :: t
    else (j, w) :: Tab.insert t k v

/-- A write: the default removes the entry, any other value replaces it. -/
def Tab.set {α : Type} [DecidableEq α] (d : α) (t : List (Nat × α)) (k : Nat) (v : α) : List (Nat × α) :=
  if v = d then Tab.erase t k else Tab.insert t k v

/-- Keys strictly rise, all above `lo` where there is one, and no entry equals the default. -/
def Tab.wfFrom {α : Type} [DecidableEq α] (d : α) (lo : Option Nat) : List (Nat × α) → Bool
  | [] => true
  | (j, v) :: t => (match lo with | none => true | some l => decide (l < j)) && decide (v ≠ d) && Tab.wfFrom d (some j) t

/-- The canonical form. -/
def Tab.wf {α : Type} [DecidableEq α] (d : α) (t : List (Nat × α)) : Bool := Tab.wfFrom d none t

/-- Several writes, in order. -/
def Tab.setAll {α : Type} [DecidableEq α] (d : α) (t : List (Nat × α)) : List (Nat × α) → List (Nat × α)
  | [] => t
  | (k, v) :: r => Tab.setAll d (Tab.set d t k v) r

/-- The table of a list of writes onto an empty table. -/
def Tab.ofList {α : Type} [DecidableEq α] (d : α) (l : List (Nat × α)) : List (Nat × α) := Tab.setAll d [] l

/-- The entries whose keys satisfy `p`. -/
def Tab.keep {α : Type} (p : Nat → Bool) (t : List (Nat × α)) : List (Nat × α) := t.filter (fun kv => p kv.1)

end Sys2Proof
end

