-- ==== Sys2Proof/Machine/State.lean ====
section
/-!
DEFINITION. The state of the Quinlis Q9 as plain data: everything the spec gives the machine, in tables whose unlisted
keys read as the reset value; the reasons a step can stop; and the state after reset (spec/17 R410).
-/
namespace Sys2Proof.Machine

/-! ### Registers of a cell and ports -/

/-- A stationary register in one cell (Table 8.1). -/
structure WReg where
  data   : BitVec 512
  mdata  : BitVec 128
  sparse : Bool
  tag    : Fmt
  scales : BitVec 64
  deriving DecidableEq, Repr

/-- Table 8.1's reset values. -/
def WReg.zero : WReg := ⟨0#512, 0#128, false, .raw, 0x7F7F7F7F7F7F7F7F#64⟩

/-- The body of a port value: one entry per lane; an unlisted lane holds the body of an inactive lane (R179). -/
inductive PortBody where
  | v (t : List (Nat × LaneReg))
  | acc (t : List (Nat × BitVec 384))
  | w (t : List (Nat × WReg))
  deriving DecidableEq, Repr

/-- A port value (Table 8.3); `bad` when an uncorrectable error marks it (R386). -/
structure PortVal where
  rel  : Bool
  body : PortBody
  bad  : Bool
  deriving DecidableEq, Repr

/-- A value written to a south port, in flight or arrived at the reader (R15, R16). -/
structure PortEntry where
  val     : PortVal
  arrived : Bool
  deriving DecidableEq, Repr

/-- A port entry reserved at issue (R15, R184): the load or atomic whose value it awaits, if any, the steps before its value is
written, and that value. Entries are taken in the order of issue (R16, R201; log entry 52). -/
structure Reserved where
  await : Option Nat
  left  : Int
  val   : PortVal
  deriving DecidableEq, Repr

/-! ### Waiting -/

/-- What an access does, for translation (Table 13.8). -/
inductive AccKind where
  | read | write | fetch
  deriving DecidableEq, Repr

/-- A fixed-latency result on its way (R19, R123, R184): the operand code of the register it changes, the steps before a
dependent word may issue, and whether it is a tensor step's accumulator, which a later tensor step reads by forwarding. -/
structure Busy where
  code : Nat
  left : Nat
  fwd  : Bool
  deriving DecidableEq, Repr

/-- Why a row slot issues nothing (each instruction's own entry). `walk` waits for the translations of the pages of the
addresses listed (R220); `parked` waits on a translation fault (R221). -/
inductive Wait where
  | none
  | walk (vas : List Word) (acc : AccKind)
  | parked (va : Word) (acc : AccKind)
  | waitc (dst : Nat) (cond : Desc) (deadline : Option Nat)
  | yield (mask : BitVec 32)
  | sgrow (dst : Nat) (chunks : Nat) (kind : ChunkKind)
  | sfree (dst : Nat) (chunks : Nat)
  | recdone
  | deq (dst : Nat)
  | jinit
  | jdec
  | enqT
  | atomic
  | barrier (id : Nat)
  | copyQ
  | collQ (engine : Nat)
  | pflush
  | wldSparse
  | reply
  deriving DecidableEq, Repr

/-! ### Row slots -/

/-- A row slot (spec/05, spec/07, spec/08, spec/16). Register tables read 0 (or the launch value) where unlisted; a set
bit of an `Empty` mask says the register is empty, of a `Pend` mask that a long-latency write is pending (R104-R108).
`blocked` holds the registers the slot's next word was last found waiting for (R226). `high` holds bits 63 to 57 of the
address the slot fetches next, which no PC has (R104): a fetch there faults (R218). `late` lists the registers that the word
the slot waits in takes together with its results (R70), and `selected` marks a word that has taken the row's issue and
waits for its translations or has them (R19). `heldDst` is the destination of an LDS, ATOMS or LDD that is parked on a
translation fault, and `refills` marks a restored slot whose word was parked and fills its register at the replay (R120).
`busy` is the slot's part of the row's scoreboard (R19). -/
structure Slot where
  band       : Option Nat
  x          : List (Nat × Word)
  d          : List (Nat × Desc)
  p          : List (Nat × Mask)
  v          : List (Nat × LaneReg)
  w          : List (Nat × WReg)
  a          : List (Nat × BitVec 384)
  xEmpty     : BitVec 32
  dEmpty     : BitVec 8
  vEmpty     : BitVec 64
  wEmpty     : BitVec 4
  aEmpty     : BitVec 4
  xPend      : BitVec 32
  dPend      : BitVec 8
  vPend      : BitVec 64
  wPend      : BitVec 4
  pc         : Word
  high       : BitVec 7
  npc        : Word
  fpmode     : Word
  lanestat   : Word
  trapcause  : Word
  trappc     : Word
  trapinfo   : Word
  tvec       : Word
  nest       : List (Nat × BitVec 6)
  rng        : List (Nat × Word)
  handler    : Bool
  asyncfault : Bool
  deferred   : Option (Cause × Word)
  exited     : Bool
  exitPc     : Word
  policyPark : Bool
  replay     : Bool
  wait       : Wait
  owed       : BitVec 16
  lastPhase  : List (Nat × BitVec 16)
  south      : List PortEntry
  reserved   : List Reserved
  lastTaken  : Option PortVal
  lastIssue  : Nat
  softErr    : List (BitVec 7)
  blocked    : List Nat
  late       : List Nat
  selected   : Bool
  heldDst    : Option Nat
  refills    : Bool
  busy       : List Busy
  deriving DecidableEq, Repr

/-- A row slot without a row context (R110). -/
def Slot.empty : Slot :=
  { band := none, x := [], d := [], p := [], v := [], w := [], a := [], xEmpty := 0, dEmpty := 0, vEmpty := 0,
    wEmpty := 0, aEmpty := 0, xPend := 0, dPend := 0, vPend := 0, wPend := 0, pc := 0, high := 0, npc := 0, fpmode := 0,
    lanestat := 0, trapcause := 0, trappc := 0, trapinfo := 0, tvec := 0, nest := [], rng := [], handler := false,
    asyncfault := false, deferred := none, exited := false, exitPc := 0, policyPark := false, replay := false,
    wait := .none, owed := 0, lastPhase := [], south := [], reserved := [], lastTaken := none, lastIssue := 0,
    softErr := [], blocked := [], late := [], selected := false, heldDst := none, refills := false, busy := [] }

/-! ### Records and bands -/

/-- Where a record lies and what it holds (R295, R297): an entry of its die's record area or a slot of the spill
ring, the region charged, and its arena block (owner region, offset, log2 size). Its 32 bytes lie in memory. -/
structure RecRef where
  die    : Nat
  spill  : Bool
  idx    : Nat
  seq    : Nat
  charge : Option Nat
  len    : Nat
  block  : Option (Nat × Nat × Nat)
  deriving DecidableEq, Repr

/-- A copy stream bound to an edge (R197, R198): the descriptor, the kind, the binding slot, the number its earlier
accesses lie below, the values read from the stream (zenith), the values passed at the edge, and whether it holds its
queue entry. -/
structure Binding where
  desc   : Desc
  kind   : PortKind
  slot   : Nat
  since  : Nat
  moved  : Nat
  passed : Nat
  entry  : Bool
  deriving DecidableEq, Repr

/-- Value `p` of a stream in an edge: read and not taken, or accepted and not written. -/
structure StreamVal where
  desc  : Desc
  slot  : Nat
  since : Nat
  p     : Nat
  val   : PortVal
  deriving DecidableEq, Repr

/-- The zenith feed or nadir drain of a band (R197-R199, Table 5.6); `parked` on a translation fault. -/
structure Edge where
  cur      : Option Binding
  queued   : Option Binding
  position : BitVec 32
  buf      : List StreamVal
  parked   : Bool
  deriving DecidableEq, Repr

def Edge.empty : Edge := ⟨none, none, 0#32, [], false⟩

/-- A named barrier (R373). -/
structure Barrier where
  phase    : BitVec 16
  expect   : Nat
  arrivals : Nat
  deriving DecidableEq, Repr

def Barrier.idle : Barrier := ⟨0#16, 0, 0⟩

/-- What a band is doing (spec/12, spec/16, spec/17). -/
inductive BandStatus where
  | placed | running | stopping | saving | killing | frozen
  deriving DecidableEq, Repr

/-- The report of a kill (R391-R393). -/
structure KillInfo where
  post  : Bool
  cause : Cause
  pc    : Word
  info  : Word
  row   : Nat
  slot  : Nat
  more  : Nat
  deriving DecidableEq, Repr

/-- A band (spec/12). `row0` is the global row number of band row 0. -/
structure Band where
  node       : Nat
  region     : Nat
  asid       : Nat
  slotAB     : Nat
  row0       : Nat
  height     : Nat
  linked     : Bool
  vregs      : Nat
  wregs      : Nat
  aregs      : Nat
  dregs      : Nat
  entry      : Word
  arg        : Word
  psize      : Nat
  batch      : Nat
  chunk0     : Nat
  chunks     : Nat
  winChunk   : Nat
  winChunks  : Nat
  reccount   : Nat
  stride     : Nat
  depth      : Nat
  windowHeld : Bool
  records    : List RecRef
  status     : BandStatus
  due        : Bool
  suspend    : Bool
  victimOf   : Option Nat
  kill       : Option KillInfo
  zen        : Edge
  nad        : Edge
  barriers   : List (Nat × Barrier)
  deriving DecidableEq, Repr

/-- A saved band awaiting restore (R397): its image's virtual address and block, when its save completed, what its region
still holds, the entries of the image's copy section with the numbers their commands had and whether those have met poison, and
for each band row the bits that its next fetch address has above any PC (R104). -/
structure Restore where
  seq     : Nat
  band    : Band
  image   : Word
  block   : Nat × Nat × Nat
  saved   : Word
  step    : Nat
  how     : Nat
  marks   : List (Nat × Nat × Bool)
  highs   : List (Nat × BitVec 7)
  deriving DecidableEq, Repr

/-! ### Outstanding accesses -/

/-- One request of an access: its number, the lanes it serves, the address as issued, the physical location after
translation, the key slot, the bytes or operands it carries, whether its page is migrating; for a request of a RED, whether
it is parked on a translation fault and the fault it met at issue (R251). -/
structure Req where
  k    : Nat
  lanes : List Nat
  va   : Word
  loc  : Nat
  key  : Nat
  len  : Nat
  data : List Byte
  ops  : List Word
  news : List Word
  mig  : Bool
  parked : Bool
  bad  : Option Cause
  deriving DecidableEq, Repr

/-- What an outstanding access does on completion. -/
inductive PendOp where
  | loadV (d : Nat) (fmt : Fmt) (scale : List (Nat × BitVec 8)) (dram : Bool)
  | loadX (d : Nat) (sx : Bool) (width : Width)
  | store
  | atomV (d : Nat) (op : AtomOp) (f un : Bool) (wide : Bool) (cas : Bool)
  | atomX (d : Nat) (op : AtomOp) (f un : Bool) (wide : Bool)
  | red (op : AtomOp) (f un : Bool) (wide : Bool) (opbits : BitVec 6)
  | wld (d : Nat) (fmt : Option Fmt) (kind : WKind) (lanes : Mask)
  | xbld (field k : Nat)
  | ldd (d : Nat)
  deriving DecidableEq, Repr

/-- An access issued and not yet performed (R242, R275). `path` is the bit of Table 11.3; `gather` marks a read of the
GATHER path, `urgent` its mark (R226); `granted` once its grant phase has passed (R240); `old` collects an atomic's old
values by lane. `order` is its place in the order of issue, the number of its replay for a RED that was parked (R234, R286). A
v destination of 64 is the south port. `marks` lists the marks that later accesses of its slot have set on it: a mark's number
and the scope at which the access counts as performed, so that conflicting accesses within that scope come behind it (R275,
R282). -/
structure Pend where
  id     : Nat
  order  : Nat
  slot   : Nat
  band   : Nat
  path   : Nat
  scope  : Scope
  rel    : Bool
  acq    : Bool
  op     : PendOp
  mask   : Mask
  reqs   : List Req
  urgent : Bool
  old    : List (Nat × Word)
  pc     : Word
  granted : Bool
  marks  : List (Nat × Scope)
  deriving DecidableEq, Repr

/-! ### Messages to home dies, held work -/

/-- What a message asks of a home die (spec/12, spec/15). -/
inductive MsgOp where
  | enq (node : Word) (payload : List Byte) (len depth : Nat) (d : Nat) (t b : Bool) (timeout : Option Nat)
  | qflush (node : Word)
  | qstat (node : Word) (d : Nat)
  | deq (max : Nat) (d : Nat)
  | jinit (ctr : Nat) (template : List Byte) (depth : Nat)
  | jdec (ctr : Nat) (d : Nat)
  | jread (ctr : Nat) (d : Nat)
  deriving DecidableEq, Repr

/-- A message on its way to a home die, or an ENQB held there with its arrival TIME and last status (R301); `due` once a
release has it retried. -/
structure Msg where
  id     : Nat
  slot   : Nat
  band   : Nat
  die    : Nat
  op     : MsgOp
  region : Nat
  since  : Word
  status : Nat
  due    : Bool
  deriving DecidableEq, Repr

/-- A join-counter or fault record waiting for an entry at a die (R368, R392): the record and the JDEC message that
waits for it. -/
structure HeldRec where
  node    : Nat
  origin  : Nat
  depth   : Nat
  payload : List Byte
  die     : Nat
  jdec    : Option Msg
  ctrDie  : Nat
  deriving DecidableEq, Repr

/-! ### Fault buffers -/

/-- An agent joined to a fault-buffer entry or waiting for one (R221). -/
inductive Agent where
  | slot (k : Nat)
  | copy (id : Nat)
  | stream (band : Nat) (nad : Bool)
  | red (id k : Nat)
  | coll (id : Nat)
  deriving DecidableEq, Repr

/-- A fault-buffer entry (Table 13.8) with its joiners. -/
structure FbEntry where
  va      : Word
  asid    : Nat
  kind    : AccKind
  reason  : Nat
  agent   : Nat
  joined  : Nat
  field   : Nat
  time    : Word
  joiners : List Agent
  deriving DecidableEq, Repr

/-- An agent parked without an entry because its die's buffer is full (R221). -/
structure FbWaiter where
  die   : Nat
  agent : Agent
  va    : Word
  asid  : Nat
  kind  : AccKind
  reason : Nat
  field : Nat
  deriving DecidableEq, Repr

/-! ### Copy commands, collectives, links -/

inductive CopyKind where
  | copy | copyef | copys
  deriving DecidableEq, Repr

/-- Where a copy command stands (R320, R321). -/
inductive CopyPhase where
  | queued | running (engine : Nat) | parked | resolved
  deriving DecidableEq, Repr

/-- A copy command (R263-R270). `cancel` once it is to stop at its next granule boundary, `err` the status of an
error met, `arr` the destination bytes counted so far (R268). -/
structure CopyCmd where
  id       : Nat
  field    : Nat
  slot     : Nat
  band     : Nat
  kind     : CopyKind
  dst      : Nat
  a        : Desc
  b        : Desc
  c        : Desc
  ctrl     : Word
  count    : Nat
  phase    : CopyPhase
  granules : Nat
  flags    : BitVec 6
  arr      : Nat
  cancel   : Bool
  poison   : Bool
  err      : Option Nat
  deriving DecidableEq, Repr

/-- A collective operation that holds an entry of its engine's queue (R322-R329); `sendPos` and `recvPos`
are the byte positions of the send and the receive within the step, `got` the bytes received and not written (R329); `stopAt`
is the agreed last step of R405. -/
structure CollOp where
  id      : Nat
  slot    : Nat
  band    : Nat
  dst     : Nat
  desc    : Desc
  inst    : BitVec 32
  engine  : Nat
  started : Bool
  steps   : Nat
  total   : Nat
  flags   : BitVec 6
  err     : Option Nat
  parked  : Bool
  sendPos : Nat
  recvPos : Nat
  got     : List Byte
  stopAt  : Option Nat
  deriving DecidableEq, Repr

/-- A Prardat port (R330-R333): state, transmit number, replay buffer, next of it to resend, expected number, last ack
received, times of recent CRC errors, whether they have made a repair due (R332), whether a gap has been NAKed, and the last ack
it has sent. -/
structure Link where
  up       : Bool
  lanes    : Nat
  training : Bool
  txSeq    : BitVec 16
  replay   : List (BitVec 16 × BitVec 8 × List Byte)
  resend   : List (BitVec 16)
  expect   : BitVec 16
  crcTimes : List Word
  repair   : Bool
  naked    : Bool
  nakDue   : Bool
  told     : BitVec 16
  deriving DecidableEq, Repr

/-- Trained on 8 lanes, empty (Table 17.3). -/
def Link.reset : Link := ⟨true, 8, false, 0, [], [], 0, [], false, false, false, 0xFFFF#16⟩

/-! ### HBM -/

/-- A halo-cache line held (R211, R231): dirty, and the key slot it was filled or last written under. -/
structure HaloLine where
  dirty : Bool
  slot  : Nat
  deriving DecidableEq, Repr

/-- A migration entry (Table 14.6) and its valid map. -/
structure Mig where
  raw     : BitVec 256
  retired : Bool
  lines   : List (Nat × Bool)
  deriving DecidableEq, Repr

def Mig.idle : Mig := ⟨0#256, false, []⟩

/-- A range of HBM whose unlisted bytes are the free value of a draw (log entry 12). -/
structure Fill where
  base : Nat
  len  : Nat
  draw : Nat
  deriving DecidableEq, Repr

/-- Memory: the listed bytes by flat physical location, and the ranges whose unlisted bytes are free values. Every
other unlisted location reads 0. -/
structure Mem where
  cells : List Host.Cell
  fills : List Fill
  deriving DecidableEq, Repr

/-- A translation held by a TLB (R219): the leaf entry and its level. -/
structure TlbLeaf where
  leaf  : Word
  level : Nat
  deriving DecidableEq, Repr

/-- An event counter and its selector (R377): its count, the count through the step before, the first step in which it counts, and
the slot of its last EVSEL (R378). -/
structure EvCounter where
  sel   : BitVec 16
  value : Word
  prev  : Word
  first : Nat
  by_   : Nat
  deriving DecidableEq, Repr

def EvCounter.zero : EvCounter := ⟨0#16, 0#64, 0#64, 0, 0⟩

/-- The three counters of a region's fault log (R339). -/
structure LogCount where
  written : Nat
  drained : Nat
  lost    : Nat
  deriving DecidableEq, Repr

def LogCount.zero : LogCount := ⟨0, 0, 0⟩

/-- Table 17.1's device state, and `off` once a loss of power in eclipse has lost the state (R407). `resuming` lasts until RESUME has its launches re-enabled
(R408). -/
inductive Power where
  | running | twilight | eclipse | resuming | off
  deriving DecidableEq, Repr

/-- What leaves the device: interrupts, answers to outside accesses, flits, collective sends (log entry 1). -/
inductive Out where
  | msix (vector : Nat)
  | readData (bytes : List Byte)
  | denied
  | poisoned
  | done
  | regData (v : Word)
  | flit (port : Nat) (seq ack : BitVec 16) (type : BitVec 8) (payload : List Byte) (crc : BitVec 64)
  | collSend (group : Nat) (inst : BitVec 32) (step rank : Nat) (data : List Byte)
  | collStop (group : Nat) (inst : BitVec 32) (step : Nat)
  | collAbort (group : Nat) (inst : BitVec 32)
  deriving DecidableEq, Repr

/-- What the agenda may name (log entry 1): a row to issue (its slot by R19), the end of a step, an event of the opcode table, a
TLB or instruction-cache entry dropped (R214, R219), a halo-cache line evicted (R211). -/
inductive Act where
  | row (r : Nat)
  | pass
  | event (i : Instr)
  | tlbDrop (unit asid page : Nat)
  | icDrop (field asid : Nat) (addr : Nat)
  | haloEvict (line : Nat)
  deriving DecidableEq, Repr

/-- What waits for a bank of HBM (R228): a request of an access, a copy command, a stream, a collective, a slot whose word has met
the bank, an act of the agenda that has. -/
inductive Waiter where
  | req (id k : Nat)
  | copy (id : Nat)
  | stream (band : Nat) (nad : Bool)
  | coll (id : Nat)
  | slot (k : Nat)
  | act (a : Act)
  deriving DecidableEq, Repr

/-- What eclipse keeps of the on-die state that a command or the host could change before RESUME restores it (R406). -/
structure Kept where
  pkgid      : BitVec 24
  thresh     : Nat
  asidRoot   : Option Nat
  conBase    : Option (Nat × Nat)
  acl        : List (Nat × BitVec 512)
  groups     : List (Nat × BitVec 256)
  members    : List (Nat × List (BitVec 32))
  nodes      : List (Nat × BitVec 512)
  nodeReq    : List (Nat × Option (Word × Nat))
  nodeFlush  : List (Nat × Bool)
  barred     : List (Nat × List Nat)
  regions    : List (Nat × BitVec 512)
  bands      : List (Nat × Option Band)
  slots      : List (Nat × Slot)
  migs       : List (Nat × Mig)
  patterns   : List (Nat × BitVec 512)
  evc        : List (Nat × EvCounter)
  spill      : List (Nat × (Nat × Nat))
  cmds       : List CopyCmd
  copyLine   : List Agent
  copyGrant  : List Nat
  colls      : List CollOp
  collLine   : List (Nat × Nat)
  collGrant  : List (Nat × Nat)
  links      : List (Nat × Link)
  subtail    : BitVec 9
  deriving DecidableEq, Repr

/-- The whole machine. `copyLine` holds the row slots and bindings that wait for a copy command queue entry, in arrival
order, `copyGrant` the slots that have received one and not issued yet (R320); `collLine` and `collGrant` do the same for
an engine's queue and a slot (R322). `unkeyed` marks lines of a background fill that no key slot has reached yet (log entry 75),
`killStep` the slots whose words may still trap in the step of their band's kill (R393; log entry 81), `waking` a device that has
resumed and whose frozen bands do not run yet (R408). `steps` counts the steps passed, `stepsIn` those since the last tick, and
`rowsDone` lists the rows that have had their issue in this step (R19). `nodeReq` holds the tick and the step in which a launch
request was raised (R311), `clash` the banks that the act in progress has reached while they are unavailable (R228; empty between
acts), `openRow` the row that the burst of a copy command holds open in a bank (R229), `eclipsed` what is
kept for RESUME (R406). -/
structure State where
  -- the model's own
  agenda     : List Act
  cur        : Nat
  issueClk   : Nat
  nextId     : Nat
  draws      : Nat
  outbox     : List Out
  killStep   : List Nat
  steps      : Nat
  stepsIn    : Nat
  rowsDone   : List Nat
  -- package
  time       : Word
  clkPhase   : Bool
  launchSeq  : Nat
  power      : Power
  yieldBy    : Option Nat
  eclipseAt  : Option Nat
  waking     : Bool
  eclipsed   : Option Kept
  pkgid      : BitVec 24
  thresh     : Nat
  asidRoot   : Option Nat
  conBase    : Option (Nat × Nat)
  acl        : List (Nat × BitVec 512)
  keys       : List (Nat × Option (BitVec 512))
  groups     : List (Nat × BitVec 256)
  members    : List (Nat × List (BitVec 32))
  -- nodes and regions
  nodes      : List (Nat × BitVec 512)
  queues     : List (Nat × List RecRef)
  nodeSeq    : List (Nat × BitVec 32)
  nodeReq    : List (Nat × Option (Word × Nat))
  nodeFlush  : List (Nat × Bool)
  barred     : List (Nat × List Nat)
  regions    : List (Nat × BitVec 512)
  blocks     : List (Nat × Nat × Nat)
  logs       : List (Nat × LogCount)
  -- bands and row slots
  bands      : List (Nat × Option Band)
  slots      : List (Nat × Slot)
  restores   : List Restore
  -- memories
  mem        : Mem
  poison     : List (Nat × Bool)
  halo       : List (Nat × Option HaloLine)
  lineKey    : List (Nat × BitVec 512)
  unkeyed    : List (Nat × Bool)
  chunkKind  : List (Nat × BitVec 2)
  tlb        : List (Nat × Option TlbLeaf)
  icache     : List (Nat × Option Word)
  -- quadrants
  acts       : List (Nat × Nat)
  alerts     : List Nat
  bankUntil  : List (Nat × Option Nat)
  backoff    : List (Nat × Waiter)
  clash      : List Nat
  refresh    : List (Nat × Nat)
  openRow    : List (Nat × Option (Nat × Nat))
  migs       : List (Nat × Mig)
  -- fields and dies
  patterns   : List (Nat × BitVec 512)
  arrival    : List (Nat × BitVec 48)
  evc        : List (Nat × EvCounter)
  spill      : List (Nat × (Nat × Nat))
  spilled    : List (Nat × List (Nat × Nat))
  recUsed    : List (Nat × Bool)
  ctrPoison  : List (Nat × Bool)
  -- outstanding work
  pend       : List Pend
  msgs       : List Msg
  heldEnq    : List Msg
  heldRec    : List HeldRec
  fb         : List (Nat × Option FbEntry)
  fbWait     : List FbWaiter
  cmds       : List CopyCmd
  copyLine   : List Agent
  copyGrant  : List Nat
  colls      : List CollOp
  collLine   : List (Nat × Nat)
  collGrant  : List (Nat × Nat)
  links      : List (Nat × Link)
  -- host
  subtail    : BitVec 9
  subhead    : BitVec 9
  mbCmd      : Option Word
  mbLost     : Bool
  mbResult   : BitVec 8
  mbData     : BitVec 512
  deriving DecidableEq, Repr

/-- The reasons the machine stops. -/
inductive Fault where
  /-- An instruction executed for a row slot that holds no row context: the spec gives such a slot no state to
  execute on (R110). Raised by every row instruction; safe: no row of the hardware issues there. -/
  | noRowContext
  deriving DecidableEq, Repr

/-- The reasons an instruction has no meaning. -/
inductive Refusal where
  /-- The instruction has no meaning in this model yet; raised by its arm in Dispatch.lean. Safe. -/
  | notModelled (mnemonic : String)
  deriving DecidableEq, Repr

/-- The machine right after reset (Table 17.3). -/
def State.reset : State :=
  { agenda := [], cur := 0, issueClk := 0, nextId := 0, draws := 0, outbox := [], killStep := [], steps := 0,
    stepsIn := 0, rowsDone := [],
    time := 0, clkPhase := false, launchSeq := 0, power := .running, yieldBy := none, eclipseAt := none, waking := false,
    eclipsed := none, pkgid := 0,
    thresh := 512, asidRoot := none, conBase := none, acl := [], keys := [], groups := [], members := [],
    nodes := [], queues := [], nodeSeq := [], nodeReq := [], nodeFlush := [], barred := [], regions := [],
    blocks := [], logs := [], bands := [], slots := [], restores := [],
    mem := ⟨[], []⟩, poison := [], halo := [], lineKey := [], unkeyed := [], chunkKind := [], tlb := [], icache := [],
    acts := [], alerts := [], bankUntil := [], backoff := [], clash := [], refresh := [], openRow := [], migs := [],
    patterns := [], arrival := [], evc := [], spill := [], spilled := [], recUsed := [], ctrPoison := [],
    pend := [], msgs := [], heldEnq := [], heldRec := [], fb := [], fbWait := [], cmds := [], copyLine := [],
    copyGrant := [], colls := [], collLine := [], collGrant := [], links := [],
    subtail := 0, subhead := 0, mbCmd := none, mbLost := false, mbResult := 0, mbData := 0 }

end Sys2Proof.Machine
end

