-- ==== Sys2Proof/Machine/Cell.lean ====
section
/-!
DEFINITION. What a tensor step and an accumulator instruction compute in one cell (spec/08 R175-R189, spec/02 R55, R56).
-/
namespace Sys2Proof.Machine

/-- Element `n` of an accumulator (R177). -/
def accElem (r : BitVec 384) (n : Nat) : Nat := (r.toNat / 2 ^ (48 * n)) % 2 ^ 48

/-- An accumulator from its eight elements. -/
def accOf (es : List Nat) : BitVec 384 := BitVec.ofNat 384 (es.foldr (fun e acc => acc * 2 ^ 48 + e % 2 ^ 48) 0)

def accVal (c : Nat) : Val := Fmt.acc48.value false false c

/-- The class of a tensor operand format (Table 8.6): element width and elements of A's register, or none. -/
def tensorClass (f : Fmt) : Option Nat :=
  match f with
  | .fp16 | .bf16 => some 16
  | .i8 | .e4m3 | .e5m2 | .mxe4m3 | .mxe5m2 | .mxi8 => some 8
  | .mxe2m1 => some 4
  | _ => none

/-- The full width K of a pair of formats (Table 8.6); none when the pair is not permitted. -/
def tensorWidth (f t : Fmt) (sparse : Bool) : Option Nat :=
  match tensorClass f with
  | none => none
  | some w =>
    if decide (tensorClass t = some w) || (t == .pl16 && w != 4 && !sparse) then
      (if sparse then (if w = 4 then none else some (128 / w)) else some (64 / w))
    else none

/-- The number of slices of a pair (Table 8.6). -/
def tensorSlices (f t : Fmt) : Nat := if t = .pl16 then (if tensorClass f = some 16 then 8 else 4) else 1

/-- The modifier of a step fits its pair (R181). -/
def tensorModOk (f t : Fmt) (sparse : Bool) (kw slice : Nat) : Bool :=
  match tensorWidth f t sparse with
  | some K => decide (kw ≤ K) && !(sparse && kw != 0) && decide (slice < tensorSlices f t)
  | none => true

/-- Element `k` of the A operand in a lane, with its register's scale (R182). -/
def tensorA (regs : List LaneReg) (k : Nat) : Val :=
  match regs with
  | [] => .nan
  | r :: t =>
    let n := r.tag.count
    let q := if k < n then r else t.headD r
    let v := q.tag.value false false (subElem q.tag q.bits (k % n))
    if q.tag.isMx then applyScale q.scale v else v

/-- Sub-element `i` of the weight data under a tag. -/
def weightElem (w : WReg) (i : Nat) : Nat := (w.data.toNat >>> (i * w.tag.bits)) % 2 ^ w.tag.bits

/-- The 4-bit metadata code of column `n` of group `g` (R176). -/
def metaCode (w : BitVec 128) (g n : Nat) : Nat := (w.toNat >>> (4 * (8 * g + n))) % 16

/-- A code names two positions in rising order. -/
def metaOk (c : Nat) : Bool := decide (c % 4 < c / 4)

/-- The weight of row `k`, column `n`, before its column scale (R175, R176). -/
def weightAt (w : WReg) (slice K k n : Nat) : Val :=
  if w.sparse then
    let g := k / 4
    let c := metaCode w.mdata g n
    let stored (j : Nat) := w.tag.value false false (weightElem w (8 * j + n))
    if k % 4 = c % 4 then stored (2 * g)
    else if k % 4 = c / 4 then stored (2 * g + 1)
    else .zero false
  else if w.tag = .pl16 then
    let word := (w.data.toNat >>> (16 * (slice * K + k))) % 2 ^ 16
    (decodePL16 word 0x7F#8).getD n .nan
  else w.tag.value false false (weightElem w (8 * k + n))

/-- Column scale `n` (Table 8.1). -/
def colScale (w : WReg) (n : Nat) : BitVec 8 := BitVec.ofNat 8 (w.scales.toNat / 256 ^ n)

/-- The weight with its column scale (R55). -/
def scaledWeight (w : WReg) (slice K k n : Nat) : Val :=
  if w.tag.usesScale then applyScale (colScale w n) (weightAt w slice K k n) else weightAt w slice K k n

/-- A column sum that holds both infinities is invalid, whatever else it holds (R55). -/
def infClash (ts : List Val) : Flags := if ts.contains (.inf false) && ts.contains (.inf true) then flInvalid else flNone

/-- One column of a tensor step (R182): the accumulator element and the flags. -/
def tensorColumn (regs : List LaneReg) (w : WReg) (kw K slice : Nat) (acc : Nat) (n : Nat) : Nat × Flags :=
  let rows := if kw = 0 then K else kw
  let p := products ((List.range rows).map (fun k => (tensorA regs k, scaledWeight w slice K k n)))
  let ts := accVal acc :: p.1
  let s := sumVals ts .rne
  let r := roundACC s.1
  (r.1, p.2 ||| infClash ts ||| s.2 ||| r.2)

/-- A tensor step in one lane. -/
def tensorCell (regs : List LaneReg) (w : WReg) (kw slice : Nat) (acc : BitVec 384) : BitVec 384 × Flags :=
  let f := (regs.headD LaneReg.zero).tag
  let K := (tensorWidth f w.tag w.sparse).getD 0
  let cols := (List.range 8).map (fun n => tensorColumn regs w kw K slice (accElem acc n) n)
  (accOf (cols.map Prod.fst), (cols.map Prod.snd).foldl (· ||| ·) flNone)

/-- A lane's operands form a pair of Table 8.6; `sparse` for MSTEPS (R181). -/
def tensorPairOk (sparse : Bool) (regs : List LaneReg) (w : WReg) : Bool :=
  match regs with
  | [] => false
  | r :: t => t.all (fun q => q.tag = r.tag) && (w.sparse == sparse) && (tensorWidth r.tag w.tag w.sparse).isSome

/-- ACCADD in one lane (R189). -/
def accAddCell (a b : BitVec 384) : BitVec 384 × Flags :=
  let cols := (List.range 8).map (fun n =>
    let s := sumVals [accVal (accElem a n), accVal (accElem b n)] .rne
    let r := roundACC s.1
    (r.1, s.2 ||| r.2))
  (accOf (cols.map Prod.fst), (cols.map Prod.snd).foldl (· ||| ·) flNone)

/-- The registers an accumulator's eight elements take in a tag (R188); none when ACCWR does not accept it. -/
def accRegs (f : Fmt) : Option Nat :=
  match f with
  | .fp32 | .i32 => some 4
  | .fp16 | .bf16 => some 2
  | .acc48 => some 8
  | _ => none

/-- ACCWR in one lane: the registers from A up, all of A's tag (R188). -/
def accWrCell (f : Fmt) (regs : List LaneReg) : BitVec 384 :=
  accOf ((List.range 8).map (fun n =>
    let r := regs.getD (n / f.count) LaneReg.zero
    (roundACC (f.value false false (subElem f r.bits (n % f.count)))).1))

/-- ACCRD in one lane (R187): the eight codes, flags and the RNG state; `post` holds the four post-scale registers, or
nothing. A lane whose post-scale is not FP32 fails. -/
def accRdCell (g : Fmt) (k : RoundCtx) (a : BitVec 384) (post : List LaneReg) (rng : Word) :
    Option (List Nat × Flags × Word) :=
  if post.all (fun r => r.tag = .fp32) then
    some (settle g k ((List.range 8).map (fun n =>
      let v := accVal (accElem a n)
      let p := match post[n / 2]? with
        | some r => Fmt.fp32.value false false (subElem .fp32 r.bits (n % 2))
        | none => Val.ofInt 1
      if v.isNan || p.isNan then .code g.nanCode flNone else .ofVal g (v.mul p))) flNone rng)
  else none

end Sys2Proof.Machine
end

