-- ==== Sys2Proof/Machine/Aes.lean ====
section
/-!
DEFINITION. AES-256 and the XTS mode over a 256-byte HBM line (spec/09 R230). The spec names the algorithm and gives the
data unit and the tweak; the cipher itself and its byte orders are those of the public standards (PRESUMED, log entry
13).
-/
namespace Sys2Proof

/-- Multiplication by x in the AES field. -/
def aesXtime (a : Nat) : Nat := if a < 128 then 2 * a else (2 * a) ^^^ 0x11B

/-- Multiplication in the AES field, bit by bit of `b` from bit `n - 1` down. -/
def aesMulFrom (a b : Nat) : Nat → Nat
  | 0 => 0
  | n + 1 =>
    let r := aesXtime (aesMulFrom a b n)
    if Nat.testBit b (7 - n) then r ^^^ a else r

def aesMul (a b : Nat) : Nat := aesMulFrom a b 8

/-- The multiplicative inverse, a^254. -/
def aesInv (a : Nat) : Nat :=
  let a2 := aesMul a a
  let a4 := aesMul a2 a2
  let a8 := aesMul a4 a4
  let a16 := aesMul a8 a8
  let a32 := aesMul a16 a16
  let a64 := aesMul a32 a32
  let a128 := aesMul a64 a64
  aesMul a128 (aesMul a64 (aesMul a32 (aesMul a16 (aesMul a8 (aesMul a4 a2)))))

def rotl8 (b k : Nat) : Nat := ((b <<< k) ||| (b >>> (8 - k))) % 256

/-- The forward S-box. -/
def aesSub (a : Nat) : Nat :=
  let b := aesInv a
  b ^^^ rotl8 b 1 ^^^ rotl8 b 2 ^^^ rotl8 b 3 ^^^ rotl8 b 4 ^^^ 0x63

/-- The inverse S-box. -/
def aesInvSub (a : Nat) : Nat := aesInv (rotl8 a 1 ^^^ rotl8 a 3 ^^^ rotl8 a 6 ^^^ 0x05)

/-- Exclusive or of two byte lists. -/
def xorBytes (a b : List Nat) : List Nat := List.zipWith (· ^^^ ·) a b

/-- The round constant of key-schedule word 8 * i. -/
def aesRcon : Nat → Nat
  | 0 => 1
  | n + 1 => aesXtime (aesRcon n)

/-- The AES-256 key schedule: words newest first, extended by `n` words from word `i`. -/
def aesExpand : Nat → Nat → List (List Nat) → List (List Nat)
  | 0, _, ws => ws
  | n + 1, i, ws =>
    let t := ws.headD []
    let t' := if i % 8 = 0 then
        xorBytes ((t.drop 1 ++ t.take 1).map aesSub) [aesRcon (i / 8 - 1), 0, 0, 0]
      else if i % 8 = 4 then t.map aesSub else t
    aesExpand n (i + 1) (xorBytes t' (ws.getD 7 []) :: ws)

/-- Cut a list into pieces of four. -/
def fours : Nat → List Nat → List (List Nat)
  | 0, _ => []
  | n + 1, l => l.take 4 :: fours n (l.drop 4)

/-- The 15 round keys of a 32-byte key, 16 bytes each. -/
def aesRoundKeys (key : List Nat) : List (List Nat) :=
  let ws := (aesExpand 52 8 (fours 8 key).reverse).reverse
  (List.range 15).map (fun r => ((ws.drop (4 * r)).take 4).flatten)

/-- ShiftRows by `d` columns per row (1 forward, 3 backward) on a column-major block. -/
def aesShift (d : Nat) (b : List Nat) : List Nat :=
  (List.range 16).map (fun i => b.getD (((i / 4 + d * (i % 4)) % 4) * 4 + i % 4) 0)

/-- MixColumns with the given first row of coefficients. -/
def aesMix (c : List Nat) (b : List Nat) : List Nat :=
  (List.range 16).map (fun i =>
    ((List.range 4).map (fun j => aesMul (c.getD ((j + 4 - i % 4) % 4) 0) (b.getD (i / 4 * 4 + j) 0))).foldl (· ^^^ ·) 0)

def aesRounds : List (List Nat) → List Nat → List Nat
  | [], b => b
  | [k], b => xorBytes k (aesShift 1 (b.map aesSub))
  | k :: ks, b => aesRounds ks (xorBytes k (aesMix [2, 3, 1, 1] (aesShift 1 (b.map aesSub))))

/-- One block enciphered. -/
def aesEnc (rks : List (List Nat)) (b : List Nat) : List Nat := aesRounds (rks.drop 1) (xorBytes (rks.headD []) b)

def aesInvRounds : List (List Nat) → List Nat → List Nat
  | [], b => b
  | [k], b => xorBytes k ((aesShift 3 b).map aesInvSub)
  | k :: ks, b => aesInvRounds ks (aesMix [14, 11, 13, 9] (xorBytes k ((aesShift 3 b).map aesInvSub)))

/-- One block deciphered; the round keys in forward order. -/
def aesDec (rks : List (List Nat)) (b : List Nat) : List Nat :=
  aesInvRounds (rks.reverse.drop 1) (xorBytes (rks.reverse.headD []) b)

/-- The bytes of a number, least significant first. -/
def natBytes : Nat → Nat → List Nat
  | 0, _ => []
  | n + 1, v => v % 256 :: natBytes n (v / 256)

/-- The number of a byte list, least significant first. -/
def bytesNat : List Nat → Nat
  | [] => 0
  | b :: t => b + 256 * bytesNat t

/-- The next XTS tweak: multiplication by x in GF(2^128). -/
def xtsNext (t : Nat) : Nat := if t < 2 ^ 127 then 2 * t else (2 * t) % 2 ^ 128 ^^^ 0x87

/-- XTS over whole blocks with a block function. -/
def xtsBlocks (f : List Nat → List Nat) : Nat → Nat → List Nat → List Nat
  | 0, _, _ => []
  | n + 1, t, bs =>
    let tb := natBytes 16 t
    xorBytes tb (f (xorBytes tb (bs.take 16))) ++ xtsBlocks f n (xtsNext t) (bs.drop 16)

/-- A 256-byte line at HBM address `addr` enciphered (`enc`) or deciphered under a slot's contents: the data key in bits
[255:0], the tweak key in bits [511:256] (R357). Zero contents stand for plaintext. -/
def xtsLine (enc : Bool) (keys : BitVec 512) (addr : Nat) (bs : List Nat) : List Nat :=
  if keys = 0#512 then bs
  else
    let k1 := aesRoundKeys (natBytes 32 (keys.toNat % 2 ^ 256))
    let k2 := aesRoundKeys (natBytes 32 (keys.toNat / 2 ^ 256))
    let t := bytesNat (aesEnc k2 (natBytes 16 addr))
    xtsBlocks (if enc then aesEnc k1 else aesDec k1) 16 t bs

end Sys2Proof
end

