-- ==== Sys2Proof/Machine/Base.lean ====
section
/-!
DEFINITION. The one home of every piece of state: accessors of row slots, bands and tables, the numbering of rows, fields
and dies (spec/01 R13), the flat physical locations of the memories (spec/09 Table 9.3), bytes of memory, and the event
counters' counting (spec/15 R377).
-/
namespace Sys2Proof.Machine

/-- The device acts: it runs, it is in twilight (R403), or it is on its way back from eclipse (R408). -/
def State.live (s : State) : Bool :=
  decide (s.power = .running) || decide (s.power = .twilight) || decide (s.power = .resuming)

/-- The engines move: the device runs, or has resumed with its ports trained (R403, R408). -/
def State.awake (s : State) : Bool := decide (s.power = .running) || (decide (s.power = .resuming) && !s.waking)

/-- A lane register's bits as a tag holds them: an ACC48 value has none above bit 47 (R35). -/
def laneBitsOf (f : Fmt) (b : Word) : Word := if f = .acc48 then b &&& 0xFFFFFFFFFFFF#64 else b

/-! ### Rows, slots, bands -/

/-- A row slot's key: twice the global row number, plus 1 for slot B. -/
def slotKey (row ab : Nat) : Nat := 2 * row + ab

def slotRow (k : Nat) : Nat := k / 2
def slotAB (k : Nat) : Nat := k % 2
def slotField (k : Nat) : Nat := k / 2 / 64
def slotDie (k : Nat) : Nat := k / 2 / 512

def State.slot (s : State) (k : Nat) : Slot := Tab.get Slot.empty s.slots k

def State.setSlot (s : State) (k : Nat) (c : Slot) : State := { s with slots := Tab.set Slot.empty s.slots k c }

def State.modSlot (s : State) (k : Nat) (f : Slot → Slot) : State := s.setSlot k (f (s.slot k))

def State.band? (s : State) (b : Nat) : Option Band := Tab.get none s.bands b

def State.setBand (s : State) (b : Nat) (v : Option Band) : State := { s with bands := Tab.set none s.bands b v }

def State.modBand (s : State) (b : Nat) (f : Band → Band) : State :=
  match s.band? b with
  | some v => s.setBand b (some (f v))
  | none => s

/-- The band of a row slot. -/
def State.bandOf (s : State) (k : Nat) : Option Band := (s.slot k).band.bind s.band?

def State.modBandOf (s : State) (k : Nat) (f : Band → Band) : State :=
  match (s.slot k).band with
  | some b => s.modBand b f
  | none => s

/-- The band row index of a global row (R21). -/
def Band.rowIndex (b : Band) (row : Nat) : Nat := (row + 4096 - b.row0) % 4096

/-- The slot key of band row `j`. -/
def Band.slotOf (b : Band) (j : Nat) : Nat := slotKey ((b.row0 + j) % 4096) b.slotAB

/-- The slot keys of a band, in band row order. -/
def Band.slotKeys (b : Band) : List Nat := (List.range b.height).map b.slotOf

/-- The number of fields a band covers. -/
def Band.fieldCount (b : Band) : Nat := if b.height ≤ 64 then 1 else b.height / 64

/-- The fields of a band, in band order (R20). -/
def Band.fields (b : Band) : List Nat := (List.range b.fieldCount).map (fun i => (b.row0 / 64 + i) % 64)

def Band.sideBase (b : Band) : Nat := 65536 * b.chunk0
def Band.sideSize (b : Band) : Nat := 65536 * b.chunks
def Band.recBase (b : Band) : Nat := 65536 * b.winChunk

/-- Apply an update to each slot of a list. -/
def State.modSlots (s : State) (ks : List Nat) (f : Slot → Slot) : State := ks.foldl (fun s k => s.modSlot k f) s

/-- The row slots that hold some state, by key. -/
def State.slotList (s : State) : List Nat := s.slots.map Prod.fst

/-- The bands placed, youngest last. -/
def State.bandList (s : State) : List (Nat × Band) := s.bands.filterMap (fun p => p.2.map (fun b => (p.1, b)))

/-! ### Fields of wide words -/

/-- Bits `hi` down to `lo` of a number. -/
def bitsOf (v : Nat) (hi lo : Nat) : Nat := (v / 2 ^ lo) % 2 ^ (hi + 1 - lo)

/-- A number as bytes, least significant first (R3). -/
def toBytes (n v : Nat) : List Byte := (List.range n).map (fun i => BitVec.ofNat 8 (v / 256 ^ i))

/-- Bytes as a number, least significant first (R3). -/
def ofBytes : List Byte → Nat
  | [] => 0
  | b :: t => b.toNat + 256 * ofBytes t

/-- Word `i` of a descriptor (R258). -/
def descWord (d : Desc) (i : Nat) : Word := BitVec.ofNat 64 (d.toNat / 2 ^ (64 * i))

/-- A descriptor with word `i` replaced. -/
def setDescWord (d : Desc) (i : Nat) (w : Word) : Desc :=
  (d &&& ~~~((BitVec.ofNat 512 (2 ^ 64 - 1)) <<< (64 * i))) ||| ((w.setWidth 512) <<< (64 * i))

/-! ### Locations -/

def sideLoc (field addr : Nat) : Nat := 2 ^ 40 + field * 2 ^ 23 + addr % 2 ^ 23
def queueLoc (die off : Nat) : Nat := 2 ^ 41 + die * 2 ^ 24 + off % 2 ^ 24
def ringLoc (off : Nat) : Nat := 2 ^ 42 + off % 2 ^ 14
def hostLoc (addr : Nat) : Nat := 2 ^ 52 + addr % 2 ^ 52
def peerLoc (addr : Nat) : Nat := 2 ^ 56 + addr % 2 ^ 48

/-- The memories of Table 9.3, and the submission ring of BAR0. -/
inductive Space where
  | hbm | side (field : Nat) | queue (die : Nat) | ring | host | peer
  deriving DecidableEq, Repr

def spaceOf (loc : Nat) : Space :=
  if loc < 2 ^ 40 then .hbm
  else if loc < 2 ^ 41 then .side ((loc - 2 ^ 40) / 2 ^ 23)
  else if loc < 2 ^ 42 then .queue ((loc - 2 ^ 41) / 2 ^ 24)
  else if loc < 2 ^ 52 then .ring
  else if loc < 2 ^ 56 then .host
  else .peer

/-- An access reaches nothing but peer memory; a synchronisation narrower than pod orders nothing there (R284). -/
def Pend.peerOnly (p : Pend) : Bool := p.reqs.all (fun r => decide (spaceOf r.loc = .peer))

/-- Some request is parked on a translation fault: no request of the access is performed (R220), and it counts as issued at
its replay (R286). -/
def Pend.parked (p : Pend) : Bool := p.reqs.any (fun r => r.parked)

/-! ### Bytes of memory -/

/-- What a location that is not listed reads as: the free value of a range that covers it, else 0 (log entries 4, 5, 12). -/
def Mem.bg (fills : List Fill) (loc : Nat) : Byte :=
  match fills with
  | [] => 0#8
  | f :: t => if f.base ≤ loc ∧ loc < f.base + f.len then Config.freeByte f.draw loc else Mem.bg t loc

/-- The byte at a location. -/
def Mem.read (m : Mem) (loc : Nat) : Byte := Tab.get (Mem.bg m.fills loc) m.cells loc

/-- Write a byte; the background's value unlists the location. -/
def Mem.write (m : Mem) (loc : Nat) (b : Byte) : Mem :=
  { m with cells := Tab.set (Mem.bg m.fills loc) m.cells loc b }

def Mem.readN (m : Mem) (loc : Nat) : Nat → List Byte
  | 0 => []
  | n + 1 => m.read loc :: m.readN (loc + 1) n

def Mem.writeN (m : Mem) (loc : Nat) : List Byte → Mem
  | [] => m
  | b :: t => (m.write loc b).writeN (loc + 1) t

/-- The canonical form: locations rise strictly above `lo`, and no entry equals what the location reads as unlisted. -/
def Mem.wfFrom (fills : List Fill) (lo : Option Nat) : List Host.Cell → Bool
  | [] => true
  | (a, b) :: t =>
    (match lo with | none => true | some l => decide (l < a)) && decide (b ≠ Mem.bg fills a)
      && Mem.wfFrom fills (some a) t

def Mem.wf (m : Mem) : Bool := Mem.wfFrom m.fills none m.cells

/-- Make a range's bytes the free value of a draw: its listed bytes go, the new range is looked up first. -/
def Mem.forget (m : Mem) (f : Fill) : Mem :=
  { cells := m.cells.filter (fun c => !(decide (f.base ≤ c.1) && decide (c.1 < f.base + f.len)))
    fills := f :: m.fills }

/-- One byte of the machine's memory. -/
def State.byte (s : State) (loc : Nat) : Byte := s.mem.read loc

def State.readMem (s : State) (loc n : Nat) : List Byte := s.mem.readN loc n

def State.writeMem (s : State) (loc : Nat) (bs : List Byte) : State := { s with mem := s.mem.writeN loc bs }

/-- A little-endian number in memory. -/
def State.readNat (s : State) (loc n : Nat) : Nat := ofBytes (s.readMem loc n)

/-! ### Poison marks (R233) -/

/-- Some 64-bit word the bytes touch is poisoned. -/
def State.poisonedAt (s : State) (loc len : Nat) : Bool :=
  (List.range ((loc + len + 7) / 8 - loc / 8)).any (fun i => Tab.get false s.poison (loc / 8 + i))

/-- A write clears the marks of the words it covers whole. -/
def State.clearPoison (s : State) (loc len : Nat) : State :=
  let p := (List.range ((loc + len) / 8 - (loc + 7) / 8)).foldl
    (fun t i => Tab.set false t ((loc + 7) / 8 + i) false) s.poison
  { s with poison := p }

def State.markPoison (s : State) (loc : Nat) : State := { s with poison := Tab.set false s.poison (loc / 8) true }

/-! ### Event counters (R377, R380) -/

/-- The codes whose qualifier 0 means every occurrence (Table 15.8). -/
def evZeroAll (code : Nat) : Bool :=
  (2 ≤ code && code ≤ 6) || code == 0x0E || code == 0x0F || code == 0x12 || code == 0x2D || code == 0x2E || code == 0x2F

/-- A selector counts an occurrence of an event with a qualifier. -/
def evMatch (sel : BitVec 16) (code qual : Nat) : Bool :=
  let q := sel.toNat / 256
  decide (sel.toNat % 256 = code) && (decide (q = qual) || decide (q = 0xFF) || (evZeroAll code && decide (q = 0)))

/-- Counter keys: 8 per field from 0, 16 per die from 512. -/
def evFieldKey (field i : Nat) : Nat := 8 * field + i
def evDieKey (die i : Nat) : Nat := 512 + 16 * die + i

/-- A counter counts occurrences of an event in a step: its selector names the event, and it has begun to count (R378). -/
def EvCounter.counts (c : EvCounter) (step code qual : Nat) : Bool := evMatch c.sel code qual && decide (c.first ≤ step)

/-- Add occurrences to the counters of the keys that `own` accepts, `n` by key. -/
def State.addEventsBy (s : State) (own : Nat → Bool) (code qual : Nat) (n : Nat → Nat) : State :=
  { s with evc := s.evc.map (fun p =>
      if own p.1 && p.2.counts s.steps code qual then (p.1, { p.2 with value := p.2.value + BitVec.ofNat 64 (n p.1) }) else p) }

/-- The same number of occurrences to each. -/
def State.addEvents (s : State) (own : Nat → Bool) (code qual n : Nat) : State := s.addEventsBy own code qual (fun _ => n)

/-- A field event. -/
def State.evField (s : State) (field code qual : Nat) : State :=
  s.addEvents (fun k => k / 8 == field && decide (k < 512)) code qual 1

/-- A field event that occurs `n` times. -/
def State.evFieldN (s : State) (field code n : Nat) : State :=
  s.addEvents (fun k => k / 8 == field && decide (k < 512)) code 0 n

/-- A die event. -/
def State.evDie (s : State) (die code qual n : Nat) : State :=
  s.addEvents (fun k => decide (512 ≤ k) && (k - 512) / 16 == die) code qual n

/-- A package event. -/
def State.evPkg (s : State) (code qual n : Nat) : State := s.addEvents (fun k => decide (512 ≤ k)) code qual n

/-- Qualifier of the events told apart by slot: 1 for A, 2 for B. -/
def slotQual (k : Nat) : Nat := k % 2 + 1

/-- The home die of an HBM quadrant Q = 4s + q and its local index (R208, R380). -/
def quadDie (Q : Nat) : Nat := 2 * (Q % 4) + (Q / 4) % 2
def quadLocal (Q : Nat) : Nat := (Q / 4) / 2

/-- A die event of a quadrant. -/
def State.evQuad (s : State) (Q code n : Nat) : State := s.evDie (quadDie Q) code (quadLocal Q) n

/-! ### Small tables -/

def State.node (s : State) (n : Nat) : BitVec 512 := Tab.get 0#512 s.nodes n
def State.queue (s : State) (n : Nat) : List RecRef := Tab.get [] s.queues n

/-- A node's queue is state of its home die; no byte of queue memory shows it (R293; log entry 99). -/
def State.setQueue (s : State) (n : Nat) (q : List RecRef) : State := { s with queues := Tab.set [] s.queues n q }

/-- Entry l of a pattern at reset is l (R358). -/
def identityPattern : BitVec 512 := BitVec.ofNat 512 (ofBytes ((List.range 64).map (fun i => BitVec.ofNat 8 i)))

def State.pattern (s : State) (field k : Nat) : BitVec 512 := Tab.get identityPattern s.patterns (16 * field + k)
def State.setPattern (s : State) (field k : Nat) (v : BitVec 512) : State :=
  { s with patterns := Tab.set identityPattern s.patterns (16 * field + k) v }
def State.arrivalCtr (s : State) (field i : Nat) : BitVec 48 := Tab.get 0#48 s.arrival (64 * field + i)
def State.setArrival (s : State) (field i : Nat) (v : BitVec 48) : State :=
  { s with arrival := Tab.set 0#48 s.arrival (64 * field + i) v }
def State.evCtr (s : State) (key : Nat) : EvCounter := Tab.get EvCounter.zero s.evc key
def State.link (s : State) (p : Nat) : Link := Tab.get Link.reset s.links p
def State.setLink (s : State) (p : Nat) (l : Link) : State := { s with links := Tab.set Link.reset s.links p l }
def State.send (s : State) (o : Out) : State := { s with outbox := s.outbox ++ [o] }

/-- A command completes: its result, and MSI-X vector 8 (R341). -/
def State.endCmd (s : State) (result : Nat) : State :=
  ({ s with mbCmd := none, mbResult := BitVec.ofNat 8 result } : State).send (.msix 8)

/-- Node-table fields (Table 14.3). -/
def nodeValid (e : BitVec 512) : Bool := e.getLsbD 63
def nodeHome (e : BitVec 512) : Nat := bitsOf e.toNat 62 60
def nodeEntry (e : BitVec 512) : Word := BitVec.ofNat 64 (bitsOf e.toNat 56 0)
def nodeArg (e : BitVec 512) : Word := BitVec.ofNat 64 (bitsOf e.toNat 127 64)
def nodePsize (e : BitVec 512) : Nat := bitsOf e.toNat 140 128
def nodeBatch (e : BitVec 512) : Nat := bitsOf e.toNat 156 144
def nodeTimer (e : BitVec 512) : Nat := bitsOf e.toNat 191 160
def nodeDepth (e : BitVec 512) : Nat := bitsOf e.toNat 200 196
def nodeSide (e : BitVec 512) : Nat := bitsOf e.toNat 208 201
def nodeDregs (e : BitVec 512) : Nat := bitsOf e.toNat 212 209
def nodeAregs (e : BitVec 512) : Nat := bitsOf e.toNat 215 213
def nodeWregs (e : BitVec 512) : Nat := bitsOf e.toNat 218 216
def nodeVregs (e : BitVec 512) : Nat := bitsOf e.toNat 225 219
def nodeLinked (e : BitVec 512) : Bool := e.getLsbD 226
def nodeHeight (e : BitVec 512) : Nat := bitsOf e.toNat 239 227
def nodeRegion (e : BitVec 512) : Nat := bitsOf e.toNat 255 240

/-- The stride of the record window (R308). -/
def nodeStride (e : BitVec 512) : Nat := 16 + 16 * ((nodePsize e + 15) / 16)

/-- The window's chunks Wc and the footprint's chunks S (R308). -/
def nodeWinChunks (e : BitVec 512) : Nat := (nodeBatch e * nodeStride e + 65535) / 65536
def nodeChunks (e : BitVec 512) : Nat := nodeSide e + nodeWinChunks e

end Sys2Proof.Machine
end

