-- ==== Sys2Proof/Machine/Region.lean ====
section
/-!
DEFINITION. Regions: the effective values a region derives from the synchronised blocks (spec/14 R345-R347), what each
region's bands and records use of its budgets (R25, R346), and the buddy allocation of its arena (spec/12 R296).
-/
namespace Sys2Proof.Machine

def State.region (s : State) (i : Nat) : BitVec 512 := Tab.get 0#512 s.regions i

def regValid (r : BitVec 512) : Bool := r.getLsbD 63
def regParent (r : BitVec 512) : Nat := bitsOf r.toNat 47 32
def regOvr (r : BitVec 512) (bit : Nat) : Bool := r.getLsbD (16 + bit)
def regPrio (r : BitVec 512) : Nat := bitsOf r.toNat 2 0
def regRowBud (r : BitVec 512) : Nat := bitsOf r.toNat 77 64
def regSideBud (r : BitVec 512) : Nat := bitsOf r.toNat 93 80
def regQBud (r : BitVec 512) : Nat := bitsOf r.toNat 127 96
def regArenaBase (r : BitVec 512) : Nat := bitsOf r.toNat 184 128
def regArenaLog (r : BitVec 512) : Nat := bitsOf r.toNat 191 186
def regArenaBud (r : BitVec 512) : Nat := bitsOf r.toNat 231 192
def regHandler (r : BitVec 512) : Nat := bitsOf r.toNat 243 232
def regAsid (r : BitVec 512) : Nat := bitsOf r.toNat 255 248
def regLogBase (r : BitVec 512) : Nat := bitsOf r.toNat 312 256
def regKey (r : BitVec 512) : Nat := bitsOf r.toNat 319 314
def regLogCap (r : BitVec 512) : Nat := bitsOf r.toNat 351 320
def regPolicy (r : BitVec 512) (c : Nat) : Nat := bitsOf r.toNat (384 + 2 * c + 1) (384 + 2 * c)

/-- The path from a region to the root; parents have lower indices, so `i + 1` steps suffice. -/
def regionPathFrom (s : State) : Nat → Nat → List Nat
  | 0, _ => []
  | n + 1, i => if i = 0 then [0] else i :: regionPathFrom s n (regParent (s.region i))

def State.regionPath (s : State) (i : Nat) : List Nat := regionPathFrom s (i + 1) i

/-- The region on the path that supplies item `bit`: the nearest that overrides it, or the root (R346). -/
def State.regionSource (s : State) (i bit : Nat) : Nat :=
  ((s.regionPath i).find? (fun r => r == 0 || regOvr (s.region r) bit)).getD 0

def State.regPriority (s : State) (i : Nat) : Nat := regPrio (s.region (s.regionSource i 0))
def State.regHandlerNode (s : State) (i : Nat) : Nat := regHandler (s.region (s.regionSource i 5))
def State.regAsidOf (s : State) (i : Nat) : Nat := regAsid (s.region (s.regionSource i 6))
def State.regKeyOf (s : State) (i : Nat) : Nat := regKey (s.region (s.regionSource i 7))

/-- The arena's owner: the nearest region with bit 3, or the root. -/
def State.arenaOwner (s : State) (i : Nat) : Nat := s.regionSource i 3

/-- The fault log's owner. -/
def State.logOwner (s : State) (i : Nat) : Nat := s.regionSource i 8

/-- The policies of R387. -/
inductive Policy where
  | inRow | kill | park
  deriving DecidableEq, Repr

/-- The effective policy of a cause: the nearest non-zero code on the path; none means kill and report (R346). -/
def State.policy (s : State) (i : Nat) (c : Cause) : Policy :=
  match ((s.regionPath i).map (fun r => regPolicy (s.region r) c.code.toNat)).find? (fun v => v ≠ 0) with
  | some 1 => .inRow
  | some 3 => .park
  | _ => .kill

/-- `i` is `a` or a descendant of it (R299). -/
def State.descends (s : State) (i a : Nat) : Bool := (s.regionPath i).contains a

/-- Some path of `i` passes through `r`: what `i` uses is charged to `r`. -/
def State.charged (s : State) (r i : Nat) : Bool := (s.regionPath i).contains r

/-- Rows held by the bands charged to region `r`. -/
def State.rowsUsed (s : State) (r : Nat) : Nat :=
  (s.bandList.map (fun p => if s.charged r p.2.region then p.2.height else 0)).sum

/-- Chunks held by the bands charged to region `r`. -/
def State.chunksUsed (s : State) (r : Nat) : Nat :=
  (s.bandList.map (fun p => if s.charged r p.2.region then p.2.chunks * p.2.fieldCount else 0)).sum

/-- Every record held: in a queue, by a band, or by a saved band. -/
def State.allRecords (s : State) : List RecRef :=
  s.queues.flatMap Prod.snd ++ s.bandList.flatMap (fun p => p.2.records) ++ s.restores.flatMap (fun r => r.band.records)

/-- Queue slots charged to region `r` (R297). -/
def State.slotsUsed (s : State) (r : Nat) : Nat :=
  (s.allRecords.map (fun q => match q.charge with
    | some c => if s.charged r c then 1 else 0
    | none => 0)).sum

/-- Arena bytes charged to region `r`. -/
def State.arenaUsed (s : State) (r : Nat) : Nat :=
  (s.allRecords.map (fun q => match q.charge, q.block with
    | some c, some (_, _, lg) => if s.charged r c then 2 ^ lg else 0
    | _, _ => 0)).sum

/-- The regions on a path that limit an item: those with its bit, and the root (R346). -/
def State.limiters (s : State) (i bit : Nat) : List Nat :=
  (s.regionPath i).filter (fun r => r == 0 || regOvr (s.region r) bit)

def State.rowsFit (s : State) (i n : Nat) : Bool :=
  (s.limiters i 1).all (fun r => s.rowsUsed r + n ≤ regRowBud (s.region r))

def State.chunksFit (s : State) (i n : Nat) : Bool :=
  (s.limiters i 2).all (fun r => s.chunksUsed r + n ≤ regSideBud (s.region r))

def State.slotsFit (s : State) (i n : Nat) : Bool :=
  (s.limiters i 4).all (fun r => s.slotsUsed r + n ≤ regQBud (s.region r))

/-- Arena bytes that a region's own records hold. -/
def State.arenaOwn (s : State) (i : Nat) : Nat :=
  (s.allRecords.map (fun q => match q.block with
    | some (_, _, lg) => if q.charge = some i then 2 ^ lg else 0
    | none => 0)).sum

/-- A region without bit 3 has its own arenabud as a limit on its own records when bit 3 is set anywhere on its path (R346). -/
def State.arenaLimited (s : State) (i : Nat) : Bool :=
  i != 0 && !regOvr (s.region i) 3 && (s.regionPath i).any (fun r => regOvr (s.region r) 3)

/-- Arena budgets cover `n` more bytes of a region's records; that of an own arena value without an arena is ignored (R347). -/
def State.arenaFits (s : State) (i n : Nat) : Bool :=
  (s.limiters i 3).all (fun r => regArenaLog (s.region r) == 0 || decide (s.arenaUsed r + n ≤ regArenaBud (s.region r)))
  && (!s.arenaLimited i || decide (s.arenaOwn i + n ≤ regArenaBud (s.region i)))

/-- The log2 of a payload's block: the least c of at least 6 with 2^c ≥ len (R296). -/
def blockLog (len : Nat) : Nat := if len ≤ 64 then 6 else Nat.log2 (len - 1) + 1

/-- A block overlaps no allocated block of the owner. -/
def State.blockFree (s : State) (owner off lg : Nat) : Bool :=
  s.blocks.all (fun b => !(decide (b.1 = owner)) || decide (b.2.1 + 2 ^ b.2.2 ≤ off) || decide (off + 2 ^ lg ≤ b.2.1))

/-- The first offset at or above the given one, among `n` candidates a block apart, that is free. Each step passes the
block in the way, so the allocated blocks bound the search. -/
def findBlock (s : State) (owner lg ext : Nat) : Nat → Nat → Option Nat
  | 0, _ => none
  | n + 1, off =>
    if ext < off + 2 ^ lg then none
    else if s.blockFree owner off lg then some off
    else
      let next := (s.blocks.filter (fun b => b.1 = owner ∧ off < b.2.1 + 2 ^ b.2.2 ∧ b.2.1 < off + 2 ^ lg)).foldl
        (fun m b => max m (b.2.1 + 2 ^ b.2.2)) (off + 2 ^ lg)
      findBlock s owner lg ext n ((next + 2 ^ lg - 1) / 2 ^ lg * 2 ^ lg)

/-- Buddy allocation, lowest free address first (R296): the offset of a free aligned block of 2^lg bytes in a region's
arena; none without an arena or room. -/
def State.buddyFind (s : State) (i lg : Nat) : Option Nat :=
  let o := s.arenaOwner i
  let al := regArenaLog (s.region o)
  if al = 0 ∨ al < lg then none else findBlock s o lg (2 ^ al) (s.blocks.length + 1) 0

/-- The arena address of an offset. -/
def State.arenaVa (s : State) (owner off : Nat) : Word := BitVec.ofNat 64 (regArenaBase (s.region owner) + off)

def State.allocBlock (s : State) (b : Nat × Nat × Nat) : State := { s with blocks := b :: s.blocks }
def State.freeBlock (s : State) (b : Nat × Nat × Nat) : State := { s with blocks := s.blocks.filter (· ≠ b) }

end Sys2Proof.Machine
end

