-- ==== Sys2Proof/Machine/Hbm.lean ====
section
/-!
DEFINITION. Accesses at their targets (spec/09): halo-cache lines and encryption (R211, R212, R230, R231), row
activations and alerts (R227, R228), migrating lines (R224, R225), and access tables (R232, R353, R354).
-/
namespace Sys2Proof.Machine

/-! ### Banks and rows (Table 9.2) -/

def hbmQuad (P : Nat) : Nat := bitsOf P 39 34
def hbmRow (P : Nat) : Nat := bitsOf P 33 19
def hbmBank (P : Nat) : Nat := bitsOf P 18 13
def hbmChannel (P : Nat) : Nat := bitsOf P 10 8
def hbmColumn (P : Nat) : Nat := 256 * bitsOf P 12 11 + bitsOf P 7 0

/-- A bank's key over the package, and a row's. -/
def bankKey (P : Nat) : Nat := (hbmQuad P * 8 + hbmChannel P) * 64 + hbmBank P
def rowKey (P : Nat) : Nat := bankKey P * 32768 + hbmRow P

/-- The bank of `P` is unavailable (R228). -/
def State.bankBusy (s : State) (P : Nat) : Bool := (Tab.get none s.bankUntil (bankKey P)).isSome

/-- One activation of the row of `P` (R227): its count rises, and at the threshold the alert is raised. An activation of a bank
that is unavailable marks the act it belongs to, which then backs off whole (R228; log entry 94). -/
def State.activate (s : State) (P : Nat) : State :=
  let r := rowKey P
  let c := (Tab.get 0 s.acts r + 1) % 2 ^ 14
  let s := if s.bankBusy P then { s with clash := s.clash ++ [bankKey P] } else s
  let s := { s with acts := Tab.set 0 s.acts r c, openRow := Tab.set none s.openRow (bankKey P) none }
  let s := s.evQuad (hbmQuad P) 0x20 1
  if s.thresh ≤ c then
    { s.evQuad (hbmQuad P) 0x21 1 with alerts := s.alerts ++ [r] }
  else s

/-! ### Lines and keys -/

/-- A key slot's contents; zero stands for plaintext (R230, R355). -/
def State.keyOf (s : State) (slot : Nat) : BitVec 512 := if slot = 0 then 0#512 else (Tab.get none s.keys slot).getD 0#512

/-- A line that a background fill brought and no key slot has reached yet (log entry 75). -/
def State.isUnkeyed (s : State) (line : Nat) : Bool := Tab.get false s.unkeyed line

def State.setUnkeyed (s : State) (line : Nat) (b : Bool) : State := { s with unkeyed := Tab.set false s.unkeyed line b }

/-- The contents that a line's stored bits are enciphered under, or will be when its dirty copy is written back. -/
def State.keyNow (s : State) (line : Nat) : BitVec 512 :=
  match Tab.get none s.halo line with
  | some ⟨true, slot⟩ => s.keyOf slot
  | _ => Tab.get 0#512 s.lineKey line

/-- The stored bits of a line deciphered under other contents: what a read under them returns (R230). -/
def State.lineView (s : State) (line : Nat) (kc : BitVec 512) : List Byte :=
  let old := s.keyNow line
  let bs := s.readMem (256 * line) 256
  if old = kc || s.isUnkeyed line then bs
  else (xtsLine false kc (256 * line) (xtsLine true old (256 * line) (bs.map BitVec.toNat))).map (BitVec.ofNat 8)

/-- Hold the line's bytes as the given contents decipher them. -/
def State.recrypt (s : State) (line : Nat) (kc : BitVec 512) : State :=
  if Tab.get 0#512 s.lineKey line = kc then s.setUnkeyed line false
  else
    let bs := s.lineView line kc
    { s.writeMem (256 * line) bs with lineKey := Tab.set 0#512 s.lineKey line kc, unkeyed := Tab.set false s.unkeyed line false }

/-- Write a dirty line back under its slot's contents (R231, R357): one activation. The line stays, clean. -/
def State.writeBack (s : State) (line : Nat) : State :=
  match Tab.get none s.halo line with
  | some ⟨true, slot⟩ =>
    let s := (s.activate (256 * line)).evQuad (hbmQuad (256 * line)) 0x28 1
    { s with lineKey := Tab.set 0#512 s.lineKey line (s.keyOf slot), halo := Tab.set none s.halo line (some ⟨false, slot⟩) }
  | _ => s

/-- Write back if dirty, and drop. -/
def State.evictLine (s : State) (line : Nat) : State :=
  let s := s.writeBack line
  { s with halo := Tab.set none s.halo line none }

/-- The set of a line: its quadrant's 1,024 sets hold consecutive lines in turn (R211, log entry 76). -/
def haloSet (line : Nat) : Nat := hbmQuad (256 * line) * 1024 + line % 1024

/-- The other lines that a line's set holds. -/
def State.haloPeers (s : State) (line : Nat) : List Nat :=
  (s.halo.map Prod.fst).filter (fun l => haloSet l == haloSet line && l != line)

/-- The line that leaves a set of 16 ways to make room for another (R211). -/
def State.haloOut (s : State) (line : Nat) : Option Nat :=
  let ls := s.haloPeers line
  if ls.length < 16 then none else ls[Config.victim ls s.draws % ls.length]?

/-- Make room for a line in its set. -/
def State.makeRoom (s : State) (line : Nat) : State :=
  match s.haloOut line with
  | some l => { s.evictLine l with draws := s.draws + 1 }
  | none => s

/-- A miss: the line is written back under another slot's key or makes room, is filled unless it is written whole, and is
held (R211, R231). -/
def State.fillLine (s : State) (line slot : Nat) (write full act : Bool) : State :=
  let s := ((s.evictLine line).makeRoom line).evQuad (hbmQuad (256 * line)) 0x27 1
  let s := if full then s else (if act then s.activate (256 * line) else s).recrypt line (s.keyOf slot)
  let s := if full then s.setUnkeyed line false else s
  { s with halo := Tab.set none s.halo line (some ⟨write, slot⟩) }

/-- An access needs the HBM array: a miss that fills, a held line of another slot, or a `.dram` read (R211, R212). -/
def State.needsArray (s : State) (line slot : Nat) (full dram : Bool) : Bool :=
  dram || match Tab.get none s.halo line with
    | some l => !s.isUnkeyed line && decide (l.slot ≠ slot) && (l.dirty || !full)
    | none => !full

/-- One access to a line through its halo cache (R211, R231); `full` a write of all 256 bytes, `act` whether a fill is an
activation of its own (R227). -/
def State.touchLineAs (s : State) (line slot : Nat) (write full act : Bool) : State :=
  let Q := hbmQuad (256 * line)
  match Tab.get none s.halo line, s.isUnkeyed line with
  | some l, true =>
    { (s.evQuad Q 0x26 1).setUnkeyed line false with
      lineKey := Tab.set 0#512 s.lineKey line (s.keyOf slot)
      halo := Tab.set none s.halo line (some ⟨l.dirty || write, slot⟩) }
  | some ⟨_, old⟩, false =>
    if old = slot then
      let s := s.evQuad Q 0x26 1
      if write then { s with halo := Tab.set none s.halo line (some ⟨true, slot⟩) } else s
    else s.fillLine line slot write full act
  | none, _ => s.fillLine line slot write full act

/-- One access whose fill is an activation. -/
def State.touchLine (s : State) (line slot : Nat) (write full : Bool) : State := s.touchLineAs line slot write full true

/-! ### Migration (R223-R225, R351, R352) -/

def migActive (m : Mig) : Bool := m.raw.getLsbD 63 && !m.retired
def migSize (m : Mig) : Nat := if m.raw.getLsbD 61 then 2 ^ 21 else 2 ^ 16
def migNew (m : Mig) : Nat := bitsOf m.raw.toNat 39 16 * 2 ^ 16
def migOld (m : Mig) : Nat :=
  let f := bitsOf m.raw.toNat 115 80 * 2 ^ 16
  match bitsOf m.raw.toNat 60 59 with
  | 0 => f % 2 ^ 40
  | 1 => hostLoc f
  | _ => peerLoc f
def migOkey (m : Mig) : Nat := if bitsOf m.raw.toNat 60 59 = 0 then bitsOf m.raw.toNat 133 128 else 0

/-- The Prardat port of a peer line (R284; which of them is the model's choice, log entry 19). -/
def peerPort (loc : Nat) : Nat := (loc / 256) % 18

/-- The active entry of a quadrant whose new frame holds an HBM address: its key in the table. -/
def State.migFind (s : State) (P : Nat) : Option (Nat × Mig) :=
  s.migs.find? (fun p => decide (p.1 / 16 = hbmQuad P) && migActive p.2
    && decide (migNew p.2 ≤ P) && decide (P < migNew p.2 + migSize p.2))

/-- The fetch of line `i` of an entry meets a key slot not loaded (R356), a port that is down (R333) or poison. -/
def State.migBad (s : State) (m : Mig) (i : Nat) : Bool :=
  let src := migOld m + 256 * i
  (decide (migOkey m ≠ 0) && (Tab.get none s.keys (migOkey m)).isNone)
  || (decide (spaceOf src = .peer) && !(s.link (peerPort src)).up)
  || s.poisonedAt src 256

/-- The old frame's bank makes the fetch of line `i` back off (R228). -/
def State.migStalls (s : State) (m : Mig) (i : Nat) : Bool :=
  let src := migOld m + 256 * i
  decide (src < 2 ^ 40) && s.needsArray (src / 256) (migOkey m) false false && s.bankBusy src

/-- Fetch line `i` of a migration entry: the old frame's bytes go to the new frame under key slot `slot`; a line that meets a
denial or poison at the old frame arrives poisoned (R224, R352). -/
def State.migFetch (s : State) (key : Nat) (m : Mig) (i slot : Nat) : State :=
  let src := migOld m + 256 * i
  let dst := migNew m + 256 * i
  let bad := s.migBad m i
  let s := if src < 2 ^ 40 then s.touchLine (src / 256) (migOkey m) false false else s
  let bs := s.readMem src 256
  let s := (s.touchLine (dst / 256) slot true true).writeMem dst bs
  let s := (List.range 32).foldl (fun s w => { s with poison := Tab.set false s.poison (dst / 8 + w) bad }) s
  let lines := Tab.set false m.lines i true
  let m' := { m with lines := lines, retired := decide (lines.length = migSize m / 256) }
  { s with migs := Tab.set Mig.idle s.migs key m' }

/-- The migration entry and the line of it that an access through a migrating page has to fetch first. -/
def State.migDue (s : State) (mig : Bool) (P : Nat) : Option (Nat × Mig × Nat) :=
  if !mig || decide (2 ^ 40 ≤ P) then none
  else match s.migFind P with
    | none => none
    | some (key, m) =>
      let i := (P - migNew m) / 256
      if Tab.get false m.lines i then none else some (key, m, i)

/-- Before an access through a migrating page, its line is brought from the old frame if it is not valid yet. -/
def State.migServe (s : State) (P slot : Nat) : State :=
  match s.migDue true P with
  | some (key, m, i) => (s.migFetch key m i slot).evQuad (hbmQuad P) 0x2A 1
  | none => s

/-- An access to bytes of one line meets poison: where its line is still to be fetched, the old frame's (R224, R352). -/
def State.meetsPoison (s : State) (loc len : Nat) (mig : Bool) : Bool :=
  match s.migDue mig loc with
  | some (_, m, i) => s.migBad m i
  | none => s.poisonedAt loc len

/-! ### Reads and writes at the targets -/

/-- The 64-byte blocks a span touches: as many accesses of side memory (event 0x0A). -/
def blocksOf (loc len : Nat) : Nat := if len = 0 then 0 else (loc + len - 1) / 64 + 1 - loc / 64

/-- Read bytes that lie in one 256-byte line. -/
def State.targetRead (s : State) (loc len slot : Nat) (mig dram : Bool) : List Byte × State :=
  match spaceOf loc with
  | .hbm =>
    let s := if mig then s.migServe loc slot else s
    if dram then
      let s := s.writeBack (loc / 256)
      let s := (s.activate loc).evQuad (hbmQuad loc) 0x2C 1
      (((s.lineView (loc / 256) (s.keyOf slot)).drop (loc % 256)).take len, s)
    else
      let s := s.touchLine (loc / 256) slot false false
      (s.readMem loc len, s)
  | .side f => (s.readMem loc len, s.evFieldN f 0x0A (blocksOf loc len))
  | _ => (s.readMem loc len, s)

/-- Write bytes that lie in one 256-byte line; words written whole lose their poison mark (R233). -/
def State.targetWrite (s : State) (loc slot : Nat) (mig : Bool) (bs : List Byte) : State :=
  let s := match spaceOf loc with
    | .hbm =>
      let s := if mig then s.migServe loc slot else s
      s.touchLine (loc / 256) slot true (decide (bs.length = 256))
    | .side f => s.evFieldN f 0x0A (blocksOf loc bs.length)
    | _ => s
  (s.writeMem loc bs).clearPoison loc bs.length

/-- Cut a span into pieces within 256-byte lines. -/
def linePieces : Nat → Nat → Nat → List (Nat × Nat)
  | 0, _, _ => []
  | n + 1, loc, len =>
    if len = 0 then []
    else
      let k := min len (256 - loc % 256)
      (loc, k) :: linePieces n (loc + k) (len - k)

/-- A span of any length meets poison. -/
def State.spanPoison (s : State) (loc len : Nat) (mig : Bool) : Bool :=
  (linePieces (len / 256 + 2) loc len).any (fun p => s.meetsPoison p.1 p.2 mig)

/-- Read a span of any length. -/
def State.spanRead (s : State) (loc len slot : Nat) (mig : Bool) : List Byte × State :=
  (linePieces (len / 256 + 2) loc len).foldl (fun acc p =>
    let r := acc.2.targetRead p.1 p.2 slot mig false
    (acc.1 ++ r.1, r.2)) ([], s)

/-- Write a span of any length. -/
def State.spanWrite (s : State) (loc slot : Nat) (mig : Bool) (bs : List Byte) : State :=
  ((linePieces (bs.length / 256 + 2) loc bs.length).foldl (fun acc p =>
    (acc.1.targetWrite p.1 slot mig (acc.2.take p.2), acc.2.drop p.2)) (s, bs)).1

/-- An access needs its bank's array; one whose line is still to be fetched needs the old frame's. -/
def State.needsBank (s : State) (loc slot : Nat) (full dram mig : Bool) : Bool :=
  decide (loc < 2 ^ 40) && (s.migDue mig loc).isNone && s.needsArray (loc / 256) slot full dram

/-- A bank this access needs is unavailable, so the request backs off (R228). -/
def State.mustBackOff (s : State) (loc slot : Nat) (full dram mig : Bool) : Bool :=
  match s.migDue mig loc with
  | some (_, m, i) => s.migStalls m i
  | none => s.needsBank loc slot full dram mig && s.bankBusy loc

/-! ### Access tables (R353, R354) -/

/-- The table a target holds at reset: everything to management, and the host's bits on the CSR block. -/
def aclReset (target : Nat) : BitVec 512 :=
  (BitVec.ofNat 512 3 <<< (2 * 0xF0)) ||| (if target = 0x88 then BitVec.ofNat 512 3 <<< (2 * 0xE0) else 0#512)

def State.aclTable (s : State) (target : Nat) : BitVec 512 := Tab.get (aclReset target) s.acl target

/-- A target grants a master read (`write` false) or write. -/
def State.grants (s : State) (target master : Nat) (write : Bool) : Bool :=
  (s.aclTable target).getLsbD (2 * master + (if write then 1 else 0))

/-- The access-table target of a location; peer memory is judged at the peer. -/
def targetOf (loc : Nat) : Option Nat :=
  match spaceOf loc with
  | .hbm => some (hbmQuad loc)
  | .side f => some (0x40 + f)
  | .queue d => some (0x80 + d)
  | .ring => some 0x88
  | .host => some 0x89
  | .peer => none

/-- The target denies an access (R232): its table, a key slot not loaded (R356), or a port that is down (R333). -/
def State.denied (s : State) (loc slot master : Nat) (read write : Bool) : Bool :=
  (match targetOf loc with
    | some t => (read && !s.grants t master false) || (write && !s.grants t master true)
    | none => !(s.link (peerPort loc)).up)
  || (decide (loc < 2 ^ 40) && decide (slot ≠ 0) && (Tab.get none s.keys slot).isNone)

/-- The fault a target's grant phase finds (R240 steps 7 and 8). -/
def State.grantFault (s : State) (loc len slot master : Nat) (read write mig : Bool) : Option Cause :=
  if s.denied loc slot master read write then some .denied
  else if read && s.meetsPoison loc len mig then some .poison
  else none

/-- The master id of a row slot (R353). -/
def slotMaster (k : Nat) : Nat := slotField k

end Sys2Proof.Machine
end

