-- ==== Sys2Proof/Machine/Translate.lean ====
section
/-!
DEFINITION. Virtual addresses (spec/09 R216-R222): page-table walks, TLBs, and what a translated access meets.
-/
namespace Sys2Proof.Machine

/-- A leaf's fields (Table 9.4). -/
def leafType (e : Word) : Nat := bitsOf e.toNat 61 59
def leafKind (e : Word) : Nat := bitsOf e.toNat 58 57
def leafMig (e : Word) : Bool := e.getLsbD 56
def leafFrame (e : Word) : Nat := bitsOf e.toNat 51 16 * 2 ^ 16
def leafKey (e : Word) : Nat := bitsOf e.toNat 15 10
def leafW (e : Word) : Bool := e.getLsbD 9
def leafX (e : Word) : Bool := e.getLsbD 8

/-- The bytes a leaf at a level maps (R216). -/
def leafSize (level : Nat) : Nat := if level = 0 then 2 ^ 16 else if level = 1 then 2 ^ 21 else 2 ^ 30

/-- A frame address keeps to Table 9.3. -/
def frameOk (type frame : Nat) : Bool :=
  match type with
  | 0 => decide (frame < 2 ^ 40)
  | 1 => true
  | 2 => decide (frame < 2 ^ 48) && decide (frame / 2 ^ 40 ≤ 143)
  | 3 => decide (frame < 2 ^ 29)
  | 4 => decide (frame < 2 ^ 27)
  | _ => false

/-- A leaf is malformed at its level (R218). -/
def leafBad (e : Word) (level : Nat) : Bool :=
  bitsOf e.toNat 55 52 != 0 || bitsOf e.toNat 7 0 != 0
  || decide (4 < leafType e) || leafKind e == 3
  || (leafKind e != 0 && leafType e != 0 && leafType e != 2)
  || (leafKey e != 0 && leafType e != 0)
  || !frameOk (leafType e) (leafFrame e)
  || decide (2 < level) || leafFrame e % leafSize level != 0
  || (leafMig e && (level == 2 || leafType e != 0))

/-- A table entry is malformed at its level (R218). -/
def tableBad (e : Word) (level : Nat) : Bool :=
  bitsOf e.toNat 61 52 != 0 || bitsOf e.toNat 11 0 != 0 || bitsOf e.toNat 51 40 != 0 || level == 0

/-- The index a level takes from an address (R216). -/
def vaIndex (va level : Nat) : Nat :=
  match level with
  | 4 => bitsOf va 56 48 | 3 => bitsOf va 47 39 | 2 => bitsOf va 38 30 | 1 => bitsOf va 29 21 | _ => bitsOf va 20 16

/-- A walk's end: the leaf and its level, or the reason of Table 13.8. -/
inductive WalkEnd where
  | leaf (e : Word) (level : Nat)
  | fault (reason : Nat)
  deriving DecidableEq, Repr

/-- Read a table entry: plain HBM under key slot 0, through its halo cache. -/
def State.readEntry (s : State) (P : Nat) : Word × State :=
  let r := s.targetRead P 8 0 false false
  (BitVec.ofNat 64 (ofBytes r.1), r.2)

/-- The walk from a table of a level down; `n` levels remain. -/
def walkFrom (s : State) (va : Nat) : Nat → Nat → WalkEnd × State
  | 0, _ => (.fault 2, s)
  | level + 1, table =>
    let (e, s) := s.readEntry (table + 8 * vaIndex va level)
    if !e.getLsbD 63 then (.fault 1, s)
    else if e.getLsbD 62 then (if leafBad e level then (.fault 2, s) else (.leaf e level, s))
    else if tableBad e level then (.fault 2, s)
    else walkFrom s va level (bitsOf e.toNat 51 12 * 2 ^ 12)

/-- The exit address, which is never mapped (R118). -/
def neverMapped (va : Word) : Bool := decide (va.toNat / 8 = 0x01FFFFFFFFFFFFF8 / 8)

/-- The walk of an address space (R348): the root entry, then up to five levels. -/
def State.walk (s : State) (asid : Nat) (va : Word) : WalkEnd × State :=
  if bitsOf va.toNat 63 57 ≠ 0 then (.fault 5, s)
  else if neverMapped va then (.fault 1, s)
  else match s.asidRoot with
    | none => (.fault 1, s)
    | some root =>
      let (e, s) := s.readEntry (root + 8 * asid)
      if !e.getLsbD 63 then (.fault 1, s)
      else if e.getLsbD 62 || tableBad e 5 then (.fault 2, s)
      else walkFrom s va.toNat 5 (bitsOf e.toNat 51 12 * 2 ^ 12)

/-- The reason a leaf refuses an access kind (R218); none when it permits it. -/
def leafRefuses (e : Word) (k : AccKind) : Option Nat :=
  match k with
  | .read => none
  | .write => if leafW e then none else some 3
  | .fetch => if leafX e then none else some 4

/-- A TLB entry's key: the unit (field f, or 64 + 2f + e for a copy engine), the ASID and the 64 KiB page. -/
def tlbKey (unit asid page : Nat) : Nat := (unit * 256 + asid) * 2 ^ 48 + page

/-- An instruction-cache word's key (R214): its field, ASID and address. -/
def icKey (field asid : Nat) (va : Word) : Nat := (field * 256 + asid) * 2 ^ 64 + va.toNat

def vaPage (va : Word) : Nat := va.toNat / 2 ^ 16

def State.tlbLook (s : State) (unit asid page : Nat) : Option TlbLeaf := Tab.get none s.tlb (tlbKey unit asid page)

def State.tlbFill (s : State) (unit asid page : Nat) (l : TlbLeaf) : State :=
  { s with tlb := Tab.set none s.tlb (tlbKey unit asid page) (some l) }

/-- The physical location of an address under a leaf (Table 9.3); past the end of its memory a window leaf wraps (log entry 91). -/
def leafLoc (l : TlbLeaf) (va : Word) : Nat :=
  let a := leafFrame l.leaf + va.toNat % leafSize l.level
  match leafType l.leaf with
  | 0 => a % 2 ^ 40
  | 1 => hostLoc a
  | 2 => peerLoc a
  | 3 => sideLoc (bitsOf a 28 23) (bitsOf a 22 0)
  | _ => queueLoc (bitsOf a 26 24) (bitsOf a 23 0)

/-- The chunk kind of a side location, or the page kind of an HBM or peer page (R206). -/
def State.kindAt (s : State) (l : TlbLeaf) (loc : Nat) : Nat :=
  match spaceOf loc with
  | .side f => (Tab.get 0#2 s.chunkKind (128 * f + (loc % 2 ^ 23) / 65536)).toNat
  | _ => leafKind l.leaf

/-- The chunk kind of a field-local address. -/
def State.chunkAt (s : State) (field addr : Nat) : Nat :=
  (Tab.get 0#2 s.chunkKind (128 * field + (addr % 2 ^ 23) / 65536)).toNat

/-- Table 9.1 for reads and writes off the WEIGHT and COPY paths: the trap a kind gives. -/
def kindFault (kind : Nat) (write halfWords : Bool) : Option Cause :=
  if kind = 1 then some .compressed
  else if kind = 2 then (if write then (if halfWords then none else some .latticepart) else some .compressed)
  else none

/-- What a walk by the device itself reads through a region's leaf entries: fault logs, arenas and images (R230). Such
an access has no TLB of its own and parks nowhere: an unmapped page answers none. -/
def State.regionLoc (s : State) (asid : Nat) (va : Word) : Option (Nat × Nat × Bool) × State :=
  let r := s.walk asid va
  match r.1 with
  | .leaf e lv => (some (leafLoc ⟨e, lv⟩ va, leafKey e, leafMig e), r.2)
  | .fault _ => (none, r.2)

/-- An access of the device itself by a region's leaf is denied: by its master's grant where it has a master, by a key slot
not loaded (R356), by a link that is down. -/
def State.regionDenied (s : State) (master : Option Nat) (write : Bool) (q : Nat × Nat × Bool) : Bool :=
  match master with
  | some m => s.denied q.1 q.2.1 m (!write) write
  | none => s.denied q.1 q.2.1 0 false false

/-- How the device itself reaches a region's memory: its address space, the master whose grant it needs, and the key slot
that stands in for the leaf's (R399). -/
structure Via where
  asid   : Nat
  master : Option Nat
  key    : Option Nat
  deriving DecidableEq, Repr

/-- Where the device itself may access an address of a region. -/
def State.regionReach (s : State) (via : Via) (write : Bool) (va : Word) : Option (Nat × Nat × Bool) × State :=
  let r := s.regionLoc via.asid va
  match r.1 with
  | some (loc, key, mig) =>
    let q := (loc, (if loc < 2 ^ 40 then via.key.getD key else key), mig)
    (if r.2.regionDenied via.master write q then none else some q, r.2)
  | none => (none, r.2)

/-- Write bytes at a region's virtual address, a 64 KiB page at a time; a page without a translation, or denied, takes
nothing (log entry 20). -/
def regionWriteFrom (via : Via) : Nat → State → Word → List Byte → State
  | 0, s, _, _ => s
  | n + 1, s, va, bs =>
    if bs = [] then s
    else
      let k := 65536 - va.toNat % 65536
      let r := s.regionReach via true va
      let s := match r.1 with
        | some (loc, key, mig) => r.2.spanWrite loc key mig (bs.take k)
        | none => r.2
      regionWriteFrom via n s (va + BitVec.ofNat 64 k) (bs.drop k)

def State.regionWriteVia (s : State) (via : Via) (va : Word) (bs : List Byte) : State :=
  regionWriteFrom via (bs.length / 65536 + 2) s va bs

def State.regionWrite (s : State) (asid : Nat) (va : Word) (bs : List Byte) : State :=
  s.regionWriteVia ⟨asid, none, none⟩ va bs

/-- Read bytes at a region's virtual address; a page without a translation, or denied, gives free values (log entry 20). -/
def regionReadFrom (via : Via) : Nat → State → Word → Nat → List Byte → List Byte × State
  | 0, s, _, _, acc => (acc, s)
  | n + 1, s, va, len, acc =>
    if len = 0 then (acc, s)
    else
      let k := min len (65536 - va.toNat % 65536)
      let r := s.regionReach via false va
      match r.1 with
      | some (loc, key, mig) =>
        let q := r.2.spanRead loc k key mig
        regionReadFrom via n q.2 (va + BitVec.ofNat 64 k) (len - k) (acc ++ q.1)
      | none =>
        let fresh := (List.range k).map (fun i => Config.freeByte r.2.draws (va.toNat + i))
        regionReadFrom via n { r.2 with draws := r.2.draws + 1 } (va + BitVec.ofNat 64 k) (len - k) (acc ++ fresh)

def State.regionReadVia (s : State) (via : Via) (va : Word) (len : Nat) : List Byte × State :=
  regionReadFrom via (len / 65536 + 2) s va len []

end Sys2Proof.Machine
end

