-- ==== Sys2Proof/Machine/Records.lean ====
section
/-!
DEFINITION. Records, their storage and the launch conditions (spec/12 R291-R297, R304), fault records (spec/16 R392) and
the asynchronous fault logs (spec/13 R339).
-/
namespace Sys2Proof.Machine

/-! ### Record storage -/

/-- Entries of a die's record area, and those outside the reserve (R293). -/
def recEntries : Nat := 507904
def recPlain : Nat := 503808

def recLoc (die idx : Nat) : Nat := queueLoc die (0x80000 + 32 * idx)

def recUsedKey (die idx : Nat) : Nat := die * 2 ^ 20 + idx

/-- The lowest free entry from `i` on, within `n` tries. -/
def freeEntryFrom (s : State) (die limit : Nat) : Nat → Nat → Option Nat
  | 0, _ => none
  | n + 1, i =>
    if limit ≤ i then none
    else if Tab.get false s.recUsed (recUsedKey die i) then freeEntryFrom s die limit n (i + 1)
    else some i

/-- A free entry of the record area below `limit`, from `lo` up. -/
def State.freeEntry (s : State) (die lo limit : Nat) : Option Nat := freeEntryFrom s die limit (s.recUsed.length + 1) lo

def State.spillOf (s : State) (die : Nat) : Nat × Nat := Tab.get (0, 0) s.spill die
def State.spilledOf (s : State) (die : Nat) : List (Nat × Nat) := Tab.get [] s.spilled die

/-- The lowest ring slot not in use. -/
def State.freeSpill (s : State) (die : Nat) : Option Nat :=
  let used := (s.spilledOf die).map Prod.snd
  ((List.range (used.length + 1)).find? (fun i => !used.contains i)).bind
    (fun i => if i < (s.spillOf die).2 then some i else none)

/-- Where the next record of a die goes: the area outside the reserve, the spill ring, or, when allowed, the reserve
(R295, R368). -/
def State.recPlace (s : State) (die : Nat) (reserve : Bool) : Option (Bool × Nat) :=
  match s.freeEntry die 0 recPlain with
  | some i => some (false, i)
  | none => match s.freeSpill die with
    | some i => some (true, i)
    | none => if reserve then (s.freeEntry die recPlain recEntries).map (fun i => (false, i)) else none

/-- A record's 32 bytes (Table 12.1): inline payload, or the arena address. -/
def recBytes (inlineWord : Nat) (etime : Word) (seq : BitVec 32) (node depth origin len : Nat) : List Byte :=
  toBytes 32 (len + origin * 2 ^ 13 + depth * 2 ^ 15 + node * 2 ^ 20 + seq.toNat * 2 ^ 32 + etime.toNat * 2 ^ 64
    + inlineWord * 2 ^ 128)

/-- The location of a slot of a die's spill ring. -/
def State.spillLoc (s : State) (die idx : Nat) : Nat := (s.spillOf die).1 + 32 * idx

/-- Read a record's bytes as one number, in the area or, under key slot 0, in the ring (R230). -/
def State.recRead (s : State) (r : RecRef) : Nat :=
  if r.spill then
    let P := s.spillLoc r.die r.idx
    ofBytes (((s.lineView (P / 256) 0#512).drop (P % 256)).take 32)
  else s.readNat (recLoc r.die r.idx) 32

def recLen (v : Nat) : Nat := bitsOf v 12 0
def recOrigin (v : Nat) : Nat := bitsOf v 14 13
def recDepth (v : Nat) : Nat := bitsOf v 19 15
def recNode (v : Nat) : Nat := bitsOf v 31 20
def recSeq (v : Nat) : Nat := bitsOf v 63 32
def recEtime (v : Nat) : Nat := bitsOf v 127 64
def recPayload (v : Nat) : Nat := bitsOf v 255 128

/-- A record's entry is poisoned (R294). -/
def State.recPoisoned (s : State) (r : RecRef) : Bool :=
  if r.spill then s.poisonedAt ((s.spillOf r.die).1 + 32 * r.idx) 32 else s.poisonedAt (recLoc r.die r.idx) 32

/-! ### Launch conditions (R303, R304) -/

/-- The age of a queue: TIME minus the head's etime. -/
def State.queueAge (s : State) (n : Nat) : Nat :=
  match s.queue n with
  | [] => 0
  | r :: _ => s.time.toNat - recEtime (s.recRead r)

/-- Some condition of R304 holds for a node. -/
def State.launchDue (s : State) (n : Nat) : Bool :=
  let e := s.node n
  let c := (s.queue n).length
  let T := nodeTimer e
  nodeValid e && (decide (nodeBatch e ≤ c)
    || (decide (1 ≤ c) && decide (T ≠ 0) && decide (T ≠ 0xFFFFFFFF) && decide (T ≤ s.queueAge n))
    || (decide (1 ≤ c) && decide (T ≠ 0) && Tab.get false s.nodeFlush n))

/-- Raise a launch request if one is due and none is pending. -/
def State.launchCheck (s : State) (n : Nat) : State :=
  if (Tab.get none s.nodeReq n).isNone && s.launchDue n then
    { s with nodeReq := Tab.set none s.nodeReq n (some (s.time, s.steps)) }
  else s

/-! ### Acceptance and release -/

/-- Write a record at a place and put it at its queue's tail (R291, R292, R297). -/
def State.acceptAt (s : State) (die : Nat) (place : Bool × Nat) (node origin depth len inlineWord : Nat)
    (charge : Option Nat) (block : Option (Nat × Nat × Nat)) : State :=
  let seq := Tab.get 0#32 s.nodeSeq node
  let bs := recBytes inlineWord s.time seq node depth origin len
  let s := if place.1 then
      let s := s.spanWrite ((s.spillOf die).1 + 32 * place.2) 0 false bs
      { s with spilled := Tab.set [] s.spilled die (s.spilledOf die ++ [(node, place.2)]) }
    else
      let s := (s.writeMem (recLoc die place.2) bs).clearPoison (recLoc die place.2) 32
      { s with recUsed := Tab.set false s.recUsed (recUsedKey die place.2) true }
  let r : RecRef := ⟨die, place.1, place.2, seq.toNat, charge, len, block⟩
  let s := { s.setQueue node (s.queue node ++ [r]) with nodeSeq := Tab.set 0#32 s.nodeSeq node (seq + 1) }
  (s.evDie die 0x2D (if place.1 then 1 else 0) 1).launchCheck node

/-- Allocate a payload's block and write the payload there, through the owning region's leaf entries. -/
def State.placePayload (s : State) (region : Nat) (payload : List Byte) : Option ((Nat × Nat × Nat) × State) :=
  let lg := blockLog payload.length
  (s.buddyFind region lg).map (fun off =>
    let o := s.arenaOwner region
    ((o, off, lg), (s.allocBlock (o, off, lg)).regionWriteVia ⟨s.regAsidOf region, some 0xD0, none⟩
      (s.arenaVa o off) payload))

/-- The payload field of an inline record, and of one whose payload is in the arena. -/
def inlineField (payload : List Byte) : Nat := ofBytes (payload.take 16)

/-- Point every reference to a ring slot of a die at the entry its record moved to. -/
def moveRef (die from_ into : Nat) (r : RecRef) : RecRef :=
  if r.die = die ∧ r.spill = true ∧ r.idx = from_ then { r with spill := false, idx := into } else r

/-- The ring slot whose record moves into a freed entry: the oldest's, but the reserve is for the records that must not be lost
(R293, R295; log entry 82). -/
def State.movesBack (s : State) (die idx : Nat) : Option Nat :=
  match s.spilledOf die with
  | [] => none
  | (_, slot) :: _ =>
    if idx < recPlain ∨ 2 ≤ recOrigin (s.recRead ⟨die, true, slot, 0, none, 0, none⟩) then some slot else none

/-- Words take the poison marks of others. -/
def State.copyMarks (s : State) (src dst words : Nat) : State :=
  { s with poison := (List.range words).foldl (fun t i => Tab.set false t (dst / 8 + i) (s.poisonedAt (src + 8 * i) 8)) s.poison }

/-- The oldest spilled record moves into a freed entry, with its marks (R233, R295). -/
def State.spillBack (s : State) (die idx : Nat) : State :=
  match s.movesBack die idx with
  | none => s
  | some slot =>
      let src := s.spillLoc die slot
      let r := s.spanRead src 32 0 false
      let s := (r.2.writeMem (recLoc die idx) r.1).copyMarks src (recLoc die idx) 4
      { s with
        spilled := Tab.set [] s.spilled die ((s.spilledOf die).drop 1)
        recUsed := Tab.set false s.recUsed (recUsedKey die idx) true
        queues := s.queues.map (fun p => (p.1, p.2.map (moveRef die slot idx)))
        bands := s.bands.map (fun p => (p.1, p.2.map (fun b => { b with records := b.records.map (moveRef die slot idx) })))
        restores := s.restores.map (fun r => { r with band := { r.band with
          records := r.band.records.map (moveRef die slot idx) } }) }

/-- The release of a record is one that a held ENQB is retried for: of its region or in its arena, or of an entry at its die
(R301). -/
def RecRef.wakes (s : State) (r : RecRef) (m : Msg) : Bool :=
  match m.op with
  | .enq node _ _ _ _ _ _ _ =>
    let i := nodeRegion (s.node node.toNat)
    m.die == r.die || r.charge == some i || r.block.map (fun b => b.1) == some (s.arenaOwner i)
  | _ => false

/-- The held ENQBs that `hit` names are due for a retry. -/
def State.wakeEnq (s : State) (hit : Msg → Bool) : State :=
  { s with heldEnq := s.heldEnq.map (fun (m : Msg) => if hit m then { m with due := true } else m) }

/-- Free what a record holds (R297), and have the ENQBs retried that may use it (R301). -/
def State.releaseRec (s : State) (r : RecRef) : State :=
  let s := s.wakeEnq (r.wakes s)
  let s := match r.block with
    | some b => s.freeBlock b
    | none => s
  if r.spill then
    { s with spilled := Tab.set [] s.spilled r.die ((s.spilledOf r.die).filter (fun p => p.2 ≠ r.idx)) }
  else
    let s := { s with recUsed := Tab.set false s.recUsed (recUsedKey r.die r.idx) false }
    s.spillBack r.die r.idx

/-- Release records one by one; releasing one may move a spilled record of the rest into its entry (R295). -/
def releaseFrom : Nat → State → List RecRef → State
  | _, s, [] => s
  | 0, s, _ => s
  | n + 1, s, r :: t =>
    let moved := if r.spill then none else s.movesBack r.die r.idx
    releaseFrom n (s.releaseRec r) (match moved with
      | some slot => t.map (moveRef r.die slot r.idx)
      | none => t)

def State.releaseAll (s : State) (rs : List RecRef) : State := releaseFrom rs.length s rs

/-- Accept a join-counter or fault record, which meets no test and no budget and may take the reserve (R368, R392). A
payload of more than 16 bytes travels in the arena of the node's region, or its first 16 bytes inline without one. -/
def State.acceptFree (s : State) (h : HeldRec) : Option State :=
  (s.recPlace h.die true).map (fun place =>
    if h.payload.length ≤ 16 then
      s.acceptAt h.die place h.node h.origin h.depth h.payload.length (inlineField h.payload) none none
    else
      match s.placePayload (nodeRegion (s.node h.node)) h.payload with
      | some (b, s') => s'.acceptAt h.die place h.node h.origin h.depth h.payload.length
          (s'.arenaVa b.1 b.2.1).toNat none (some b)
      | none => s.acceptAt h.die place h.node h.origin h.depth 16 (inlineField h.payload) none none)

/-- Accept such a record, or hold it at its die. -/
def State.acceptOrHold (s : State) (h : HeldRec) : State :=
  match s.acceptFree h with
  | some s' => s'
  | none => { s with heldRec := s.heldRec ++ [h] }

/-! ### Fault records and fault logs -/

/-- A fault record's payload (Table 16.3). -/
def faultPayload (cause kind row slot more node : Nat) (launchseq : Nat) (pc info : Word) : List Byte :=
  toBytes 8 (cause + kind * 2 ^ 8 + row * 2 ^ 16 + slot * 2 ^ 32 + min more 255 * 2 ^ 40 + node * 2 ^ 48)
  ++ toBytes 8 launchseq ++ toBytes 8 pc.toNat ++ toBytes 8 info.toNat

/-- Post a fault record to the handler node of a region (R392). -/
def State.postFault (s : State) (region cause kind row slot more node launchseq : Nat) (pc info : Word) : State :=
  let h := s.regHandlerNode region
  s.acceptOrHold ⟨h, 3, 0, faultPayload cause kind row slot more node launchseq pc info, nodeHome (s.node h), none, 0⟩

/-! ### Join counters in queue SRAM (R363, R364) -/

def ctrDie (i : Nat) : Nat := i / 8192
def ctrLoc (i : Nat) : Nat := queueLoc (i / 8192) (32 * (i % 8192))

/-- A counter's 32 bytes as one number (Table 15.1). -/
def State.ctrRead (s : State) (i : Nat) : Nat := s.readNat (ctrLoc i) 32

def ctrCount (v : Nat) : Nat := bitsOf v 31 0
def ctrNode (v : Nat) : Nat := bitsOf v 43 32
def ctrState (v : Nat) : Nat := bitsOf v 49 48
def ctrDepth (v : Nat) : Nat := bitsOf v 60 56
def ctrPayload (v : Nat) : Nat := bitsOf v 191 64

/-- A counter is poisoned: a word of it is uncorrectable. -/
def State.ctrBad (s : State) (i : Nat) : Bool := s.poisonedAt (ctrLoc i) 32

/-- The first finding of a poisoned counter posts a record of kind 3 (R392); the mark keeps it to once a poisoning. -/
def State.ctrReport (s : State) (k i : Nat) (pc : Word) : State :=
  if Tab.get false s.ctrPoison i then s
  else
    let s := { s with ctrPoison := Tab.set false s.ctrPoison i true }
    match (s.slot k).band, s.bandOf k with
    | some b, some v => s.postFault v.region 0x10 3 (slotRow k) (slotAB k) 0 v.node b pc (BitVec.ofNat 64 i)
    | _, _ => s

/-! ### Fault logs -/

def State.logOf (s : State) (o : Nat) : LogCount := Tab.get LogCount.zero s.logs o

/-- FAULTLOG of a region (R339). -/
def State.faultLog (s : State) (region : Nat) : Nat :=
  let c := s.logOf (s.logOwner region)
  min (c.written - c.drained) 65535

/-- A fault-log record (Table 13.9). -/
def logBytes (addr : Word) (op cause width lane row ab : Nat) (operand : Word) (launchseq : Nat) : List Byte :=
  toBytes 8 addr.toNat ++ toBytes 8 (op + cause * 2 ^ 8 + width * 2 ^ 16 + lane * 2 ^ 24 + row * 2 ^ 32 + ab * 2 ^ 48)
  ++ toBytes 8 operand.toNat ++ toBytes 8 launchseq

/-- The log's three counters, written behind the record (R339). -/
def State.writeLogCounters (s : State) (o : Nat) : State :=
  let c := s.logOf o
  s.regionWrite (s.regAsidOf o) (BitVec.ofNat 64 (regLogBase (s.region o)))
    (toBytes 8 c.written ++ toBytes 8 c.drained ++ toBytes 8 c.lost)

/-- Write a record to a region's asynchronous fault log, or count it lost when the ring holds its capacity (R339). -/
def State.logFault (s : State) (region : Nat) (bs : List Byte) : State :=
  let o := s.logOwner region
  let c := s.logOf o
  let r := s.region o
  if regLogCap r ≤ c.written - c.drained then
    { s with logs := Tab.set LogCount.zero s.logs o { c with lost := c.lost + 1 } }.writeLogCounters o
  else
    let s := s.regionWrite (s.regAsidOf o)
      (BitVec.ofNat 64 (regLogBase r + 64 + 32 * (c.written % regLogCap r))) bs
    { s with logs := Tab.set LogCount.zero s.logs o { c with written := c.written + 1 } }.writeLogCounters o

end Sys2Proof.Machine
end

