-- ==== Sys2Proof/Machine/Ops.lean ====
section
/-!
DEFINITION. The shared operations: register reads and writes by operand code (spec/05 R107, spec/08), fault buffers
(spec/09 R221), taking a trap and returning from one, killing a band (spec/16 R387-R393), and what every instruction
word does around its own effect (R62, R19, R385).
-/
namespace Sys2Proof.Machine

/-! ### Full/empty bits by operand code (Table 3.3) -/

def codeX (i : Nat) : Nat := i
def codeV (i : Nat) : Nat := 0x20 + i
def codeA (i : Nat) : Nat := 0x60 + i
def codeW (i : Nat) : Nat := 0x64 + i
def codeD (i : Nat) : Nat := 0x70 + i
def codeN : Nat := 0x78

/-- The register of an operand code is empty; x0 and p registers never are. -/
def Slot.isEmpty (c : Slot) (code : Nat) : Bool :=
  if code < 0x20 then decide (code ≠ 0) && c.xEmpty.getLsbD code
  else if code < 0x60 then c.vEmpty.getLsbD (code - 0x20)
  else if code < 0x64 then c.aEmpty.getLsbD (code - 0x60)
  else if code < 0x68 then c.wEmpty.getLsbD (code - 0x64)
  else if code < 0x70 then false
  else if code < 0x78 then c.dEmpty.getLsbD (code - 0x70)
  else false

/-- A long-latency write of the register is pending (R108). -/
def Slot.isPend (c : Slot) (code : Nat) : Bool :=
  if code < 0x20 then decide (code ≠ 0) && c.xPend.getLsbD code
  else if code < 0x60 then c.vPend.getLsbD (code - 0x20)
  else if code < 0x64 then false
  else if code < 0x68 then c.wPend.getLsbD (code - 0x64)
  else if code < 0x70 then false
  else if code < 0x78 then c.dPend.getLsbD (code - 0x70)
  else false

def setBit {w : Nat} (m : BitVec w) (i : Nat) (b : Bool) : BitVec w :=
  if b then m ||| (BitVec.ofNat w 1 <<< i) else m &&& ~~~(BitVec.ofNat w 1 <<< i)

/-- Set or clear a register's empty bit; x0 has none that changes (R107). -/
def Slot.setEmpty (c : Slot) (code : Nat) (b : Bool) : Slot :=
  if code = 0 then c
  else if code < 0x20 then { c with xEmpty := setBit c.xEmpty code b }
  else if code < 0x60 then { c with vEmpty := setBit c.vEmpty (code - 0x20) b }
  else if code < 0x64 then { c with aEmpty := setBit c.aEmpty (code - 0x60) b }
  else if code < 0x68 then { c with wEmpty := setBit c.wEmpty (code - 0x64) b }
  else if code < 0x70 then c
  else if code < 0x78 then { c with dEmpty := setBit c.dEmpty (code - 0x70) b }
  else c

/-- Set or clear a register's pending mark. -/
def Slot.setPend (c : Slot) (code : Nat) (b : Bool) : Slot :=
  if code = 0 then c
  else if code < 0x20 then { c with xPend := setBit c.xPend code b }
  else if code < 0x60 then { c with vPend := setBit c.vPend (code - 0x20) b }
  else if code < 0x64 then c
  else if code < 0x68 then { c with wPend := setBit c.wPend (code - 0x64) b }
  else if code < 0x70 then c
  else if code < 0x78 then { c with dPend := setBit c.dPend (code - 0x70) b }
  else c

/-- Issue of a long-latency producer: its destination is empty and pending. -/
def Slot.producer (c : Slot) (code : Nat) : Slot := (c.setEmpty code true).setPend code true

/-- Its completion: full, nothing pending. -/
def Slot.produced (c : Slot) (code : Nat) : Slot := (c.setEmpty code false).setPend code false

/-- A write of the whole register clears a soft error (R386). -/
def Slot.clearErr (c : Slot) (code : Nat) : Slot :=
  if c.softErr = [] then c else { c with softErr := c.softErr.filter (· ≠ BitVec.ofNat 7 code) }

/-! ### Register files -/

def Slot.xr (c : Slot) (i : Nat) : Word := if i = 0 then 0#64 else Tab.get 0#64 c.x i

/-- WriteDst of an x register (R61): x0 discards. -/
def Slot.setX (c : Slot) (i : Nat) (v : Word) : Slot :=
  if i = 0 then c else { c with x := Tab.set 0#64 c.x i v, xEmpty := setBit c.xEmpty i false }.clearErr i

def Slot.dr (c : Slot) (i : Nat) : Desc := Tab.get 0#512 c.d i

def Slot.setD (c : Slot) (i : Nat) (v : Desc) : Slot :=
  { c with d := Tab.set 0#512 c.d i v, dEmpty := setBit c.dEmpty i false }.clearErr (codeD i)

def Slot.pr (c : Slot) (i : Nat) : Mask := Tab.get 0#64 c.p i
def Slot.setP (c : Slot) (i : Nat) (v : Mask) : Slot := { c with p := Tab.set 0#64 c.p i v }

def Slot.vr (c : Slot) (i l : Nat) : LaneReg := Tab.get LaneReg.zero c.v (64 * i + l)
def Slot.setV (c : Slot) (i l : Nat) (r : LaneReg) : Slot := { c with v := Tab.set LaneReg.zero c.v (64 * i + l) r }

def Slot.wr (c : Slot) (i l : Nat) : WReg := Tab.get WReg.zero c.w (64 * i + l)
def Slot.setW (c : Slot) (i l : Nat) (r : WReg) : Slot := { c with w := Tab.set WReg.zero c.w (64 * i + l) r }

def Slot.ar (c : Slot) (i l : Nat) : BitVec 384 := Tab.get 0#384 c.a (64 * i + l)
def Slot.setA (c : Slot) (i l : Nat) (r : BitVec 384) : Slot := { c with a := Tab.set 0#384 c.a (64 * i + l) r }

def Slot.nestOf (c : Slot) (l : Nat) : BitVec 6 := Tab.get 0#6 c.nest l
def Slot.rngOf (c : Slot) (l : Nat) : Word := Tab.get 0#64 c.rng l

/-- The mask of a list of lanes. -/
def maskOf (ls : List Nat) : Mask := ls.foldl (fun m l => m ||| (1#64 <<< l)) 0#64

/-- The lanes whose nesting counter is 0 (R59); all of them where no counter is listed. -/
def Slot.openLanes (c : Slot) : Mask :=
  match c.nest with
  | [] => BitVec.allOnes 64
  | _ => maskOf ((List.range 64).filter (fun l => c.nestOf l == 0#6))

/-- ActiveLanes() (R59). -/
def Slot.active (c : Slot) (g : Option Guard) : Mask :=
  match g with
  | none => c.openLanes
  | some g => c.openLanes &&& (if g.neg then ~~~(c.pr g.p) else c.pr g.p)

/-- The lanes of a mask, in order. -/
def lanesOf (m : Mask) : List Nat := (List.range 64).filter (fun l => m.getLsbD l)

/-- OR flags into LANESTAT (R54). -/
def Slot.raise (c : Slot) (fl : Flags) : Slot := { c with lanestat := c.lanestat ||| fl.setWidth 64 }

/-! ### Fault buffers (R221, R338) -/

def Agent.code : Agent → Nat
  | .slot _ => 0 | .copy _ => 1 | .stream _ _ => 2 | .red _ _ => 3 | .coll _ => 4

/-- The valid entries of a die's fault buffer. -/
def State.fbPend (s : State) (die : Nat) : Nat :=
  (s.fb.filter (fun p => p.1 / 256 == die && p.2.isSome)).length

/-- An agent takes its place in a matching entry, in a free one if it is its turn, or in the list of those that wait for one. -/
def State.placeFaultIn (s : State) (turn : Bool) (w : FbWaiter) : State :=
  match s.fb.find? (fun p => p.1 / 256 == w.die && (match p.2 with
      | some e => decide (e.asid = w.asid) && decide (vaPage e.va = vaPage w.va) && decide (e.kind = w.kind)
      | none => false)) with
  | some (i, some e) =>
    let e' : FbEntry := { e with joined := min (e.joined + 1) 65535, joiners := e.joiners ++ [w.agent] }
    { s with fb := Tab.set none s.fb i (some e') }
  | _ =>
    match (if turn then (List.range 256).find? (fun i => (Tab.get none s.fb (256 * w.die + i)).isNone) else none) with
    | some i =>
      let s := if s.fbPend w.die = 0 then s.send (.msix w.die) else s
      let s := s.evDie w.die 0x32 0 1
      { s with fb := Tab.set none s.fb (256 * w.die + i) (some
          ⟨w.va, w.asid, w.kind, w.reason, w.agent.code, 1, w.field, s.time, [w.agent]⟩) }
    | none => { s with fbWait := s.fbWait ++ [w] }

/-- A new fault takes a free entry unless older agents of its die wait for one (R221). -/
def State.placeFault (s : State) (w : FbWaiter) : State :=
  s.placeFaultIn (s.fbWait.all (fun q => decide (q.die ≠ w.die))) w

/-- A fault is raised and placed in its die's buffer (R221). -/
def State.joinFault (s : State) (w : FbWaiter) : State :=
  (if w.field < 64 then s.evField w.field 0x0C 0 else s).placeFault w

/-- An agent withdraws; its entry stays until it is answered (R221). -/
def State.leaveFault (s : State) (gone : Agent → Bool) : State :=
  { s with
    fb := s.fb.map (fun p => (p.1, p.2.map (fun e => { e with joiners := e.joiners.filter (fun a => !gone a) })))
    fbWait := s.fbWait.filter (fun w => !gone w.agent) }

/-! ### Back-off (R228) -/

/-- Join the back-off order of a bank, once. -/
def State.joinBank (s : State) (w : Waiter) (bank : Nat) : State :=
  if s.backoff.contains (bank, w) then s else { s with backoff := s.backoff ++ [(bank, w)] }

/-- Join the back-off order of the bank of `loc`. -/
def State.joinBackoff (s : State) (w : Waiter) (loc : Nat) : State := s.joinBank w (bankKey loc)

def State.leaveBackoff (s : State) (w : Waiter) : State := { s with backoff := s.backoff.filter (fun b => b.2 ≠ w) }

/-- A waiter is the first at every bank it waits for. -/
def State.turnOf (s : State) (w : Waiter) : Bool :=
  s.backoff.all (fun b => b.2 ≠ w || ((s.backoff.find? (fun x => x.1 == b.1)).map Prod.snd) == some w)

/-- An act of waiter `w`: it goes when its turn at its banks has come, and backs off whole where it meets one that is unavailable
(R228; log entry 94). -/
def State.throughBanks (s : State) (w : Waiter) (act : State → Host.Outcome State Fault Refusal) :
    Host.Outcome State Fault Refusal :=
  if !s.turnOf w then .next s
  else match act { s.leaveBackoff w with clash := [] } with
    | .next t => .next (if t.clash = [] then t else t.clash.foldl (fun u b => u.joinBank w b) s)
    | o => o

/-! ### Queues for copy commands and collectives (R320, R322) -/

/-- Agents give up their places in the waiting lines and the entries they have not used. -/
def State.leaveLines (s : State) (gone : Agent → Bool) : State :=
  { s with
    copyLine := s.copyLine.filter (fun a => !gone a)
    copyGrant := s.copyGrant.filter (fun k => !gone (.slot k))
    collLine := s.collLine.filter (fun p => !gone (.slot p.2))
    collGrant := s.collGrant.filter (fun p => !gone (.slot p.2)) }

/-! ### Killing a band (R391) -/

/-- A slot of a killed band: it waits for nothing, and its port values are gone. -/
def Slot.killed (c : Slot) : Slot :=
  { c with wait := .none, policyPark := false, south := [], reserved := [], deferred := none, late := [], heldDst := none, busy := [] }

def agentOfBand (s : State) (b : Nat) (a : Agent) : Bool :=
  match a with
  | .slot k => decide ((s.slot k).band = some b)
  | .copy id => s.cmds.any (fun c => c.id == id && c.band == b)
  | .stream b' _ => b' == b
  | .red _ _ => false
  | .coll id => s.colls.any (fun c => c.id == id && c.band == b)

/-- Held ENQBs of a band end with the status of their last attempt, which nothing but the count of event 0x2F sees (R299, R391). -/
def State.endKilledEnq (s : State) (b : Nat) : State :=
  let held := s.heldEnq.filter (fun (m : Msg) => m.band == b)
  let s := { s with heldEnq := s.heldEnq.filter (fun (m : Msg) => m.band ≠ b) }
  held.foldl (fun s (m : Msg) => s.evDie m.die 0x2F m.status 1) s

/-- The slots of a band whose words may trap in the step in which slot `k` has the band killed (R393). -/
def State.killPeers (s : State) (v : Band) (k : Nat) : List Nat :=
  v.slotKeys.filter (fun j => j != k && !(s.slot j).exited && !(s.slot j).policyPark && decide ((s.slot j).wait = .none))

/-- Stop every row of a band and cancel what it has outstanding (R391); the record is posted when that work has ended
(KILL_COMPLETE). A save in progress is abandoned (R398). -/
def State.killBand (s : State) (b : Nat) (info : KillInfo) : State :=
  match s.band? b with
  | none => s
  | some v =>
    let s := s.leaveFault (agentOfBand s b)
    let cmds := s.cmds.map (fun (c : CopyCmd) => if c.band = b then { c with cancel := true } else c)
    let colls := s.colls.map (fun (c : CollOp) => if c.band = b ∧ c.err = none then { c with err := some 8 } else c)
    let peers := if info.post ∧ v.status = .running then s.killPeers v (slotKey info.row info.slot) else []
    let s := ({ s with cmds := cmds, colls := colls, killStep := s.killStep ++ peers } : State).endKilledEnq b
    let s := s.leaveLines (agentOfBand s b)
    let s := s.modSlots v.slotKeys Slot.killed
    s.setBand b (some { v with status := .killing, kill := some info, due := false, suspend := false,
                               victimOf := none, zen := Edge.empty, nad := Edge.empty })

/-- Count a trap of a band that is being killed into its record (R393). -/
def State.foldKill (s : State) (b : Nat) : State :=
  s.modBand b (fun v => { v with kill := v.kill.map (fun i => { i with more := min (i.more + 1) 255 }) })

/-- Of the kills of one step, the record reports the lowest band row's, and counts the others (R393). -/
def State.joinKill (s : State) (b : Nat) (j : KillInfo) : State :=
  (s.modBand b (fun v => { v with kill := v.kill.map (fun i =>
    if v.rowIndex j.row < v.rowIndex i.row then { j with more := i.more } else i) })).foldKill b

/-! ### Taking a trap (R387-R391) -/

/-- The address the slot fetches at: its PC, with the bits that no PC has above it (R104). -/
def Slot.fetchAt (c : Slot) : Word := c.pc ||| (c.high.setWidth 64 <<< 57)

/-- The slot goes on at an address: the PC holds its low 57 bits (R104), and a restored word has been replayed (R120). -/
def Slot.goto (c : Slot) (t : Word) : Slot :=
  { c with pc := (t.setWidth 57).setWidth 64, high := t.extractLsb' 57 7, refills := false }

/-- Entry of the in-row handler (R387, R388); a word that traps takes nothing (R70), and is no replay any more. -/
def Slot.enterHandler (c : Slot) (cause : Cause) (info pc : Word) : Slot :=
  { c with trapcause := cause.code.setWidth 64, trappc := pc, trapinfo := info, handler := true, pc := c.tvec, high := 0,
           wait := .none, late := [], refills := false }

/-- Park and notify (R390): the CSRs as for an in-row trap, and the slot issues nothing more. -/
def Slot.parkByPolicy (c : Slot) (cause : Cause) (info pc : Word) : Slot :=
  { c with trapcause := cause.code.setWidth 64, trappc := pc, trapinfo := info, policyPark := true, wait := .none,
           late := [] }

/-- The policy that takes a trap in a slot: an in-row handler without TVEC, or in the handler already, is kill and
report (R112, R387). -/
def State.trapPolicy (s : State) (k : Nat) (region : Nat) (cause : Cause) : Policy :=
  match s.policy region cause with
  | .inRow => if (s.slot k).tvec = 0#64 ∨ (s.slot k).handler = true then .kill else .inRow
  | p => p

/-- A trap of a band that is being killed: in the step of the kill one that selects a kill joins it, an entry or a park takes
effect without a record; a later one is counted (R393). -/
def State.trapKilled (s : State) (k b : Nat) (p : Policy) (cause : Cause) (info pc : Word) : State :=
  if !s.killStep.contains k then s.foldKill b
  else match p with
    | .inRow => s.modSlot k (fun c => c.enterHandler cause info pc)
    | .park => s.modSlot k (fun c => c.parkByPolicy cause info pc)
    | .kill => s.joinKill b ⟨true, cause, pc, info, slotRow k, slotAB k, 0⟩

/-- TakeTrap of R387 with a policy already chosen. -/
def State.trapAs (s : State) (k : Nat) (p : Policy) (cause : Cause) (info pc : Word) : State :=
  match (s.slot k).band, s.bandOf k with
  | some b, some v =>
    let s := s.evField (slotField k) 0x12 cause.code.toNat
    if v.status = .killing then s.trapKilled k b p cause info pc
    else match p with
      | .inRow => s.modSlot k (fun c => c.enterHandler cause info pc)
      | .park =>
        let s := s.modSlot k (fun c => c.parkByPolicy cause info pc)
        s.postFault v.region cause.code.toNat 1 (slotRow k) (slotAB k) 0 v.node b pc info
      | .kill => s.killBand b ⟨true, cause, pc, info, slotRow k, slotAB k, 0⟩
  | _, _ => s

/-- TakeTrap (R387). -/
def State.takeTrap (s : State) (k : Nat) (cause : Cause) (info pc : Word) : State :=
  match s.bandOf k with
  | some v => s.trapAs k (s.trapPolicy k v.region cause) cause info pc
  | none => s

/-- EXIT of a row by the word at `pc` (R140): its slot issues nothing more. -/
def Slot.exitRow (c : Slot) (pc : Word) : Slot := { c with exited := true, exitPc := pc, wait := .none }

/-- Return from the in-row handler by the word at `pc` (R389). -/
def Slot.returnTrap (c : Slot) (pc : Word) : Slot :=
  if c.trappc = exitAddress then { c with handler := false }.exitRow pc
  else ({ c with handler := false } : Slot).goto c.trappc

/-! ### Around every instruction word -/

/-- The operand code of the register an outstanding access will write. -/
def pendDst : PendOp → Option Nat
  | .loadV d _ _ _ => if d < 64 then some (codeV d) else none
  | .loadX d _ _ => some (codeX d)
  | .atomV d _ _ _ _ _ => if d < 64 then some (codeV d) else none
  | .atomX d _ _ _ _ => some (codeX d)
  | .ldd d => some (codeD d)
  | .wld d _ _ _ => some (codeW d)
  | .store => none
  | .red _ _ _ _ _ => none
  | .xbld _ _ => none


/-- Why a word does not perform its effect: a trap with TRAPPC at the word, SWTRAP's trap with TRAPPC behind it,
COUNTERPOISON of a join counter this word finds poisoned (R137, R392), a stall on the empty sources listed, a stall with the
event code that counts the blocked step (0 none), or a wait that holds the word itself (translations, R220; a queue entry, R320). -/
inductive Halt where
  | trap (c : Cause) (info : Word)
  | trapAfter (c : Cause) (info : Word)
  | counter (i : Nat)
  | empty (codes : List Nat)
  | stall (code : Nat)
  | hold (w : Wait)
  deriving DecidableEq, Repr

/-- What a word does: all its reads and checks on the state it issues in, then its writes (R70, R78). -/
abbrev Effect := Except Halt (State → State)

/-- The row's issue goes to a slot: stamped for R19, unless its word has taken it before its translations were known. -/
def Slot.stamp (c : Slot) (clk : Nat) : Slot :=
  { c with lastIssue := if c.selected then c.lastIssue else clk, blocked := [], selected := false }

/-- A word issues: its row slot's PC advances, the issue is stamped and counted. -/
def State.issued (s : State) (k size : Nat) : State :=
  let s := { s with issueClk := s.issueClk + 1 }
  (s.modSlot k (fun c => (c.goto (c.pc + BitVec.ofNat 64 size)).stamp s.issueClk)).evField (slotField k) 0x02 (slotQual k)

/-- A word that traps or goes on waiting takes the row's issue without being counted (R19); a queue entry granted to it and
not used is given up. -/
def State.tookIssue (s : State) (k : Nat) : State :=
  let s := { s with issueClk := s.issueClk + 1 }
  let s := s.leaveLines (fun a => decide (a = .slot k))
  s.modSlot k (fun c => c.stamp s.issueClk)

/-- A fence that reports clears the slot's asyncfault bit (R253). -/
def Slot.clearAsync (c : Slot) (cause : Cause) : Slot := if cause = .asyncfault then { c with asyncfault := false } else c

/-- The word holds its slot; each page it waits for is one miss of the field's TLB, and a queue's line takes it. A word that joins
a line has taken the row's issue (log entry 85). -/
def State.missed (s : State) (k : Nat) (w : Wait) : State :=
  let s := s.modSlot k (fun c => { c with wait := w })
  match w with
  | .walk vas _ => vas.foldl (fun s _ => s.evField (slotField k) 0x0B 0) s
  | .copyQ => { s with copyLine := s.copyLine ++ [.slot k] }
  | .collQ e => { s with collLine := s.collLine ++ [(e, k)] }
  | _ => s

/-- A GATHER-path read of a slot fills one of the registers its next word waits for. -/
def State.waitsOnGather (s : State) (k : Nat) : Bool :=
  (s.slot k).blocked.any (fun code => s.pend.any (fun p => p.slot == k && p.path == 3 && decide (pendDst p.op = some code)))

/-- The urgency test of R226: some slot is resident, and every resident one waits on a gather read. -/
def State.urgencyTest (s : State) (field : Nat) : Bool :=
  let ks := s.slotList.filter (fun k => slotField k == field && (s.bandOf k).isSome && !(s.slot k).exited)
  !ks.isEmpty && ks.all (fun k => s.waitsOnGather k)

/-- An access that returns a value, in a register or at `s`. -/
def PendOp.returns : PendOp → Bool
  | .store | .red _ _ _ _ _ | .xbld _ _ => false
  | _ => true

/-- A gather read of a field: on the GATHER path and with a result. -/
def isGatherRead (field : Nat) (p : Pend) : Bool :=
  slotField p.slot == field && p.path == 3 && p.op.returns

/-- While the test holds, every outstanding gather read of the field is marked. -/
def State.markUrgent (s : State) (field : Nat) : State :=
  if s.urgencyTest field then
    let fresh := s.pend.filter (fun p => isGatherRead field p && !p.urgent)
    let s := fresh.foldl (fun s _ => s.evField field 0x08 0) s
    { s with pend := s.pend.map (fun p => if isGatherRead field p then { p with urgent := true } else p) }
  else s

/-- The end of a word: its effect, a trap, or another wait. -/
def State.finish (s : State) (k size : Nat) (e : Effect) : State :=
  match e with
  | .ok u => u (s.issued k size)
  | .error (.trap c i) => ((s.tookIssue k).modSlot k (fun t => t.clearAsync c)).takeTrap k c i (s.slot k).pc
  | .error (.trapAfter c i) => (s.tookIssue k).takeTrap k c i ((s.slot k).pc + BitVec.ofNat 64 size)
  | .error (.counter i) =>
    ((s.tookIssue k).ctrReport k i (s.slot k).pc).takeTrap k .counterpoison (BitVec.ofNat 64 i) (s.slot k).pc
  | .error (.empty codes) => ((s.modSlot k (fun c => { c with blocked := codes })).evField (slotField k) 5 (slotQual k)).markUrgent
      (slotField k)
  | .error (.hold w) => (s.tookIssue k).missed k w
  | .error (.stall code) => if code = 0 then s else s.evField (slotField k) code (slotQual k)

/-- A pending deferred fault is delivered at the first word that comes to issue with the handler bit clear (R385). -/
def State.deliver (s : State) (k : Nat) (cause : Cause) (info : Word) : State :=
  ((s.tookIssue k).modSlot k (fun c => { c with deferred := none })).takeTrap k cause info (s.slot k).pc

/-- Execute a word of the current row slot whose effect is `e`. -/
def State.issue (s : State) (size : Nat) (e : Nat → State → Effect) : Host.Outcome State Fault Refusal :=
  match s.bandOf s.cur with
  | none => .fault .noRowContext
  | some _ =>
    match (s.slot s.cur).deferred, (s.slot s.cur).handler with
    | some (c, i), false => .next (s.deliver s.cur c i)
    | _, _ => .next (s.finish s.cur size (e s.cur s))

end Sys2Proof.Machine
end

