-- ==== Sys2Proof/Machine/Fetch.lean ====
section
/-!
DEFINITION. Fetching: the registers a band decodes against (spec/03 R67), the slots that may issue, the instruction cache
(spec/09 R214), and how a program comes to run (log entry 2).
-/
namespace Sys2Proof.Machine

/-- The registers a band decodes operand names against (R67). -/
def Band.footprint (b : Band) : Footprint := ⟨b.vregs, b.wregs, b.aregs, b.dregs⟩

/-- A slot can issue: its band runs, it waits for nothing, and the device issues (R13, R140, R390, R403). -/
def State.runnable (s : State) (k : Nat) : Bool :=
  match s.bandOf k with
  | none => false
  | some b =>
    let c := s.slot k
    s.live && decide (b.status = .running) && !c.exited && !c.policyPark && decide (c.wait = .none)

/-- The word at a slot's PC, decoded, if its field's instruction cache holds it (R214). -/
def State.fetch (s : State) (k : Nat) : Option Instr :=
  match s.bandOf k with
  | none => none
  | some b =>
    let pc := (s.slot k).pc
    match (if (s.slot k).high = 0 then Tab.get none s.icache (icKey (slotField k) b.asid pc) else none) with
    | none => none
    | some w =>
      if wordIsExtended w then
        match Tab.get none s.icache (icKey (slotField k) b.asid (pc + 8)) with
        | none => none
        | some l => some (decodeIn b.footprint w l)
      else some (decodeIn b.footprint w 0)

/-- A band of one row in slot A of row 0 with a full footprint, whose program has been loaded from outside the machine
(log entry 2). -/
def fetchBand : Band :=
  { node := 0, region := 0, asid := 0, slotAB := 0, row0 := 0, height := 1, linked := false, vregs := 64, wregs := 4,
    aregs := 4, dregs := 8, entry := 0, arg := 0, psize := 0, batch := 0, chunk0 := 0, chunks := 0, winChunk := 0,
    winChunks := 0, reccount := 0, stride := 16, depth := 0, windowHeld := false, records := [], status := .running,
    due := false, suspend := false, victimOf := none, kill := none, zen := Edge.empty, nad := Edge.empty, barriers := [] }

/-- The row slot of that band ready to issue. -/
def Slot.readied (c : Slot) : Slot :=
  { c with band := some 1, exited := false, policyPark := false, wait := .none, deferred := none, lastIssue := 0,
           selected := false, high := 0, busy := [] }

/-- Two words placed at the PC of slot A of row 0, and the row's issue next on the agenda. -/
def State.placeWords (s : State) (v : Nat) : State :=
  let t := (s.setBand 1 (some fetchBand)).modSlot 0 Slot.readied
  let pc := (t.slot 0).pc
  { t with
    slots := Tab.set Slot.empty t.slots 1 Slot.empty
    power := .running
    rowsDone := []
    backoff := t.backoff.filter (fun b => b.2 ≠ .slot 0)
    icache := Tab.set none (Tab.set none t.icache (icKey 0 0 pc) (some (BitVec.ofNat 64 v))) (icKey 0 0 (pc + 8))
      (some (BitVec.ofNat 64 (v / 2 ^ 64)))
    agenda := [.row 0] }

end Sys2Proof.Machine
end

