-- ==== Sys2Proof/Machine/Operands.lean ====
section
/-!
DEFINITION. Operands: source modes and readiness (spec/03 R69-R71, spec/02 R60), the values sources read, ports (spec/01
R14-R16, R21; spec/08 R179, R184, R198), and the writing of destinations (R61).
-/
namespace Sys2Proof.Machine

/-! ### Readiness -/

/-- One register a word reads: the TRAPINFO bit of its field (0 A, 1 B, 2 C), its mode and operand code. -/
structure Use where
  bit  : Nat
  mode : SrcMode
  code : Nat
  deriving DecidableEq, Repr

def xUse (bit : Nat) (a : XSrc) : List Use :=
  match a.name with
  | .x i => if i = 0 then [] else [⟨bit, a.mode, codeX i⟩]
  | .rowid => []

def opUse (b : XOp) : List Use :=
  match b with
  | .reg s => xUse 1 s
  | _ => []

def vUse (bit : Nat) (a : VSrc) : List Use :=
  match a.name with
  | .v i => [⟨bit, a.mode, codeV i⟩]
  | .n => [⟨bit, a.mode, codeN⟩]
  | .lane => []

def vopUse (b : VOp) : List Use :=
  match b with
  | .reg s => vUse 1 s
  | _ => []

def rUse (bit : Nat) (a : RSrc) : List Use := [⟨bit, a.mode, codeV a.reg⟩]

/-- A group of `n` consecutive lane registers read through one field (R70). -/
def rUses (bit n : Nat) (a : RSrc) : List Use := (List.range n).map (fun i => ⟨bit, a.mode, codeV (a.reg + i)⟩)

def aUse (bit : Nat) (a : ASrc) : List Use := [⟨bit, a.mode, codeA a.reg⟩]
def wUse (bit : Nat) (a : WSrc) : List Use := [⟨bit, a.mode, codeW a.reg⟩]
def dUse (bit : Nat) (a : DSrc) : List Use := [⟨bit, a.mode, codeD a.reg⟩]

/-- An implied wait-mode source. -/
def impliedUse (code : Nat) : List Use := [⟨3, .wait, code⟩]

/-- A destination whose old tag or scale a word reads: no source that is waited for, but an uncorrectable one traps (R386). -/
def readUse (code : Nat) : List Use := [⟨3, .peek, code⟩]

/-! ### Ports -/

/-- The kind of a port value. -/
def PortBody.kind : PortBody → PortKind
  | .v _ => .vv
  | .acc _ => .acc
  | .w _ => .wc

/-- The body of a w chunk in the cell of an inactive lane: zero (R179). -/
def WReg.blank : WReg := ⟨0, 0, false, .raw, 0⟩

/-- What a peek of `n` returns when nothing has arrived and nothing was taken (R60): a v value of zero bits. -/
def PortVal.none_ : PortVal := ⟨false, .v [], false⟩

/-- An edge is bound: it has a binding, or one queued behind the one that has ended. -/
def Edge.bound (e : Edge) : Bool := e.cur.isSome || e.queued.isSome

/-- A read of `n` by a slot is unbound (R21, R22): TRAPINFO's detail. -/
def State.northUnbound (s : State) (k : Nat) : Option Word :=
  match s.bandOf k with
  | none => some 2
  | some b =>
    if !b.linked then some 2
    else if b.rowIndex (slotRow k) = 0 ∧ b.zen.bound = false then some 0
    else none

/-- The slot whose south port a slot reads. -/
def northSlot (k : Nat) : Nat := slotKey ((slotRow k + 4095) % 4096) (slotAB k)

/-- The value at the head of the north port, if one has arrived. -/
def State.northHead (s : State) (k : Nat) : Option PortVal :=
  match s.bandOf k with
  | none => none
  | some b =>
    if b.rowIndex (slotRow k) = 0 then b.zen.buf.head?.map StreamVal.val
    else match (s.slot (northSlot k)).south with
      | e :: _ => if e.arrived then some e.val else none
      | [] => none

/-- What a peek of `n` reads (R60). -/
def State.northPeek (s : State) (k : Nat) : PortVal :=
  (s.northHead k).getD ((s.slot k).lastTaken.getD PortVal.none_)

/-- The bytes of one value of a kind (R197). -/
def portBytes : PortKind → Nat
  | .vv => 8
  | _ => 64

/-- The element bits a tensor descriptor counts (R260): 48 for ACC48, in a stream too (log entry 25). -/
def elemBits (f : Fmt) : Nat := if f = .pl16 then 2 else if f = .raw then 8 else f.bits

/-- Tensor descriptor fields (Table 10.6). -/
def tdFmt (d : Desc) : Fmt := Fmt.ofCode (BitVec.ofNat 4 (bitsOf d.toNat 59 56))
def tdRank (d : Desc) : Nat := bitsOf d.toNat 55 53 + 1
def tdExtent (d : Desc) (i : Nat) : Nat := bitsOf d.toNat (128 + 16 * i + 15) (128 + 16 * i)
def tdStride (d : Desc) (i : Nat) : Nat := bitsOf d.toNat (256 + 32 * (i - 1) + 31) (256 + 32 * (i - 1))
def tdBase (d : Desc) : Nat := bitsOf d.toNat 120 64
def tdBitoff (d : Desc) : Nat := bitsOf d.toNat 52 50
def tdLocal (d : Desc) : Bool := d.getLsbD 49
def tdScale (d : Desc) : BitVec 8 := BitVec.ofNat 8 (bitsOf d.toNat 47 40)
def tdSoff (d : Desc) : Int := signedOf 32 (bitsOf d.toNat 31 0)

/-- Elements of a tensor: the product of the extents below its rank. -/
def tdCount (d : Desc) : Nat := ((List.range (tdRank d)).map (tdExtent d)).foldl (· * ·) 1

/-- Total bytes of a tensor (R197, R198). -/
def tdBytes (d : Desc) : Nat := tdCount d * elemBits (tdFmt d) / 8

/-- The port values a binding carries (R198). -/
def Binding.total (b : Binding) : Nat := tdBytes b.desc / (64 * portBytes b.kind)

/-- An edge after one more value has passed: the position rises, and a binding that has passed all its values ends. -/
def Edge.pass (e : Edge) : Edge :=
  match e.cur with
  | none => e
  | some b =>
    let b' := { b with passed := b.passed + 1 }
    { e with cur := if b.total ≤ b'.passed then none else some b', position := e.position + 1 }

/-- The slot takes the value at the head of its north port (R16, R179). -/
def State.northTake (s : State) (k : Nat) : State :=
  match s.bandOf k, s.northHead k with
  | some b, some v =>
    let s := s.modSlot k (fun c => { c with lastTaken := some v })
    if b.rowIndex (slotRow k) = 0 then
      s.modBandOf k (fun b => { b with zen := { b.zen with buf := b.zen.buf.drop 1 }.pass })
    else s.modSlot (northSlot k) (fun c => { c with south := c.south.drop 1 })
  | _, _ => s

/-- A write of `s` is unbound (R21, R22). -/
def State.southUnbound (s : State) (k : Nat) : Option Word :=
  match s.bandOf k with
  | none => some 2
  | some b =>
    if !b.linked then some 2
    else if b.rowIndex (slotRow k) + 1 = b.height ∧ b.nad.bound = false then some 1
    else none

/-- The depth of a row's south port (Table 1.2). -/
def portDepth (row : Nat) : Nat := if row % 64 ≠ 63 then 1 else if row % 512 ≠ 511 then 2 else 8

/-- The port of a slot holds its depth of values, reservations included (R16, R184); the nadir drain accepts up to 8
values not yet written (R198), and none while no binding is current. -/
def State.southFull (s : State) (k : Nat) : Bool :=
  match s.bandOf k with
  | none => true
  | some b =>
    let c := s.slot k
    if b.rowIndex (slotRow k) + 1 = b.height then
      match b.nad.cur with
      | none => true
      | some n => !n.entry || decide (8 ≤ b.nad.buf.length + c.reserved.length)
          || decide (n.total ≤ n.passed + c.reserved.length)
    else decide (portDepth (slotRow k) ≤ c.south.length + c.reserved.length)

/-- The kind a port accepts: the nadir drain's binding fixes it (R194). -/
def State.southKindOk (s : State) (k : Nat) (kind : PortKind) : Bool :=
  match s.bandOf k with
  | none => true
  | some b =>
    if b.rowIndex (slotRow k) + 1 = b.height then
      match b.nad.cur with
      | some n => decide (n.kind = kind)
      | none => true
    else true

/-- The nadir drain accepts a value of its binding. -/
def Edge.accept (e : Edge) (v : PortVal) : Edge :=
  match e.cur with
  | some n =>
    let q : StreamVal := ⟨n.desc, n.slot, n.since, n.passed, v⟩
    ({ e with buf := e.buf ++ [q] } : Edge).pass
  | none => e

/-- Place a value in the port, in flight, or in the nadir drain. -/
def State.southPlace (s : State) (k : Nat) (v : PortVal) : State :=
  match s.bandOf k with
  | none => s
  | some b =>
    if b.rowIndex (slotRow k) + 1 = b.height then
      s.modBandOf k (fun b => { b with nad := b.nad.accept v })
    else s.modSlot k (fun c => { c with south := c.south ++ [⟨v, false⟩] })

/-- The entry reserved first, where its value is there (R184). -/
def nextResult (rs : List Reserved) : Option Reserved :=
  match rs with
  | r :: _ => if r.await = none ∧ r.left ≤ 0 then some r else none
  | [] => none

/-- The value reserved first is written to the port. -/
def State.writeResult (s : State) (k : Nat) (r : Reserved) : State :=
  (s.modSlot k (fun c => { c with reserved := c.reserved.drop 1 })).southPlace k r.val

/-- A value written in its word's issue step, behind the entries that earlier words have reserved (R16, R184, R194, R201). -/
def State.southPut (s : State) (k : Nat) (v : PortVal) : State :=
  if (s.slot k).reserved = [] then s.southPlace k v
  else s.modSlot k (fun c => { c with reserved := c.reserved ++ [⟨none, 0, v⟩] })

/-- Reserve a port entry for a result that a latency delivers (R15, R184). -/
def State.southReserve (s : State) (k lat : Nat) (v : PortVal) : State :=
  s.modSlot k (fun c => { c with reserved := c.reserved ++ [⟨none, lat, v⟩] })

/-- Reserve a port entry for the result of the access about to take number `nextId`. -/
def State.southAwait (s : State) (k : Nat) : State :=
  s.modSlot k (fun c => { c with reserved := c.reserved ++ [⟨some s.nextId, 0, PortVal.none_⟩] })

/-! ### The checks before a word reads (R70, R108, R386) -/

/-- A used register is empty; for `n`, no value has arrived. -/
def Use.empty (u : Use) (s : State) (k : Nat) : Bool :=
  if u.code = codeN then (s.northHead k).isNone else (s.slot k).isEmpty u.code

/-- A used register or port value is uncorrectable. -/
def Use.bad (u : Use) (s : State) (k : Nat) : Bool :=
  if u.code = codeN then (if u.mode = .peek then (s.northPeek k).bad else ((s.northHead k).map PortVal.bad).getD false)
  else (s.slot k).softErr.contains (BitVec.ofNat 7 u.code)

/-- TRAPINFO of EMPTYSRC: the fields of the empty trap-mode sources (Table 16.1). -/
def emptyInfo (s : State) (k : Nat) (us : List Use) : Word :=
  us.foldl (fun w u => if u.mode = .trap ∧ u.empty s k = true then w ||| (1#64 <<< u.bit) else w) 0#64

/-- The operand codes a word waits for. -/
def emptyCodes (s : State) (k : Nat) (us : List Use) : List Nat :=
  (us.filter (fun u => (decide (u.mode = .wait) || decide (u.mode = .take)) && u.empty s k)).map Use.code

/-- EMPTYSRC of trap-mode sources; the waits of wait-mode and take-mode sources (the event code tells an empty source),
and of destinations with a long-latency write pending; POISON of an uncorrectable register (R70, R108, R386). -/
def State.ready (s : State) (k : Nat) (us : List Use) (dsts : List Nat) : Except Halt Unit :=
  if us.any (fun u => decide (u.mode = .trap) && u.empty s k) then .error (.trap .emptysrc (emptyInfo s k us))
  else if us.any (fun u => (decide (u.mode = .wait) || decide (u.mode = .take)) && u.empty s k) then .error (.empty (emptyCodes s k us))
  else if dsts.any (fun d => (s.slot k).isPend d) then .error (.stall 0)
  else match us.find? (fun u => u.bad s k) with
    | some u => .error (.trap .poison ((1#64 <<< 63) ||| BitVec.ofNat 64 u.code))
    | none => .ok ()

/-- The registers that a word's take-mode sources empty. -/
def tookCodes (us : List Use) : List Nat :=
  (us.filter (fun u => decide (u.mode = .take) && decide (u.code ≠ codeN))).map Use.code

/-- The takes of a word that performs its effect: registers in take mode become empty, a value of `n` is consumed by
every mode but peek (R69, R70). -/
def Slot.takes (c : Slot) (us : List Use) : Slot :=
  us.foldl (fun c u => if u.mode = .take ∧ u.code ≠ codeN then c.setEmpty u.code true else c) c

def State.takes (s : State) (k : Nat) (us : List Use) : State :=
  let s := s.modSlot k (fun c => c.takes us)
  if us.any (fun u => decide (u.code = codeN) && decide (u.mode ≠ .peek)) then s.northTake k else s

/-- `n` consumed only: what a lane instruction with an empty mask does not do (R122). -/
def State.takesMasked (s : State) (k : Nat) (us : List Use) (m : Mask) : State :=
  if m = 0#64 then s.modSlot k (fun c => c.takes us) else s.takes k us

/-! ### Values -/

/-- The value of an x source (R60). -/
def Slot.xval (c : Slot) (k : Nat) (a : XSrc) : Word :=
  match a.name with
  | .x i => c.xr i
  | .rowid => BitVec.ofNat 64 (slotRow k)

/-- Operand B: a register, the sign-extended immediate, or the literal (R72, R74). -/
def Slot.opval (c : Slot) (k : Nat) (b : XOp) : Word :=
  match b with
  | .reg s => c.xval k s
  | .imm i => i.signExtend 64
  | .lit w => w

/-- The bytes of a word with operand B: 16 with a literal (R62). -/
def opSize : XOp → Nat
  | .lit _ => 16
  | _ => 8

def vopSize : VOp → Nat
  | .lit _ => 16
  | _ => 8

/-- The lane value of a port value of kind v (R145). -/
def PortVal.lane (v : PortVal) (l : Nat) : LaneReg :=
  match v.body with
  | .v t => Tab.get LaneReg.zero t l
  | _ => LaneReg.zero

/-- The ACC vector of a port value in a lane. -/
def PortVal.acc (v : PortVal) (l : Nat) : BitVec 384 :=
  match v.body with
  | .acc t => Tab.get 0#384 t l
  | _ => 0#384

/-- The w chunk of a port value in a lane. -/
def PortVal.chunk (v : PortVal) (l : Nat) : WReg :=
  match v.body with
  | .w t => Tab.get WReg.blank t l
  | _ => WReg.blank

/-- The value of `n` a source of a mode reads. -/
def State.northVal (s : State) (k : Nat) (m : SrcMode) : PortVal :=
  if m = .peek then s.northPeek k else (s.northHead k).getD PortVal.none_

/-- A lane source's register in lane `l`. -/
def State.vval (s : State) (k : Nat) (a : VSrc) (l : Nat) : LaneReg :=
  match a.name with
  | .v i => (s.slot k).vr i l
  | .n => (s.northVal k a.mode).lane l
  | .lane => laneNumber l

/-- Operand B of a lane instruction in a lane whose A tag is `t` (R72, R74, R149). -/
def State.vopval (s : State) (k : Nat) (b : VOp) (t : Fmt) (l : Nat) : LaneReg :=
  match b with
  | .reg v => s.vval k v l
  | .imm i => laneImm t i
  | .lit w => laneLit t w

/-- PORTUNBOUND of the sources that name `n`. -/
def State.checkNorth (s : State) (k : Nat) (us : List Use) : Except Halt Unit :=
  if us.any (fun u => decide (u.code = codeN)) then
    match s.northUnbound k with
    | some i => .error (.trap .portunbound i)
    | none => .ok ()
  else .ok ()

/-- The kind of the value a source takes or peeks from `n` (R179). -/
def State.checkKind (s : State) (k : Nat) (us : List Use) (kind : PortKind) : Except Halt Unit :=
  match us.find? (fun u => decide (u.code = codeN)) with
  | some u =>
    if (s.northVal k u.mode).body.kind = kind then .ok ()
    else .error (.trap .tagmismatch (BitVec.allOnes 64))
  | none => .ok ()

/-- Room in the port, then the nadir's kind (R194), for a word that writes `s`. -/
def State.checkSouth (s : State) (k : Nat) (kind : PortKind) : Except Halt Unit :=
  if s.southFull k then .error (.stall 6)
  else if !s.southKindOk k kind then .error (.trap .tagmismatch (BitVec.allOnes 64))
  else .ok ()

def State.checkSouthBound (s : State) (k : Nat) (south : Bool) : Except Halt Unit :=
  match (if south then s.southUnbound k else none) with
  | some i => .error (.trap .portunbound i)
  | none => .ok ()

/-- What a lane word passes before its own checks: PORTUNBOUND of the ports it names, readiness, and, with an active lane
(R122), room in the port it writes and the kind of the port value it reads (R70, R145; log entry 21). -/
def State.portReady (s : State) (k : Nat) (us : List Use) (dsts : List Nat) (south : Option PortKind) (north : PortKind)
    (m : Mask) : Except Halt Unit := do
  s.checkNorth k us
  s.checkSouthBound k south.isSome
  s.ready k us dsts
  if m = 0#64 then .ok ()
  else do
    (match south with
      | some kind => s.checkSouth k kind
      | none => .ok ())
    s.checkKind k us north

/-- The same for values of kind v (R145). -/
def State.laneReady (s : State) (k : Nat) (us : List Use) (dsts : List Nat) (south : Bool) (m : Mask) : Except Halt Unit :=
  s.portReady k us dsts (if south then some .vv else none) .vv m

/-! ### Writing lane results -/

/-- One lane's result into a lane register; the scale stays where the entry sets none (R148). -/
def Slot.putLane (c : Slot) (i l : Nat) (o : LaneOut) : Slot :=
  let old := c.vr i l
  let c := c.setV i l ⟨o.bits, o.tag, o.scale.getD old.scale⟩
  { c with rng := Tab.set 0#64 c.rng l o.rng, lanestat := c.lanestat ||| o.fl.setWidth 64 }

/-- The results of the active lanes into v register `i`, which ends full. -/
def Slot.putLanes (c : Slot) (i : Nat) (outs : List (Nat × LaneOut)) : Slot :=
  let c := (outs.foldl (fun c p => c.putLane i p.1 p.2) c).setEmpty (codeV i) false
  if outs.length = 64 then c.clearErr (codeV i) else c

/-- The flags and RNG states of results that go to the port. -/
def Slot.laneEffects (c : Slot) (outs : List (Nat × LaneOut)) : Slot :=
  outs.foldl (fun c p => { c with rng := Tab.set 0#64 c.rng p.1 p.2.rng,
                                  lanestat := c.lanestat ||| p.2.fl.setWidth 64 }) c

/-- The port value of kind v that lane results make (R145). -/
def portOfLanes (outs : List (Nat × LaneOut)) : PortVal :=
  ⟨false, .v (Tab.ofList LaneReg.zero (outs.map (fun p => (p.1, ⟨p.2.bits, p.2.tag, p.2.scale.getD 0x7F#8⟩)))), false⟩

/-- The operand code of a v destination register. -/
def dstCodes : VDst → List Nat
  | .v i => [codeV i]
  | .s => []

def dstIsS : VDst → Bool
  | .s => true
  | .v _ => false

/-- Write the results of the active lanes to a v destination: a register, or the south port after the instruction's
latency (R61, R145, R184). -/
def State.putV (s : State) (k lat : Nat) (d : VDst) (outs : List (Nat × LaneOut)) : State :=
  match d with
  | .v i => s.modSlot k (fun c => c.putLanes i outs)
  | .s =>
    if outs = [] then s
    else (s.modSlot k (fun c => c.laneEffects outs)).southReserve k lat (portOfLanes outs)

/-- VINS's write: a port value goes out whenever a lane is active, even where the lane it sets is not among them. What the
other active lanes carry there the spec does not say: zero bits, tag RAW, scale 0x7F are the model's choice (log entry 90). -/
def State.putIns (s : State) (k : Nat) (d : VDst) (m : Mask) (outs : List (Nat × LaneOut)) : State :=
  match d with
  | .v i => s.modSlot k (fun c => c.putLanes i outs)
  | .s => if m = 0#64 then s else (s.modSlot k (fun c => c.laneEffects outs)).southReserve k 2 (portOfLanes outs)

/-- Run a lane function over the active lanes: the failing lanes, or every lane's result. -/
def runLanes {α : Type} (m : Mask) (f : Nat → Option α) : Except Mask (List (Nat × α)) :=
  let rs := (lanesOf m).map (fun l => (l, f l))
  let bad := (rs.filter (fun p => p.2.isNone)).map Prod.fst
  if bad = [] then .ok (rs.filterMap (fun p => p.2.map (fun o => (p.1, o))))
  else .error (maskOf bad)

/-- The failing lanes of a lane instruction trap TAGMISMATCH (R147). -/
def tagCheck {α : Type} (r : Except Mask α) : Except Halt α :=
  match r with
  | .ok a => .ok a
  | .error m => .error (.trap .tagmismatch m)

end Sys2Proof.Machine
end

