-- ==== Sys2Proof/Machine/Flags.lean ====
section
/-!
DEFINITION. What rounding and flags take from a row slot: the rounding context of a lane instruction (spec/02 R47-R54,
spec/05 Table 5.4) and the writable bits of the CSRs.
-/
namespace Sys2Proof.Machine

/-- The rounding context of a lane instruction at its issue (R48, R114). -/
def Slot.ctx (c : Slot) (rm : RMode) (sat un : Bool) : RoundCtx := ⟨c.fpmode, rm.resolve c.fpmode, sat, un⟩

/-- FPMODE's RW bits (Table 5.4). -/
def fpmodeMask : Word := 0x77#64

/-- LANESTAT's RW bits (Table 5.5). -/
def lanestatMask : Word := 0x3F#64

/-- The RW bits of TRAPPC and TVEC (Table 5.3). -/
def pcMask : Word := 0x01FFFFFFFFFFFFF8#64

/-- The RW bits of TRAPCAUSE. -/
def causeMask : Word := 0xFF#64

/-- Write the RW bits of a field, keep the others (R5, R6, R116). -/
def maskWrite (mask old new : Word) : Word := (old &&& ~~~mask) ||| (new &&& mask)

end Sys2Proof.Machine
end

