-- ==== Sys2Proof/Machine/Scalar.lean ====
section
/-!
DEFINITION. Group 0: the integer and address instructions (spec/06 R121-R127).
-/
namespace Sys2Proof.Machine

/-- A scalar word with sources `us` and x destination `d` that writes `f` of the slot's registers (R121): checks, then
takes and the write. -/
def scalarEffect (us : List Use) (d : Fin 32) (f : Slot → Word) (k : Nat) (s : State) : Effect :=
  match s.ready k us [codeX d] with
  | .error h => .error h
  | .ok _ =>
    let v := f (s.slot k)
    .ok (fun t => (t.takes k us).modSlot k (fun c => c.setX d v))

/-- The two-operand form. -/
def aluEffect (f : Word → Word → Word) (d : Fin 32) (a : XSrc) (b : XOp) (k : Nat) (s : State) : Effect :=
  scalarEffect (xUse 0 a ++ opUse b) d (fun c => f (c.xval k a) (c.opval k b)) k s

/-- The one-operand form. -/
def unaryEffect (f : Word → Word) (d : Fin 32) (a : XSrc) (k : Nat) (s : State) : Effect :=
  scalarEffect (xUse 0 a) d (fun c => f (c.xval k a)) k s

/-! ### Values (Table 6.3) -/

def aluMulh (a b : Word) : Word := BitVec.ofInt 64 (a.toInt * b.toInt / 2 ^ 64)
def aluMulhn (a b : Word) : Word := BitVec.ofNat 64 (a.toNat * b.toNat / 2 ^ 64)
/-- Quotient rounded toward zero, of the signed readings (R126). -/
def aluDiv (a b : Word) : Word := BitVec.ofInt 64 (Int.tdiv a.toInt b.toInt)
def aluRem (a b : Word) : Word := BitVec.ofInt 64 (Int.tmod a.toInt b.toInt)
def aluDivn (a b : Word) : Word := BitVec.ofNat 64 (a.toNat / b.toNat)
def aluRemn (a b : Word) : Word := BitVec.ofNat 64 (a.toNat % b.toNat)
def shAmount (b : Word) : Nat := b.toNat % 64
def aluRot (a b : Word) : Word := (a <<< shAmount b) ||| (a >>> ((64 - shAmount b) % 64))
def aluMin (a b : Word) : Word := if a.toInt ≤ b.toInt then a else b
def aluMax (a b : Word) : Word := if a.toInt ≤ b.toInt then b else a
def aluMinn (a b : Word) : Word := if a.toNat ≤ b.toNat then a else b
def aluMaxn (a b : Word) : Word := if a.toNat ≤ b.toNat then b else a
def aluClz (a : Word) : Word := if a = 0#64 then 64#64 else BitVec.ofNat 64 (63 - Nat.log2 a.toNat)
/-- Zero bits below the lowest set bit. -/
def ctzFrom (a : Nat) : Nat → Nat
  | 0 => 0
  | n + 1 => if a % 2 = 1 then 0 else 1 + ctzFrom (a / 2) n
def aluCtz (a : Word) : Word := BitVec.ofNat 64 (ctzFrom a.toNat 64)
/-- Set bits of a number below bit `n`. -/
def popFrom (a : Nat) : Nat → Nat
  | 0 => 0
  | n + 1 => a % 2 + popFrom (a / 2) n
def aluPopc (a : Word) : Word := BitVec.ofNat 64 (popFrom a.toNat 64)
def boolWord (b : Bool) : Word := if b then 1#64 else 0#64

/-- BFX (R127): the field of A at position B[5:0] of length min(B[14:8], 64). -/
def bfxPos (b : Word) : Nat := bitsOf b.toNat 5 0
def bfxLen (b : Word) : Nat := min (bitsOf b.toNat 14 8) 64
def aluBfx (sx : Bool) (a b : Word) : Word :=
  let f := a.toNat / 2 ^ bfxPos b % 2 ^ bfxLen b
  if sx ∧ 0 < bfxLen b ∧ Nat.testBit f (bfxLen b - 1) = true then BitVec.ofInt 64 ((f : Int) - (2 ^ bfxLen b : Nat))
  else BitVec.ofNat 64 f

/-- BFI (R127). -/
def aluBfi (old a b : Word) : Word :=
  let m := BitVec.ofNat 64 ((2 ^ bfxLen b - 1) * 2 ^ bfxPos b)
  (old &&& ~~~m) ||| (BitVec.ofNat 64 (a.toNat * 2 ^ bfxPos b) &&& m)

/-- A division: DIVZERO when B is 0 (R126), after the sources are ready. -/
def divEffect (f : Word → Word → Word) (d : Fin 32) (a : XSrc) (b : XOp) (k : Nat) (s : State) : Effect :=
  match s.ready k (xUse 0 a ++ opUse b) [codeX d] with
  | .error h => .error h
  | .ok _ =>
    if (s.slot k).opval k b = 0#64 then .error (.trap .divzero 0#64)
    else aluEffect f d a b k s

def selEffect (d : Fin 32) (a : XSrc) (b : XOp) (c : XSrc) (k : Nat) (s : State) : Effect :=
  scalarEffect (xUse 0 a ++ opUse b ++ xUse 2 c) d
    (fun t => if t.xval k a ≠ 0#64 then t.opval k b else t.xval k c) k s

def maddEffect (d : Fin 32) (a : XSrc) (b : XOp) (c : XSrc) (k : Nat) (s : State) : Effect :=
  scalarEffect (xUse 0 a ++ opUse b ++ xUse 2 c) d (fun t => t.xval k a * t.opval k b + t.xval k c) k s

/-- The implied wait-mode source of BFI: D, where it is a register that can be empty. -/
def bfiUses (d : Fin 32) (a b : XSrc) : List Use :=
  xUse 0 a ++ xUse 1 b ++ (if d = 0 then [] else impliedUse (codeX d))

def bfiEffect (d : Fin 32) (a : XSrc) (b : XSrc) (k : Nat) (s : State) : Effect :=
  scalarEffect (bfiUses d a b) d (fun c => aluBfi (c.xr d) (c.xval k a) (c.xval k b)) k s

def leaEffect (d : Fin 32) (a : XSrc) (b : XOp) (j : Fin 8) (k : Nat) (s : State) : Effect :=
  aluEffect (fun x y => x + (y <<< j.val)) d a b k s

/-! ### Meanings -/

/-- NOP (R125). -/
def execNop (s : State) : Host.Outcome State Fault Refusal := s.issue 8 (fun _ _ => .ok id)
def addOp (a b : Word) : Word := a + b
def subOp (a b : Word) : Word := a - b
def mulOp (a b : Word) : Word := a * b
def andOp (a b : Word) : Word := a &&& b
def orOp (a b : Word) : Word := a ||| b
def xorOp (a b : Word) : Word := a ^^^ b
def andnOp (a b : Word) : Word := a &&& ~~~b
def shlOp (a b : Word) : Word := a <<< shAmount b
def shrOp (a b : Word) : Word := a >>> shAmount b
def sarOp (a b : Word) : Word := a.sshiftRight (shAmount b)
def seqOp (a b : Word) : Word := boolWord (decide (a = b))
def sneOp (a b : Word) : Word := boolWord (decide (a ≠ b))
def sltOp (a b : Word) : Word := boolWord (decide (a.toInt < b.toInt))
def sltnOp (a b : Word) : Word := boolWord (decide (a.toNat < b.toNat))
def sleOp (a b : Word) : Word := boolWord (decide (a.toInt ≤ b.toInt))
def slenOp (a b : Word) : Word := boolWord (decide (a.toNat ≤ b.toNat))

def execAdd (d : Fin 32) (a : XSrc) (b : XOp) (s : State) := s.issue (opSize b) (aluEffect addOp d a b)
def execSub (d : Fin 32) (a : XSrc) (b : XOp) (s : State) := s.issue (opSize b) (aluEffect subOp d a b)
def execMul (d : Fin 32) (a : XSrc) (b : XOp) (s : State) := s.issue (opSize b) (aluEffect mulOp d a b)
def execMulh (d : Fin 32) (a : XSrc) (b : XOp) (s : State) := s.issue (opSize b) (aluEffect aluMulh d a b)
def execMulhn (d : Fin 32) (a : XSrc) (b : XOp) (s : State) := s.issue (opSize b) (aluEffect aluMulhn d a b)
def execDiv (d : Fin 32) (a : XSrc) (b : XOp) (s : State) := s.issue (opSize b) (divEffect aluDiv d a b)
def execDivn (d : Fin 32) (a : XSrc) (b : XOp) (s : State) := s.issue (opSize b) (divEffect aluDivn d a b)
def execRem (d : Fin 32) (a : XSrc) (b : XOp) (s : State) := s.issue (opSize b) (divEffect aluRem d a b)
def execRemn (d : Fin 32) (a : XSrc) (b : XOp) (s : State) := s.issue (opSize b) (divEffect aluRemn d a b)
def execAnd (d : Fin 32) (a : XSrc) (b : XOp) (s : State) := s.issue (opSize b) (aluEffect andOp d a b)
def execOr (d : Fin 32) (a : XSrc) (b : XOp) (s : State) := s.issue (opSize b) (aluEffect orOp d a b)
def execXor (d : Fin 32) (a : XSrc) (b : XOp) (s : State) := s.issue (opSize b) (aluEffect xorOp d a b)
def execAndn (d : Fin 32) (a : XSrc) (b : XOp) (s : State) := s.issue (opSize b) (aluEffect andnOp d a b)
def execShl (d : Fin 32) (a : XSrc) (b : XOp) (s : State) := s.issue (opSize b) (aluEffect shlOp d a b)
def execShr (d : Fin 32) (a : XSrc) (b : XOp) (s : State) := s.issue (opSize b) (aluEffect shrOp d a b)
def execSar (d : Fin 32) (a : XSrc) (b : XOp) (s : State) := s.issue (opSize b) (aluEffect sarOp d a b)
def execRot (d : Fin 32) (a : XSrc) (b : XOp) (s : State) := s.issue (opSize b) (aluEffect aluRot d a b)
def execMin (d : Fin 32) (a : XSrc) (b : XOp) (s : State) := s.issue (opSize b) (aluEffect aluMin d a b)
def execMax (d : Fin 32) (a : XSrc) (b : XOp) (s : State) := s.issue (opSize b) (aluEffect aluMax d a b)
def execMinn (d : Fin 32) (a : XSrc) (b : XOp) (s : State) := s.issue (opSize b) (aluEffect aluMinn d a b)
def execMaxn (d : Fin 32) (a : XSrc) (b : XOp) (s : State) := s.issue (opSize b) (aluEffect aluMaxn d a b)
def execClz (d : Fin 32) (a : XSrc) (s : State) := s.issue 8 (unaryEffect aluClz d a)
def execCtz (d : Fin 32) (a : XSrc) (s : State) := s.issue 8 (unaryEffect aluCtz d a)
def execPopc (d : Fin 32) (a : XSrc) (s : State) := s.issue 8 (unaryEffect aluPopc d a)
def execSeq (d : Fin 32) (a : XSrc) (b : XOp) (s : State) := s.issue (opSize b) (aluEffect seqOp d a b)
def execSne (d : Fin 32) (a : XSrc) (b : XOp) (s : State) := s.issue (opSize b) (aluEffect sneOp d a b)
def execSlt (d : Fin 32) (a : XSrc) (b : XOp) (s : State) := s.issue (opSize b) (aluEffect sltOp d a b)
def execSltn (d : Fin 32) (a : XSrc) (b : XOp) (s : State) := s.issue (opSize b) (aluEffect sltnOp d a b)
def execSle (d : Fin 32) (a : XSrc) (b : XOp) (s : State) := s.issue (opSize b) (aluEffect sleOp d a b)
def execSlen (d : Fin 32) (a : XSrc) (b : XOp) (s : State) := s.issue (opSize b) (aluEffect slenOp d a b)
def execSel (d : Fin 32) (a : XSrc) (b : XOp) (c : XSrc) (s : State) := s.issue (opSize b) (selEffect d a b c)
def execLea (d : Fin 32) (a : XSrc) (b : XOp) (j : Fin 8) (s : State) := s.issue (opSize b) (leaEffect d a b j)
def execMov (d : Fin 32) (a : XSrc) (s : State) := s.issue 8 (unaryEffect id d a)
/-- LI (R125): the immediate or the literal. -/
def execLi (d : Fin 32) (b : XOp) (s : State) :=
  s.issue (opSize b) (fun k s => scalarEffect (opUse b) d (fun c => c.opval k b) k s)
def execBfx (d : Fin 32) (a b : XSrc) (sx : Bool) (s : State) :=
  s.issue 8 (fun k s => aluEffect (aluBfx sx) d a (.reg b) k s)
def execBfi (d : Fin 32) (a b : XSrc) (s : State) := s.issue 8 (bfiEffect d a b)
def execMadd (d : Fin 32) (a : XSrc) (b : XOp) (c : XSrc) (s : State) := s.issue (opSize b) (maddEffect d a b c)

end Sys2Proof.Machine
end

