-- ==== Sys2Proof/Machine/Vector.lean ====
section
/-!
DEFINITION. Group 2: vector arithmetic, compares, shifts, reductions and element moves (spec/07 R145-R160).
-/
namespace Sys2Proof.Machine

/-- A lane word with a v destination whose result in an active lane is `f` (R61, R122, R147): ports and sources, the tags
of every active lane, then the takes and the writes; `lat` is the latency of Table 7.3. -/
def laneEffect (lat : Nat) (g : Option Guard) (us : List Use) (d : VDst) (k : Nat) (s : State) (f : Nat → Option LaneOut) :
    Effect := do
  let m := (s.slot k).active g
  s.laneReady k us (dstCodes d) (dstIsS d) m
  let outs ← tagCheck (runLanes m f)
  .ok (fun t => (t.takesMasked k us m).putV k lat d outs)

/-- A lane word with an x destination: `f` gives the value and the flags, or the failing lanes. -/
def laneToX (g : Option Guard) (us : List Use) (d : Fin 32) (k : Nat) (s : State) (f : Mask → Except Mask (Word × Flags)) :
    Effect := do
  let m := (s.slot k).active g
  s.laneReady k us [codeX d] false m
  let r ← tagCheck (f m)
  .ok (fun t => (t.takesMasked k us m).modSlot k (fun c => (c.raise r.2).setX d r.1))

/-- The RNG state a lane draws from. -/
def State.rngAt (s : State) (k l : Nat) : Word := (s.slot k).rngOf l

/-- A two-source lane instruction. -/
def lane2Effect (lat : Nat) (f : RoundCtx → LaneReg → LaneReg → Word → Option LaneOut) (g : Option Guard) (d : VDst) (a : VSrc)
    (b : VOp) (rm : RMode) (sat un : Bool) (k : Nat) (s : State) : Effect :=
  laneEffect lat g (vUse 0 a ++ vopUse b) d k s (fun l =>
    let x := s.vval k a l
    f ((s.slot k).ctx rm sat un) x (s.vopval k b x.tag l) (s.rngAt k l))

/-- A three-source lane instruction. -/
def lane3Effect (lat : Nat) (f : RoundCtx → LaneReg → LaneReg → LaneReg → Word → Option LaneOut) (g : Option Guard) (d : VDst)
    (a : VSrc) (b : VOp) (c : VSrc) (rm : RMode) (sat un : Bool) (k : Nat) (s : State) : Effect :=
  laneEffect lat g (vUse 0 a ++ vopUse b ++ vUse 2 c) d k s (fun l =>
    let x := s.vval k a l
    f ((s.slot k).ctx rm sat un) x (s.vopval k b x.tag l) (s.vval k c l) (s.rngAt k l))

/-- A one-source lane instruction. -/
def lane1Effect (lat : Nat) (f : RoundCtx → LaneReg → Word → Option LaneOut) (g : Option Guard) (d : VDst) (a : VSrc)
    (rm : RMode) (sat un : Bool) (k : Nat) (s : State) : Effect :=
  laneEffect lat g (vUse 0 a) d k s (fun l => f ((s.slot k).ctx rm sat un) (s.vval k a l) (s.rngAt k l))

/-- A result that only moves bits: tag, scale where the entry sets one, no flag, the RNG as it was. R35 holds of every instruction
that does so, whatever bits its own rule names (log entry 86). -/
def moved (bits : Word) (tag : Fmt) (scale : Option (BitVec 8)) (rng : Word) : LaneOut :=
  ⟨laneBitsOf tag bits, tag, scale, flNone, rng⟩

/-- A copy of a lane register with its tag and scale (R148). -/
def movedReg (r : LaneReg) (rng : Word) : LaneOut := moved r.bits r.tag (some r.scale) rng

/-- VCMP (R155): the bits of the active lanes of a predicate. -/
def vcmpEffect (g : Option Guard) (d : Fin 8) (a : VSrc) (b : VOp) (cc : Cmp) (any un : Bool) (k : Nat) (s : State) :
    Effect := do
  let m := (s.slot k).active g
  let us := vUse 0 a ++ vopUse b
  s.laneReady k us [] false m
  let rs ← tagCheck (runLanes m (fun l =>
    let x := s.vval k a l
    laneCmp cc any ((s.slot k).ctx .rne false un) x (s.vopval k b x.tag l)))
  let bits := maskOf ((rs.filter (fun p => p.2)).map Prod.fst)
  .ok (fun t => (t.takesMasked k us m).modSlot k (fun c => c.setP d ((c.pr d &&& ~~~m) ||| bits)))

/-- VSEL (R156). -/
def vselEffect (g : Option Guard) (d : VDst) (a b : VSrc) (p : PSrc) (k : Nat) (s : State) : Effect :=
  laneEffect 2 g (vUse 0 a ++ vUse 1 b) d k s (fun l =>
    some (movedReg (if ((s.slot k).pr p.reg).getLsbD l then s.vval k a l else s.vval k b l) (s.rngAt k l)))

/-- VAND, VOR, VXOR in one lane (R157): A's tag, no check. -/
def laneBits (f : Word → Word → Word) (_ : RoundCtx) (a b : LaneReg) (rng : Word) : Option LaneOut :=
  some (moved (f a.bits b.bits) a.tag none rng)

def bitsEffect (f : Word → Word → Word) (g : Option Guard) (d : VDst) (a : VSrc) (b : VOp) (k : Nat) (s : State) : Effect :=
  lane2Effect 2 (laneBits f) g d a b .rne false false k s

/-- VSPLAT (R160): the low bits of A in every sub-element. -/
def vsplatEffect (g : Option Guard) (d : VDst) (a : XSrc) (f : Fmt) (k : Nat) (s : State) : Effect :=
  laneEffect 2 g (xUse 0 a) d k s (fun l =>
    some (moved (splatElems f ((s.slot k).xval k a).toNat) f none (s.rngAt k l)))

/-- VMOVX (R160); the bits an ACC48 tag ignores read as zeros (R35; log entry 86). -/
def vmovxEffect (g : Option Guard) (d : Fin 32) (a : VSrc) (b : XOp) (k : Nat) (s : State) : Effect :=
  laneToX g (vUse 0 a ++ opUse b) d k s (fun m =>
    let l := ((s.slot k).opval k b).toNat % 64
    .ok (if m.getLsbD l then laneBitsOf (s.vval k a l).tag (s.vval k a l).bits else 0#64, flNone))

/-- VINS (R160): only lane B mod 64 changes, if it is active. A port value to `s` carries zeros elsewhere. Bits [63:48] of an ACC48
value are zeros (R35; log entry 86). -/
def vinsEffect (g : Option Guard) (d : VDst) (a : XSrc) (b : XOp) (f : Fmt) (k : Nat) (s : State) : Effect := do
  let c := s.slot k
  let m := c.active g
  let us := xUse 0 a ++ opUse b
  s.laneReady k us (dstCodes d) (dstIsS d) m
  let l := (c.opval k b).toNat % 64
  let out := moved (c.xval k a) f none (s.rngAt k l)
  let outs := if m.getLsbD l then [(l, out)] else []
  .ok (fun t => (t.takesMasked k us m).putIns k d m outs)

/-- The lanes of a mask whose registers fail a reduction's tag rule: another format than the lowest active lane's, or all
when the operation does not take it (R158). -/
def redBad (op : RedOp) (m : Mask) (r : Nat → LaneReg) : Mask :=
  match lanesOf m with
  | [] => 0#64
  | l :: t =>
    if redFmt op (r l).tag then maskOf (t.filter (fun j => (r j).tag ≠ (r l).tag)) else m

/-- VRED (R158). -/
def vredEffect (g : Option Guard) (d : Fin 32) (a : VSrc) (op : RedOp) (rm : RMode) (sat un : Bool) (k : Nat) (s : State) :
    Effect :=
  laneToX g (vUse 0 a) d k s (fun m =>
    let bad := redBad op m (s.vval k a)
    if bad ≠ 0#64 then .error bad
    else match lanesOf m with
      | [] => .ok (0#64, flNone)
      | l :: t =>
        let f := (s.vval k a l).tag
        .ok (redResult op ((s.slot k).ctx rm sat un) f
          ((l :: t).flatMap (fun j => subElems f (s.vval k a j).bits)) 0#64))

/-- VSCAN (R159): each active lane's prefix, in increasing lane order. -/
def vscanEffect (g : Option Guard) (d : VDst) (a : VSrc) (op : RedOp) (rm : RMode) (sat un excl : Bool) (k : Nat) (s : State) :
    Effect := do
  let m := (s.slot k).active g
  s.laneReady k (vUse 0 a) (dstCodes d) (dstIsS d) m
  let bad := redBad op m (s.vval k a)
  if bad ≠ 0#64 then .error (.trap .tagmismatch bad)
  else
    let ls := lanesOf m
    let f := (s.vval k a (ls.headD 0)).tag
    let outs := ls.map (fun l =>
      (l, laneScan op ((s.slot k).ctx rm sat un) f
        ((ls.filter (fun j => if excl then decide (j < l) else decide (j ≤ l))).map (s.vval k a)) (s.rngAt k l)))
    .ok (fun t => (t.takesMasked k (vUse 0 a) m).putV k 6 d outs)

/-! ### Meanings -/

def execVadd (g : Option Guard) (d : VDst) (a : VSrc) (b : VOp) (rm : RMode) (sat un : Bool) (s : State) :=
  s.issue (vopSize b) (lane2Effect 2 (laneArith .add) g d a b rm sat un)
def execVsub (g : Option Guard) (d : VDst) (a : VSrc) (b : VOp) (rm : RMode) (sat un : Bool) (s : State) :=
  s.issue (vopSize b) (lane2Effect 2 (laneArith .sub) g d a b rm sat un)
def execVmul (g : Option Guard) (d : VDst) (a : VSrc) (b : VOp) (rm : RMode) (sat un : Bool) (s : State) :=
  s.issue (vopSize b) (lane2Effect 4 (laneArith .mul) g d a b rm sat un)
def execVfma (g : Option Guard) (d : VDst) (a : VSrc) (b : VOp) (c : VSrc) (rm : RMode) (sat un : Bool) (s : State) :=
  s.issue (vopSize b) (lane3Effect 4 (laneFma false) g d a b c rm sat un)
def execVfms (g : Option Guard) (d : VDst) (a : VSrc) (b : VOp) (c : VSrc) (rm : RMode) (sat un : Bool) (s : State) :=
  s.issue (vopSize b) (lane3Effect 4 (laneFma true) g d a b c rm sat un)
def execVmin (g : Option Guard) (d : VDst) (a : VSrc) (b : VOp) (un : Bool) (s : State) :=
  s.issue (vopSize b) (lane2Effect 2 (laneMinMax false) g d a b .rne false un)
def execVmax (g : Option Guard) (d : VDst) (a : VSrc) (b : VOp) (un : Bool) (s : State) :=
  s.issue (vopSize b) (lane2Effect 2 (laneMinMax true) g d a b .rne false un)
def execVabs (g : Option Guard) (d : VDst) (a : VSrc) (sat : Bool) (s : State) :=
  s.issue 8 (lane1Effect 2 (laneSign false) g d a .rne sat false)
def execVneg (g : Option Guard) (d : VDst) (a : VSrc) (sat : Bool) (s : State) :=
  s.issue 8 (lane1Effect 2 (laneSign true) g d a .rne sat false)
def execVrcp (g : Option Guard) (d : VDst) (a : VSrc) (rm : RMode) (sat : Bool) (s : State) :=
  s.issue 8 (lane1Effect 12 (laneFun .rcp) g d a rm sat false)
def execVrsq (g : Option Guard) (d : VDst) (a : VSrc) (rm : RMode) (sat : Bool) (s : State) :=
  s.issue 8 (lane1Effect 12 (laneFun .rsq) g d a rm sat false)
def execVsqrt (g : Option Guard) (d : VDst) (a : VSrc) (rm : RMode) (sat : Bool) (s : State) :=
  s.issue 8 (lane1Effect 12 (laneFun .sqrt) g d a rm sat false)
def execVexp2 (g : Option Guard) (d : VDst) (a : VSrc) (rm : RMode) (sat : Bool) (s : State) :=
  s.issue 8 (lane1Effect 12 (laneFun .exp2) g d a rm sat false)
def execVlog2 (g : Option Guard) (d : VDst) (a : VSrc) (rm : RMode) (sat : Bool) (s : State) :=
  s.issue 8 (lane1Effect 12 (laneFun .log2) g d a rm sat false)
def execVtanh (g : Option Guard) (d : VDst) (a : VSrc) (rm : RMode) (sat : Bool) (s : State) :=
  s.issue 8 (lane1Effect 12 (laneFun .tanh) g d a rm sat false)
def execVcmp (g : Option Guard) (d : Fin 8) (a : VSrc) (b : VOp) (cc : Cmp) (any un : Bool) (s : State) :=
  s.issue (vopSize b) (vcmpEffect g d a b cc any un)
def execVsel (g : Option Guard) (d : VDst) (a b : VSrc) (c : PSrc) (s : State) := s.issue 8 (vselEffect g d a b c)
def execVand (g : Option Guard) (d : VDst) (a : VSrc) (b : VOp) (s : State) := s.issue (vopSize b) (bitsEffect andOp g d a b)
def execVor (g : Option Guard) (d : VDst) (a : VSrc) (b : VOp) (s : State) := s.issue (vopSize b) (bitsEffect orOp g d a b)
def execVxor (g : Option Guard) (d : VDst) (a : VSrc) (b : VOp) (s : State) := s.issue (vopSize b) (bitsEffect xorOp g d a b)
def execVshl (g : Option Guard) (d : VDst) (a : VSrc) (b : VOp) (sat un : Bool) (s : State) :=
  s.issue (vopSize b) (lane2Effect 2 (laneShift .shl) g d a b .rne sat un)
def execVshr (g : Option Guard) (d : VDst) (a : VSrc) (b : VOp) (s : State) :=
  s.issue (vopSize b) (lane2Effect 2 (laneShift .shr) g d a b .rne false false)
def execVsar (g : Option Guard) (d : VDst) (a : VSrc) (b : VOp) (s : State) :=
  s.issue (vopSize b) (lane2Effect 2 (laneShift .sar) g d a b .rne false false)
def execVdot (g : Option Guard) (d : VDst) (a : VSrc) (b : VOp) (c : VSrc) (rm : RMode) (sat un : Bool) (s : State) :=
  s.issue (vopSize b) (lane3Effect 4 laneDot g d a b c rm sat un)
def execVsplat (g : Option Guard) (d : VDst) (a : XSrc) (fmt : Fmt) (s : State) := s.issue 8 (vsplatEffect g d a fmt)
def execVmovx (g : Option Guard) (d : Fin 32) (a : VSrc) (b : XOp) (s : State) := s.issue (opSize b) (vmovxEffect g d a b)
def execVins (g : Option Guard) (d : VDst) (a : XSrc) (b : XOp) (fmt : Fmt) (s : State) :=
  s.issue (opSize b) (vinsEffect g d a b fmt)
def execVred (g : Option Guard) (d : Fin 32) (a : VSrc) (op : RedOp) (rm : RMode) (sat un : Bool) (s : State) :=
  s.issue 8 (vredEffect g d a op rm sat un)
def execVscan (g : Option Guard) (d : VDst) (a : VSrc) (op : RedOp) (rm : RMode) (sat un excl : Bool) (s : State) :=
  s.issue 8 (vscanEffect g d a op rm sat un excl)

end Sys2Proof.Machine
end

