-- ==== Sys2Proof/Machine/Convert.lean ====
section
/-!
DEFINITION. Group 3: conversions, Pleiad words, the crossbar and predicates (spec/07 R161-R171). XBLD stands with the
memory instructions.
-/
namespace Sys2Proof.Machine

/-- The scale an MX destination reads: D's in that lane, or 2^0 for the port (R164). -/
def State.dstScale (s : State) (k : Nat) (d : VDst) (l : Nat) : BitVec 8 :=
  match d with
  | .v i => ((s.slot k).vr i l).scale
  | .s => 0x7F#8

/-- The register whose scale a conversion to an MX tag reads (R148, R164). -/
def scaleUse (d : VDst) (fmt : Fmt) (m : Mask) : List Use :=
  match d with
  | .v i => if fmt.isMx ∧ m ≠ 0#64 then readUse (codeV i) else []
  | .s => []

def vcvtEffect (g : Option Guard) (d : VDst) (a : VSrc) (fmt : Fmt) (rm : RMode) (sat un : Bool) (k : Nat) (s : State) :
    Effect :=
  laneEffect 4 g (vUse 0 a ++ scaleUse d fmt ((s.slot k).active g)) d k s (fun l =>
    laneCvt fmt ((s.slot k).ctx rm sat un) (s.vval k a l) (s.dstScale k d l) (s.rngAt k l))

def vpackEffect (g : Option Guard) (d : VDst) (a b : VSrc) (fmt : Fmt) (rm : RMode) (sat un : Bool) (k : Nat) (s : State) :
    Effect :=
  laneEffect 4 g (vUse 0 a ++ vUse 1 b ++ scaleUse d fmt ((s.slot k).active g)) d k s (fun l =>
    lanePack fmt ((s.slot k).ctx rm sat un) (s.vval k a l) (s.vval k b l) (s.dstScale k d l) (s.rngAt k l))

def vunpkEffect (g : Option Guard) (d : VDst) (a : VSrc) (fmt : Fmt) (rm : RMode) (sat un : Bool) (part : Fin 4) (k : Nat)
    (s : State) : Effect :=
  laneEffect 4 g (vUse 0 a ++ scaleUse d fmt ((s.slot k).active g)) d k s (fun l =>
    laneUnpk fmt part ((s.slot k).ctx rm sat un) (s.vval k a l) (s.dstScale k d l) (s.rngAt k l))

/-- VTAG (R166). -/
def vtagEffect (g : Option Guard) (d : VDst) (a : VSrc) (fmt : Fmt) (k : Nat) (s : State) : Effect :=
  laneEffect 2 g (vUse 0 a) d k s (fun l =>
    let r := s.vval k a l
    some (moved r.bits fmt (some r.scale) (s.rngAt k l)))

/-- VSCL (R167). -/
def vsclEffect (g : Option Guard) (d : VDst) (a : VSrc) (b : XOp) (add : Bool) (k : Nat) (s : State) : Effect :=
  laneEffect 2 g (vUse 0 a ++ opUse b) d k s (fun l =>
    let r := s.vval k a l
    let p := sclScale add ((s.slot k).opval k b) r.scale
    some { moved r.bits r.tag (some p.1) (s.rngAt k l) with fl := p.2 })

/-- VQUANT (R168): D is an implied wait-mode source. -/
def vquantEffect (g : Option Guard) (d : Fin 64) (a : RSrc) (b : XOp) (word : Fin 4) (k : Nat) (s : State) : Effect :=
  laneEffect 6 g (rUses 0 4 a ++ opUse b ++ impliedUse (codeV d)) (.v d) k s (fun l =>
    let c := s.slot k
    laneQuant c.fpmode ((List.range 4).map (fun i => c.vr (a.reg + i) l)) (c.vr d l).bits
      (((s.slot k).opval k b).setWidth 8) word (s.rngAt k l))

/-- One lane of VDEQ into the consecutive registers from `d`. -/
def Slot.putDeq (c : Slot) (d l : Nat) (fmt : Fmt) (o : List Word × Flags × Word) : Slot :=
  o.1.zipIdx.foldl (fun c p => c.putLane (d + p.2) l ⟨p.1, fmt, none, o.2.1, o.2.2⟩) c

/-- VDEQ (R169): q consecutive destinations. -/
def vdeqEffect (g : Option Guard) (d : Fin 64) (a : RSrc) (b : XOp) (fmt : Fmt) (rm : RMode) (sat : Bool) (word : Fin 4)
    (k : Nat) (s : State) : Effect := do
  let c := s.slot k
  let m := c.active g
  let us := rUse 0 a ++ opUse b
  let ds := (List.range (8 / fmt.count)).map (fun i => codeV (d + i))
  s.laneReady k us ds false m
  let outs ← tagCheck (runLanes m (fun l =>
    laneDeq fmt (c.ctx rm sat false) (c.vr a.reg l) (c.opval k b) word (s.rngAt k l)))
  .ok (fun t => (t.takesMasked k us m).modSlot k (fun c =>
    let c := outs.foldl (fun c p => c.putDeq d p.1 fmt p.2) c
    ds.foldl (fun c i => if outs.length = 64 then (c.setEmpty i false).clearErr i else c.setEmpty i false) c))

/-- Entry `l` of a pattern (R163). -/
def patternEntry (p : BitVec 512) (l : Nat) : Nat := bitsOf p.toNat (8 * l + 7) (8 * l)

/-- A pattern load. -/
def isXbld (op : PendOp) : Bool :=
  match op with
  | .xbld _ _ => true
  | _ => false

/-- XBAR waits for its slot's own XBLDs (R162). -/
def State.xbldPending (s : State) (k : Nat) : Bool := s.pend.any (fun p => p.slot == k && isXbld p.op)

def xbarEffect (g : Option Guard) (d : VDst) (a : VSrc) (i : Fin 16) (k : Nat) (s : State) : Effect :=
  let f := slotField k
  if s.xbldPending k then .error (.stall 0)
  else laneEffect 3 g (vUse 0 a) d k s (fun l =>
    let e := patternEntry (s.pattern f i) l
    some (if e = 0xFF then movedReg LaneReg.zero (s.rngAt k l) else movedReg (s.vval k a (e % 64)) (s.rngAt k l)))

/-- VROT, VBCAST (R161): a source lane for each lane. -/
def acrossEffect (src : Nat → Word → Nat) (g : Option Guard) (d : VDst) (a : VSrc) (b : XOp) (k : Nat) (s : State) : Effect :=
  laneEffect 3 g (vUse 0 a ++ opUse b) d k s (fun l =>
    some (movedReg (s.vval k a (src l ((s.slot k).opval k b))) (s.rngAt k l)))

def rotSource (l : Nat) (b : Word) : Nat := (l + 64 - b.toNat % 64) % 64
def bcastSource (_ : Nat) (b : Word) : Nat := b.toNat % 64

/-- PAND, POR, PXOR, PNOT (R170): all 64 bits. -/
def predEffect (d : Fin 8) (f : Slot → Mask) (k : Nat) (s : State) : Effect :=
  let v := f (s.slot k)
  .ok (fun t => t.modSlot k (fun c => c.setP d v))

def psetEffect (d : Fin 8) (b : XOp) (k : Nat) (s : State) : Effect := do
  s.ready k (opUse b) []
  let v := (s.slot k).opval k b
  .ok (fun t => (t.takes k (opUse b)).modSlot k (fun c => c.setP d v))

/-- VRNG (R171): LaneRandom in each active lane. -/
def vrngEffect (g : Option Guard) (d : VDst) (k : Nat) (s : State) : Effect :=
  laneEffect 2 g [] d k s (fun l =>
    let r := rngNext (s.rngAt k l)
    some ⟨r, .raw, none, flNone, r⟩)

/-- VSEED (R171). -/
def vseedEffect (g : Option Guard) (a : VSrc) (k : Nat) (s : State) : Effect := do
  let m := (s.slot k).active g
  s.laneReady k (vUse 0 a) [] false m
  let vs := (lanesOf m).map (fun l => (l, (s.vval k a l).bits))
  .ok (fun t => (t.takesMasked k (vUse 0 a) m).modSlot k (fun c => { c with rng := Tab.setAll 0#64 c.rng vs }))

/-! ### Meanings -/

def execVcvt (g : Option Guard) (d : VDst) (a : VSrc) (fmt : Fmt) (rm : RMode) (sat un : Bool) (s : State) :=
  s.issue 8 (vcvtEffect g d a fmt rm sat un)
def execVpack (g : Option Guard) (d : VDst) (a b : VSrc) (fmt : Fmt) (rm : RMode) (sat un : Bool) (s : State) :=
  s.issue 8 (vpackEffect g d a b fmt rm sat un)
def execVunpk (g : Option Guard) (d : VDst) (a : VSrc) (fmt : Fmt) (rm : RMode) (sat un : Bool) (part : Fin 4) (s : State) :=
  s.issue 8 (vunpkEffect g d a fmt rm sat un part)
def execVtag (g : Option Guard) (d : VDst) (a : VSrc) (fmt : Fmt) (s : State) := s.issue 8 (vtagEffect g d a fmt)
def execVscl (g : Option Guard) (d : VDst) (a : VSrc) (b : XOp) (add : Bool) (s : State) :=
  s.issue (opSize b) (vsclEffect g d a b add)
def execVquant (g : Option Guard) (d : Fin 64) (a : RSrc) (b : XOp) (word : Fin 4) (s : State) :=
  s.issue (opSize b) (vquantEffect g d a b word)
def execVdeq (g : Option Guard) (d : Fin 64) (a : RSrc) (b : XOp) (fmt : Fmt) (rm : RMode) (sat : Bool) (word : Fin 4)
    (s : State) := s.issue (opSize b) (vdeqEffect g d a b fmt rm sat word)
def execXbar (g : Option Guard) (d : VDst) (a : VSrc) (i : Fin 16) (s : State) := s.issue 8 (xbarEffect g d a i)
def execVrot (g : Option Guard) (d : VDst) (a : VSrc) (b : XOp) (s : State) :=
  s.issue (opSize b) (acrossEffect rotSource g d a b)
def execVbcast (g : Option Guard) (d : VDst) (a : VSrc) (b : XOp) (s : State) :=
  s.issue (opSize b) (acrossEffect bcastSource g d a b)
def execPand (d : Fin 8) (a b : PSrc) (s : State) := s.issue 8 (predEffect d (fun c => c.pr a.reg &&& c.pr b.reg))
def execPor (d : Fin 8) (a b : PSrc) (s : State) := s.issue 8 (predEffect d (fun c => c.pr a.reg ||| c.pr b.reg))
def execPxor (d : Fin 8) (a b : PSrc) (s : State) := s.issue 8 (predEffect d (fun c => c.pr a.reg ^^^ c.pr b.reg))
def execPnot (d : Fin 8) (a : PSrc) (s : State) := s.issue 8 (predEffect d (fun c => ~~~(c.pr a.reg)))
def execPset (d : Fin 8) (b : XOp) (s : State) := s.issue (opSize b) (psetEffect d b)
def execVrng (g : Option Guard) (d : VDst) (s : State) := s.issue 8 (vrngEffect g d)
def execVseed (g : Option Guard) (a : VSrc) (s : State) := s.issue 8 (vseedEffect g a)

end Sys2Proof.Machine
end

