-- ==== Sys2Proof/Machine/Order.lean ====
section
/-!
DEFINITION. Scopes and what they order (spec/11 R272-R284): the instances of a scope, what counts as performed at one that is
narrower than the package, and what a release waits for (spec/10 R252).
-/
namespace Sys2Proof.Machine

/-- The path bits of Table 11.3. -/
def pathLane : Nat := 0
def pathWeight : Nat := 1
def pathCopy : Nat := 2
def pathGather : Nat := 3
def pathQueue : Nat := 4
def pathColl : Nat := 5

def podScope (c : Scope) : Bool := 6 ≤ c.code.toNat

/-- An access reads (for the grant phase and for fences). -/
def PendOp.reads : PendOp → Bool
  | .store => false
  | _ => true

def PendOp.writes : PendOp → Bool
  | .store | .atomV _ _ _ _ _ _ | .atomX _ _ _ _ _ | .red _ _ _ _ _ => true
  | _ => false

/-- A pattern load has read its bytes at issue. -/
def PendOp.atBank : PendOp → Bool
  | .xbld _ _ => false
  | _ => true

/-! ### What is performed at a scope (R274, R275, R282; log entry 92) -/

/-- A scope narrower than the package. -/
def narrow (c : Scope) : Bool := decide (c.code.toNat < 4)

/-- One instance of a scope holds both row slots (Table 11.1). -/
def State.shares (s : State) (c : Scope) (k j : Nat) : Bool :=
  match c with
  | .row => k == j
  | .band => k == j || ((s.slot k).band.isSome && (s.slot k).band == (s.slot j).band)
  | .field => slotField k == slotField j
  | .die => slotDie k == slotDie j
  | _ => true

/-- Of two bytes' accesses one writes, and they share a location (R273). -/
def Pend.conflicts (q : Pend) (write : Bool) (loc len : Nat) : Bool :=
  (write || q.op.writes) && q.op.atBank
    && q.reqs.any (fun a => a.bad.isNone && decide (loc < a.loc + a.len) && decide (a.loc < loc + len))

/-- An access for slot `k` to a span comes behind one of another slot that conflicts with it and counts as performed at a scope
that holds both; `counts` says of a mark's number that it does (R275). -/
def State.behindMark (s : State) (k : Nat) (counts : Nat → Bool) (write : Bool) (loc len : Nat) : Bool :=
  s.pend.any (fun q => q.slot != k && q.marks.any (fun m => counts m.1 && s.shares m.2 q.slot k) && q.conflicts write loc len)

/-- The accesses of a slot that `which` names count as performed at a scope from here on. -/
def State.markAt (s : State) (c : Scope) (which : Pend → Bool) : State :=
  let hit (q : Pend) : Bool := which q && !q.parked && q.marks.all (fun m => m.2 ≠ c)
  if s.pend.any hit then
    { s with
      pend := s.pend.map (fun q => if hit q then { q with marks := q.marks ++ [(s.nextId, c)] } else q)
      nextId := s.nextId + 1 }
  else s

/-! ### Releases (R195, R252, R284) -/

/-- An access is on one of the paths a fence names. -/
def namedPath (paths : BitVec 7) (path : Nat) : Bool := paths.getLsbD path

/-- An operation has accesses to perform: it has neither ended nor parked (R286). -/
def CollOp.outstanding (c : CollOp) : Bool :=
  c.err.isNone && !c.parked && !(c.started && decide (0 < c.total) && decide (c.total ≤ c.steps))

/-- The drains hold values that a slot's nadir bindings have accepted and are to write. -/
def State.drainsLeft (s : State) (k : Nat) : Bool :=
  s.bandList.any (fun p => !p.2.nad.parked && p.2.nad.buf.any (fun q => q.slot == k))

/-- Earlier work of the slot on named paths that no mark stands for: messages to home dies, collectives, accepted values of its
streams. A copy command is exempt (R252). -/
def State.stillOut (s : State) (k : Nat) (paths : BitVec 7) : Bool :=
  (namedPath paths pathQueue && (s.msgs.any (fun m => m.slot == k) || s.heldEnq.any (fun m => m.slot == k)))
  || (namedPath paths pathColl && s.colls.any (fun (c : CollOp) => c.slot == k && c.outstanding))
  || (namedPath paths pathCopy && s.drainsLeft k)

/-- An earlier access of the slot on a named path that a release at a scope covers: a scope narrower than pod orders nothing in
peer memory (R284), and a parked access counts as issued at its replay (R286). -/
def covered (k : Nat) (scope : Scope) (paths : BitVec 7) (p : Pend) : Bool :=
  p.slot == k && namedPath paths p.path && !p.parked && (podScope scope || !p.peerOnly)

/-- A release at a scope has still to wait: at the package and beyond for every access it covers, in a narrower one for what no
mark stands for. -/
def State.relPending (s : State) (k : Nat) (scope : Scope) (paths : BitVec 7) : Bool :=
  s.stillOut k paths || (!narrow scope && s.pend.any (covered k scope paths))

/-- A release takes effect: in a narrow scope the accesses it covers count as performed there. -/
def State.release (s : State) (k : Nat) (scope : Scope) (paths : BitVec 7) : State :=
  if narrow scope then s.markAt scope (covered k scope paths) else s

end Sys2Proof.Machine
end

