-- ==== Sys2Proof/Machine/Tensor.lean ====
section
/-!
DEFINITION. Group 4: tensor steps, accumulators and ports (spec/08 R180-R196). WLD stands with the memory instructions,
PBIND and PFLUSH with the copy streams.
-/
namespace Sys2Proof.Machine

/-- TRAPINFO of an execution RESFIELD or RESOPERAND: the field's bit number (Table 3.9). -/
def fieldInfo (n : Nat) : Word := BitVec.ofNat 64 n

def allLanes : Mask := BitVec.allOnes 64

/-- The results of cells into accumulator `i`, which ends full. -/
def Slot.putAccs (c : Slot) (i : Nat) (outs : List (Nat × BitVec 384)) : Slot :=
  let c := (outs.foldl (fun c p => c.setA i p.1 p.2) c).setEmpty (codeA i) false
  if outs.length = 64 then c.clearErr (codeA i) else c

/-- An ACC vector to the south port. -/
def accVector (outs : List (Nat × BitVec 384)) : PortVal := ⟨false, .acc (Tab.ofList 0#384 outs), false⟩

def State.putAcc (s : State) (k : Nat) (d : ADst) (outs : List (Nat × BitVec 384)) : State :=
  match d with
  | .a i => s.modSlot k (fun c => c.putAccs i outs)
  | .s => s.southReserve k 4 (accVector outs)

def accDstKind : ADst → Option PortKind
  | .a _ => none
  | .s => some .acc

def accDstCodes : ADst → List Nat
  | .a i => [codeA i]
  | .s => []

/-- A tensor step (R182, R183): `regs` gives the registers A supplies in a lane, `acc` the accumulator input, `north` the
kind of value the step reads from `n`. -/
def tensorEffect (sparse : Bool) (g : Option Guard) (d : ADst) (us : List Use) (north : PortKind) (b : WSrc)
    (kw : BitVec 5) (slice : Fin 8) (regs : Nat → List LaneReg) (acc : Nat → BitVec 384) (k : Nat) (s : State) : Effect := do
  s.checkNorth k us
  s.checkSouthBound k (accDstKind d).isSome
  let c := s.slot k
  let m := c.active g
  if m ≠ allLanes then .error (.trap .partialmask (~~~m))
  else do
    s.ready k us (accDstCodes d)
    (match accDstKind d with
      | some kind => s.checkSouth k kind
      | none => .ok ())
    s.checkKind k us north
    let bad := maskOf ((List.range 64).filter (fun l => !tensorPairOk sparse (regs l) (c.wr b.reg l)))
    if bad ≠ 0#64 then .error (.trap .tagmismatch bad)
    else if (List.range 64).any (fun l => !tensorModOk ((regs l).headD LaneReg.zero).tag (c.wr b.reg l).tag sparse
        kw.toNat slice) then .error (.trap .resfield (fieldInfo 3))
    else
      let outs := (List.range 64).map (fun l => (l, tensorCell (regs l) (c.wr b.reg l) kw.toNat slice (acc l)))
      let fl := (outs.map (fun p => p.2.2)).foldl (· ||| ·) flNone
      .ok (fun t =>
        let t := (t.takes k us).evField (slotField k) 0x04 (slotQual k)
        (t.modSlot k (fun c => c.raise fl)).putAcc k d (outs.map (fun p => (p.1, p.2.1))))

def mstepEffect (g : Option Guard) (d : Fin 4) (a : VSrc) (b : WSrc) (kw : BitVec 5) (slice : Fin 8) (k : Nat) (s : State) :
    Effect :=
  tensorEffect false g (.a d) (vUse 0 a ++ wUse 1 b ++ impliedUse (codeA d)) .vv b kw slice
    (fun l => [s.vval k a l]) (fun l => (s.slot k).ar d l) k s

/-- The use of `n` through a field that names it alone. -/
def nUse (bit : Nat) (m : SrcMode) : List Use := [⟨bit, m, codeN⟩]

def mstepnEffect (g : Option Guard) (d : ADst) (a : RSrc) (b : WSrc) (c : SrcMode) (kw : BitVec 5) (slice : Fin 8) (k : Nat)
    (s : State) : Effect :=
  tensorEffect false g d (rUse 0 a ++ wUse 1 b ++ nUse 2 c) .acc b kw slice
    (fun l => [(s.slot k).vr a.reg l]) (fun l => (s.northVal k c).acc l) k s

def mstepsEffect (g : Option Guard) (d : Fin 4) (a : RSrc) (b : WSrc) (kw : BitVec 5) (slice : Fin 8) (k : Nat) (s : State) :
    Effect :=
  tensorEffect true g (.a d) (rUses 0 2 a ++ wUse 1 b ++ impliedUse (codeA d)) .vv b kw slice
    (fun l => [(s.slot k).vr a.reg l, (s.slot k).vr (a.reg + 1) l]) (fun l => (s.slot k).ar d l) k s

/-- ACCZ (R186). -/
def acczEffect (g : Option Guard) (d : Fin 4) (k : Nat) (s : State) : Effect := do
  let m := (s.slot k).active g
  s.ready k [] [codeA d]
  .ok (fun t => t.modSlot k (fun c => c.putAccs d ((lanesOf m).map (fun l => (l, 0#384)))))

/-- The results of ACCRD in a lane into `q` consecutive registers from `d` (R187). -/
def Slot.putRead (c : Slot) (d l : Nat) (g : Fmt) (o : List Nat × Flags × Word) : Slot :=
  (List.range (8 / g.count)).foldl (fun c q =>
    c.putLane (d + q) l ⟨joinElems g ((o.1.drop (q * g.count)).take g.count), g, none, o.2.1, o.2.2⟩) c

/-- The eight elements of one register format as a lane result. -/
def readLane (g : Fmt) (o : List Nat × Flags × Word) : LaneOut := ⟨joinElems g o.1, g, none, o.2.1, o.2.2⟩

def State.putReads (s : State) (k : Nat) (d : VDst) (g : Fmt) (outs : List (Nat × (List Nat × Flags × Word))) : State :=
  match d with
  | .v i => s.modSlot k (fun c =>
      let c := outs.foldl (fun c p => c.putRead i p.1 g p.2) c
      (List.range (8 / g.count)).foldl (fun c q =>
        let c := c.setEmpty (codeV (i + q)) false
        if outs.length = 64 then c.clearErr (codeV (i + q)) else c) c)
  | .s => s.putV k 4 .s (outs.map (fun p => (p.1, readLane g p.2)))

/-- ACCRD (R187). -/
def accrdEffect (g : Option Guard) (d : VDst) (a : ASrc) (b : Option RSrc) (fmt : Fmt) (rm : RMode) (sat clr : Bool) (k : Nat)
    (s : State) : Effect := do
  let c := s.slot k
  let m := c.active g
  let us := aUse 0 a ++ b.elim [] (rUses 1 4)
  let ds := match d with
    | .v i => (List.range (8 / fmt.count)).map (fun q => codeV (i + q))
    | .s => []
  s.laneReady k us ds (dstIsS d) m
  let outs ← tagCheck (runLanes m (fun l =>
    accRdCell fmt (c.ctx rm sat false) (c.ar a.reg l)
      (b.elim [] (fun r => (List.range 4).map (fun i => c.vr (r.reg + i) l))) (s.rngAt k l)))
  .ok (fun t =>
    let t := (t.takesMasked k us m).putReads k d fmt outs
    if clr then t.modSlot k (fun c => c.putAccs a.reg ((lanesOf m).map (fun l => (l, 0#384)))) else t)

/-- The largest register count among the active lanes of ACCWR (R188). -/
def accwrSpan (s : State) (k : Nat) (a : RSrc) (m : Mask) : Nat :=
  ((lanesOf m).map (fun l => (accRegs ((s.slot k).vr a.reg l).tag).getD 1)).foldl max 1

def State.vregsOf (s : State) (k : Nat) : Nat := match s.bandOf k with
  | some b => b.vregs
  | none => 0

/-- ACCWR (R188). -/
def accwrEffect (g : Option Guard) (d : Fin 4) (a : RSrc) (k : Nat) (s : State) : Effect := do
  let c := s.slot k
  let m := c.active g
  s.ready k (rUse 0 a) [codeA d]
  let q := accwrSpan s k a m
  if 64 < a.reg + q ∨ s.vregsOf k < a.reg + q then .error (.trap .resoperand (fieldInfo 33))
  else do
    s.ready k (rUses 0 q a) []
    let outs ← tagCheck (runLanes m (fun l =>
      let f := (c.vr a.reg l).tag
      match accRegs f with
      | some n =>
        let regs := (List.range n).map (fun i => c.vr (a.reg + i) l)
        if regs.all (fun r => r.tag = f) then some (accWrCell f regs) else none
      | none => none))
    .ok (fun t => (t.takes k (rUses 0 q a)).modSlot k (fun c => c.putAccs d outs))

def accOpUse : AccOp → List Use
  | .a r => aUse 1 r
  | .n m => nUse 1 m

def State.accOpVal (s : State) (k : Nat) (b : AccOp) (l : Nat) : BitVec 384 :=
  match b with
  | .a r => (s.slot k).ar r.reg l
  | .n m => (s.northVal k m).acc l

/-- ACCADD (R189). -/
def accaddEffect (g : Option Guard) (d : Fin 4) (a : ASrc) (b : AccOp) (k : Nat) (s : State) : Effect := do
  let c := s.slot k
  let m := c.active g
  let us := aUse 0 a ++ accOpUse b
  s.portReady k us [codeA d] none .acc m
  let outs := (lanesOf m).map (fun l => (l, accAddCell (c.ar a.reg l) (s.accOpVal k b l)))
  let fl := (outs.map (fun p => p.2.2)).foldl (· ||| ·) flNone
  .ok (fun t => (t.takesMasked k us m).modSlot k (fun c =>
    (c.raise fl).putAccs d (outs.map (fun p => (p.1, p.2.1)))))

/-! ### Sending and receiving (R194-R196) -/

/-- The results into stationary register `i`, which ends full. -/
def Slot.putWs (c : Slot) (i : Nat) (outs : List (Nat × WReg)) : Slot :=
  let c := (outs.foldl (fun c p => c.setW i p.1 p.2) c).setEmpty (codeW i) false
  if outs.length = 64 then c.clearErr (codeW i) else c

def sendKind : SendSrc → PortKind
  | .v _ => .vv
  | .a _ => .acc
  | .w _ => .wc

def sendUse : SendSrc → List Use
  | .v r => rUse 0 r
  | .a r => aUse 0 r
  | .w r => wUse 0 r

/-- The body a send carries: its register in the active lanes (R179). -/
def Slot.sendBody (c : Slot) (a : SendSrc) (m : Mask) : PortBody :=
  match a with
  | .v r => .v (Tab.ofList LaneReg.zero ((lanesOf m).map (fun l => (l, c.vr r.reg l))))
  | .a r => .acc (Tab.ofList 0#384 ((lanesOf m).map (fun l => (l, c.ar r.reg l))))
  | .w r => .w (Tab.ofList WReg.blank ((lanesOf m).map (fun l => (l, c.wr r.reg l))))

/-- PSEND and WSEND (R194, R195): before a value of PSEND.rel the slot's earlier accesses are performed at band
scope. -/
def sendEffect (g : Option Guard) (a : SendSrc) (rel : Bool) (k : Nat) (s : State) : Effect := do
  let c := s.slot k
  let m := c.active g
  s.portReady k (sendUse a) [] (some (sendKind a)) .vv m
  if rel && decide (m ≠ 0#64) && s.relPending k .band 0x7F#7 then .error (.stall 0)
  else
    let v : PortVal := ⟨rel, c.sendBody a m, false⟩
    .ok (fun t =>
      let t := t.takes k (sendUse a)
      if m = 0#64 then t else (if rel then t.release k .band 0x7F#7 else t).southPut k v)

/-- PRECV (R196). -/
def precvEffect (g : Option Guard) (d : RecvDst) (a : SrcMode) (k : Nat) (s : State) : Effect := do
  let m := (s.slot k).active g
  let us := nUse 0 a
  match d with
  | .v i => do
    s.portReady k us [codeV i] none .vv m
    let v := s.northVal k a
    let outs := (lanesOf m).map (fun l => (l, movedReg (v.lane l) (s.rngAt k l)))
    .ok (fun t => (t.takesMasked k us m).modSlot k (fun c => c.putLanes i outs))
  | .a i => do
    s.portReady k us [codeA i] none .acc m
    let v := s.northVal k a
    .ok (fun t => (t.takesMasked k us m).modSlot k (fun c => c.putAccs i ((lanesOf m).map (fun l => (l, v.acc l)))))

/-- WRECV (R196). -/
def wrecvEffect (g : Option Guard) (d : Fin 4) (a : SrcMode) (k : Nat) (s : State) : Effect := do
  let m := (s.slot k).active g
  s.portReady k (nUse 0 a) [codeW d] none .wc m
  let v := s.northVal k a
  .ok (fun t => (t.takesMasked k (nUse 0 a) m).modSlot k (fun c =>
    c.putWs d ((lanesOf m).map (fun l => (l, v.chunk l)))))

/-- WSCL (R193): the column scales of the active lanes. -/
def wsclEffect (g : Option Guard) (d : Fin 4) (a : RSrc) (k : Nat) (s : State) : Effect := do
  let c := s.slot k
  let m := c.active g
  s.laneReady k (rUse 0 a) [codeW d] false m
  let vs := (lanesOf m).map (fun l => (l, (c.vr a.reg l).bits))
  .ok (fun t => (t.takesMasked k (rUse 0 a) m).modSlot k (fun c =>
    (vs.foldl (fun c p => c.setW d p.1 { c.wr d p.1 with scales := p.2 }) c).setEmpty (codeW d) false))

/-! ### Meanings -/

def execMstep (g : Option Guard) (d : Fin 4) (a : VSrc) (b : WSrc) (kw : BitVec 5) (slice : Fin 8) (s : State) :=
  s.issue 8 (mstepEffect g d a b kw slice)
def execMstepn (g : Option Guard) (d : ADst) (a : RSrc) (b : WSrc) (c : SrcMode) (kw : BitVec 5) (slice : Fin 8) (s : State) :=
  s.issue 8 (mstepnEffect g d a b c kw slice)
def execMsteps (g : Option Guard) (d : Fin 4) (a : RSrc) (b : WSrc) (kw : BitVec 5) (slice : Fin 8) (s : State) :=
  s.issue 8 (mstepsEffect g d a b kw slice)
def execAccz (g : Option Guard) (d : Fin 4) (s : State) := s.issue 8 (acczEffect g d)
def execAccrd (g : Option Guard) (d : VDst) (a : ASrc) (b : Option RSrc) (fmt : Fmt) (rm : RMode) (sat clr : Bool) (s : State) :=
  s.issue 8 (accrdEffect g d a b fmt rm sat clr)
def execAccwr (g : Option Guard) (d : Fin 4) (a : RSrc) (s : State) := s.issue 8 (accwrEffect g d a)
def execAccadd (g : Option Guard) (d : Fin 4) (a : ASrc) (b : AccOp) (s : State) := s.issue 8 (accaddEffect g d a b)
def execWrecv (g : Option Guard) (d : Fin 4) (a : SrcMode) (s : State) := s.issue 8 (wrecvEffect g d a)
def execWsend (g : Option Guard) (a : WSrc) (s : State) := s.issue 8 (sendEffect g (.w a) false)
def execPsend (g : Option Guard) (a : SendSrc) (rel : Bool) (s : State) := s.issue 8 (sendEffect g a rel)
def execPrecv (g : Option Guard) (d : RecvDst) (a : SrcMode) (s : State) := s.issue 8 (precvEffect g d a)
def execWscl (g : Option Guard) (d : Fin 4) (a : RSrc) (s : State) := s.issue 8 (wsclEffect g d a)

end Sys2Proof.Machine
end

