-- ==== Sys2Proof/Machine/Access.lean ====
section
/-!
DEFINITION. What the memory instructions share: addresses and their checks at issue (spec/10 R236-R240), outstanding
accesses and the order between them (spec/11 R277-R284), and the values atomics compute (R250).
-/
namespace Sys2Proof.Machine

/-! ### Addresses -/

/-- The part of an offset or stride that enters the address: bits [55:0] where the tag is an MX one (R239). -/
def addrPart (f : Fmt) (w : Word) : Word := if f.isMx then (w.setWidth 56).signExtend 64 else w

/-- The block scale an offset carries (R239). -/
def scalePart (w : Word) : BitVec 8 := w.extractLsb' 56 8

/-- A place an access reaches: its lane, its address as issued, and what translation gave. -/
structure Place where
  lane  : Nat
  va    : Word
  loc   : Nat
  key   : Nat
  mig   : Bool
  ckind : Nat
  deriving DecidableEq, Repr

/-- The offending lanes of a lane instruction, or the address of a scalar one (R238). -/
def misInfo (scalar : Bool) (bad : List (Nat × Word)) : Word :=
  if scalar then (bad.headD (0, 0#64)).2 else maskOf (bad.map Prod.fst)

/-- MISALIGN (R238). -/
def checkAlign (scalar : Bool) (n : Nat) (xs : List (Nat × Word)) : Except Halt Unit :=
  let bad := xs.filter (fun p => p.2.toNat % n ≠ 0)
  if bad = [] then .ok () else .error (.trap .misalign (misInfo scalar bad))

/-- A local span lies within the band's allotment (R204). -/
def Band.holds (b : Band) (a : Word) (n : Nat) : Bool :=
  decide (b.sideBase ≤ a.toNat) && decide (a.toNat + n ≤ b.sideBase + b.sideSize)

/-- The places of local addresses, or DENIED at the lowest offending lane (R204, R240 step 4). -/
def State.localPlaces (s : State) (k : Nat) (b : Band) (n : Nat) (xs : List (Nat × Word)) : Except Halt (List Place) :=
  match xs.find? (fun p => !b.holds p.2 n) with
  | some p => .error (.trap .denied p.2)
  | none => .ok (xs.map (fun p =>
      ⟨p.1, p.2, sideLoc (slotField k) p.2.toNat, 0, false, s.chunkAt (slotField k) p.2.toNat⟩))

/-- The leaf by which the field's TLB serves an access; none when a walk is needed, a leaf that refuses the access
included, since a fault always walks again (R219). -/
def State.tlbServes (s : State) (k asid : Nat) (acc : AccKind) (va : Word) : Option TlbLeaf :=
  match s.tlbLook (slotField k) asid (vaPage va) with
  | some l => if neverMapped va || (leafRefuses l.leaf acc).isSome then none else some l
  | none => none

def State.placeOf (s : State) (p : Nat × Word) (l : TlbLeaf) : Place :=
  let loc := leafLoc l p.2
  ⟨p.1, p.2, loc, leafKey l.leaf, leafMig l.leaf, s.kindAt l loc⟩

/-- One address of each page that must be walked. -/
def State.missing (s : State) (k asid : Nat) (acc : AccKind) (xs : List (Nat × Word)) : List Word :=
  xs.foldl (fun vs p =>
    if (s.tlbServes k asid acc p.2).isSome || vs.any (fun v => vaPage v = vaPage p.2) then vs else vs ++ [p.2]) []

/-- The places of global addresses, or the walks they need (R220). -/
def State.globalPlaces (s : State) (k : Nat) (b : Band) (acc : AccKind) (xs : List (Nat × Word)) : Except Halt (List Place) :=
  let vs := s.missing k b.asid acc xs
  if vs ≠ [] then .error (.hold (.walk vs acc))
  else .ok (xs.filterMap (fun p => (s.tlbServes k b.asid acc p.2).map (s.placeOf p)))

/-- Steps 4 and 5 of R240. -/
def State.places (s : State) (k : Nat) (glob : Bool) (acc : AccKind) (n : Nat) (xs : List (Nat × Word)) :
    Except Halt (List Place) :=
  match s.bandOf k with
  | none => .ok []
  | some b => if glob then s.globalPlaces k b acc xs else s.localPlaces k b n xs

/-- Step 6 of R240: Table 9.1 at the lowest offending lane. -/
def checkKinds (write half : Bool) (ps : List Place) : Except Halt Unit :=
  match ps.find? (fun p => (kindFault p.ckind write half).isSome) with
  | some p => .error (.trap ((kindFault p.ckind write half).getD .compressed) p.va)
  | none => .ok ()

/-- Steps 3 to 6 of R240. -/
def State.resolve (s : State) (k : Nat) (scalar glob write half : Bool) (acc : AccKind) (n : Nat)
    (xs : List (Nat × Word)) : Except Halt (List Place) := do
  checkAlign scalar n xs
  let ps ← s.places k glob acc n xs
  checkKinds write half ps
  .ok ps

/-- Steps 7 and 8 of R240 at a list of places: DENIED before POISON, each at the lowest offending lane. -/
def State.grantAll (s : State) (k : Nat) (read write : Bool) (n : Nat) (ps : List Place) : Option (Cause × Word) :=
  match ps.find? (fun p => s.denied p.loc p.key (slotMaster k) read write) with
  | some p => some (.denied, p.va)
  | none => match ps.find? (fun p => read && s.meetsPoison p.loc n p.mig) with
    | some p => some (.poison, p.va)
    | none => none

/-! ### Outstanding accesses -/

def globPath (glob : Bool) : Nat := if glob then pathGather else pathLane

def Place.req (p : Place) (lanes : List Nat) (n : Nat) (data : List Byte) : Req :=
  { k := p.lane, lanes := lanes, va := p.va, loc := p.loc, key := p.key, len := n, data := data, ops := [], news := [],
    mig := p.mig, parked := false, bad := none }

/-- An access about to be issued by a slot. -/
def State.access (s : State) (k path : Nat) (scope : Scope) (rel acq : Bool) (op : PendOp) (m : Mask) (rs : List Req) : Pend :=
  { id := 0, order := 0, slot := k, band := ((s.slot k).band).getD 0, path := path, scope := scope, rel := rel, acq := acq, op := op,
    mask := m, reqs := rs, urgent := false, old := [], pc := (s.slot k).pc, granted := false,
    marks := [] }

/-- Issue an access: it takes the next number. -/
def State.addPend (s : State) (p : Pend) : State :=
  { s with pend := s.pend ++ [{ p with id := s.nextId, order := s.nextId }], nextId := s.nextId + 1 }

def State.dropPend (s : State) (id : Nat) : State := { s with pend := s.pend.filter (fun p => p.id ≠ id) }

def State.findPend (s : State) (id : Nat) : Option Pend := s.pend.find? (fun p => p.id = id)

def Req.meets (a b : Req) : Bool := decide (a.loc < b.loc + b.len) && decide (b.loc < a.loc + a.len)

/-- A release or acquire at a scope orders a request of `q` before one of `rs`: below pod it says nothing of peer memory
(R284). -/
def inScope (scope : Scope) (q : Pend) (rs : List Req) : Bool :=
  podScope scope || (!q.peerOnly && rs.any (fun b => decide (spaceOf b.loc ≠ .peer)))

/-- An earlier access `q` of the slot comes before the requests `rs` of `p`: one path and a shared location (R277), `p` a
release or `q` an acquire on that path (R237, R248; log entry 8), at a scope that is not narrower than the package. A request that
is to be logged orders nothing (R281). -/
def orderedBefore (q p : Pend) (rs : List Req) : Bool :=
  q.path == p.path && !q.parked &&
  (q.reqs.any (fun a => a.bad.isNone && rs.any (fun b => a.meets b))
    || (p.rel && !narrow p.scope && inScope p.scope q rs) || (q.acq && !narrow q.scope && inScope q.scope q rs))

/-- The requests of an access may be performed now. -/
def State.performable (s : State) (p : Pend) (rs : List Req) : Bool :=
  s.pend.all (fun q => !(q.slot == p.slot && decide (q.order < p.order) && orderedBefore q p rs))
  && rs.all (fun r => !s.behindMark p.slot (fun n => p.marks.all (fun m => decide (n ≤ m.1))) p.op.writes r.loc r.len)

/-- An earlier access of `p`'s slot on its path that a release or acquire narrower than the package puts before `p`: the release
is `p`'s, or the acquire is that of an access not earlier than it. -/
def State.narrowBefore (s : State) (p q : Pend) (c : Scope) : Bool :=
  q.slot == p.slot && q.path == p.path && decide (q.order < p.order) && !q.peerOnly
  && ((p.rel && decide (p.scope = c))
    || s.pend.any (fun x => x.slot == p.slot && x.path == p.path && decide (x.order < p.order) && decide (q.order ≤ x.order)
        && x.acq && decide (x.scope = c)))

/-- What stands before an access that is performed now counts as performed at the scope that orders it (R252, R275). -/
def State.markEarlier (s : State) (p : Pend) : State :=
  [Scope.row, .band, .field, .die].foldl (fun s c => s.markAt c (fun q => s.narrowBefore p q c)) s

/-- The access as its word issues it now. -/
def State.numbered (s : State) (p : Pend) : Pend := { p with id := s.nextId, order := s.nextId }

def isRed : PendOp → Bool
  | .red _ _ _ _ _ => true
  | _ => false

/-- The request that serves the lowest lane. -/
def lowestReq (rs : List Req) : Option Req :=
  rs.foldl (fun b r => match b with
    | none => some r
    | some q => if r.lanes.headD 0 < q.lanes.headD 0 then some r else b) none

/-- The fault a load, store or WLD meets in its grant phase, and the request that serves the lowest offending lane (R240,
R385). -/
def State.pendBad (s : State) (p : Pend) : Option (Cause × Req) :=
  if p.granted then none
  else
    match lowestReq (p.reqs.filter (fun r => s.denied r.loc r.key (slotMaster p.slot) p.op.reads p.op.writes)) with
    | some r => some (.denied, r)
    | none => (lowestReq (p.reqs.filter (fun r => p.op.reads && s.meetsPoison r.loc r.len r.mig))).map (fun r => (.poison, r))

/-! ### Back-off (R228) -/

/-- What an engine, a stream or a fill waits for, behind the urgent reads of its quadrant (R226). -/
def Waiter.engine : Waiter → Bool
  | .copy _ | .stream _ _ | .coll _ => true
  | .act (.event (.migrationBackgroundFill _ _)) => true
  | _ => false

/-- The waiter that a bank serves next; an urgent read passes over the engines (R226, R228). -/
def State.nextAt (s : State) (urgent : Bool) (bank : Nat) : Option Waiter :=
  (s.backoff.find? (fun b => b.1 == bank && !(urgent && b.2.engine))).map Prod.snd

/-- A request that needs the array backs off while its bank is unavailable or others wait before it. -/
def State.backsOff (s : State) (w : Waiter) (urgent : Bool) (loc slot : Nat) (full dram mig : Bool) : Bool :=
  s.mustBackOff loc slot full dram mig
  || (s.needsBank loc slot full dram mig && (s.nextAt urgent (bankKey loc)).any (fun x => decide (x ≠ w)))

/-- The requests of an access that must back off now. -/
def State.stalledReqs (s : State) (p : Pend) (rs : List Req) (dram : Bool) : List Req :=
  rs.filter (fun r => s.backsOff (.req p.id r.k) p.urgent r.loc r.key false dram r.mig)

def State.backOffAll (s : State) (p : Pend) (rs : List Req) : State :=
  rs.foldl (fun s r => s.joinBackoff (.req p.id r.k) r.loc) s

/-! ### Urgent gathers (R226) -/

/-- A read of the HBM array itself (R212). -/
def PendOp.dram : PendOp → Bool
  | .loadV _ _ _ dram => dram
  | _ => false

/-- An urgent read waits at a quadrant and could be served there now: it has reached its bank, and its turn at the bank has
come (R226, R228). -/
def State.urgentWaits (s : State) (Q : Nat) (p : Pend) : Bool :=
  p.urgent && p.reqs.any (fun r =>
    decide (r.loc < 2 ^ 40) && hbmQuad r.loc == Q && s.backoff.contains (bankKey r.loc, .req p.id r.k)
      && !s.backsOff (.req p.id r.k) true r.loc r.key false p.op.dram r.mig)

/-- A quadrant serves urgent reads first: copy, stream, collective and fill requests wait (R226). -/
def State.urgentAt (s : State) (Q : Nat) : Bool := s.pend.any (s.urgentWaits Q)

/-- An older urgent read waits at a quadrant that an urgent read reaches. -/
def State.olderUrgent (s : State) (p : Pend) : Bool :=
  p.urgent && p.reqs.any (fun r => decide (r.loc < 2 ^ 40)
    && s.pend.any (fun q => decide (q.order < p.order) && s.urgentWaits (hbmQuad r.loc) q))

/-! ### Banks of side memory (R203) -/

/-- The bank of a side-memory address: its field and bits [10:6]. -/
def sideBank (loc : Nat) : Option (Nat × Nat) :=
  match spaceOf loc with
  | .side f => some (f, bitsOf loc 10 6)
  | _ => none

/-- The paths whose requests to the banks of side memory all take the same time on their way. -/
def bankPath (path : Nat) : Bool := path == pathLane || path == pathWeight

/-- An older request, whose way to the bank takes as long, is still to be served at a bank that a request of `rs` needs: a bank
serves the oldest first (R203). -/
def State.bankOlder (s : State) (p : Pend) (rs : List Req) : Bool :=
  bankPath p.path && s.pend.any (fun q => bankPath q.path && q.op.atBank && decide (q.order < p.order) && !q.parked
    && s.performable q q.reqs
    && q.reqs.any (fun a => (sideBank a.loc).isSome && rs.any (fun r => sideBank r.loc == sideBank a.loc)))

/-- The requests of an access that a bank holds back for older ones are counted, each in its field (event 0x09). -/
def State.countDelayed (s : State) (p : Pend) (rs : List Req) : State :=
  rs.foldl (fun s r => match sideBank r.loc with
    | some b => if s.bankOlder p [r] then s.evField b.1 0x09 0 else s
    | none => s) s

/-! ### Atomics (R250) -/

/-- The signed or unsigned reading of a `w`-bit operand. -/
def atomInt (w : Nat) (un : Bool) (v : Nat) : Int := intOf w un v

/-- The integer operations folded over operands. -/
def atomIntFold (op : AtomOp) (un : Bool) (w : Nat) (m : Nat) (ops : List Nat) : Nat :=
  match op with
  | .add => (m + ops.sum) % 2 ^ w
  | .min => ops.foldl (fun a b => if atomInt w un b < atomInt w un a then b else a) m
  | .max => ops.foldl (fun a b => if atomInt w un a < atomInt w un b then b else a) m
  | .and => ops.foldl (· &&& ·) m
  | .or => ops.foldl (· ||| ·) m
  | .xor => ops.foldl (· ^^^ ·) m
  | .xchg | .cas => ops.getLastD m

/-- The FP32 operations: one exact sum and rounding; least and greatest with −0 below +0; any NaN gives the canonical one. -/
def atomFloatFold (op : AtomOp) (m : Nat) (ops : List Nat) : Nat :=
  let vs := (m :: ops).map (fun c => Fmt.fp32.value false false c)
  if vs.any Val.isNan then Fmt.fp32.nanCode
  else if ops = [] then m
  else match op with
    | .add =>
      match (sumVals vs .rne).1 with
      | .nan => Fmt.fp32.nanCode
      | v => (roundTo .fp32 v .rne false false false 0#64).code
    | .min => redMinMax ⟨0#64, .rne, false, false⟩ .fp32 false (m :: ops)
    | _ => redMinMax ⟨0#64, .rne, false, false⟩ .fp32 true (m :: ops)

/-- The value after operands are applied in lane order. -/
def atomFold (op : AtomOp) (f un wide : Bool) (m : Nat) (ops : List Nat) : Nat :=
  if f then atomFloatFold op m ops else atomIntFold op un (if wide then 64 else 32) m ops

/-- CAS over its lanes: the old value each lane saw, and the value left. -/
def casFold (m : Nat) : List (Nat × Nat) → List Nat × Nat
  | [] => ([], m)
  | (cmp, new) :: t =>
    let r := casFold (if m = cmp then new else m) t
    (m :: r.1, r.2)

/-- One request: the old value of each lane, in order, and the new value (R250). -/
def atomRequest (op : AtomOp) (f un wide : Bool) (m : Nat) (ops news : List Nat) : List Nat × Nat :=
  if op = .cas then casFold m (ops.zip news)
  else ((List.range ops.length).map (fun i => if i = 0 then m else atomFold op f un wide m (ops.take i)),
    atomFold op f un wide m ops)

end Sys2Proof.Machine
end

