-- ==== Sys2Proof/Machine/Control.lean ====
section
/-!
DEFINITION. Group 1: branches, lane structure, WAITC, YIELD, EXIT, TRAP and BRK (spec/06 R128-R142).
-/
namespace Sys2Proof.Machine

/-! ### Branches (R129) -/

/-- P + 8 × imm (R73). -/
def relTarget (pc : Word) (imm : BitVec 31) : Word := pc + imm.signExtend 64 * 8#64

def jEffect (imm : BitVec 31) (k : Nat) (s : State) : Effect :=
  let t := relTarget (s.slot k).pc imm
  .ok (fun u => u.modSlot k (fun c => c.goto t))

/-- JR, and CALLR with a link register: the exit address exits (R118), a misaligned target traps. -/
def jumpEffect (link : Option (Fin 32)) (a : XSrc) (k : Nat) (s : State) : Effect :=
  match s.ready k (xUse 0 a) (link.elim [] (fun d => [codeX d])) with
  | .error h => .error h
  | .ok _ =>
    let t := (s.slot k).xval k a
    let pc := (s.slot k).pc
    if t = exitAddress then .ok (fun u => (u.takes k (xUse 0 a)).modSlot k (fun c => c.exitRow pc))
    else if t &&& 7#64 ≠ 0#64 then .error (.trap .misalign t)
    else
      .ok (fun u => (u.takes k (xUse 0 a)).modSlot k (fun c =>
        (match link with
          | some d => c.setX d (pc + 8#64)
          | none => c).goto t))

def bzEffect (onZero : Bool) (a : XSrc) (imm : BitVec 31) (k : Nat) (s : State) : Effect :=
  match s.ready k (xUse 0 a) [] with
  | .error h => .error h
  | .ok _ =>
    let taken := decide ((s.slot k).xval k a = 0#64) == onZero
    let t := relTarget (s.slot k).pc imm
    .ok (fun u => (u.takes k (xUse 0 a)).modSlot k (fun c => if taken then c.goto t else c))

def callEffect (d : Fin 32) (imm : BitVec 31) (k : Nat) (s : State) : Effect :=
  match s.ready k [] [codeX d] with
  | .error h => .error h
  | .ok _ =>
    let pc := (s.slot k).pc
    .ok (fun u => u.modSlot k (fun c => (c.setX d (pc + 8#64)).goto (relTarget pc imm)))

def dbnzEffect (d : Fin 32) (a : XSrc) (imm : BitVec 31) (k : Nat) (s : State) : Effect :=
  match s.ready k (xUse 0 a) [codeX d] with
  | .error h => .error h
  | .ok _ =>
    let v := (s.slot k).xval k a - 1#64
    let t := relTarget (s.slot k).pc imm
    .ok (fun u => (u.takes k (xUse 0 a)).modSlot k (fun c =>
      let c := c.setX d v
      if v ≠ 0#64 then c.goto t else c))

/-! ### Lane structure (R132, R133) -/

/-- The counters of all lanes after `f`, before they are narrowed. -/
def Slot.nestMap (c : Slot) (f : Nat → Nat → Nat) : List (Nat × Nat) :=
  (List.range 64).map (fun l => (l, f l (c.nestOf l).toNat))

def Slot.setNest (c : Slot) (ns : List (Nat × Nat)) : Slot :=
  { c with nest := Tab.ofList 0#6 (ns.map (fun p => (p.1, BitVec.ofNat 6 p.2))) }

/-- The lanes whose counters would exceed 63. -/
def overflowing (ns : List (Nat × Nat)) : Mask := maskOf ((ns.filter (fun p => 63 < p.2)).map Prod.fst)

/-- A lane-structure instruction whose new counters are `f`. -/
def nestEffect (f : Slot → Nat → Nat → Nat) (k : Nat) (s : State) : Effect :=
  let ns := (s.slot k).nestMap (f (s.slot k))
  if overflowing ns ≠ 0#64 then .error (.trap .nestovf (overflowing ns))
  else .ok (fun u => u.modSlot k (fun c => c.setNest ns))

def lifNest (p : PSrc) (c : Slot) (l n : Nat) : Nat :=
  if 0 < n then n + 1 else if (c.pr p.reg).getLsbD l then 0 else 1
def lelseNest (_ : Slot) (_ n : Nat) : Nat := if n = 1 then 0 else if n = 0 then 1 else n
def lendifNest (_ : Slot) (_ n : Nat) : Nat := n - 1
def lloopNest (_ : Slot) (_ n : Nat) : Nat := if 0 < n then n + 2 else 0
/-- LBREAK (`plus` 2) and LCONT (`plus` 1). -/
def leaveNest (plus : Nat) (p : PSrc) (k : Fin 32) (c : Slot) (l n : Nat) : Nat :=
  if n = 0 ∧ (c.pr p.reg).getLsbD l = true then k + plus else n

/-- Steps 1 and 2 of LENDL. -/
def lendlNest (p : PSrc) (c : Slot) (l n : Nat) : Nat :=
  let n := if n = 0 ∧ (c.pr p.reg).getLsbD l = false then 2 else n
  if n = 1 then 0 else n

def lendlEffect (p : PSrc) (back : BitVec 13) (k : Nat) (s : State) : Effect :=
  let c := s.slot k
  let ns := c.nestMap (lendlNest p c)
  if ns.any (fun q => q.2 = 0) then
    let t := c.pc - BitVec.ofNat 64 (8 * back.toNat)
    .ok (fun u => u.modSlot k (fun c => (c.setNest ns).goto t))
  else
    .ok (fun u => u.modSlot k (fun c => c.setNest (ns.map (fun q => (q.1, if 2 ≤ q.2 then q.2 - 2 else q.2)))))

/-- LANY, LALL, LCNT (R134): a value of the active lanes and the predicate. -/
def lanesEffect (f : Mask → Mask → Word) (d : Fin 32) (p : PSrc) (k : Nat) (s : State) : Effect :=
  match s.ready k [] [codeX d] with
  | .error h => .error h
  | .ok _ =>
    let v := f (s.slot k).openLanes ((s.slot k).pr p.reg)
    .ok (fun u => u.modSlot k (fun c => c.setX d v))

def lanyOf (m p : Mask) : Word := if m &&& p = 0#64 then 0#64 else 1#64
def lallOf (m p : Mask) : Word := if m &&& ~~~p = 0#64 then 1#64 else 0#64
def lcntOf (m p : Mask) : Word := BitVec.ofNat 64 (lanesOf (m &&& p)).length

/-! ### WAITC (R136, R137) -/

def condAll (d : Desc) : Bool := (descWord d 0).getLsbD 3
def condCount (d : Desc) : Nat := bitsOf (descWord d 0).toNat 2 0
def condKind (w : Word) : Nat := bitsOf w.toNat 63 60
def condArg (w : Word) : Nat := bitsOf w.toNat 55 0

/-- A condition word within the count is malformed. -/
def condBad (dregs : Nat) (w : Word) : Bool :=
  let a := condArg w
  bitsOf w.toNat 59 56 != 0 ||
  match condKind w with
  | 1 => a / 64 != 0 || (decide (a / 32 = 1) && (decide (7 < a % 32) || decide (dregs ≤ a % 32)))
  | 2 => a / 2 ^ 54 != 0
  | 3 => a / 2 ^ 16 != 0
  | 4 => false
  | 5 => a != 0
  | _ => true

/-- The lowest offending word of a condition vector. -/
def condOffends (dregs : Nat) (d : Desc) : Option Nat :=
  if condCount d = 0 ∨ bitsOf (descWord d 0).toNat 63 4 ≠ 0 then some 0
  else ([1, 2, 3, 4, 5, 6, 7] : List Nat).find? (fun i =>
    if i ≤ condCount d then condBad dregs (descWord d i) else decide (descWord d i ≠ 0#64))

/-- A condition holds now (Table 6.9); a poisoned join counter holds no count. -/
def State.condHolds (s : State) (k : Nat) (w : Word) : Bool :=
  let a := condArg w
  match condKind w with
  | 1 => !(s.slot k).isEmpty (if a / 32 = 1 then codeD (a % 32) else codeX (a % 32))
  | 2 => decide (a % 2 ^ 48 ≤ (s.arrivalCtr (slotField k) (a / 2 ^ 48)).toNat)
  | 3 => !s.ctrBad a && decide (ctrCount (s.ctrRead a) = 0)
  | 4 => decide (a ≤ s.time.toNat)
  | 5 => (s.northHead k).isSome
  | _ => false

/-- The conditions of a vector that hold, as status bits. -/
def State.condMet (s : State) (k : Nat) (d : Desc) : Word :=
  maskOf ((List.range (condCount d)).filter (fun i => s.condHolds k (descWord d (i + 1))))

def condDone (d : Desc) (met : Word) : Bool :=
  if condAll d then decide (met = BitVec.ofNat 64 (2 ^ condCount d - 1)) else decide (met ≠ 0#64)

/-- A poisoned join counter among the conditions: of several, that of the lowest-numbered one (log entry 88). -/
def State.condPoison (s : State) (d : Desc) : Option Nat :=
  (((List.range (condCount d)).map (fun i => descWord d (i + 1))).find?
    (fun w => condKind w = 3 && s.ctrBad (condArg w))).map condArg

def condUsesPort (d : Desc) : Bool := (List.range (condCount d)).any (fun i => condKind (descWord d (i + 1)) = 5)

/-- A waiting word: the PC stays at it, and the word after it is where the slot goes on. -/
def Slot.waitAt (c : Slot) (pc : Word) (w : Wait) : Slot := { c with npc := c.fetchAt, pc := pc, high := 0, wait := w }

/-- A waiting word that takes the registers of its take-mode sources with its results (R70). -/
def Slot.waitTaking (c : Slot) (pc : Word) (w : Wait) (us : List Use) : Slot := { c.waitAt pc w with late := tookCodes us }

/-- The takes of a word that has waited. -/
def Slot.takeLate (c : Slot) : Slot := { c.late.foldl (fun c x => c.setEmpty x true) c with late := [] }

/-- The wait is over: the word takes its sources. -/
def Slot.goOn (c : Slot) : Slot := { c.takeLate.goto c.npc with wait := .none }

/-- The wait is over, and the word's result is in an x register. -/
def Slot.goOnWith (c : Slot) (d : Nat) (v : Word) : Slot := (c.takeLate.setX d v).goOn

/-- A word that may still trap while it waits is not counted before it ends (event 0x02, R380): the counters are those of
the state it issued in. -/
def State.notYet (u s : State) : State := { u with evc := s.evc }

/-- It is counted when its wait ends. -/
def State.countWord (s : State) (k : Nat) : State := s.evField (slotField k) 0x02 (slotQual k)

def State.dregsOf (s : State) (k : Nat) : Nat := match s.bandOf k with
  | some b => b.dregs
  | none => 0

/-- R137's port check. -/
def State.condUnbound (s : State) (k : Nat) (d : Desc) : Option Word := if condUsesPort d then s.northUnbound k else none

def waitcEffect (d : Fin 32) (a : DSrc) (b : XOp) (k : Nat) (s : State) : Effect :=
  let us := dUse 0 a ++ opUse b
  match s.ready k us [codeX d] with
  | .error h => .error h
  | .ok _ =>
    let v := (s.slot k).dr a.reg
    match condOffends (s.dregsOf k) v, s.condUnbound k v with
    | some i, _ => .error (.trap .baddesc (BitVec.ofNat 64 i))
    | none, some i => .error (.trap .portunbound i)
    | none, none =>
      let met := s.condMet k v
      let t := (s.slot k).opval k b
      let pc := (s.slot k).pc
      if condDone v met then .ok (fun u => (u.takes k us).modSlot k (fun c => c.setX d met))
      else match s.condPoison v with
        | some i => .error (.counter i)
        | none =>
          if t = 0#64 then .ok (fun u =>
            ((u.takes k us).modSlot k (fun c => c.setX d (met ||| (1#64 <<< 63)))).evField (slotField k) 0x15 0)
          else
            let dl := if t = BitVec.allOnes 64 then none else some (s.time.toNat + t.toNat)
            .ok (fun u => (u.notYet s).modSlot k (fun c => c.waitTaking pc (.waitc d v dl) us))

/-! ### YIELD, EXIT, TRAP, BRK (R139-R142) -/

def State.dueAt (s : State) (k : Nat) : Bool := match s.bandOf k with
  | some b => b.due
  | none => false

def yieldEffect (b : XOp) (k : Nat) (s : State) : Effect :=
  match s.ready k (opUse b) [] with
  | .error h => .error h
  | .ok _ =>
    let m := ((s.slot k).opval k b).setWidth 32
    let due := s.dueAt k
    .ok (fun u => (u.takes k (opUse b)).modSlot k (fun c => if due then { c with wait := .yield m } else c))

def exitEffect (k : Nat) (s : State) : Effect :=
  let pc := (s.slot k).pc
  .ok (fun u => u.modSlot k (fun c => c.exitRow pc))

/-- TRAP: SWTRAP with TRAPPC behind the word; it takes nothing, since it traps (R70). -/
def trapEffect (b : XOp) (k : Nat) (s : State) : Effect :=
  match s.ready k (opUse b) [] with
  | .error h => .error h
  | .ok _ => .error (.trapAfter .swtrap ((s.slot k).opval k b))

def brkEffect (_ : Nat) (_ : State) : Effect := .error (.trap .brk 0#64)

/-! ### Meanings -/

def execJ (imm : BitVec 31) (s : State) := s.issue 8 (jEffect imm)
def execJr (a : XSrc) (s : State) := s.issue 8 (jumpEffect none a)
def execBz (a : XSrc) (imm : BitVec 31) (s : State) := s.issue 8 (bzEffect true a imm)
def execBnz (a : XSrc) (imm : BitVec 31) (s : State) := s.issue 8 (bzEffect false a imm)
def execCall (d : Fin 32) (imm : BitVec 31) (s : State) := s.issue 8 (callEffect d imm)
def execCallr (d : Fin 32) (a : XSrc) (s : State) := s.issue 8 (jumpEffect (some d) a)
def execDbnz (d : Fin 32) (a : XSrc) (imm : BitVec 31) (s : State) := s.issue 8 (dbnzEffect d a imm)
def execLif (p : PSrc) (s : State) := s.issue 8 (nestEffect (lifNest p))
def execLelse (s : State) := s.issue 8 (nestEffect lelseNest)
def execLendif (s : State) := s.issue 8 (nestEffect lendifNest)
def execLloop (s : State) := s.issue 8 (nestEffect lloopNest)
def execLbreak (p : PSrc) (k : Fin 32) (s : State) := s.issue 8 (nestEffect (leaveNest 2 p k))
def execLcont (p : PSrc) (k : Fin 32) (s : State) := s.issue 8 (nestEffect (leaveNest 1 p k))
def execLendl (p : PSrc) (back : BitVec 13) (s : State) := s.issue 8 (lendlEffect p back)
def execLany (d : Fin 32) (p : PSrc) (s : State) := s.issue 8 (lanesEffect lanyOf d p)
def execLall (d : Fin 32) (p : PSrc) (s : State) := s.issue 8 (lanesEffect lallOf d p)
def execLcnt (d : Fin 32) (p : PSrc) (s : State) := s.issue 8 (lanesEffect lcntOf d p)
def execWaitc (d : Fin 32) (a : DSrc) (b : XOp) (s : State) := s.issue (opSize b) (waitcEffect d a b)
def execYield (b : XOp) (s : State) := s.issue (opSize b) (yieldEffect b)
def execExit (s : State) := s.issue 8 exitEffect
def execTrap (b : XOp) (s : State) := s.issue (opSize b) (trapEffect b)
def execBrk (s : State) := s.issue 8 brkEffect

end Sys2Proof.Machine
end

