-- ==== Sys2Proof/Machine/Memory.lean ====
section
/-!
DEFINITION. Group 5, WLD, XBLD, LDD and STD: what they check and send at issue (spec/10 R236-R254, spec/08 R190-R192,
spec/07 R162). What they do on completion stands in Complete.lean.
-/
namespace Sys2Proof.Machine

/-! ### Lane loads and stores (R242, R245) -/

/-- A load's v destination as an outstanding access holds it. -/
def dstNat : VDst → Nat
  | .v i => i
  | .s => 64

/-- Issue marks of a long-latency v destination: the register empty and pending, or a port entry reserved. -/
def State.produce (s : State) (k : Nat) (d : VDst) : State :=
  match d with
  | .v i => s.modSlot k (fun c => c.producer (codeV i))
  | .s => s.southAwait k

/-- A long-latency lane producer with an empty mask: its register is full at once (R122). -/
def State.produceNone (s : State) (k : Nat) (d : VDst) : State :=
  match d with
  | .v i => s.modSlot k (fun c => c.setEmpty (codeV i) false)
  | .s => s

/-- The readiness of a lane memory word that may name `s`. -/
def State.memReady (s : State) (k : Nat) (us : List Use) (dsts : List Nat) (south : Bool) (m : Mask) : Except Halt Unit := do
  s.checkSouthBound k south
  s.ready k us dsts
  if south && decide (m ≠ 0#64) then s.checkSouth k .vv else .ok ()

/-- A lane load: `addr` its addresses, `scale` the block scales it places, `one` a single read for every lane. -/
def loadEffect (glob one : Bool) (g : Option Guard) (d : VDst) (us : List Use) (mm : MemMod) (addr : Nat → Word)
    (scale : Nat → BitVec 8) (k : Nat) (s : State) : Effect := do
  let m := (s.slot k).active g
  s.memReady k us (dstCodes d) (dstIsS d) m
  if m = 0#64 then .ok (fun t => (t.takes k us).produceNone k d)
  else do
    let n := mm.width.bytes
    let ps ← s.resolve k false glob false false .read n ((lanesOf m).map (fun l => (l, addr l)))
    let rs := if one then (ps.take 1).map (fun p => p.req (lanesOf m) n []) else ps.map (fun p => p.req [p.lane] n [])
    let sc := if mm.fmt.isMx then (lanesOf m).map (fun l => (l, scale l)) else []
    let p := s.access k (globPath glob) mm.scope false mm.ordered (.loadV (dstNat d) mm.fmt sc (glob && mm.x)) m rs
    .ok (fun t => ((t.takes k us).produce k d).addPend p)

/-- LD and GLD (R242, R245). -/
def ldEffect (glob : Bool) (g : Option Guard) (d : VDst) (a : XSrc) (b : RSrc) (mm : MemMod) (k : Nat) (s : State) : Effect :=
  let c := s.slot k
  loadEffect glob false g d (xUse 0 a ++ rUse 1 b) mm (fun l => c.xval k a + addrPart mm.fmt (c.vr b.reg l).bits)
    (fun l => scalePart (c.vr b.reg l).bits) k s

def ldvEffect (g : Option Guard) (d : VDst) (a : XSrc) (b : XOp) (mm : MemMod) (k : Nat) (s : State) : Effect :=
  let c := s.slot k
  loadEffect false false g d (xUse 0 a ++ opUse b) mm
    (fun l => c.xval k a + BitVec.ofNat 64 l * addrPart mm.fmt (c.opval k b)) (fun _ => scalePart (c.opval k b)) k s

def ldbEffect (g : Option Guard) (d : VDst) (a : XSrc) (b : XOp) (mm : MemMod) (k : Nat) (s : State) : Effect :=
  let c := s.slot k
  loadEffect false true g d (xUse 0 a ++ opUse b) mm (fun _ => c.xval k a + addrPart mm.fmt (c.opval k b))
    (fun _ => scalePart (c.opval k b)) k s

/-- A lane store: the low bytes of C at each lane's address. -/
def storeEffect (glob : Bool) (g : Option Guard) (us : List Use) (mm : MemMod) (addr : Nat → Word) (data : Nat → Word)
    (k : Nat) (s : State) : Effect := do
  let m := (s.slot k).active g
  s.ready k us []
  if m = 0#64 then .ok (fun t => t.takes k us)
  else do
    let n := mm.width.bytes
    let ps ← s.resolve k false glob true (2 ≤ n) .write n ((lanesOf m).map (fun l => (l, addr l)))
    let rs := ps.map (fun p => p.req [p.lane] n (toBytes n (data p.lane).toNat))
    let p := s.access k (globPath glob) mm.scope mm.ordered false .store m rs
    .ok (fun t => (t.takes k us).addPend p)

/-- ST and GST. -/
def stEffect (glob : Bool) (g : Option Guard) (a : XSrc) (b c : RSrc) (mm : MemMod) (k : Nat) (s : State) : Effect :=
  let r := s.slot k
  storeEffect glob g (xUse 0 a ++ rUse 1 b ++ rUse 2 c) mm (fun l => r.xval k a + (r.vr b.reg l).bits)
    (fun l => (r.vr c.reg l).bits) k s

def stvEffect (g : Option Guard) (a : XSrc) (b : XOp) (c : RSrc) (mm : MemMod) (k : Nat) (s : State) : Effect :=
  let r := s.slot k
  storeEffect false g (xUse 0 a ++ opUse b ++ rUse 2 c) mm (fun l => r.xval k a + BitVec.ofNat 64 l * r.opval k b)
    (fun l => (r.vr c.reg l).bits) k s

/-! ### Scalar accesses (R246, R259) -/

/-- The destination of a restored word that was parked holds its value, empty; its replay fills it and does not wait for
it (R120). -/
def State.refilling (s : State) (k dst : Nat) : State :=
  if (s.slot k).refills then s.modSlot k (fun c => c.setEmpty dst false) else s

/-- A scalar read of `n` bytes into the register of an operand code. -/
def scalarRead (glob : Bool) (us : List Use) (dst : Nat) (n : Nat) (scope : Scope) (acq : Bool) (op : PendOp) (a : Word)
    (k : Nat) (s : State) : Effect := do
  (s.refilling k dst).ready k us [dst]
  let ps ← s.resolve k true glob false false .read n [(0, a)]
  let p := s.access k (globPath glob) scope false acq op 0#64 (ps.map (fun p => p.req [0] n []))
  .ok (fun t => ((t.takes k us).modSlot k (fun c => c.producer dst)).addPend p)

/-- A scalar write. -/
def scalarWrite (glob half : Bool) (us : List Use) (n : Nat) (scope : Scope) (rel : Bool) (a : Word) (data : List Byte)
    (k : Nat) (s : State) : Effect := do
  s.ready k us []
  let ps ← s.resolve k true glob true half .write n [(0, a)]
  let p := s.access k (globPath glob) scope rel false .store 0#64 (ps.map (fun p => p.req [0] n data))
  .ok (fun t => (t.takes k us).addPend p)

def ldsEffect (d : Fin 32) (a : XSrc) (b : XOp) (mm : MemMod) (k : Nat) (s : State) : Effect :=
  let c := s.slot k
  scalarRead true (xUse 0 a ++ opUse b) (codeX d) mm.width.bytes mm.scope mm.ordered (.loadX d mm.x mm.width)
    (c.xval k a + c.opval k b) k s

def stsEffect (a : XSrc) (b : XOp) (c : XSrc) (mm : MemMod) (k : Nat) (s : State) : Effect :=
  let r := s.slot k
  scalarWrite true (2 ≤ mm.width.bytes) (xUse 0 a ++ opUse b ++ xUse 2 c) mm.width.bytes mm.scope mm.ordered
    (r.xval k a + r.opval k b) (toBytes mm.width.bytes (r.xval k c).toNat) k s

/-- LDD (R259). -/
def lddEffect (d : Fin 8) (a : XSrc) (b : XOp) (loc : Bool) (k : Nat) (s : State) : Effect :=
  let c := s.slot k
  scalarRead (!loc) (xUse 0 a ++ opUse b) (codeD d) 64 .row false (.ldd d) (c.xval k a + c.opval k b) k s

/-- STD (R259): always whole words (Table 9.1). -/
def stdEffect (a : XSrc) (b : XOp) (d : DSrc) (loc : Bool) (k : Nat) (s : State) : Effect :=
  let c := s.slot k
  scalarWrite (!loc) true (xUse 0 a ++ opUse b ++ dUse 2 d) 64 .row false (c.xval k a + c.opval k b)
    (toBytes 64 (c.dr d.reg).toNat) k s

/-! ### Atomics (R248-R251) -/

/-- The distinct addresses among lanes, each with its lanes in order. -/
def groupLanes (xs : List (Nat × Word)) : List (Word × List Nat) :=
  xs.foldl (fun gs p =>
    if gs.any (fun g => g.1 = p.2) then gs.map (fun g => if g.1 = p.2 then (g.1, g.2 ++ [p.1]) else g)
    else gs ++ [(p.2, [p.1])]) []

def atomBytes (wide : Bool) : Nat := if wide then 8 else 4

/-- The requests of an aggregated atomic, one for each distinct address. -/
def atomReqs (n : Nat) (ps : List Place) (ops news : Nat → Word) : List Req :=
  (groupLanes (ps.map (fun p => (p.lane, p.va)))).filterMap (fun g =>
    (ps.find? (fun p => p.va = g.1)).map (fun p =>
      { p.req g.2 n [] with ops := g.2.map ops, news := g.2.map news }))

/-- The trap of a grant phase at issue. -/
def checkGrant (f : Option (Cause × Word)) : Except Halt Unit :=
  match f with
  | some (c, a) => .error (.trap c a)
  | none => .ok ()

/-- The operand of a lane at the access width. -/
def atomOperand (wide : Bool) (w : Word) : Word := if wide then w else w.setWidth 32 |>.setWidth 64

/-- Some request goes to peer memory, so that the grant phase ends with the answer from the link (log entry 77). -/
def reachesPeer (rs : List Req) : Bool := rs.any (fun r => decide (spaceOf r.loc = .peer))

/-- An atomic is sent: its own device's targets have granted it at issue, and its destination awaits the old values (`mark`);
one that reaches a peer holds its slot through the grant phase (R240, R251), with a port entry reserved by `hold`. -/
def State.sendAtomic (t s : State) (k : Nat) (us : List Use) (mark hold : State → State) (p : Pend) : State :=
  if reachesPeer p.reqs then ((hold (t.notYet s)).modSlot k (fun c => c.waitTaking p.pc .atomic us)).addPend p
  else (mark (t.takes k us)).addPend { p with granted := true }

/-- The grant phase of an atomic at issue: it reads its words behind its slot's earlier accesses to them (R240, R277). -/
def State.atomGrant (s : State) (k n : Nat) (ps : List Place) (p : Pend) : Except Halt Unit :=
  if !s.performable (s.numbered p) p.reqs then .error (.stall 0) else checkGrant (s.grantAll k true true n ps)

/-- ATOM and CAS. -/
def atomEffect (g : Option Guard) (d : VDst) (us : List Use) (mm : AtomMod) (addr ops news : Nat → Word) (k : Nat) (s : State) :
    Effect := do
  let m := (s.slot k).active g
  s.memReady k us (dstCodes d) (dstIsS d) m
  if m = 0#64 then .ok (fun t => (t.takes k us).produceNone k d)
  else do
    let n := atomBytes mm.wide
    let ps ← s.resolve k false mm.glob false false .write n ((lanesOf m).map (fun l => (l, addr l)))
    let rs := atomReqs n ps (fun l => atomOperand mm.wide (ops l)) (fun l => atomOperand mm.wide (news l))
    let p := s.access k (globPath mm.glob) mm.scope mm.acqrel mm.acqrel
      (.atomV (dstNat d) mm.op mm.f mm.un mm.wide (decide (mm.op = .cas))) m rs
    s.atomGrant k n ps p
    .ok (fun t => t.sendAtomic s k us (fun u => u.produce k d) (fun u => if dstIsS d then u.southAwait k else u) p)

def atomLaneEffect (g : Option Guard) (d : VDst) (a : XSrc) (b c : RSrc) (mm : AtomMod) (k : Nat) (s : State) : Effect :=
  let r := s.slot k
  atomEffect g d (xUse 0 a ++ rUse 1 b ++ rUse 2 c) mm (fun l => r.xval k a + (r.vr b.reg l).bits)
    (fun l => (r.vr c.reg l).bits) (fun _ => 0#64) k s

/-- CAS: C names the compare values, C + 1 the new ones. -/
def casEffect (g : Option Guard) (d : VDst) (a : XSrc) (b c : RSrc) (mm : AtomMod) (k : Nat) (s : State) : Effect :=
  let r := s.slot k
  atomEffect g d (xUse 0 a ++ rUse 1 b ++ rUses 2 2 c) { mm with op := .cas } (fun l => r.xval k a + (r.vr b.reg l).bits)
    (fun l => (r.vr c.reg l).bits) (fun l => (r.vr (c.reg + 1) l).bits) k s

/-- ATOMS (R249): always global; under `.cas` B is the compare value and C the new one. -/
def atomsEffect (d : Fin 32) (a : XSrc) (b : XOp) (c : XSrc) (mm : AtomMod) (k : Nat) (s : State) : Effect := do
  let r := s.slot k
  let us := xUse 0 a ++ opUse b ++ xUse 2 c
  (s.refilling k (codeX d)).ready k us [codeX d]
  let n := atomBytes mm.wide
  let ps ← s.resolve k true true false false .write n [(0, r.xval k a)]
  let rs := atomReqs n ps (fun _ => atomOperand mm.wide (r.opval k b)) (fun _ => atomOperand mm.wide (r.xval k c))
  let p := s.access k pathGather mm.scope mm.acqrel mm.acqrel (.atomX d mm.op mm.f mm.un mm.wide) 0#64 rs
  s.atomGrant k n ps p
  .ok (fun t => t.sendAtomic s k us (fun u => u.modSlot k (fun c => c.producer (codeX d))) id p)

/-! ### RED (R251) -/

/-- A place of a RED, found without holding the slot: the page is walked, and a fault parks the request in the row's
aggregator (R221). -/
inductive RedPlace where
  | found (p : Place)
  | bad (p : Place) (c : Cause)
  | fault (va : Word) (reason : Nat)
  deriving DecidableEq, Repr

/-- Table 9.1 at a place of a RED. -/
def redKind (p : Place) : RedPlace :=
  match kindFault p.ckind false false with
  | some c => .bad p c
  | none => .found p

/-- Translate one address for writing, walking and filling the TLB of `unit` where it must. -/
def State.translate (s : State) (unit asid : Nat) (acc : AccKind) (va : Word) : (Sum TlbLeaf Nat) × State :=
  let hit := match s.tlbLook unit asid (vaPage va) with
    | some l => if neverMapped va || (leafRefuses l.leaf acc).isSome then none else some l
    | none => none
  match hit with
  | some l => (.inl l, s)
  | none =>
    let s := if unit < 64 then s.evField unit 0x0B 0 else s
    let r := s.walk asid va
    match r.1 with
    | .leaf e lv =>
      let s := r.2.tlbFill unit asid (vaPage va) ⟨e, lv⟩
      match leafRefuses e acc with
      | some why => (.inr why, s)
      | none => (.inl ⟨e, lv⟩, s)
    | .fault why => (.inr why, r.2)

def State.redPlace (s : State) (k : Nat) (b : Band) (glob : Bool) (n : Nat) (x : Word) : RedPlace × State :=
  if glob then
    let r := s.translate (slotField k) b.asid .write x
    match r.1 with
    | .inl l => (redKind (r.2.placeOf (0, x) l), r.2)
    | .inr why => (.fault x why, r.2)
  else
    let p : Place := ⟨0, x, sideLoc (slotField k) x.toNat, 0, false, s.chunkAt (slotField k) x.toNat⟩
    if b.holds x n then (redKind p, s) else (.bad p .denied, s)

/-- The request of one distinct address, and its fault-buffer place where it parks. -/
def redReq (n i : Nat) (lanes : List Nat) (ops : List Word) (r : RedPlace) : Req :=
  match r with
  | .found p => { p.req lanes n [] with k := i, ops := ops }
  | .bad p c => { p.req lanes n [] with k := i, ops := ops, bad := some c }
  | .fault va _ => { k := i, lanes := lanes, va := va, loc := 0, key := 0, len := n, data := [], ops := ops, news := [],
                     mig := false, parked := true, bad := none }

/-- Issue the requests of a RED, in order of their first lanes. -/
def State.issueRed (s : State) (k : Nat) (b : Band) (glob : Bool) (n : Nat) (id : Nat) (ops : Nat → Word) :
    List (Word × List Nat) → Nat → List Req × State
  | [], _ => ([], s)
  | g :: t, i =>
    let r := s.redPlace k b glob n g.1
    let s' := match r.1 with
      | .fault va why => r.2.joinFault ⟨slotDie k, .red id i, va, b.asid, .write, why, slotField k⟩
      | _ => r.2
    let rest := State.issueRed s' k b glob n id ops t (i + 1)
    (redReq n i g.2 (g.2.map ops) r.1 :: rest.1, rest.2)

/-- The operation byte a RED is logged with: bits [8:3] of its modifier (Table 13.9). -/
def redOpBits (mm : AtomMod) : BitVec 6 :=
  (mm.op.code.setWidth 6 <<< 3) ||| (if mm.f then 4#6 else 0#6) ||| (if mm.un then 2#6 else 0#6)
    ||| (if mm.glob then 1#6 else 0#6)

def redEffect (g : Option Guard) (a : XSrc) (b c : RSrc) (mm : AtomMod) (k : Nat) (s : State) : Effect := do
  let r := s.slot k
  let m := r.active g
  let us := xUse 0 a ++ rUse 1 b ++ rUse 2 c
  s.ready k us []
  if m = 0#64 then .ok (fun t => t.takes k us)
  else do
    let n := atomBytes mm.wide
    let xs := (lanesOf m).map (fun l => (l, r.xval k a + (r.vr b.reg l).bits))
    checkAlign false n xs
    let ops := fun l => atomOperand mm.wide (r.vr c.reg l).bits
    let p := s.access k (globPath mm.glob) mm.scope mm.acqrel false (.red mm.op mm.f mm.un mm.wide (redOpBits mm)) m []
    .ok (fun t =>
      match t.bandOf k with
      | none => t
      | some v =>
        let q := (t.takes k us).issueRed k v mm.glob n t.nextId ops (groupLanes xs) 0
        q.2.addPend { p with reqs := q.1 })

/-! ### Fences (R252, R253) -/

/-- Some earlier load, atomic or long-latency read of the slot has not completed. -/
def State.acqPending (s : State) (k : Nat) (scope : Scope) : Bool :=
  s.pend.any (fun p => p.slot == k && p.op.reads && (podScope scope || !p.peerOnly))

/-- FAULTLOG as a slot reads it. -/
def State.faultLogOf (s : State) (k : Nat) : Word :=
  match s.bandOf k with
  | some b => BitVec.ofNat 64 (s.faultLog b.region)
  | none => 0#64

/-- FENCE names every path; FENCEX its own set. -/
def fenceEffect (scope : Scope) (kind : FenceKind) (paths : BitVec 7) (k : Nat) (s : State) : Effect :=
  if s.pend.any (fun p => p.slot == k && isRed p.op) then .error (.stall 0)
  else if (s.slot k).asyncfault then .error (.trap .asyncfault (s.faultLogOf k))
  else if decide (kind ≠ .acq) && s.relPending k scope paths then .error (.stall 0)
  else if decide (kind ≠ .rel) && s.acqPending k scope then .error (.stall 0)
  else .ok (fun t => if kind = .acq then t else t.release k scope paths)

/-! ### PREF (R254) -/

/-- PREF's fill: the page's translation and the line, or nothing where a fault, a denial or poison drops it. -/
def State.prefetchAt (s : State) (k : Nat) (b : Band) (va : Word) : State :=
  let r := s.translate (slotField k) b.asid .read va
  match r.1 with
  | .inr _ => r.2
  | .inl l =>
    let p := r.2.placeOf (0, va) l
    let line := p.loc / 256
    if 2 ^ 40 ≤ p.loc || r.2.denied p.loc p.key (slotMaster k) true false || r.2.meetsPoison (256 * line) 256 p.mig then r.2
    else ((if p.mig then r.2.migServe p.loc p.key else r.2).touchLine line p.key false false)

/-- A prefetch that meets an unavailable bank is dropped (R254). -/
def State.prefetch (s : State) (k : Nat) (va : Word) : State :=
  match s.bandOf k with
  | none => s
  | some b =>
    let t := s.prefetchAt k b va
    if t.clash = s.clash then t else s

def prefEffect (a : XSrc) (b : XOp) (k : Nat) (s : State) : Effect := do
  let us := xUse 0 a ++ opUse b
  s.ready k us []
  let va := (s.slot k).xval k a + (s.slot k).opval k b
  .ok (fun t => (t.takes k us).prefetch k va)

/-! ### WLD (R190-R192) -/

/-- A lane's tag refuses a WLD that keeps it. -/
def wldTagBad (kind : WKind) (t : Fmt) : Bool :=
  match kind with
  | .lat => t ≠ .pl16
  | .dense => t = .pl16
  | .sp => t = .mxe2m1 || t = .pl16

/-- The requests of a WLD: one for each distinct data block, then one for each distinct metadata block. -/
def wldReqs (field : Nat) (data meta_ : List (Nat × Word)) : List Req :=
  let mk (n base : Nat) (gs : List (Word × List Nat)) : List Req :=
    gs.zipIdx.map (fun p => { k := base + p.2, lanes := p.1.2, va := p.1.1, loc := sideLoc field p.1.1.toNat, key := 0,
                              len := n, data := [], ops := [], news := [], mig := false, parked := false, bad := none })
  mk 64 0 (groupLanes data) ++ mk 16 64 (groupLanes meta_)

def wldEffect (g : Option Guard) (d : Fin 4) (a : XSrc) (b : XOp) (fmt : Fmt) (kind : WKind) (k : Nat) (s : State) :
    Effect := do
  let c := s.slot k
  let m := c.active g
  let us := xUse 0 a ++ opUse b
  s.ready k (us ++ (if m ≠ 0#64 ∧ fmt = .raw then readUse (codeW d) else [])) [codeW d]
  if m = 0#64 then .ok (fun t => (t.takes k us).modSlot k (fun c => c.setEmpty (codeW d) false))
  else do
    let bad := maskOf ((lanesOf m).filter (fun l => fmt = .raw && wldTagBad kind (c.wr d l).tag))
    if bad ≠ 0#64 then .error (.trap .tagmismatch bad)
    else do
      let A := c.xval k a
      let B := c.opval k b
      let data : List (Nat × Word) := (lanesOf m).map (fun l => (l, A + BitVec.ofNat 64 l * B))
      let md : List (Nat × Word) := if kind = .sp then (lanesOf m).map (fun l => (l, A + 64#64 * B + 16#64 * BitVec.ofNat 64 l)) else []
      let off := maskOf ((lanesOf m).filter (fun l =>
        (data.any (fun p => p.1 = l && p.2.toNat % 64 != 0)) || md.any (fun p => p.1 = l && p.2.toNat % 16 != 0)))
      if off ≠ 0#64 then .error (.trap .misalign off)
      else do
        let out : Option (Nat × Word) := match s.bandOf k with
          | some v => (lanesOf m).findSome? (fun l =>
              ((data.find? (fun (p : Nat × Word) => p.1 = l && !v.holds p.2 64))
                <|> (md.find? (fun (p : Nat × Word) => p.1 = l && !v.holds p.2 16))))
          | none => none
        match out with
        | some p => .error (.trap .denied p.2)
        | none =>
          let pc := c.pc
          let p := s.access k pathWeight .row false false
            (.wld d (if fmt = .raw then none else some fmt) kind m) m (wldReqs (slotField k) data md)
          .ok (fun t =>
            if kind = .sp then
              ((t.notYet s).modSlot k (fun c => (c.producer (codeW d)).waitTaking pc .wldSparse us)).addPend p
            else ((t.takes k us).modSlot k (fun c => c.producer (codeW d))).addPend p)

/-! ### XBLD (R162) -/

/-- The first byte of a pattern that names no lane: of several the lowest (log entry 101). -/
def patternBad (bs : List Byte) : Option Nat := bs.findIdx? (fun b => 0x40 ≤ b.toNat && b.toNat ≤ 0xFE)

/-- XBLD reads at issue, behind its slot's earlier accesses to the bytes (R277), since its checks see them; the pattern
changes when it completes (log entry 22). No chunk kind stops it, and DENIED and POISON come before BADDESC (log entry 89). -/
def xbldEffect (a : XSrc) (i : Fin 16) (k : Nat) (s : State) : Effect := do
  let us := xUse 0 a
  s.ready k us []
  let A := (s.slot k).xval k a
  let ps ← (do checkAlign true 64 [(0, A)]; s.places k false .read 64 [(0, A)])
  let p := s.access k pathLane .row false false (.xbld (slotField k) i) 0#64 (ps.map (fun p => p.req [0] 64 []))
  if !s.performable (s.numbered p) p.reqs then .error (.stall 0)
  else do
    checkGrant (s.grantAll k true false 64 ps)
    let bs := s.readMem (sideLoc (slotField k) A.toNat) 64
    match patternBad bs with
    | some n => .error (.trap .baddesc (BitVec.ofNat 64 n))
    | none =>
      .ok (fun t => ((t.takes k us).evField (slotField k) 0x0A 0).addPend
        { p with granted := true, reqs := p.reqs.map (fun r => { r with data := bs }) })

/-! ### Meanings -/

def execLd (g : Option Guard) (d : VDst) (a : XSrc) (b : RSrc) (m : MemMod) (s : State) := s.issue 8 (ldEffect false g d a b m)
def execLdv (g : Option Guard) (d : VDst) (a : XSrc) (b : XOp) (m : MemMod) (s : State) := s.issue (opSize b) (ldvEffect g d a b m)
def execLdb (g : Option Guard) (d : VDst) (a : XSrc) (b : XOp) (m : MemMod) (s : State) := s.issue (opSize b) (ldbEffect g d a b m)
def execSt (g : Option Guard) (a : XSrc) (b c : RSrc) (m : MemMod) (s : State) := s.issue 8 (stEffect false g a b c m)
def execStv (g : Option Guard) (a : XSrc) (b : XOp) (c : RSrc) (m : MemMod) (s : State) := s.issue (opSize b) (stvEffect g a b c m)
def execLds (d : Fin 32) (a : XSrc) (b : XOp) (m : MemMod) (s : State) := s.issue (opSize b) (ldsEffect d a b m)
def execSts (a : XSrc) (b : XOp) (c : XSrc) (m : MemMod) (s : State) := s.issue (opSize b) (stsEffect a b c m)
def execGld (g : Option Guard) (d : VDst) (a : XSrc) (b : RSrc) (m : MemMod) (s : State) := s.issue 8 (ldEffect true g d a b m)
def execGst (g : Option Guard) (a : XSrc) (b c : RSrc) (m : MemMod) (s : State) := s.issue 8 (stEffect true g a b c m)
def execAtom (g : Option Guard) (d : VDst) (a : XSrc) (b c : RSrc) (m : AtomMod) (s : State) := s.issue 8 (atomLaneEffect g d a b c m)
def execRed (g : Option Guard) (a : XSrc) (b c : RSrc) (m : AtomMod) (s : State) := s.issue 8 (redEffect g a b c m)
def execCas (g : Option Guard) (d : VDst) (a : XSrc) (b c : RSrc) (m : AtomMod) (s : State) := s.issue 8 (casEffect g d a b c m)
def execAtoms (d : Fin 32) (a : XSrc) (b : XOp) (c : XSrc) (m : AtomMod) (s : State) := s.issue (opSize b) (atomsEffect d a b c m)
def execFence (scope : Scope) (kind : FenceKind) (s : State) := s.issue 8 (fenceEffect scope kind 0x7F#7)
def execFencex (scope : Scope) (kind : FenceKind) (paths : BitVec 7) (s : State) := s.issue 8 (fenceEffect scope kind paths)
def execPref (a : XSrc) (b : XOp) (s : State) := s.issue (opSize b) (prefEffect a b)
def execLdd (d : Fin 8) (a : XSrc) (b : XOp) (loc : Bool) (s : State) := s.issue (opSize b) (lddEffect d a b loc)
def execStd (a : XSrc) (b : XOp) (c : DSrc) (loc : Bool) (s : State) := s.issue (opSize b) (stdEffect a b c loc)
def execWld (g : Option Guard) (d : Fin 4) (a : XSrc) (b : XOp) (fmt : Fmt) (kind : WKind) (s : State) :=
  s.issue (opSize b) (wldEffect g d a b fmt kind)
def execXbld (a : XSrc) (i : Fin 16) (s : State) := s.issue 8 (xbldEffect a i)

end Sys2Proof.Machine
end

