-- ==== Sys2Proof/Machine/Copy.lean ====
section
/-!
DEFINITION. Group 6 and the edge bindings at issue: descriptors and their checks (spec/10 R258-R266), copy commands and
CCANCEL (R264, R265, R270), the copy command queue (spec/13 R320), PBIND and PFLUSH (spec/08 R197, R199).
-/
namespace Sys2Proof.Machine

/-! ### Box, residue and span descriptors (Tables 10.7, 10.8) -/

def descKind (d : Desc) : Nat := bitsOf d.toNat 63 60

def bxFmt (d : Desc) : Fmt := Fmt.ofCode (BitVec.ofNat 4 (bitsOf d.toNat 59 56))
def bxRank (d : Desc) : Nat := bitsOf d.toNat 55 53 + 1
def bxBitoff (d : Desc) : Nat := bitsOf d.toNat 52 50
def bxLocal (d : Desc) : Bool := d.getLsbD 49
def bxSat (d : Desc) : Bool := d.getLsbD 48
def bxMode (d : Desc) : Option RMode :=
  let c := bitsOf d.toNat 47 45
  if 5 ≤ c then none else RMode.ofCode (BitVec.ofNat 3 c)
def bxScale (d : Desc) : BitVec 8 := BitVec.ofNat 8 (bitsOf d.toNat 44 37)
def bxBase (d : Desc) : Nat := bitsOf d.toNat 120 64
def bxOrigin (d : Desc) (i : Nat) : Int := signedOf 24 (bitsOf d.toNat (128 + 24 * i + 23) (128 + 24 * i))
def bxExtent (d : Desc) (i : Nat) : Nat := bitsOf d.toNat (320 + 16 * i + 15) (320 + 16 * i)
def bxPerm (d : Desc) (k : Nat) : Nat := bitsOf d.toNat (448 + 3 * k + 2) (448 + 3 * k)
def bxPitch (d : Desc) : Nat := bitsOf d.toNat 503 472

def rsFmt (d : Desc) : Fmt := Fmt.ofCode (BitVec.ofNat 4 (bitsOf d.toNat 59 56))
def rsLocal (d : Desc) : Bool := d.getLsbD 49
def rsBase (d : Desc) : Nat := bitsOf d.toNat 120 64

def spDstLocal (d : Desc) : Bool := d.getLsbD 49
def spSrcLocal (d : Desc) : Bool := d.getLsbD 48
def spSrc (d : Desc) : Nat := bitsOf d.toNat 120 64
def spDst (d : Desc) : Nat := bitsOf d.toNat 184 128

/-- The format a box writes: dfmt, or the source's where it is 0 (R261). -/
def destFmt (a b : Desc) : Fmt := if bxFmt b = .raw then tdFmt a else bxFmt b

/-- The bits of a destination element; code 12 is a plain 4-bit E2M1 code (R266). -/
def destBits (a b : Desc) : Nat := elemBits (destFmt a b)

/-! ### Checks (R265) -/

/-- A start bit within the base byte: 0, or 4 for 4-bit elements (Table 10.6). -/
def bitoffOk (f : Fmt) (o : Nat) : Bool := o == 0 || (f == .mxe2m1 && o == 4)

/-- An extent: 1 to 65,535 below the rank, 0 above. -/
def extentOk (rank d v : Nat) : Bool := if d < rank then v != 0 else v == 0

/-- The first word that a list of (word, broken) pairs breaks. -/
def firstBroken (cs : List (Nat × Bool)) : Option Nat := (cs.find? (fun (p : Nat × Bool) => p.2)).map Prod.fst

def dims : List Nat := [0, 1, 2, 3, 4, 5, 6, 7]

/-- Table 10.6: the first word of a tensor descriptor that breaks it. -/
def tensorBroken (d : Desc) : Option Nat :=
  let v := d.toNat
  firstBroken ([
    (0, descKind d != 1 || bitsOf v 48 48 != 0 || bitsOf v 39 32 != 0 || !bitoffOk (tdFmt d) (tdBitoff d)),
    (1, bitsOf v 127 121 != 0),
    (2, ([0, 1, 2, 3] : List Nat).any (fun i => !extentOk (tdRank d) i (tdExtent d i))),
    (3, ([4, 5, 6, 7] : List Nat).any (fun i => !extentOk (tdRank d) i (tdExtent d i))),
    (7, bitsOf v 511 480 != 0)])

/-- perm is a permutation of 0 to rank − 1, zero above. -/
def permOk (d : Desc) : Bool :=
  dims.all (fun k =>
    if k < bxRank d then decide (bxPerm d k < bxRank d)
        && (List.range k).all (fun j => decide (bxPerm d j ≠ bxPerm d k))
    else bxPerm d k == 0)

/-- The destination formats of R266. -/
def destFmtOk (f : Fmt) : Bool :=
  match f with
  | .i8 | .i16 | .i32 | .i64 | .fp16 | .bf16 | .fp32 | .e4m3 | .e5m2 | .mxe2m1 => true
  | _ => false

/-- dfmt is 0, or a permitted destination of a numeric source that is not PL16. -/
def convOk (a b : Desc) : Bool :=
  bxFmt b == .raw || (destFmtOk (bxFmt b) && tdFmt a != .raw && tdFmt a != .pl16)

/-- The bits of one dense destination row. -/
def denseBits (a b : Desc) : Nat := bxExtent b (bxPerm b 0) * destBits a b

/-- A dense pitch that is not whole bytes, or a pitch below it (R265). -/
def pitchBad (a b : Desc) : Bool :=
  denseBits a b % 8 != 0 || (bxPitch b != 0 && decide (bxPitch b < denseBits a b / 8))

/-- PL16 moves whole words only (R266). -/
def plWhole (a : Desc) : Bool := tdFmt a == .pl16

/-- Table 10.7 against its tensor: the first word of a box descriptor that breaks a rule. -/
def boxBroken (a b : Desc) : Option Nat :=
  let v := b.toNat
  firstBroken ([
    (0, descKind b != 2 || bitsOf v 36 0 != 0 || bxRank b != tdRank a || (bxMode b).isNone
      || !bitoffOk (destFmt a b) (bxBitoff b) || !convOk a b),
    (1, bitsOf v 127 121 != 0),
    (2, plWhole a && bxOrigin b 0 % 8 != 0),
    (5, ([0, 1, 2, 3] : List Nat).any (fun i => !extentOk (bxRank b) i (bxExtent b i)) || (plWhole a && bxExtent b 0 % 8 != 0)),
    (6, ([4, 5, 6, 7] : List Nat).any (fun i => !extentOk (bxRank b) i (bxExtent b i))),
    (7, bitsOf v 511 504 != 0 || !permOk b || (plWhole a && bxPerm b 0 != 0) || pitchBad a b)])

/-- Table 10.9: a control word with a reserved bit or a scope above 8. -/
def controlBad (w : Nat) : Bool := bitsOf w 63 60 != 0 || bitsOf w 43 0 != 0 || decide (8 < bitsOf w 59 56)

/-- The words of a descriptor above the first four are zero. -/
def zeroFrom (d : Desc) (i : Nat) : List (Nat × Bool) :=
  (dims.filter (fun k => i ≤ k)).map (fun k => (k, descWord d k != 0#64))

/-- Table 10.8, kind 0x3. -/
def residueBroken (c : Desc) : Option Nat :=
  let v := c.toNat
  firstBroken ([
    (0, descKind c != 3 || bitsOf v 55 50 != 0 || bitsOf v 48 0 != 0
      || !(rsFmt c == .fp32 || rsFmt c == .bf16 || rsFmt c == .fp16)),
    (1, bitsOf v 127 121 != 0),
    (2, controlBad (descWord c 2).toNat)] ++ zeroFrom c 3)

/-- Table 10.8, kind 0x4. -/
def spanBroken (d : Desc) : Option Nat :=
  let v := d.toNat
  firstBroken ([
    (0, descKind d != 4 || bitsOf v 59 50 != 0 || bitsOf v 47 0 != 0),
    (1, bitsOf v 127 121 != 0),
    (2, bitsOf v 191 185 != 0),
    (3, controlBad (descWord d 3).toNat)] ++ zeroFrom d 4)

/-- BADDESC's TRAPINFO for an operand (1 A, 2 B, 3 C) and its word (R265). -/
def descInfo (operand word : Nat) : Word := BitVec.ofNat 64 (256 * operand + word)

/-- BADDESC where a descriptor breaks a rule. -/
def checkDesc (operand : Nat) (broken : Option Nat) : Except Halt Unit :=
  match broken with
  | some w => .error (.trap .baddesc (descInfo operand w))
  | none => .ok ()

/-! ### A command's elements (R260, R261) -/

/-- One element of a command: its source and block scale where they lie within the tensor, its destination and residue, as
bit addresses (the scale a byte address). -/
structure Elem where
  src : Option Nat
  scl : Option Nat
  dst : Nat
  res : Option Nat
  deriving DecidableEq, Repr

/-- The digits of `v` in mixed radices, least significant first. -/
def digits : List Nat → Nat → List Nat
  | [], _ => []
  | r :: t, v => v % r :: digits t (v / r)

/-- The destination rows of a box: the product of the extents of destination dimensions 1 and up. -/
def boxRows (b : Desc) : Nat := ((List.range (bxRank b - 1)).map (fun k => bxExtent b (bxPerm b (k + 1)))).foldl (· * ·) 1

/-- Destination bytes between rows of a box. -/
def boxPitch (a b : Desc) : Nat := if bxPitch b = 0 then denseBits a b / 8 else bxPitch b

/-- The tensor index that a destination index reaches in dimension `d`. -/
def srcIndex (b : Desc) (js : List Nat) (d : Nat) : Int :=
  bxOrigin b d + ((dims.find? (fun k => decide (k < bxRank b) && bxPerm b k == d)).bind (fun k => js[k]?)).getD 0

/-- A tensor index is inside the tensor. -/
def insideTensor (a : Desc) (ix : Nat → Int) : Bool :=
  (List.range (tdRank a)).all (fun d => decide (0 ≤ ix d) && decide (ix d < tdExtent a d))

/-- The bit address of a tensor element (R260). -/
def tensorBit (a : Desc) (ix : Nat → Nat) : Nat :=
  8 * tdBase a + tdBitoff a + ix 0 * elemBits (tdFmt a)
    + 8 * ((List.range (tdRank a - 1)).map (fun d => ix (d + 1) * tdStride a (d + 1))).sum

/-- P_d of the dense scale tensor: P_1 is ceil(extent0 / 32). -/
def scalePitch (a : Desc) : Nat → Nat
  | 0 => 1
  | 1 => (tdExtent a 0 + 31) / 32
  | d + 2 => scalePitch a (d + 1) * tdExtent a (d + 1)

/-- The byte address of an element's block scale (R260). -/
def scaleByte (a : Desc) (ix : Nat → Nat) : Nat :=
  (BitVec.ofInt 64 ((tdBase a : Int) + tdSoff a
    + ((ix 0 / 32 + ((List.range (tdRank a - 1)).map (fun d => ix (d + 1) * scalePitch a (d + 1))).sum : Nat) : Int))).toNat

/-- The element of a box at destination row `row` and index `j0`; `c` a residue descriptor. -/
def boxElem (a b : Desc) (c : Option Desc) (row j0 : Nat) : Elem :=
  let js := j0 :: digits ((List.range (bxRank b - 1)).map (fun k => bxExtent b (bxPerm b (k + 1)))) row
  let ix := srcIndex b js
  let inside := insideTensor a ix
  let nx : Nat → Nat := fun d => (ix d).toNat
  { src := if inside then some (tensorBit a nx) else none
    scl := if inside && bxFmt b != .raw && (tdFmt a).isMx then some (scaleByte a nx) else none
    dst := 8 * bxBase b + bxBitoff b + j0 * destBits a b + 8 * (boxPitch a b * row)
    res := c.map (fun c => 8 * rsBase c + (row * bxExtent b (bxPerm b 0) + j0) * elemBits (rsFmt c)) }

/-- The elements of a box's destination rows from `row` on. -/
def boxElems (a b : Desc) (c : Option Desc) (row n : Nat) : List Elem :=
  (List.range n).flatMap (fun r => (List.range (bxExtent b (bxPerm b 0))).map (boxElem a b c (row + r)))

/-- The byte `i` of a COPYS. -/
def spanElem (d : Desc) (i : Nat) : Elem := ⟨some (8 * (spSrc d + i)), none, 8 * (spDst d + i), none⟩

/-! ### Granules (R263, R267) -/

def copyControl (c : CopyCmd) : Nat :=
  match c.kind with
  | .copy => c.ctrl.toNat
  | .copyef => (descWord c.c 2).toNat
  | .copys => (descWord c.a 3).toNat

/-- 2^glog. -/
def copyGlog (c : CopyCmd) : Nat := 2 ^ bitsOf (copyControl c) 47 44
def copySplit (c : CopyCmd) : Bool := (copyControl c).testBit 48
def copyArrive (c : CopyCmd) : Option Nat :=
  if (copyControl c).testBit 55 then some (bitsOf (copyControl c) 54 49) else none

/-- The units of a command (destination rows, or bytes of a COPYS) and those of one granule. -/
def copyUnits (c : CopyCmd) : Nat :=
  match c.kind with
  | .copys => c.count
  | _ => boxRows c.b

def granuleUnits (c : CopyCmd) : Nat :=
  match c.kind with
  | .copys => 256 * copyGlog c
  | _ => copyGlog c

def copyGranules (c : CopyCmd) : Nat := (copyUnits c + granuleUnits c - 1) / granuleUnits c

/-- The elements of granule `g`. -/
def granuleElems (c : CopyCmd) (g : Nat) : List Elem :=
  let lo := g * granuleUnits c
  let n := min (copyUnits c) (lo + granuleUnits c) - lo
  match c.kind with
  | .copys => (List.range n).map (fun i => spanElem c.a (lo + i))
  | .copy => boxElems c.a c.b none lo n
  | .copyef => boxElems c.a c.b (some c.c) lo n

/-- The bits of a source element, a destination element and a residue. -/
def copySrcBits (c : CopyCmd) : Nat := match c.kind with
  | .copys => 8
  | _ => elemBits (tdFmt c.a)
def copyDstBits (c : CopyCmd) : Nat := match c.kind with
  | .copys => 8
  | _ => destBits c.a c.b
def copyResBits (c : CopyCmd) : Nat := elemBits (rsFmt c.c)

def copySrcLocal (c : CopyCmd) : Bool := match c.kind with
  | .copys => spSrcLocal c.a
  | _ => tdLocal c.a
def copyDstLocal (c : CopyCmd) : Bool := match c.kind with
  | .copys => spDstLocal c.a
  | _ => bxLocal c.b

/-! ### Footprints (R265) -/

/-- The bytes from one bit address to the end of an element at another: first byte and length. -/
def bitSpan (lo hi bits : Nat) : Nat × Nat := (lo / 8, (hi + bits - 1) / 8 + 1 - lo / 8)

/-- The least and the greatest tensor index of a box that lie inside the tensor; none where no index does. -/
def boxCorner (a b : Desc) : Option ((Nat → Nat) × (Nat → Nat)) :=
  let lo : Nat → Int := fun d => max (bxOrigin b d) 0
  let hi : Nat → Int := fun d => min (bxOrigin b d + bxExtent b d) (tdExtent a d) - 1
  if (List.range (tdRank a)).all (fun d => decide (lo d ≤ hi d)) then
    some (fun d => (lo d).toNat, fun d => (hi d).toNat)
  else none

/-- The local footprints of a command, each an address and a length. -/
def copyFootprints (c : CopyCmd) : List (Nat × Nat) :=
  match c.kind with
  | .copys =>
    (if spSrcLocal c.a then [(spSrc c.a, c.count)] else []) ++ (if spDstLocal c.a then [(spDst c.a, c.count)] else [])
  | _ =>
    let src := if !tdLocal c.a then [] else
      match boxCorner c.a c.b with
      | none => []
      | some (lo, hi) =>
        bitSpan (tensorBit c.a lo) (tensorBit c.a hi) (elemBits (tdFmt c.a))
          :: (if bxFmt c.b != .raw && (tdFmt c.a).isMx then
                [bitSpan (8 * scaleByte c.a lo) (8 * scaleByte c.a hi) 8] else [])
    let last := boxElem c.a c.b (some c.c) (boxRows c.b - 1) (bxExtent c.b (bxPerm c.b 0) - 1)
    let first := boxElem c.a c.b (some c.c) 0 0
    let dst := if bxLocal c.b then [bitSpan first.dst last.dst (destBits c.a c.b)] else []
    let res := if c.kind = .copyef ∧ rsLocal c.c then
        [bitSpan (first.res.getD 0) (last.res.getD 0) (elemBits (rsFmt c.c))] else []
    src ++ dst ++ res

/-- DENIED at a local footprint that leaves the allotment, with the footprint's first byte (log entry 56). -/
def checkFootprints (b : Option Band) (fs : List (Nat × Nat)) : Except Halt Unit :=
  match b with
  | none => .ok ()
  | some v =>
    match fs.find? (fun (f : Nat × Nat) => !(decide (v.sideBase ≤ f.1) && decide (f.1 + f.2 ≤ v.sideBase + v.sideSize))) with
    | some f => .error (.trap .denied (BitVec.ofNat 64 f.1))
    | none => .ok ()

/-! ### The copy command queue (R320) -/

/-- The field whose queue an agent waits for. -/
def State.lineField (s : State) (a : Agent) : Nat :=
  match a with
  | .slot k => slotField k
  | .stream b nad =>
    match (s.band? b).bind (fun v => if nad then v.nad.cur else v.zen.cur) with
    | some n => slotField n.slot
    | none => 64
  | _ => 64

/-- A binding holds an entry of a field's queue. -/
def Edge.holds (e : Edge) (field : Nat) : Bool :=
  match e.cur with
  | some n => n.entry && slotField n.slot == field
  | none => false

/-- The entries of a field's queue that are held. -/
def State.copyHeld (s : State) (field : Nat) : Nat :=
  (s.cmds.filter (fun (c : CopyCmd) => c.field == field)).length
  + (s.copyGrant.filter (fun k => slotField k == field)).length
  + (s.bandList.map (fun p => (if p.2.zen.holds field then 1 else 0) + (if p.2.nad.holds field then 1 else 0))).sum

def copyDepth : Nat := 16

/-- A newcomer receives an entry at once: one is free and nobody waits. -/
def State.copyFree (s : State) (field : Nat) : Bool :=
  decide (s.copyHeld field < copyDepth) && s.copyLine.all (fun a => s.lineField a ≠ field)

/-! ### Copy commands at issue -/

/-- A command of a slot before it is queued. -/
def newCmd (kind : CopyKind) (k dst : Nat) (a b c : Desc) (ctrl : Word) (count : Nat) : CopyCmd :=
  { id := 0, field := slotField k, slot := k, band := 0, kind := kind, dst := dst, a := a, b := b, c := c, ctrl := ctrl,
    count := count, phase := .queued, granules := 0, flags := 0, arr := 0, cancel := false,
    poison := false, err := none }

/-- Queue a command: its token is pending. -/
def State.queueCmd (s : State) (k : Nat) (c : CopyCmd) : State :=
  let s := { s with
    cmds := s.cmds ++ [{ c with id := s.nextId, band := ((s.slot k).band).getD 0 }]
    nextId := s.nextId + 1
    copyGrant := s.copyGrant.filter (fun j => j ≠ k) }
  s.modSlot k (fun t => t.producer (codeX c.dst))

/-- A copy command whose descriptors have passed. -/
def copyIssue (us : List Use) (c : CopyCmd) (k : Nat) (s : State) : Effect := do
  checkFootprints (s.bandOf k) (copyFootprints c)
  if s.copyGrant.contains k || s.copyFree (slotField k) then .ok (fun t => (t.takes k us).queueCmd k c)
  else .error (.hold .copyQ)

def copyEffect (d : Fin 32) (a b : DSrc) (c : XSrc) (k : Nat) (s : State) : Effect := do
  let us := dUse 0 a ++ dUse 1 b ++ xUse 2 c
  s.ready k us [codeX d]
  let t := s.slot k
  checkDesc 1 (tensorBroken (t.dr a.reg))
  checkDesc 1 (if plWhole (t.dr a.reg) && bxFmt (t.dr b.reg) == .raw && tdExtent (t.dr a.reg) 0 % 8 != 0 then some 2 else none)
  checkDesc 2 (boxBroken (t.dr a.reg) (t.dr b.reg))
  checkDesc 3 (if controlBad (t.xval k c).toNat then some 0 else none)
  copyIssue us (newCmd .copy k d (t.dr a.reg) (t.dr b.reg) 0 (t.xval k c) 0) k s

def copyefEffect (d : Fin 32) (a b c : DSrc) (k : Nat) (s : State) : Effect := do
  let us := dUse 0 a ++ dUse 1 b ++ dUse 2 c
  s.ready k us [codeX d]
  let t := s.slot k
  checkDesc 1 (tensorBroken (t.dr a.reg))
  checkDesc 1 (if plWhole (t.dr a.reg) && bxFmt (t.dr b.reg) == .raw && tdExtent (t.dr a.reg) 0 % 8 != 0 then some 2 else none)
  checkDesc 2 (boxBroken (t.dr a.reg) (t.dr b.reg))
  checkDesc 3 (residueBroken (t.dr c.reg))
  copyIssue us (newCmd .copyef k d (t.dr a.reg) (t.dr b.reg) (t.dr c.reg) 0 0) k s

def copysEffect (d : Fin 32) (a : DSrc) (b : XSrc) (k : Nat) (s : State) : Effect := do
  let us := dUse 0 a ++ xUse 1 b
  s.ready k us [codeX d]
  let t := s.slot k
  let n := (t.xval k b).toNat
  checkDesc 1 (spanBroken (t.dr a.reg))
  checkDesc 2 (if n = 0 ∨ 2 ^ 32 < n then some 0 else none)
  copyIssue us (newCmd .copys k d (t.dr a.reg) 0 0 0 n) k s

/-! ### CCANCEL (R270) -/

/-- A copy command of the slot whose token register `i` awaits. -/
def awaits (k i : Nat) (c : CopyCmd) : Bool := c.slot == k && c.dst == i && i != 0

/-- CCANCEL: such a command stops at its next granule boundary; a parked one leaves its fault-buffer entry. -/
def State.cancelCopy (s : State) (k i : Nat) : State :=
  let parked := (s.cmds.filter (fun c => awaits k i c && decide (c.phase = .parked))).map CopyCmd.id
  let s := s.leaveFault (fun a => match a with
    | .copy id => parked.contains id
    | _ => false)
  { s with cmds := s.cmds.map (fun (c : CopyCmd) => if awaits k i c then { c with cancel := true } else c) }

def ccancelEffect (a : XName) (k : Nat) (_ : State) : Effect :=
  match a with
  | .x i => .ok (fun t => t.cancelCopy k i)
  | .rowid => .ok id

/-! ### Descriptor moves (R259) -/

def dsetEffect (d : Fin 8) (a : XSrc) (i : Fin 8) (k : Nat) (s : State) : Effect := do
  let us := xUse 0 a ++ impliedUse (codeD d)
  s.ready k us []
  let t := s.slot k
  let v := setDescWord (t.dr d) i (t.xval k a)
  .ok (fun u => (u.takes k us).modSlot k (fun c => c.setD d v))

def dgetEffect (d : Fin 32) (a : DSrc) (i : Fin 8) (k : Nat) (s : State) : Effect := do
  let us := dUse 0 a
  s.ready k us [codeX d]
  let v := descWord ((s.slot k).dr a.reg) i
  .ok (fun u => (u.takes k us).modSlot k (fun c => c.setX d v))

/-! ### PBIND and PFLUSH (R197, R199) -/

/-- The issuing row owns the edge of a linked band. -/
def Band.ownsEdge (b : Band) (row : Nat) (nad : Bool) : Bool :=
  b.linked && (if nad then b.rowIndex row + 1 == b.height else b.rowIndex row == 0)

/-- The zenith's format fits its kind. -/
def zenFmtOk (kind : PortKind) (f : Fmt) : Bool :=
  match kind with
  | .vv => f != .raw
  | .acc => f == .acc48
  | .wc => match f with
    | .i8 | .fp16 | .bf16 | .e4m3 | .e5m2 | .mxe4m3 | .mxe5m2 | .mxe2m1 | .mxi8 | .pl16 => true
    | _ => false

/-- A PBIND's descriptor: the first word that breaks it; a byte count that holds no whole values is laid to word 2. -/
def bindBroken (nad : Bool) (kind : PortKind) (d : Desc) : Option Nat :=
  match tensorBroken d with
  | some w => some w
  | none =>
    let bits := tdCount d * elemBits (tdFmt d)
    if !nad && !zenFmtOk kind (tdFmt d) then some 0
    else if bits = 0 ∨ bits % (8 * 64 * portBytes kind) ≠ 0 then some 2
    else none

def Band.edge (b : Band) (nad : Bool) : Edge := if nad then b.nad else b.zen
def Band.setEdge (b : Band) (nad : Bool) (e : Edge) : Band := if nad then { b with nad := e } else { b with zen := e }

/-- A binding starts: position 0; it takes a queue entry, or joins the line for one. -/
def State.startBinding (s : State) (b : Nat) (nad : Bool) (n : Binding) : State :=
  let free := s.copyFree (slotField n.slot)
  let n' : Binding := { n with entry := free }
  let s := s.modBand b (fun v =>
    let e := v.edge nad
    let e' : Edge := { cur := some n', queued := none, position := 0#32, buf := e.buf, parked := e.parked }
    v.setEdge nad e')
  if free then s else { s with copyLine := s.copyLine ++ [.stream b nad] }

def pbindEffect (a : DSrc) (kind : PortKind) (nad : Bool) (k : Nat) (s : State) : Effect :=
  match (s.slot k).band, s.bandOf k with
  | some bi, some b =>
    if !b.ownsEdge (slotRow k) nad then .error (.trap .portunbound 2#64)
    else do
      let us := dUse 0 a
      s.ready k us []
      let d := (s.slot k).dr a.reg
      checkDesc 1 (bindBroken nad kind d)
      let e := b.edge nad
      if e.queued.isSome then .error (.stall 0)
      else
        .ok (fun t =>
          let n : Binding := ⟨d, kind, k, t.nextId, 0, 0, false⟩
          let t := ({ t with nextId := t.nextId + 1 } : State).takes k us
          if e.cur.isNone then t.startBinding bi nad n
          else t.modBand bi (fun v => v.setEdge nad { v.edge nad with queued := some n }))
  | _, _ => .error (.trap .portunbound 2#64)

/-- The bindings of an edge end and its values are dropped; the position stays. -/
def Edge.closed (e : Edge) : Edge := { e with cur := none, queued := none, buf := [], parked := false }

def State.closeEdge (s : State) (b : Nat) (nad : Bool) : State :=
  let gone : Agent → Bool := fun a => decide (a = .stream b nad)
  ((s.leaveFault gone).leaveLines gone).modBand b (fun v => v.setEdge nad (v.edge nad).closed)

def pflushEffect (k : Nat) (s : State) : Effect :=
  match (s.slot k).band, s.bandOf k with
  | some bi, some b =>
    let pc := (s.slot k).pc
    let zen := b.ownsEdge (slotRow k) false
    let nad := b.ownsEdge (slotRow k) true
    .ok (fun t =>
      let t := if zen then t.closeEdge bi false else t
      if !nad then t
      else if b.nad.buf = [] ∧ (s.slot k).reserved = [] then t.closeEdge bi true
      else t.modSlot k (fun c => c.waitAt pc .pflush))
  | _, _ => .ok id

/-! ### Groups (Table 14.8) -/

def State.group (s : State) (g : Nat) : BitVec 256 := Tab.get 0#256 s.groups g
def State.membersOf (s : State) (g : Nat) : List (BitVec 32) := Tab.get [] s.members g

def grpValid (e : BitVec 256) : Bool := e.getLsbD 63
def grpScope (e : BitVec 256) : Nat := bitsOf e.toNat 51 48
def grpSize (e : BitVec 256) : Nat := bitsOf e.toNat 47 32
def grpRank (e : BitVec 256) : Nat := bitsOf e.toNat 13 0
def grpMembers (e : BitVec 256) : Nat := bitsOf e.toNat 103 64

/-! ### Collective descriptors (Table 13.2) -/

def clOp (d : Desc) : Nat := bitsOf d.toNat 59 57
def clRop (d : Desc) : Nat := bitsOf d.toNat 56 55
def clFmt (d : Desc) : Fmt := Fmt.ofCode (BitVec.ofNat 4 (bitsOf d.toNat 54 51))
def clScope (d : Desc) : Nat := bitsOf d.toNat 50 47
def clGroup (d : Desc) : Nat := bitsOf d.toNat 11 0
def clSrc (d : Desc) : Nat := bitsOf d.toNat 120 64
def clDst (d : Desc) : Nat := bitsOf d.toNat 184 128
def clCount (d : Desc) : Nat := bitsOf d.toNat 255 192
def clPeer (d : Desc) : Nat := bitsOf d.toNat 269 256

/-- The bytes of an element. -/
def clWidth (d : Desc) : Nat := elemBits (clFmt d) / 8

/-! ### SGROW and SFREE (R255-R257) -/

/-- A request of more than the field holds: past 8 MiB or 128 chunks. -/
def growPast (b : Band) (n : Nat) : Bool := decide (128 < b.chunk0 + b.chunks + n)

/-- A released chunk would hold part of the held record window. -/
def freeWindow (b : Band) (n : Nat) : Bool :=
  b.windowHeld && decide (b.chunk0 + b.chunks - n < b.winChunk + b.winChunks) && decide (0 < b.winChunks)

def sgrowEffect (d : Fin 32) (b : XOp) (kind : ChunkKind) (k : Nat) (s : State) : Effect := do
  let us := opUse b
  s.ready k us [codeX d]
  let n := ((s.slot k).opval k b).toNat
  match s.bandOf k with
  | none => .ok id
  | some v =>
    let pc := (s.slot k).pc
    let at_once : Nat → Effect := fun st => .ok (fun t => (t.takes k us).modSlot k (fun c => c.setX d (BitVec.ofNat 64 st)))
    if n = 0 then at_once 0
    else if growPast v n then at_once 3
    else if !s.chunksFit v.region (n * v.fieldCount) then at_once 2
    else .ok (fun t => t.modSlot k (fun c => c.waitTaking pc (.sgrow d n kind) us))

def sfreeEffect (d : Fin 32) (b : XOp) (k : Nat) (s : State) : Effect := do
  let us := opUse b
  s.ready k us [codeX d]
  let n := ((s.slot k).opval k b).toNat
  match s.bandOf k with
  | none => .ok id
  | some v =>
    let pc := (s.slot k).pc
    let at_once : Nat → Effect := fun st => .ok (fun t => (t.takes k us).modSlot k (fun c => c.setX d (BitVec.ofNat 64 st)))
    if n = 0 then at_once 0
    else if v.chunks < n then at_once 3
    else if freeWindow v n then at_once 4
    else .ok (fun t => t.modSlot k (fun c => c.waitTaking pc (.sfree d n) us))

/-! ### Meanings -/

def execCopy (d : Fin 32) (a : DSrc) (b : DSrc) (c : XSrc) (s : State) := s.issue 8 (copyEffect d a b c)
def execCopyef (d : Fin 32) (a : DSrc) (b : DSrc) (c : DSrc) (s : State) := s.issue 8 (copyefEffect d a b c)
def execCopys (d : Fin 32) (a : DSrc) (b : XSrc) (s : State) := s.issue 8 (copysEffect d a b)
def execDset (d : Fin 8) (a : XSrc) (k : Fin 8) (s : State) := s.issue 8 (dsetEffect d a k)
def execDget (d : Fin 32) (a : DSrc) (k : Fin 8) (s : State) := s.issue 8 (dgetEffect d a k)
def execCcancel (a : XName) (s : State) := s.issue 8 (ccancelEffect a)
def execPbind (a : DSrc) (kind : PortKind) (nad : Bool) (s : State) := s.issue 8 (pbindEffect a kind nad)
def execPflush (s : State) := s.issue 8 pflushEffect
def execSgrow (d : Fin 32) (b : XOp) (kind : ChunkKind) (s : State) := s.issue (opSize b) (sgrowEffect d b kind)
def execSfree (d : Fin 32) (b : XOp) (s : State) := s.issue (opSize b) (sfreeEffect d b)

end Sys2Proof.Machine
end

