-- ==== Sys2Proof/Machine/Engines.lean ====
section
/-!
DEFINITION. The copy engines and the edges of bands: queue entries, granules, completion (spec/10 R266-R268, spec/13 R320,
R321), zenith reads and nadir drains (spec/08 R197-R199), and the completion of SGROW and SFREE (spec/10 R256, R257).
-/
namespace Sys2Proof.Machine

/-- Apply an update where its condition holds; an event that is not enabled changes nothing (log entry 10). -/
def when (c : Bool) (s t : State) : Host.Outcome State Fault Refusal := if c then .next t else .next s

/-! ### Bytes an engine reaches -/

/-- A byte of a stream or granule: its address as issued and what translation gave. -/
structure CByte where
  va   : Nat
  loc  : Nat
  key  : Nat
  mig  : Bool
  kind : Nat
  deriving DecidableEq, Repr

/-- What a copy agent needs to reach memory: its TLB unit and master, its field and address space. -/
structure Reach where
  unit   : Nat
  master : Nat
  field  : Nat
  asid   : Nat
  deriving DecidableEq, Repr

/-- Copy engine `e` of a field, for a band (Table 14.7). -/
def engineReach (field e asid : Nat) : Reach := ⟨64 + 2 * field + e, 0x40 + 2 * field + e, field, asid⟩

/-- A translation fault: the address, the access kind, the reason. -/
abbrev WalkFault := Nat × AccKind × Nat

/-- Reach one byte. -/
def State.copyByte (s : State) (r : Reach) (loc : Bool) (acc : AccKind) (va : Nat) : Except WalkFault CByte × State :=
  if loc then (.ok ⟨va, sideLoc r.field va, 0, false, s.chunkAt r.field va⟩, s)
  else
    let q := s.translate r.unit r.asid acc (BitVec.ofNat 64 va)
    match q.1 with
    | .inl l =>
      let p := q.2.placeOf (0, BitVec.ofNat 64 va) l
      (.ok ⟨va, p.loc, p.key, p.mig, p.ckind⟩, q.2)
    | .inr why => (.error (va, acc, why), q.2)

/-- Reach a list of bytes; the first fault ends it. -/
def copyBytes (r : Reach) (loc : Bool) (acc : AccKind) : List Nat → State → Except WalkFault (List CByte) × State
  | [], s => (.ok [], s)
  | v :: t, s =>
    let q := s.copyByte r loc acc v
    match q.1 with
    | .error f => (.error f, q.2)
    | .ok b =>
      let rest := copyBytes r loc acc t q.2
      match rest.1 with
      | .error f => (.error f, rest.2)
      | .ok bs => (.ok (b :: bs), rest.2)

/-- The byte addresses of `w` bits at a bit address. -/
def bitBytes (bit w : Nat) : List Nat := (List.range ((bit + w - 1) / 8 + 1 - bit / 8)).map (fun i => bit / 8 + i)

/-- A field of bits an engine reads or writes: its bytes, its start bit in the first, its width. -/
structure Piece where
  bytes : List CByte
  off   : Nat
  width : Nat
  deriving DecidableEq, Repr

/-- Reach the pieces at a list of bit addresses. -/
def copyPieces (r : Reach) (loc : Bool) (acc : AccKind) (w : Nat) : List Nat → State → Except WalkFault (List Piece) × State
  | [], s => (.ok [], s)
  | v :: t, s =>
    let q := copyBytes r loc acc (bitBytes v w) s
    match q.1 with
    | .error f => (.error f, q.2)
    | .ok bs =>
      let rest := copyPieces r loc acc w t q.2
      match rest.1 with
      | .error f => (.error f, rest.2)
      | .ok ps => (.ok (⟨bs, v % 8, w⟩ :: ps), rest.2)

/-! ### Lines touched once each -/

/-- A state, the lines and blocks an agent has touched in it, and the row its burst has last opened in each bank. -/
structure Touched where
  s    : State
  seen : List (Nat × Nat)
  rows : List (Nat × Nat)

/-- The burst holds the row of `P` open, so that its next line there is no activation of its own (R227; log entry 78). -/
def Touched.holds (t : Touched) (P : Nat) : Bool := Tab.find t.rows (bankKey P) == some (hbmRow P)

/-- Touch the line or the side block of a byte, once under one key slot. -/
def Touched.byte (t : Touched) (write : Bool) (full : Nat → Bool) (b : CByte) : Touched :=
  match spaceOf b.loc with
  | .hbm =>
    let line := b.loc / 256
    if t.seen.contains (line, b.key) then t
    else
      let s := if b.mig then t.s.migServe b.loc b.key else t.s
      let array := s.needsArray line b.key (full line) false
      ⟨s.touchLineAs line b.key write (full line) (!t.holds b.loc), (line, b.key) :: t.seen.filter (fun p => p.1 ≠ line),
        if array then Tab.insert t.rows (bankKey b.loc) (hbmRow b.loc) else t.rows⟩
  | .side f =>
    let blk := 2 ^ 40 + b.loc / 64
    if t.seen.contains (blk, 0) then t else ⟨t.s.evField f 0x0A 0, (blk, 0) :: t.seen, t.rows⟩
  | _ => t

/-- The burst of a command leaves the last row it used in each bank open until the bank's next activation, or the command's end
(R229). -/
def Touched.leaveOpen (t : Touched) (id : Nat) : State :=
  { t.s with openRow := t.rows.foldl (fun o p => Tab.set none o p.1 (some (p.2, id))) t.s.openRow }

/-- The burst of a command is over: it holds no row open. -/
def State.closeRows (s : State) (id : Nat) : State :=
  { s with openRow := s.openRow.filter (fun p => (p.2.map Prod.snd) ≠ some id) }

/-- The bits of a piece. -/
def State.pieceBits (s : State) (p : Piece) : Nat :=
  (ofBytes (p.bytes.map (fun b => s.byte b.loc)) >>> p.off) % 2 ^ p.width

/-- Read pieces in order. -/
def readPieces : List Piece → Touched → List Nat × Touched
  | [], t => ([], t)
  | p :: ps, t =>
    let t := p.bytes.foldl (fun t b => t.byte false (fun _ => false) b) t
    let v := t.s.pieceBits p
    let rest := readPieces ps t
    (v :: rest.1, rest.2)

/-- The bits of byte `i` of a piece, as a mask. -/
def pieceMask (p : Piece) (i : Nat) : Nat := (((2 ^ p.width - 1) <<< p.off) >>> (8 * i)) % 256

/-- Write the bytes of a piece that `lands` accepts. -/
def writePiece (lands : CByte → Bool) (full : Nat → Bool) (t : Touched) (p : Piece) (v : Nat) : Touched :=
  p.bytes.zipIdx.foldl (fun t q =>
    if !lands q.1 then t
    else
      let t := t.byte true full q.1
      let m := pieceMask p q.2
      let old := (t.s.byte q.1.loc).toNat
      let new := (old &&& (255 - m)) ||| (((v <<< p.off) >>> (8 * q.2)) &&& m)
      { t with s := t.s.writeMem q.1.loc [BitVec.ofNat 8 new] }) t

/-- A set of locations, as a table. -/
def locSet (ps : List Piece) : List (Nat × Nat) :=
  ps.foldl (fun t p => p.bytes.zipIdx.foldl (fun t q => Tab.insert t q.1.loc (Tab.get 0 t q.1.loc ||| pieceMask p q.2)) t) []

/-- A line all of whose 256 bytes are written. -/
def fullIn (ws : List (Nat × Nat)) (line : Nat) : Bool := (ws.filter (fun p => p.1 / 256 = line && p.2 = 255)).length == 256

/-- A lattice word that a set of writes leaves partly written (R267). -/
def latticeBreach (ps : List Piece) (ws : List (Nat × Nat)) : Bool :=
  ps.any (fun p => p.bytes.any (fun b => b.kind == 2
    && !(Tab.get 0 ws (b.loc / 2 * 2) == 255 && Tab.get 0 ws (b.loc / 2 * 2 + 1) == 255)))

/-- The words a set of writes covers whole lose their marks; those that poisoned sources reached are marked (R233). -/
def State.remark (s : State) (ws : List (Nat × Nat)) (bad : List Piece) : State :=
  let whole := ws.filter (fun p => p.1 % 8 = 0 && (List.range 8).all (fun i => Tab.get 0 ws (p.1 + i) == 255))
  let s := whole.foldl (fun s p => s.clearPoison p.1 8) s
  bad.foldl (fun s p => p.bytes.foldl (fun s b => s.markPoison b.loc) s) s

def State.piecePoisoned (s : State) (p : Piece) : Bool := p.bytes.any (fun b => s.meetsPoison b.loc 1 b.mig)

def State.piecesDenied (s : State) (r : Reach) (write : Bool) (ps : List Piece) : Bool :=
  ps.any (fun p => p.bytes.any (fun b => s.denied b.loc b.key r.master (!write) write))

/-- The bytes whose requests back off at their banks (R228). -/
def State.piecesStall (s : State) (w : Waiter) (full : Nat → Bool) (ps : List Piece) : List CByte :=
  ps.flatMap (fun p => p.bytes.filter (fun b => s.backsOff w false b.loc b.key (full (b.loc / 256)) false b.mig))

/-- An engine's requests wait for the urgent reads of their quadrants (R226). -/
def State.piecesYield (s : State) (ps : List Piece) : Bool :=
  ps.any (fun p => p.bytes.any (fun b => decide (b.loc < 2 ^ 40) && s.urgentAt (hbmQuad b.loc)))

/-- An engine's accesses for slot `k` come behind conflicting ones that count as performed in a narrow scope (R275). -/
def State.piecesBehind (s : State) (k : Nat) (write : Bool) (ps : List Piece) : Bool :=
  ps.any (fun p => p.bytes.any (fun b => s.behindMark k (fun _ => true) write b.loc 1))

/-- The bytes of an engine's requests read and written: those that back off join their banks' orders, or all wait for urgent reads
and for accesses they come behind, or `go` performs them. -/
def State.engineGoes (s : State) (w : Waiter) (k : Nat) (full : Nat → Bool) (rs ws : List Piece) (go : State → State) : State :=
  let stall := s.piecesStall w (fun _ => false) rs ++ s.piecesStall w full ws
  if stall ≠ [] then stall.foldl (fun s b => s.joinBackoff w b.loc) s
  else if s.piecesYield (rs ++ ws) || s.piecesBehind k false rs || s.piecesBehind k true ws then s
  else go (s.leaveBackoff w)

/-! ### Converting elements (R266) -/

/-- An element's value: its tag, block scale and tile scale; +0 outside the tensor. -/
def copyValue (c : CopyCmd) (src : Option Nat) (scl : Option Nat) : Val :=
  match src with
  | none => .zero false
  | some code =>
    let v := (tdFmt c.a).value false false code
    let v := match scl with
      | some b => applyScale (BitVec.ofNat 8 b) v
      | none => v
    applyScale (tdScale c.a) v

/-- v × 2^-(dscale − 127); dscale 0xFF makes it NaN. -/
def unscale (d : BitVec 8) (v : Val) : Val := if d = 0xFF#8 then .nan else v.scale (127 - (d.toNat : Int))

/-- The code a destination element takes and the flags it raises. -/
def copyCode (c : CopyCmd) (src : Option Nat) (scl : Option Nat) : Nat × Flags :=
  if c.kind = .copys ∨ bxFmt c.b = .raw then (src.getD 0, flNone)
  else if src.isNone then (0, flNone)
  else
    let g := bxFmt c.b
    let v := unscale (bxScale c.b) (copyValue c src scl)
    if v.isNan && hasNan g then (g.nanCode, flNone)
    else
      let r := roundTo g v ((bxMode c.b).getD .rne) (bxSat c.b) false false 0#64
      (r.code, r.fl)

/-- The residue of an element (R266); nothing is lost where bits move unchanged or outside the tensor (log entry 24). -/
def residueCode (c : CopyCmd) (src : Option Nat) (scl : Option Nat) (out : Nat) : Nat × Flags :=
  if bxFmt c.b = .raw ∨ src = none then (0, flNone)
  else
    let v := copyValue c src scl
    let o := applyScale (bxScale c.b) ((bxFmt c.b).value false false out)
    let d := (sumVals [v, o.negate] .rne).1
    if d.isNan then ((rsFmt c.c).nanCode, flNone)
    else
      let r := roundTo (rsFmt c.c) d .rne false false false 0#64
      (r.code, r.fl)

/-! ### Granules (R267, R321) -/

/-- The pieces of one granule: sources and scales of the elements inside the tensor, destinations, residues. -/
structure Granule where
  els : List Elem
  src : List Piece
  scl : List Piece
  dst : List Piece
  res : List Piece

/-- Translate a granule: its sources, then its destinations (R220). -/
def State.resolveGranule (s : State) (r : Reach) (c : CopyCmd) : Except WalkFault Granule × State :=
  let els := granuleElems c c.granules
  let a := copyPieces r (copySrcLocal c) .read (copySrcBits c) (els.filterMap Elem.src) s
  match a.1 with
  | .error f => (.error f, a.2)
  | .ok src =>
    let b := copyPieces r (copySrcLocal c) .read 8 ((els.filterMap Elem.scl).map (fun x => 8 * x)) a.2
    match b.1 with
    | .error f => (.error f, b.2)
    | .ok scl =>
      let d := copyPieces r (copyDstLocal c) .write (copyDstBits c) (els.map Elem.dst) b.2
      match d.1 with
      | .error f => (.error f, d.2)
      | .ok dst =>
        let e := copyPieces r (rsLocal c.c) .write (copyResBits c) (els.filterMap Elem.res) d.2
        match e.1 with
        | .error f => (.error f, e.2)
        | .ok res => (.ok ⟨els, src, scl, dst, res⟩, e.2)

/-- What each element takes: its source and scale codes, in order, with its poison. -/
def elemSources : List Elem → List (Nat × Bool) → List (Nat × Bool) → List (Option Nat × Option Nat × Bool)
  | [], _, _ => []
  | e :: es, vs, ss =>
    let v := if e.src.isSome then vs.head? else none
    let k := if e.scl.isSome then ss.head? else none
    (v.map Prod.fst, k.map Prod.fst, (v.map Prod.snd).getD false || (k.map Prod.snd).getD false)
      :: elemSources es (if e.src.isSome then vs.drop 1 else vs) (if e.scl.isSome then ss.drop 1 else ss)

/-- The codes of a granule: destination and residue codes, flags, and each element's poison, after reading its source. -/
def granuleCodes (c : CopyCmd) (g : Granule) (t : Touched) : List (Nat × Nat × Bool) × Flags × Touched :=
  let bad (ps : List Piece) : List Bool := ps.map t.s.piecePoisoned
  let a := readPieces g.src t
  let b := readPieces g.scl a.2
  let xs := elemSources g.els (a.1.zip (bad g.src)) (b.1.zip (bad g.scl))
  let outs := xs.map (fun x =>
    let o := copyCode c x.1 x.2.1
    let r := if c.kind = .copyef then residueCode c x.1 x.2.1 o.1 else (0, flNone)
    ((o.1, r.1, x.2.2), o.2 ||| r.2))
  (outs.map Prod.fst, (outs.map Prod.snd).foldl (· ||| ·) flNone, b.2)

/-- Write a granule: elements in order, so that the later lands last (R267). -/
def writeGranule (lands : CByte → Bool) (g : Granule) (full : Nat → Bool) (codes : List (Nat × Nat × Bool)) (t : Touched) :
    Touched :=
  let t := (g.dst.zip codes).foldl (fun t q => writePiece lands full t q.1 q.2.1) t
  (g.res.zip codes).foldl (fun t q => writePiece lands full t q.1 q.2.2.1) t

def State.modCmd (s : State) (id : Nat) (f : CopyCmd → CopyCmd) : State :=
  { s with cmds := s.cmds.map (fun (c : CopyCmd) => if c.id = id then f c else c) }

/-- The asid of a band. -/
def State.asidOf (s : State) (b : Nat) : Nat := match s.band? b with
  | some v => v.asid
  | none => 0

/-- The bytes of a granule that stops at an error on its destinations: each byte that can be reached and is granted holds
its old value or its new one (R268, log entry 18). -/
def State.landSome (s : State) (c : CopyCmd) (e : Nat) : State :=
  let r := engineReach c.field e (s.asidOf c.band)
  let els := granuleElems c c.granules
  let a := copyPieces r (copySrcLocal c) .read (copySrcBits c) (els.filterMap Elem.src) s
  let b := copyPieces r (copySrcLocal c) .read 8 ((els.filterMap Elem.scl).map (fun x => 8 * x)) a.2
  match a.1, b.1 with
  | .ok src, .ok scl =>
    if s.piecesDenied r false (src ++ scl) then s
    else
      let reach (loc : Bool) (w : Nat) (v : Nat) : Piece :=
        match (copyBytes r loc .write (bitBytes v w) s).1 with
        | .ok bs => ⟨bs, v % 8, w⟩
        | .error _ => ⟨[], v % 8, w⟩
      let g : Granule := ⟨els, src, scl, els.map (fun x => reach (copyDstLocal c) (copyDstBits c) x.dst),
        (els.filterMap Elem.res).map (reach (rsLocal c.c) (copyResBits c))⟩
      let q := granuleCodes c g ⟨s, [], []⟩
      let lands : CByte → Bool := fun x => !s.denied x.loc x.key r.master false true && Config.granuleLands s.draws x.loc
      let t := writeGranule lands g (fun _ => false) q.1 q.2.2
      { t.s with draws := t.s.draws + 1 }
  | _, _ => s

/-- A command stops with an error status. -/
def CopyCmd.fail (c : CopyCmd) (st : Nat) : CopyCmd := { c with err := some st }

/-- The bytes of a granule move: sources read, destinations written, arrivals and events counted (R267). -/
def State.moveGranule (s : State) (c : CopyCmd) (e : Nat) (g : Granule) (ws : List (Nat × Nat)) : State :=
  let k := granuleCodes c g ⟨s, [], []⟩
  let bad := k.1.map (fun x => x.2.2)
  let marked (ps : List Piece) : List Piece := ((ps.zip bad).filter (fun x => x.2)).map Prod.fst
  let t := (writeGranule (fun _ => true) g (fullIn ws) k.1 ⟨k.2.2.s, [], k.2.2.rows⟩).leaveOpen c.id
  let t := t.remark ws (marked g.dst ++ marked g.res)
  let fl : BitVec 6 := k.2.1
  let anyBad := bad.contains true
  let t := t.modCmd c.id (fun (c : CopyCmd) => { c with
    granules := c.granules + 1
    flags := c.flags ||| fl
    arr := c.arr + ws.length
    poison := c.poison || anyBad })
  let t := t.evField c.field 0x0E (e + 1)
  t.addEvents (fun i => i / 8 == c.field && decide (i < 512)) 0x0F (e + 1) ws.length

/-- One granule of a command on engine `e`. -/
def State.granule (s : State) (c : CopyCmd) (e : Nat) : State :=
  let r := engineReach c.field e (s.asidOf c.band)
  let q := s.resolveGranule r c
  let s := q.2.modCmd c.id (fun c => { c with phase := .running e })
  match q.1 with
  | .error (va, acc, why) =>
    (s.modCmd c.id (fun c => { c with phase := .parked })).joinFault
      ⟨c.field / 8, .copy c.id, BitVec.ofNat 64 va, r.asid, acc, why, c.field⟩
  | .ok g =>
    let ws := locSet (g.dst ++ g.res)
    let full := fullIn ws
    if s.piecesDenied r false (g.src ++ g.scl) then s.modCmd c.id (fun c => c.fail 4)
    else if s.piecesDenied r true (g.dst ++ g.res) then (s.landSome c e).modCmd c.id (fun c => c.fail 4)
    else if latticeBreach (g.dst ++ g.res) ws then s.modCmd c.id (fun c => c.fail 6)
    else s.engineGoes (.copy c.id) c.slot full (g.src ++ g.scl) (g.dst ++ g.res) (fun s => s.moveGranule c e g ws)

/-- A command has no granule left to perform, or has been stopped. -/
def CopyCmd.ended (c : CopyCmd) : Bool := c.err.isSome || decide (copyGranules c ≤ c.granules) || c.cancel

/-- A command has a granule to perform. -/
def CopyCmd.ready (c : CopyCmd) : Bool := !c.ended

/-- The place of a byte an engine is to reach: a local address, or the frame a global one reaches now. -/
def State.placeNow (s : State) (field asid : Nat) (loc : Bool) (va : Nat) : Nat :=
  if loc then sideLoc field va
  else match (s.walk asid (BitVec.ofNat 64 va)).1 with
    | .leaf e lv => leafLoc ⟨e, lv⟩ (BitVec.ofNat 64 va)
    | .fault _ => 2 ^ 60 + va

/-- The bytes that granule `g` of a command reaches, as places. -/
def State.granulePlaces (s : State) (c : CopyCmd) (g : Nat) : List Nat :=
  let at_ := s.placeNow c.field (s.asidOf c.band)
  (granuleElems c g).flatMap (fun x =>
    ((x.src.map (fun v => (bitBytes v (copySrcBits c)).map (at_ (copySrcLocal c)))).getD [])
    ++ ((x.scl.map (fun v => [at_ (copySrcLocal c) v])).getD [])
    ++ (bitBytes x.dst (copyDstBits c)).map (at_ (copyDstLocal c))
    ++ ((x.res.map (fun v => (bitBytes v (copyResBits c)).map (at_ (rsLocal c.c)))).getD []))

/-- The bytes a command still has to reach. -/
def State.cmdPlaces (s : State) (c : CopyCmd) : List Nat :=
  (List.range (copyGranules c - c.granules)).flatMap (fun g => s.granulePlaces c (c.granules + g))

/-- The bit address of bit `q` of a tensor's elements laid end to end, dimension 0 fastest (R198; log entry 25). -/
def streamBit (d : Desc) (q : Nat) : Nat :=
  let e := elemBits (tdFmt d)
  let ix := digits ((List.range (tdRank d)).map (tdExtent d)) (q / e)
  tensorBit d (fun i => ix.getD i 0) + q % e

/-- The pieces of byte `o` of a stream. -/
def streamParts (d : Desc) (o : Nat) : List Nat :=
  let m := min (elemBits (tdFmt d)) 8
  (List.range (8 / m)).map (fun i => streamBit d (8 * o + i * m))

/-- The bit addresses of the bytes of value `p`, and the width of each piece. -/
def valueParts (d : Desc) (b p : Nat) : List Nat := (List.range (64 * b)).flatMap (fun i => streamParts d (64 * b * p + i))

def partWidth (d : Desc) : Nat := min (elemBits (tdFmt d)) 8

/-- The bytes of value `p` of a stream, as places. -/
def State.valuePlaces (s : State) (k asid : Nat) (d : Desc) (kind : PortKind) (p : Nat) : List Nat :=
  (valueParts d (portBytes kind) p).flatMap (fun v =>
    (bitBytes v (partWidth d)).map (s.placeNow (slotField k) asid (tdLocal d)))

/-- The values that a slot's nadir bindings made before number `n` have accepted and not written. -/
def State.earlyDrains (s : State) (k n : Nat) : List (Nat × StreamVal) :=
  s.bandList.flatMap (fun p => (p.2.nad.buf.filter (fun q => q.slot == k && decide (q.since < n))).map (fun q => (p.2.asid, q)))

/-- The zenith bindings that a slot made before number `n`, current and queued. -/
def State.earlyFeeds (s : State) (k n : Nat) : List (Nat × Binding) :=
  s.bandList.flatMap (fun p => ((p.2.zen.cur.toList ++ p.2.zen.queued.toList).filter
    (fun q => q.slot == k && decide (q.since < n))).map (fun q => (p.2.asid, q)))

/-- The bytes of the values that a binding has still to read, as places. -/
def State.unreadPlaces (s : State) (asid : Nat) (n : Binding) : List Nat :=
  (List.range (n.total - n.moved)).flatMap (fun i => s.valuePlaces n.slot asid n.desc n.kind (n.moved + i))

/-- An access of number `n` of a slot on the COPY path to these places comes behind an earlier one: a byte that an earlier
command has still to reach, an accepted value that the nadir has still to write, a value that the zenith has still to read
(R269, R280). -/
def State.copyBehind (s : State) (k n : Nat) (places : List Nat) : Bool :=
  (s.cmds.filter (fun (q : CopyCmd) => q.slot == k && decide (q.id < n) && !q.ended)).any (fun q =>
    let ps := s.cmdPlaces q
    places.any (fun v => ps.contains v))
  || (s.earlyDrains k n).any (fun q =>
    let ps := s.valuePlaces k q.1 q.2.desc q.2.val.body.kind q.2.p
    places.any (fun v => ps.contains v))
  || (s.earlyFeeds k n).any (fun q =>
    let ps := s.unreadPlaces q.1 q.2
    places.any (fun v => ps.contains v))

/-- A command's next granule comes behind an earlier access of its slot to a byte of it. -/
def State.behind (s : State) (c : CopyCmd) : Bool := s.copyBehind c.slot c.id (s.granulePlaces c c.granules)

/-- A band that stops to be saved stops its split commands at their granule boundaries (Table 16.5). -/
def State.cmdStopped (s : State) (c : CopyCmd) : Bool :=
  match s.band? c.band with
  | some v => (v.status == .stopping && !v.linked || v.status == .saving) && (copySplit c || v.suspend)
  | none => false

/-- A command can perform its next granule. -/
def State.cmdMoves (s : State) (c : CopyCmd) : Bool := c.ready && !s.cmdStopped c && !s.behind c

/-- The command an engine works on: its own, unless that waits behind an earlier access, else one waiting to resume, else the
oldest queued (R321; log entry 80). -/
def State.engineCmd (s : State) (field e : Nat) : Option CopyCmd :=
  let mine := s.cmds.filter (fun (c : CopyCmd) => c.field == field && s.cmdMoves c)
  (mine.find? (fun (c : CopyCmd) => decide (c.phase = .running e)))
    <|> (mine.find? (fun (c : CopyCmd) => decide (c.phase = .resolved)))
    <|> (mine.find? (fun (c : CopyCmd) => decide (c.phase = .queued)))

/-- Engines move granules on a device that is awake; in twilight every command has stopped at its granule boundary (Table 17.2). -/
def execCopyGranule (field engine : Nat) (s : State) : Host.Outcome State Fault Refusal :=
  match (if s.awake && decide (engine < 2) then s.engineCmd field engine else none) with
  | some c => .next (s.granule c engine)
  | none => .next s

/-! ### Completion (R268) -/

/-- The status of a command that has ended. -/
def CopyCmd.status (c : CopyCmd) : Nat :=
  match c.err with
  | some st => st
  | none => if copyGranules c ≤ c.granules then (if c.poison then 5 else 1) else 2

/-- The token of Table 10.11. -/
def CopyCmd.token (c : CopyCmd) : Word :=
  BitVec.ofNat 64 (c.granules * 2 ^ 32 + (c.flags.toNat % 32) * 2 ^ 8 + c.status)

/-- The arrival counter gains the bytes counted (R268, R372). -/
def State.arrive (s : State) (field i n : Nat) : State := s.setArrival field i (s.arrivalCtr field i + BitVec.ofNat 48 n)

/-- A long-latency result reaches an x register: full, nothing pending (R61, R107). -/
def Slot.deliverX (c : Slot) (d : Nat) (v : Word) : Slot := (c.setX d v).setPend (codeX d) false

/-- A band's registers take results: it has not been killed (R391). -/
def State.takesResults (s : State) (b : Nat) : Bool :=
  match s.band? b with
  | some v => decide (v.status ≠ .killing)
  | none => false

/-- Completion of a command: its arrivals, its token, its queue entry, its burst. -/
def State.completeCopy (s : State) (c : CopyCmd) : State :=
  let s := match copyArrive c with
    | some i => s.arrive c.field i c.arr
    | none => s
  let s := if s.takesResults c.band then s.modSlot c.slot (fun t => t.deliverX c.dst c.token) else s
  (({ s with cmds := s.cmds.filter (fun (q : CopyCmd) => q.id ≠ c.id) } : State).leaveBackoff (.copy c.id)).closeRows c.id

def execCopyComplete (field id : Nat) (s : State) : Host.Outcome State Fault Refusal :=
  match s.cmds.find? (fun (c : CopyCmd) => c.id == id && c.field == field) with
  | some c => when (s.live && c.ended) s (s.completeCopy c)
  | none => .next s

/-- The first waiter of a field's line receives a free entry (R320). -/
def execCopyQueueEntryGrant (field : Nat) (s : State) : Host.Outcome State Fault Refusal :=
  if !s.live || decide (copyDepth ≤ s.copyHeld field) then .next s
  else
    match s.copyLine.find? (fun a => s.lineField a == field) with
    | some (.slot k) =>
      let s := { s with copyLine := s.copyLine.erase (.slot k), copyGrant := s.copyGrant ++ [k] }
      .next (s.modSlot k (fun c => { c with wait := .none }))
    | some (.stream b nad) =>
      let s := { s with copyLine := s.copyLine.erase (.stream b nad) }
      .next (s.modBand b (fun v =>
        let e := v.edge nad
        v.setEdge nad { e with cur := e.cur.map (fun n => { n with entry := true }) }))
    | _ => .next s

/-! ### Streams (R197-R199) -/

/-- A band moves: it runs on a device that acts. -/
def State.bandMoves (s : State) (b : Nat) : Option Band :=
  (s.band? b).bind (fun v => if s.live && decide (v.status = .running) then some v else none)

def execBindingStart (band : Nat) (nad : Bool) (s : State) : Host.Outcome State Fault Refusal :=
  match s.bandMoves band with
  | none => .next s
  | some v =>
    match (v.edge nad).cur, (v.edge nad).queued with
    | none, some n => .next (s.startBinding band nad n)
    | _, _ => .next s

/-- Nibbles, and pairs of bits, joined into bytes. -/
def joinNibbles : List Nat → List Nat
  | a :: b :: t => (a + 16 * b) :: joinNibbles t
  | t => t

def joinPairs : List Nat → List Nat
  | a :: b :: c :: d :: t => (a + 4 * b + 16 * c + 64 * d) :: joinPairs t
  | t => t

/-- Pieces of a width joined into bytes. -/
def joinParts (w : Nat) (vs : List Nat) : List Nat := if w = 4 then joinNibbles vs else if w = 2 then joinPairs vs else vs

/-- A byte cut into pieces. -/
def splitByte (w v : Nat) : List Nat :=
  if w = 8 then [v] else (List.range (8 / w)).map (fun i => (v >>> (i * w)) % 2 ^ w)

/-- The bytes of lane `l` of a value, as a number. -/
def laneBytes (bs : List Nat) (b l : Nat) : Nat := ofBytes (((bs.drop (b * l)).take b).map (BitVec.ofNat 8))

/-- The port value that the bytes of a stream make (R198, R35; log entry 86). -/
def streamValue (kind : PortKind) (d : Desc) (bs : List Nat) (bad : Bool) : PortVal :=
  let lanes := List.range 64
  match kind with
  | .vv => ⟨false, .v (Tab.ofList LaneReg.zero (lanes.map (fun l =>
      (l, ⟨laneBitsOf (tdFmt d) (BitVec.ofNat 64 (laneBytes bs 8 l)), tdFmt d, tdScale d⟩)))), bad⟩
  | .acc => ⟨false, .acc (Tab.ofList 0#384 (lanes.map (fun l =>
      (l, accOf ((List.range 8).map (fun n => bitsOf (laneBytes bs 64 l) (64 * n + 47) (64 * n))))))), bad⟩
  | .wc =>
    let sc := BitVec.ofNat 64 (ofBytes (List.replicate 8 (tdScale d)))
    ⟨false, .w (Tab.ofList WReg.blank (lanes.map (fun l =>
      (l, ⟨BitVec.ofNat 512 (laneBytes bs 64 l), 0#128, false, tdFmt d, sc⟩)))), bad⟩

/-- The bytes that a port value leaves at the nadir: tags, scales and metadata are dropped (R198). -/
def drainBytes (v : PortVal) : List Nat :=
  (List.range 64).flatMap (fun l =>
    match v.body.kind with
    | .vv => (toBytes 8 (v.lane l).bits.toNat).map BitVec.toNat
    | .acc => (List.range 8).flatMap (fun n => (toBytes 8 (accElem (v.acc l) n)).map BitVec.toNat)
    | .wc => (toBytes 64 (v.chunk l).data.toNat).map BitVec.toNat)

/-- Every access that the binding slot issued before its PBIND is performed (R198). -/
def State.streamMay (s : State) (slot since : Nat) : Bool :=
  s.pend.all (fun p => !(p.slot == slot && decide (p.order < since) && !p.parked))

def State.parkEdge (s : State) (b : Nat) (nad : Bool) : State :=
  s.modBand b (fun v => v.setEdge nad { v.edge nad with parked := true })

/-- A stream parks on a translation fault as a copy command does. -/
def State.parkStream (s : State) (b : Nat) (nad : Bool) (field asid : Nat) (f : WalkFault) : State :=
  (s.parkEdge b nad).joinFault ⟨field / 8, .stream b nad, BitVec.ofNat 64 f.1, asid, f.2.1, f.2.2, field⟩

/-- A value read for the zenith waits to be taken. -/
def Edge.feed (e : Edge) (n : Binding) (v : PortVal) : Edge :=
  let q : StreamVal := ⟨n.desc, n.slot, n.since, n.moved, v⟩
  { e with buf := e.buf ++ [q], cur := some { n with moved := n.moved + 1 } }

/-- The zenith reads its next value; a denial stops the stream for good (log entry 26). -/
def State.zenithStep (s : State) (b : Nat) (v : Band) (n : Binding) : State :=
  let field := slotField n.slot
  let r := engineReach field 0 v.asid
  let q := copyPieces r (tdLocal n.desc) .read (partWidth n.desc) (valueParts n.desc (portBytes n.kind) n.moved) s
  match q.1 with
  | .error f => q.2.parkStream b false field v.asid f
  | .ok ps =>
    if q.2.piecesDenied r false ps then q.2.parkEdge b false
    else q.2.engineGoes (.stream b false) n.slot (fun _ => false) ps [] (fun s =>
      let t := readPieces ps ⟨s, [], []⟩
      let val := streamValue n.kind n.desc (joinParts (partWidth n.desc) t.1) (ps.any t.2.s.piecePoisoned)
      t.2.s.modBand b (fun w => { w with zen := w.zen.feed n val }))

def execZenithRead (band : Nat) (s : State) : Host.Outcome State Fault Refusal :=
  match s.bandMoves band with
  | none => .next s
  | some v =>
    match v.zen.cur with
    | none => .next s
    | some n =>
      when (n.entry && !v.zen.parked && decide (n.moved < n.total) && decide (v.zen.buf.length < 8)
        && s.streamMay n.slot n.since && !s.copyBehind n.slot n.since
          (s.valuePlaces n.slot v.asid n.desc n.kind n.moved)) s (s.zenithStep band v n)

/-- The nadir writes the oldest value it has accepted. -/
def State.nadirStep (s : State) (b : Nat) (v : Band) (q : StreamVal) : State :=
  let field := slotField q.slot
  let r := engineReach field 1 v.asid
  let w := partWidth q.desc
  let k := copyPieces r (tdLocal q.desc) .write w (valueParts q.desc (portBytes q.val.body.kind) q.p) s
  match k.1 with
  | .error f => k.2.parkStream b true field v.asid f
  | .ok ps =>
    let ws := locSet ps
    if k.2.piecesDenied r true ps || latticeBreach ps ws then k.2.parkEdge b true
    else k.2.engineGoes (.stream b true) q.slot (fullIn ws) [] ps (fun s =>
      let vals := (drainBytes q.val).flatMap (splitByte w)
      let t := (ps.zip vals).foldl (fun t x => writePiece (fun _ => true) (fullIn ws) t x.1 x.2) ⟨s, [], []⟩
      (t.s.remark ws (if q.val.bad then ps else [])).modBand b (fun u =>
        { u with nad := { u.nad with buf := u.nad.buf.drop 1 } }))

/-- The drain writes for a band that runs, and for one that stops or whose rows have exited (R199, R200). -/
def execNadirWrite (band : Nat) (s : State) : Host.Outcome State Fault Refusal :=
  match s.bandMoves band with
  | none => .next s
  | some v =>
    match v.nad.buf with
    | [] => .next s
    | q :: _ => when (!v.nad.parked && s.streamMay q.slot q.since && !s.copyBehind q.slot q.since
        (s.valuePlaces q.slot v.asid q.desc q.val.body.kind q.p)) s (s.nadirStep band v q)

/-- Everything sent to the nadir has been accepted and written (R199): no result is on its way there, no value waits. -/
def State.nadirDone (s : State) (k : Nat) (v : Band) : Bool := decide (v.nad.buf = []) && decide ((s.slot k).reserved = [])

def execPflushComplete (slot : Nat) (s : State) : Host.Outcome State Fault Refusal :=
  match (s.slot slot).band, s.bandOf slot with
  | some b, some v =>
    when (s.live && decide (v.status = .running) && decide ((s.slot slot).wait = .pflush) && s.nadirDone slot v) s
      ((s.closeEdge b true).modSlot slot Slot.goOn)
  | _, _ => .next s

/-! ### SGROW and SFREE (R256, R257) -/

/-- A slot waits in SGROW or SFREE. -/
def growWaits (w : Wait) : Bool :=
  match w with
  | .sgrow _ _ _ | .sfree _ _ => true
  | _ => false

def isSgrow (w : Wait) : Bool :=
  match w with
  | .sgrow _ _ _ => true
  | _ => false

/-- Requests of one band are served in arrival order: no other waiting one arrived before this slot's; an SGROW of a band that stops
is to issue again (R257). -/
def State.growFirst (s : State) (v : Band) (slot : Nat) : Bool :=
  v.slotKeys.all (fun k => !(growWaits (s.slot k).wait && (v.status == .running || !isSgrow (s.slot k).wait)
    && decide ((s.slot k).lastIssue < (s.slot slot).lastIssue)))

/-- Chunk `c` of a field is held by no band. -/
def State.chunkFree (s : State) (field c : Nat) : Bool :=
  s.bandList.all (fun p => !(p.2.fields.contains field && decide (p.2.chunk0 ≤ c) && decide (c < p.2.chunk0 + p.2.chunks)))

/-- The `n` chunks above an allotment are free in every field of the band, and exist. -/
def State.aboveFree (s : State) (v : Band) (n : Nat) : Bool :=
  !growPast v n && v.fields.all (fun f => (List.range n).all (fun i => s.chunkFree f (v.chunk0 + v.chunks + i)))

/-- Set the kind of chunks of fields. -/
def State.setKinds (s : State) (fields : List Nat) (lo n : Nat) (kind : BitVec 2) : State :=
  { s with chunkKind := fields.foldl (fun t f =>
      (List.range n).foldl (fun t i => Tab.set 0#2 t (128 * f + lo + i) kind) t) s.chunkKind }

/-- A waiting request completes with a status. -/
def State.growDone (s : State) (slot d st : Nat) : State :=
  s.modSlot slot (fun c => c.goOnWith d (BitVec.ofNat 64 st))

/-- The end of a request that is served: LIMIT past the field, BUDGET where no budget covers it (R346), or the grant, whose chunks
take the asked kind. -/
def State.serveGrow (s : State) (b : Nat) (v : Band) (slot d n : Nat) (kind : ChunkKind) : State :=
  if growPast v n then s.growDone slot d 3
  else if !s.chunksFit v.region (n * v.fieldCount) then s.growDone slot d 2
  else
    ((s.setKinds v.fields (v.chunk0 + v.chunks) n kind.code).modBand b (fun u => { u with chunks := u.chunks + n })).growDone
      slot d 0

/-- A request is served in its turn, once its chunks are free or it is past its limits (R255, R256; log entry 83). -/
def State.growServed (s : State) (v : Band) (slot n : Nat) : Bool :=
  s.growFirst v slot && (growPast v n || !s.chunksFit v.region (n * v.fieldCount) || s.aboveFree v n)

def execSgrowGrant (slot : Nat) (s : State) : Host.Outcome State Fault Refusal :=
  match (s.slot slot).band, s.bandOf slot, (s.slot slot).wait with
  | some b, some v, .sgrow d n kind =>
    when (s.live && decide (v.status = .running) && s.growServed v slot n) s (s.serveGrow b v slot d n kind)
  | _, _, _ => .next s

/-- A slot's SGROW can be served now. -/
def State.grantable (s : State) (v : Band) (slot : Nat) : Bool :=
  match (s.slot slot).wait with
  | .sgrow _ n _ => s.growServed v slot n
  | _ => false

/-- The slots of a band that wait in SGROW. -/
def State.growers (s : State) (v : Band) : List Nat := v.slotKeys.filter (fun k => isSgrow (s.slot k).wait)

/-- The test of R257 in a field: every band that holds side memory waits, and none of its requests can be granted. -/
def State.growStuck (s : State) (field : Nat) : Bool :=
  let bs := s.bandList.filter (fun p => p.2.fields.contains field && decide (0 < p.2.chunks))
  decide (bs ≠ []) && bs.all (fun p => decide (s.growers p.2 ≠ []) && (s.growers p.2).all (fun k => !s.grantable p.2 k))

/-- The youngest band of a field that holds side memory. -/
def State.youngest (s : State) (field : Nat) : Option Band :=
  ((s.bandList.filter (fun p => p.2.fields.contains field && decide (0 < p.2.chunks))).getLast?).map Prod.snd

def State.refuseOne (s : State) (slot : Nat) : State :=
  match (s.slot slot).wait with
  | .sgrow d _ _ => (s.growDone slot d 1).evField (slotField slot) 0x14 0
  | _ => s

def execSgrowRefuse (field : Nat) (s : State) : Host.Outcome State Fault Refusal :=
  match s.youngest field with
  | some v => when (s.live && decide (v.status = .running) && s.growStuck field) s ((s.growers v).foldl State.refuseOne s)
  | none => .next s

/-- The bytes that the streams of a band's edges reach: the drain's accepted values, and what the feed has still to read. -/
def State.streamPlaces (s : State) (v : Band) : List Nat :=
  v.nad.buf.flatMap (fun q => s.valuePlaces q.slot v.asid q.desc q.val.body.kind q.p)
  ++ (v.zen.cur.toList.flatMap (s.unreadPlaces v.asid))

/-- The ranges of bytes of an operation's source and destination (R326). -/
def State.collRanges (s : State) (d : Desc) : List (Nat × Nat) :=
  let b := clCount d * clWidth d
  let all := grpSize (s.group (clGroup d)) * b
  match clOp d with
  | 0 => [(clSrc d, b), (clDst d, b)]
  | 1 => [(clSrc d, all), (clDst d, b)]
  | 2 => [(clSrc d, b), (clDst d, all)]
  | 3 => [(clSrc d, all), (clDst d, all)]
  | 4 => [(clSrc d, b)]
  | _ => [(clDst d, b)]

/-- The 64 KiB pages that a range of virtual addresses touches, as places. -/
def State.pagePlaces (s : State) (asid : Nat) (p : Nat × Nat) : List Nat :=
  (List.range (p.2 / 65536 + 2)).filterMap (fun i =>
    if p.2 ≠ 0 ∧ (p.1 / 65536 + i) * 65536 < p.1 + p.2 then some (s.placeNow 0 asid false ((p.1 / 65536 + i) * 65536)) else none)

/-- An access of the band still has to reach the chunks from `lo` up: a request, a copy command at a local address or through
the side window, a stream of its edges, a collective (R256). -/
def State.chunksBusy (s : State) (b : Nat) (v : Band) (lo n : Nat) : Bool :=
  let hit (loc len : Nat) : Bool := match spaceOf loc with
    | .side f => v.fields.contains f && decide (loc % 2 ^ 23 < 65536 * (lo + n)) && decide (65536 * lo < loc % 2 ^ 23 + len)
    | _ => false
  s.pend.any (fun p => p.band == b && p.reqs.any (fun r => hit r.loc r.len))
  || s.cmds.any (fun (c : CopyCmd) => c.band == b && !c.ended && (s.cmdPlaces c).any (fun loc => hit loc 1))
  || (s.streamPlaces v).any (fun loc => hit loc 1)
  || s.colls.any (fun (c : CollOp) => c.band == b && c.err.isNone
    && (s.collRanges c.desc).any (fun p => (s.pagePlaces v.asid p).any (fun loc => hit loc 65536)))

/-- SFREE's end: the status, and the chunks released as plain. -/
def State.freeTop (s : State) (b : Nat) (v : Band) (slot d n : Nat) : State :=
  if v.chunks < n then s.growDone slot d 3
  else if freeWindow v n then s.growDone slot d 4
  else
    ((s.setKinds v.fields (v.chunk0 + v.chunks - n) n 0#2).modBand b (fun u => { u with chunks := u.chunks - n })).growDone slot d 0

/-- A band whose rows' words run to their end: it runs, or it stops and its save waits for them (R395). -/
def Band.windsUp (v : Band) : Bool := v.status == .running || v.status == .stopping

def execSfreeComplete (slot : Nat) (s : State) : Host.Outcome State Fault Refusal :=
  match (s.slot slot).band, s.bandOf slot, (s.slot slot).wait with
  | some b, some v, .sfree d n =>
    when (s.live && v.windsUp && s.growFirst v slot
      && !(s.chunksBusy b v (v.chunk0 + v.chunks - n) n)) s (s.freeTop b v slot d n)
  | _, _, _ => .next s

end Sys2Proof.Machine
end

