-- ==== Sys2Proof/Machine/Queues.lean ====
section
/-!
DEFINITION. Record queues (spec/12): ENQ, ENQB, QFLUSH, QSTAT, RECDONE and DEQ, their messages to home dies, what arrives
there, and the events of the queues.
-/
namespace Sys2Proof.Machine

/-! ### Messages to home dies (R234) -/

/-- A slot sends a message to a die; it takes the next number. -/
def State.sendMsg (s : State) (k die : Nat) (op : MsgOp) : State :=
  let m : Msg := ⟨s.nextId, k, ((s.slot k).band).getD 0, die, op, (match s.bandOf k with
    | some v => v.region
    | none => 0), 0#64, 0, false⟩
  { s with msgs := s.msgs ++ [m], nextId := s.nextId + 1 }

def State.dropMsg (s : State) (id : Nat) : State := { s with msgs := s.msgs.filter (fun (m : Msg) => m.id ≠ id) }

/-- An ENQ, ENQB or JDEC is a release at pkg scope (R302, R367). -/
def MsgOp.releases : MsgOp → Bool
  | .enq _ _ _ _ _ _ _ _ | .jdec _ _ => true
  | _ => false

/-- An ENQB held at a die is to be retried, ahead of what arrives there later (R301). -/
def State.retriesAt (s : State) (die : Nat) : Bool := s.heldEnq.any (fun (m : Msg) => m.die == die && m.due)

/-- A record that asks for storage. -/
def MsgOp.asks : MsgOp → Bool
  | .enq _ _ _ _ _ _ _ _ => true
  | _ => false

/-- The drains have written the values that a slot's nadir bindings made before number `n` have accepted. -/
def State.drainedBefore (s : State) (k n : Nat) : Bool :=
  s.bandList.all (fun p => p.2.nad.parked || p.2.nad.buf.all (fun q => !(q.slot == k && decide (q.since < n))))

/-- A message may arrive: behind the earlier ones of its slot to that die (R234), as a release behind every earlier access of
its slot, and an ENQ behind the retries of the ENQBs held there. -/
def State.mayArrive (s : State) (m : Msg) : Bool :=
  s.live && !(m.op.asks && s.retriesAt m.die)
  && s.msgs.all (fun (q : Msg) => !(q.slot == m.slot && decide (q.id < m.id) && (q.die == m.die || m.op.releases)))
  && (!m.op.releases || (s.pend.all (fun (p : Pend) => !(p.slot == m.slot && decide (p.order < m.id) && !p.peerOnly && !p.parked))
    && s.heldEnq.all (fun (q : Msg) => !(q.slot == m.slot && decide (q.id < m.id)))
    && s.colls.all (fun (c : CollOp) => !(c.slot == m.slot && decide (c.id < m.id) && c.outstanding))
    && s.drainedBefore m.slot m.id))

/-- The message of a number that may arrive. -/
def State.arriving (s : State) (id : Nat) : Option Msg :=
  match s.msgs.find? (fun (m : Msg) => m.id == id) with
  | some m => if s.mayArrive m then some m else none
  | none => none

/-- The die that judges for a node index, the issuing row's die past the table (R299). -/
def State.judgeDie (s : State) (k : Nat) (node : Word) : Nat :=
  if node.toNat < 4096 then nodeHome (s.node node.toNat) else slotDie k

/-- ENQ to a node passes the region test of R299. -/
def State.mayEnqueue (s : State) (region : Nat) (node : Word) : Bool :=
  decide (node.toNat < 4096) && nodeValid (s.node node.toNat) && s.descends (nodeRegion (s.node node.toNat)) region

/-! ### Reading a payload (R299) -/

/-- The pieces of a span of addresses within 64 KiB pages. -/
def payloadPieces (a : Word) (len : Nat) : List (Word × Nat) :=
  let k := min len (65536 - a.toNat % 65536)
  (if k = 0 then [] else [(a, k)]) ++ (if k < len then [(a + BitVec.ofNat 64 k, len - k)] else [])

/-- The first byte of a local span that lies outside an allotment. -/
def Band.firstOutside (b : Band) (a : Word) : Word :=
  if a.toNat < b.sideBase ∨ b.sideBase + b.sideSize ≤ a.toNat then a else BitVec.ofNat 64 (b.sideBase + b.sideSize)

/-- The places of a payload's pieces (R240 steps 4 to 6). -/
def State.payloadPlaces (s : State) (k : Nat) (loc : Bool) (a : Word) (len : Nat) : Except Halt (List (Place × Nat)) :=
  let ps := payloadPieces a len
  if loc then
    match s.bandOf k with
    | none => .ok []
    | some b =>
      if !ps.isEmpty && !b.holds a len then .error (.trap .denied (b.firstOutside a))
      else .ok (ps.map (fun p => (⟨0, p.1, sideLoc (slotField k) p.1.toNat, 0, false, s.chunkAt (slotField k) p.1.toNat⟩, p.2)))
  else
    match s.places k true .read 1 (ps.map (fun p => (0, p.1))) with
    | .error h => .error h
    | .ok q => .ok (q.zip (ps.map Prod.snd))

/-- The kind fault of a payload: a local one may reach into chunks of another kind. -/
def State.payloadKind (s : State) (k : Nat) (loc : Bool) (ps : List (Place × Nat)) : Except Halt Unit :=
  let parts := if loc then ps.flatMap (fun p =>
      (List.range ((p.1.va.toNat + p.2 + 65535) / 65536 - p.1.va.toNat / 65536)).map (fun i =>
        let a := if i = 0 then p.1.va else BitVec.ofNat 64 ((p.1.va.toNat / 65536 + i) * 65536)
        { p.1 with va := a, ckind := s.chunkAt (slotField k) a.toNat }))
    else ps.map Prod.fst
  checkKinds false false parts

/-- DENIED by a target, then POISON at the first poisoned byte. -/
def State.payloadGrant (s : State) (k : Nat) (ps : List (Place × Nat)) : Except Halt Unit :=
  match ps.find? (fun p => s.denied p.1.loc p.1.key (slotMaster k) true false) with
  | some p => .error (.trap .denied p.1.va)
  | none =>
    match ps.find? (fun p => s.spanPoison p.1.loc p.2 p.1.mig) with
    | some p =>
      let i := ((List.range p.2).find? (fun i => s.meetsPoison (p.1.loc + i) 1 p.1.mig)).getD 0
      .error (.trap .poison (p.1.va + BitVec.ofNat 64 i))
    | none => .ok ()

/-- A read of these pieces comes behind an access that counts as performed in a narrow scope (R275). -/
def State.payloadBehind (s : State) (k : Nat) (ps : List (Place × Nat)) : Bool :=
  ps.any (fun p => s.behindMark k (fun _ => true) false p.1.loc p.2)

/-- Read the pieces in order. -/
def State.payloadRead (s : State) (ps : List (Place × Nat)) : List Byte × State :=
  ps.foldl (fun acc p =>
    let r := acc.2.spanRead p.1.loc p.2 p.1.key p.1.mig
    (acc.1 ++ r.1, r.2)) ([], s)

/-- The checks of a payload or template: what it reaches. -/
def State.payloadCheck (s : State) (k : Nat) (loc : Bool) (a : Word) (len : Nat) : Except Halt (List (Place × Nat)) := do
  let ps ← s.payloadPlaces k loc a len
  s.payloadKind k loc ps
  s.payloadGrant k ps
  if s.payloadBehind k ps then .error (.stall 0) else .ok ps

/-! ### At issue -/

/-- DEPTH of a slot's band. -/
def State.depthOf (s : State) (k : Nat) : Nat := match s.bandOf k with
  | some b => b.depth
  | none => 0

/-- ENQ and ENQB (`b`). -/
def enqEffect (b : Bool) (d : Fin 32) (a bs c : XSrc) (t loc : Bool) (k : Nat) (s : State) : Effect := do
  let us := xUse 0 a ++ xUse 1 bs ++ xUse 2 c
  s.ready k us [codeX d]
  let r := s.slot k
  let N := r.xval k a
  let C := (r.xval k c).toNat
  let L := bitsOf C 12 0
  let ps ← s.payloadCheck k loc (r.xval k bs) L
  let wait : Option Nat := if bitsOf C 63 32 = 0xFFFFFFFF then none else some (bitsOf C 63 32)
  let depth := s.depthOf k + 1
  let pc := r.pc
  .ok (fun u =>
    let q := (if t then u.notYet s else u.takes k us).payloadRead ps
    let u := q.2.modSlot k (fun x => x.producer (codeX d))
    let u := u.sendMsg k (u.judgeDie k N) (.enq N q.1 L depth d t b (if b then wait else some 0))
    if t then u.modSlot k (fun x => x.waitTaking pc .enqT us) else u)

/-- QFLUSH. -/
def qflushEffect (a : XSrc) (k : Nat) (s : State) : Effect := do
  let us := xUse 0 a
  s.ready k us []
  let N := (s.slot k).xval k a
  .ok (fun u => (u.takes k us).sendMsg k (u.judgeDie k N) (.qflush N))

/-- A word that asks a home die and holds its slot until the answer. -/
def askEffect (us : List Use) (dsts : List Nat) (w : Wait) (die : State → Nat) (op : MsgOp) (k : Nat) (s : State) : Effect := do
  s.ready k us dsts
  let pc := (s.slot k).pc
  .ok (fun u => ((u.notYet s).sendMsg k (die u) op).modSlot k (fun c => c.waitTaking pc w us))

/-- QSTAT: the slot goes on when the answer is there (log entry 3). -/
def qstatEffect (d : Fin 32) (a : XSrc) (k : Nat) (s : State) : Effect :=
  let N := (s.slot k).xval k a
  askEffect (xUse 0 a) [codeX d] .reply (fun u => u.judgeDie k N) (.qstat N d) k s

def recdoneEffect (k : Nat) (s : State) : Effect :=
  match s.bandOf k with
  | none => .ok id
  | some v =>
    let pc := (s.slot k).pc
    if v.windowHeld then .ok (fun u => u.modSlot k (fun c => c.waitAt pc .recdone)) else .ok id

/-- 2^63, DEQ's answer without a window. -/
def noWindow : Word := 1#64 <<< 63

def deqEffect (d : Fin 32) (b : XOp) (k : Nat) (s : State) : Effect := do
  let us := opUse b
  s.ready k us [codeX d]
  let B := (s.slot k).opval k b
  let pc := (s.slot k).pc
  match s.bandOf k with
  | none => .ok id
  | some v =>
    if B = 0#64 then .ok (fun u => (u.takes k us).modSlot k (fun c => c.setX d 0#64))
    else if !v.windowHeld then .ok (fun u => (u.takes k us).modSlot k (fun c => c.setX d noWindow))
    else
      .ok (fun u => ((u.notYet s).sendMsg k (nodeHome (u.node v.node)) (.deq (min B.toNat v.batch) d)).modSlot k
        (fun c => c.waitTaking pc (.deq d) us))

/-! ### ENQ at the home die (R299-R301) -/

/-- The home die's judgement of a record for node `n` that has passed the region test where `ok`: a status code, the record's
number, and the state it leaves. -/
def State.judgeRec (s : State) (ok : Bool) (origin n : Nat) (payload : List Byte) (len depth : Nat) : Nat × Nat × State :=
  let e := s.node n
  let reg := nodeRegion e
  let die := nodeHome e
  if !ok || decide (nodePsize e < len) then (4, 0, s)
  else if nodeDepth e < depth then (3, 0, s)
  else
    let seq := (Tab.get 0#32 s.nodeSeq n).toNat
    let block := if 16 < len then
        (if s.arenaFits reg (2 ^ blockLog len) then s.placePayload reg payload else none) else none
    if 16 < len ∧ block = none then (1, 0, s)
    else if !s.slotsFit reg 1 then (2, 0, s)
    else match s.recPlace die false, block with
      | none, _ => (2, 0, s)
      | some place, none => (0, seq, s.acceptAt die place n origin depth len (inlineField payload) (some reg) none)
      | some place, some (b, s') =>
        (0, seq, s'.acceptAt die place n origin depth len (s'.arenaVa b.1 b.2.1).toNat (some reg) (some b))

/-- The judgement of an ENQ or ENQB (R299). -/
def State.judge (s : State) (region : Nat) (node : Word) (payload : List Byte) (len depth : Nat) : Nat × Nat × State :=
  s.judgeRec (s.mayEnqueue region node) 0 node.toNat payload len depth

/-- The status word of Table 12.4. -/
def enqStatus (code seq : Nat) : Word := BitVec.ofNat 64 (seq * 2 ^ 32 + code)

/-- DEPTHLIMIT's TRAPINFO (R300). -/
def depthInfo (node : Word) (depth : Nat) : Word := BitVec.ofNat 64 (node.toNat % 4096 + depth % 32 * 2 ^ 16)

/-- An ENQ or ENQB completes with a status; `.t` turns DEPTH into a trap. -/
def State.enqDone (s : State) (m : Msg) (code seq : Nat) : State :=
  match m.op with
  | .enq node _ _ depth d t _ _ =>
    let s := if code = 0 then s else s.evDie (s.judgeDie m.slot node) 0x2F code 1
    if t ∧ code = 3 then
      (s.modSlot m.slot (fun c => c.produced (codeX d))).takeTrap m.slot .depthlimit (depthInfo node depth) (s.slot m.slot).pc
    else if !s.takesResults m.band then s
    else (if t then s.countWord m.slot else s).modSlot m.slot (fun c =>
      if t then (c.takeLate.deliverX d (enqStatus code seq)).goOn else c.deliverX d (enqStatus code seq))
  | _ => s

/-- A band runs on, so that an ENQB of it may be held (R301). -/
def State.bandRuns (s : State) (b : Nat) : Bool :=
  match s.band? b with
  | some v => decide (v.status = .running) && !v.suspend
  | none => false

/-- An attempt of an ENQ or ENQB at its home die. -/
def State.enqTry (s : State) (m : Msg) : State :=
  match m.op with
  | .enq node payload len depth _ _ b timeout =>
    let r := s.judge m.region node payload len depth
    if b && (r.1 == 1 || r.1 == 2) && decide (timeout ≠ some 0) && s.bandRuns m.band then
      { s with heldEnq := s.heldEnq ++ [{ m with die := s.judgeDie m.slot node, since := s.time, status := r.1 }] }
    else r.2.2.enqDone m r.1 r.2.1
  | _ => s

def execEnqArrival (id : Nat) (s : State) : Host.Outcome State Fault Refusal :=
  match s.arriving id with
  | some m => (match m.op with
    | .enq _ _ _ _ _ _ _ _ => .next ((s.dropMsg id).enqTry m)
    | _ => .next s)
  | none => .next s

def State.dropHeld (s : State) (id : Nat) : State := { s with heldEnq := s.heldEnq.filter (fun (m : Msg) => m.id ≠ id) }

/-- One retry of a held ENQB: it keeps its place where it fails again. -/
def State.enqRetry (s : State) (m : Msg) : State :=
  match m.op with
  | .enq node payload len depth _ _ _ _ =>
    let r := s.judge m.region node payload len depth
    if r.1 = 1 ∨ r.1 = 2 then
      { s with heldEnq := s.heldEnq.map (fun (q : Msg) => if q.id = m.id then { q with status := r.1, due := false } else q) }
    else (r.2.2.dropHeld m.id).enqDone m r.1 r.2.1
  | _ => s

/-- A die retries the ENQBs it holds, in arrival order, those that a release since their last attempt may help (R301). -/
def execEnqbRetry (die : Nat) (s : State) : Host.Outcome State Fault Refusal :=
  when s.live s ((s.heldEnq.filter (fun (m : Msg) => m.die == die && m.due)).foldl State.enqRetry s)

/-- A held ENQB has waited its time-out. -/
def Msg.expired (m : Msg) (now : Word) : Bool :=
  match m.op with
  | .enq _ _ _ _ _ _ _ (some t) => decide (t ≤ (now - m.since).toNat)
  | _ => false

/-- A held ENQB completes with the status of its last attempt. -/
def State.endHeld (s : State) (m : Msg) : State := (s.dropHeld m.id).enqDone m m.status 0

def execEnqbTimeout (id : Nat) (s : State) : Host.Outcome State Fault Refusal :=
  match s.heldEnq.find? (fun (m : Msg) => m.id == id) with
  | some m => when (s.live && m.expired s.time) s (s.endHeld m)
  | none => .next s

/-- Every held ENQB of a band completes: it is pre-empted or suspended (R301). -/
def State.endAllHeld (s : State) (b : Nat) : State :=
  (s.heldEnq.filter (fun (m : Msg) => m.band == b)).foldl State.endHeld s

/-! ### QFLUSH and QSTAT at the home die (R306, R307) -/

def execQflushArrival (id : Nat) (s : State) : Host.Outcome State Fault Refusal :=
  match s.arriving id with
  | some m => (match m.op with
    | .qflush node =>
      let s := s.dropMsg id
      if s.mayEnqueue m.region node && decide (nodeTimer (s.node node.toNat) ≠ 0) then
        .next (({ s with nodeFlush := Tab.set false s.nodeFlush node.toNat true } : State).launchCheck node.toNat)
      else .next s
    | _ => .next s)
  | none => .next s

/-- The bands of a node launched and not retired, saved ones that hold no place included. -/
def State.bandsOf (s : State) (n : Nat) : Nat :=
  (s.bandList.filter (fun p => p.2.node = n)).length
    + (s.restores.filter (fun (r : Restore) => r.band.node = n ∧ (s.band? r.seq).isNone)).length

/-- Table 12.6. -/
def State.queueState (s : State) (region : Nat) (node : Word) : Word :=
  if !s.mayEnqueue region node then noWindow
  else
    let n := node.toNat
    BitVec.ofNat 64 ((if (Tab.get none s.nodeReq n).isSome then 2 ^ 62 else 0)
      + (if Tab.get false s.nodeFlush n then 2 ^ 61 else 0) + s.bandsOf n * 2 ^ 32 + (s.queue n).length)

/-- An answer reaches the slot that waits for it. -/
def State.answer (s : State) (m : Msg) (d : Nat) (v : Word) : State :=
  if s.takesResults m.band then (s.countWord m.slot).modSlot m.slot (fun c => c.goOnWith d v) else s

def execQstatArrival (id : Nat) (s : State) : Host.Outcome State Fault Refusal :=
  match s.arriving id with
  | some m => (match m.op with
    | .qstat node d => .next ((s.dropMsg id).answer m d (s.queueState m.region node))
    | _ => .next s)
  | none => .next s

/-! ### Taking records (R292, R294, R304, R313, R316) -/

/-- A ring slot number that no ring has: what a record taken from the ring holds from then on (R295). -/
def noRingSlot : Nat := 2 ^ 24

/-- The record window entry of a record (Table 12.7). -/
def windowEntry (v stride : Nat) (payload : List Byte) : List Byte :=
  let head := toBytes 2 (recLen v) ++ toBytes 1 (recDepth v) ++ toBytes 1 (recOrigin v) ++ toBytes 4 (recSeq v)
    ++ toBytes 8 (recEtime v) ++ payload
  head ++ List.replicate (stride - head.length) 0#8

/-- The first bytes of a record's payload: inline, or read from the arena. -/
def State.recordBytes (s : State) (n : Nat) (r : RecRef) (v k : Nat) : List Byte × State :=
  if recLen v ≤ 16 then ((toBytes 16 (recPayload v)).take k, s)
  else s.regionReadVia ⟨s.regAsidOf (r.charge.getD (nodeRegion (s.node n))), some 0xD0, none⟩
    (BitVec.ofNat 64 (recPayload v % 2 ^ 57)) k

/-- The head of a node's queue is taken. -/
def State.popHead (s : State) (n : Nat) : State := s.setQueue n ((s.queue n).drop 1)

/-- A poisoned record is released and reported (R294, R392). -/
def State.reportPoisoned (s : State) (n : Nat) (r : RecRef) : State :=
  let s := s.releaseRec r
  s.postFault (nodeRegion (s.node n)) 0x10 2 0xFFFF 0xFF 0 n 0 0#64 (BitVec.ofNat 64 r.seq)

/-- A poisoned head leaves its queue. -/
def State.removePoisoned (s : State) (n : Nat) (r : RecRef) : State := ((s.popHead n).reportPoisoned n r).launchCheck n

/-- A record is deeper than a limit. -/
def State.tooDeep (s : State) (limit : Option Nat) (r : RecRef) : Bool :=
  match limit with
  | some d => decide (d < recDepth (s.recRead r))
  | none => false

/-- Where the release of a record moves the oldest spilled one of its die (R295). -/
def State.moves (s : State) (r : RecRef) (q : RecRef) : RecRef :=
  match (if r.spill then none else s.movesBack r.die r.idx) with
  | some slot => moveRef r.die slot r.idx q
  | none => q

/-- Take up to `m` records from the head, none deeper than `limit`; `acc` holds those taken so far. -/
def takeFrom (n : Nat) (limit : Option Nat) : Nat → Nat → List RecRef → State → List RecRef × State
  | 0, _, acc, s => (acc, s)
  | fuel + 1, m, acc, s =>
    match m, s.queue n with
    | 0, _ => (acc, s)
    | _, [] => (acc, s)
    | m' + 1, r :: _ =>
      if s.recPoisoned r then takeFrom n limit fuel (m' + 1) (acc.map (s.moves r)) (s.removePoisoned n r)
      else if s.tooDeep limit r then (acc, s)
      else takeFrom n limit fuel m' (acc ++ [r]) (s.popHead n)

def State.takeRecords (s : State) (n : Nat) (limit : Option Nat) (m : Nat) : List RecRef × State :=
  takeFrom n limit ((s.queue n).length) m [] s

/-- The window entry of a taken record, and the record as its band holds it: a ring slot frees (R295), and the ENQBs held at its die
are retried (R301). -/
def State.recordEntry (s : State) (v : Band) (r : RecRef) : (List Byte × RecRef) × State :=
  let w := s.recRead r
  let s := if r.spill then (s.spanRead (s.spillLoc r.die r.idx) 32 0 false).2 else s
  let q := s.recordBytes v.node r w (min (recLen w) v.psize)
  let e := windowEntry w v.stride q.1
  if r.spill then
    ((e, { r with idx := noRingSlot }),
      { q.2.wakeEnq (fun m => m.die == r.die) with
        spilled := Tab.set [] q.2.spilled r.die ((q.2.spilledOf r.die).filter (fun p => p.2 ≠ r.idx)) })
  else ((e, r), q.2)

/-- The window entries of a band's records. -/
def recordEntries (v : Band) : List RecRef → State → List (List Byte × RecRef) × State
  | [], s => ([], s)
  | r :: t, s =>
    let q := s.recordEntry v r
    let rest := recordEntries v t q.2
    (q.1 :: rest.1, rest.2)

/-- Write window entries from the base up in one field, where the launcher is granted it (R313, R353; log entry 59). -/
def State.writeWindowIn (s : State) (base stride field : Nat) (es : List (List Byte)) : State :=
  if s.grants (0x40 + field) 0xD0 true then
    es.zipIdx.foldl (fun s p => s.spanWrite (sideLoc field (base + p.2 * stride)) 0 false p.1) s
  else s

/-- Records that have met poison since they were taken are in no window: the band lets go of them (R294; DEPTH stays, log
entry 100). -/
def dropSpoiled (b : Nat) : Nat → State → State
  | 0, s => s
  | fuel + 1, s =>
    match s.band? b with
    | none => s
    | some v =>
      match v.records.find? s.recPoisoned with
      | none => s
      | some r =>
        let rest := v.records.erase r
        dropSpoiled b fuel ((s.modBand b (fun u => { u with records := rest, reccount := rest.length })).reportPoisoned v.node r)

/-- The records of a band without the spoiled ones. -/
def State.goodRecords (s : State) (b : Nat) : State :=
  match s.band? b with
  | some v => dropSpoiled b v.records.length s
  | none => s

/-- Write the records a band holds into its window, in every field of the band. -/
def State.fillWindow (s : State) (b : Nat) : State :=
  let s := s.goodRecords b
  match s.band? b with
  | none => s
  | some v =>
    let q := recordEntries v v.records s
    let s := q.2.modBand b (fun u => { u with records := q.1.map Prod.snd })
    v.fields.foldl (fun s f => s.writeWindowIn v.recBase v.stride f (q.1.map Prod.fst)) s

/-! ### RECDONE and DEQ (R315, R316) -/

/-- A band lets go of its records. -/
def State.dropRecords (s : State) (b : Nat) (v : Band) : State :=
  (s.modBand b (fun u => { u with records := [] })).releaseAll v.records

/-- The window's chunks are the top ones of the allotment. -/
def Band.windowOnTop (v : Band) : Bool := v.winChunk + v.winChunks == v.chunk0 + v.chunks

/-- RECDONE's effect on a held window. -/
def State.releaseWindow (s : State) (b : Nat) (v : Band) : State :=
  let s := s.dropRecords b v
  let s := s.modBand b (fun u => { u with reccount := 0, windowHeld := false })
  if v.windowOnTop then
    (s.setKinds v.fields v.winChunk v.winChunks 0#2).modBand b (fun u => { u with chunks := u.chunks - v.winChunks })
  else s

/-- A waiting RECDONE goes on once nothing uses the window's chunks; that of a frozen band stays (R404). -/
def execRecdoneRelease (slot : Nat) (s : State) : Host.Outcome State Fault Refusal :=
  match (s.slot slot).band, s.bandOf slot with
  | some b, some v =>
    if !s.live || !v.windsUp || decide ((s.slot slot).wait ≠ .recdone) then .next s
    else if !v.windowHeld then .next (s.modSlot slot Slot.goOn)
    else when (!(v.windowOnTop && s.chunksBusy b v v.winChunk v.winChunks)) s
      ((s.releaseWindow b v).modSlot slot Slot.goOn)
  | _, _ => .next s

/-- A DEQ at its home die: the number of records taken. -/
def State.refill (s : State) (b : Nat) (v : Band) (m : Nat) : Nat × State :=
  let s := s.dropRecords b v
  let q := s.takeRecords v.node (some v.depth) m
  let j := q.1.length
  let s := q.2.modBand b (fun u => { u with records := q.1, reccount := j })
  (j, (s.fillWindow b).launchCheck v.node)

def execDeqRefill (id : Nat) (s : State) : Host.Outcome State Fault Refusal :=
  match s.arriving id with
  | some m => (match m.op, s.band? m.band with
    | .deq n d, some v =>
      let s := s.dropMsg id
      if v.status = .killing then .next s
      else if !v.windowHeld then .next (s.answer m d noWindow)
      else
        let r := s.refill m.band v n
        .next (r.2.answer m d (BitVec.ofNat 64 r.1))
    | _, _ => .next s)
  | none => .next s

/-! ### The launcher's own events (R294, R304) -/

def execLaunchAgeExpiry (node : Nat) (s : State) : Host.Outcome State Fault Refusal := when s.live s (s.launchCheck node)

def execPoisonedRecordRemove (node : Nat) (s : State) : Host.Outcome State Fault Refusal :=
  match s.queue node with
  | [] => .next s
  | r :: _ => when (s.live && s.recPoisoned r) s (s.removePoisoned node r)

/-! ### Meanings -/

def execEnq (d : Fin 32) (a : XSrc) (b : XSrc) (c : XSrc) (t loc : Bool) (s : State) := s.issue 8 (enqEffect false d a b c t loc)
def execEnqb (d : Fin 32) (a : XSrc) (b : XSrc) (c : XSrc) (t loc : Bool) (s : State) := s.issue 8 (enqEffect true d a b c t loc)
def execQflush (a : XSrc) (s : State) := s.issue 8 (qflushEffect a)
def execQstat (d : Fin 32) (a : XSrc) (s : State) := s.issue 8 (qstatEffect d a)
def execRecdone (s : State) := s.issue 8 recdoneEffect
def execDeq (d : Fin 32) (b : XOp) (s : State) := s.issue (opSize b) (deqEffect d b)

end Sys2Proof.Machine
end

