-- ==== Sys2Proof/Machine/Counters.lean ====
section
/-!
DEFINITION. Group 8 (spec/15): join counters and what arrives at their home dies, named barriers, arrival counters and event
counters.
-/
namespace Sys2Proof.Machine

/-! ### Join counters at issue (R363-R369) -/

/-- A template's fields (Table 3.13). -/
def tplCount (t : List Byte) : Nat := ofBytes (t.take 4)
def tplNode (t : List Byte) : Nat := ofBytes ((t.drop 4).take 2)
def tplPayload (t : List Byte) : List Byte := (t.drop 8).take 16

/-- The byte offset of a template's first offending field (R366). -/
def tplBroken (t : List Byte) : Option Nat :=
  if tplCount t = 0 then some 0
  else if 4095 < tplNode t then some 4
  else if ofBytes ((t.drop 6).take 2) ≠ 0 then some 6
  else if ofBytes (t.drop 24) ≠ 0 then some 24
  else none

/-- The counter index of an operand. -/
def ctrIndex (a : Word) : Nat := a.toNat % 65536

def jinitEffect (a b : XSrc) (loc : Bool) (k : Nat) (s : State) : Effect := do
  let us := xUse 0 a ++ xUse 1 b
  s.ready k us []
  let B := (s.slot k).xval k b
  checkAlign true 32 [(0, B)]
  let ps ← s.payloadCheck k loc B 32
  let t := (s.payloadRead ps).1
  let i := ctrIndex ((s.slot k).xval k a)
  let depth := s.depthOf k
  let pc := (s.slot k).pc
  match tplBroken t with
  | some off => .error (.trap .baddesc (BitVec.ofNat 64 off))
  | none =>
    if depth = 31 then .error (.trap .depthlimit (depthInfo 0#64 (depth + 1)))
    else
      .ok (fun u =>
        let u := ((u.notYet s).payloadRead ps).2
        (u.sendMsg k (ctrDie i) (.jinit i t (depth + 1))).modSlot k (fun c => c.waitTaking pc .jinit us))

def jdecEffect (d : Fin 32) (a : XSrc) (k : Nat) (s : State) : Effect := do
  let us := xUse 0 a
  s.ready k us [codeX d]
  let i := ctrIndex ((s.slot k).xval k a)
  let pc := (s.slot k).pc
  .ok (fun u => (((u.notYet s).modSlot k (fun c => c.producer (codeX d))).sendMsg k (ctrDie i) (.jdec i d)).modSlot k
    (fun c => c.waitTaking pc .jdec us))

def jreadEffect (d : Fin 32) (a : XSrc) (k : Nat) (s : State) : Effect :=
  let i := ctrIndex ((s.slot k).xval k a)
  askEffect (xUse 0 a) [codeX d] .reply (fun _ => ctrDie i) (.jread i d) k s

/-! ### At the home die -/

/-- The home die's table grants the issuing field what it asks (R365). -/
def State.ctrGrants (s : State) (m : Msg) (i : Nat) (read write : Bool) : Bool :=
  (!read || s.grants (0x80 + ctrDie i) (slotMaster m.slot) false)
    && (!write || s.grants (0x80 + ctrDie i) (slotMaster m.slot) true)

/-- A message traps at the word that sent it, which still waits. -/
def State.msgTrap (s : State) (m : Msg) (c : Cause) (info : Word) : State := s.takeTrap m.slot c info (s.slot m.slot).pc

/-- A counter's 32 bytes when armed (R366). -/
def armedBytes (t : List Byte) (depth : Nat) : List Byte :=
  toBytes 32 (tplCount t + tplNode t * 2 ^ 32 + 1 * 2 ^ 48 + depth * 2 ^ 56 + ofBytes (tplPayload t) * 2 ^ 64)

def execJinitArrival (id : Nat) (s : State) : Host.Outcome State Fault Refusal :=
  match s.arriving id with
  | some m => (match m.op with
    | .jinit i t depth =>
      let s := s.dropMsg id
      if !s.ctrGrants m i false true then .next (s.msgTrap m .denied (BitVec.ofNat 64 i))
      else
        let s := (s.writeMem (ctrLoc i) (armedBytes t depth)).clearPoison (ctrLoc i) 32
        let s := { s with ctrPoison := Tab.set false s.ctrPoison i false }
        .next (if s.takesResults m.band then (s.countWord m.slot).modSlot m.slot Slot.goOn else s)
    | _ => .next s)
  | none => .next s

/-- JDEC ends with a status. -/
def State.jdecDone (s : State) (m : Msg) (d st : Nat) : State :=
  if s.takesResults m.band then
    (s.countWord m.slot).modSlot m.slot (fun c => (c.takeLate.deliverX d (BitVec.ofNat 64 st)).goOn)
  else s

/-- The count and the state of a counter after a decrement. -/
def State.ctrStep (s : State) (i : Nat) : State :=
  let v := s.ctrRead i
  let n := ctrCount v - 1
  let s := s.writeMem (ctrLoc i) (toBytes 4 n)
  if n = 0 then s.writeMem (ctrLoc i + 6) (toBytes 1 (bitsOf v 55 50 * 4 + 2)) else s

/-- The record a firing enqueues (R368). -/
def State.ctrRecord (s : State) (m : Msg) (i : Nat) : HeldRec :=
  let v := s.ctrRead i
  ⟨ctrNode v, 2, ctrDepth v, toBytes 16 (ctrPayload v), nodeHome (s.node (ctrNode v)), some m, ctrDie i⟩

/-- A JDEC that its home die admits. -/
def State.jdecAt (s : State) (m : Msg) (i d : Nat) : State :=
  if ctrCount (s.ctrRead i) = 0 then (s.evDie (ctrDie i) 0x31 0 1).jdecDone m d 2
  else
    let s := s.ctrStep i
    if ctrCount (s.ctrRead i) ≠ 0 then s.jdecDone m d 0
    else
      let s := s.evDie (ctrDie i) 0x30 0 1
      match s.acceptFree (s.ctrRecord m i) with
      | some s' => s'.jdecDone m d 1
      | none => { s with heldRec := s.heldRec ++ [s.ctrRecord m i] }

def execJdecArrival (id : Nat) (s : State) : Host.Outcome State Fault Refusal :=
  match s.arriving id with
  | some m => (match m.op with
    | .jdec i d =>
      let s := s.dropMsg id
      let full (s : State) : State := s.modSlot m.slot (fun c => c.produced (codeX d))
      if !s.ctrGrants m i true true then .next ((full s).msgTrap m .denied (BitVec.ofNat 64 i))
      else if s.ctrBad i then
        .next (((full s).ctrReport m.slot i (s.slot m.slot).pc).msgTrap m .counterpoison (BitVec.ofNat 64 i))
      else .next (s.jdecAt m i d)
    | _ => .next s)
  | none => .next s

/-- A record that waits at a die is accepted; the JDEC that fired it then has its status (R368, R392). -/
def execJoinRecordAccept (die : Nat) (s : State) : Host.Outcome State Fault Refusal :=
  match s.heldRec.find? (fun (h : HeldRec) => h.die == die) with
  | some h =>
    (match (if s.live then s.acceptFree h else none) with
    | some s' =>
      let s' := { s' with heldRec := s'.heldRec.erase h }
      (match h.jdec with
      | some m => (match m.op with
        | .jdec _ d => .next (s'.jdecDone m d 1)
        | _ => .next s')
      | none => .next s')
    | none => .next s)
  | none => .next s

/-- Table 15.3. -/
def State.jreadValue (s : State) (i : Nat) : Word :=
  let v := s.ctrRead i
  if s.ctrBad i then 1#64 <<< 63 else BitVec.ofNat 64 (ctrState v * 2 ^ 61 + ctrNode v * 2 ^ 32 + ctrCount v)

def execJreadArrival (id : Nat) (s : State) : Host.Outcome State Fault Refusal :=
  match s.arriving id with
  | some m => (match m.op with
    | .jread i d =>
      let s := s.dropMsg id
      if !s.ctrGrants m i true false then .next (s.msgTrap m .denied (BitVec.ofNat 64 i))
      else
        let v := s.jreadValue i
        let s := if s.ctrBad i then s.ctrReport m.slot i (s.slot m.slot).pc else s
        .next (s.answer m d v)
    | _ => .next s)
  | none => .next s

/-! ### Named barriers (R373, R374) -/

def Band.barrier (v : Band) (i : Nat) : Barrier := Tab.get Barrier.idle v.barriers i
def Band.setBarrier (v : Band) (i : Nat) (b : Barrier) : Band := { v with barriers := Tab.set Barrier.idle v.barriers i b }

def Slot.lastOf (c : Slot) (i : Nat) : BitVec 16 := Tab.get 0#16 c.lastPhase i

/-- A slot that waits at a barrier goes on. -/
def Slot.endWait (i : Nat) (c : Slot) : Slot :=
  if c.wait = .barrier i then { c with owed := setBit c.owed i false }.goOn else c

/-- BARMISMATCH's TRAPINFO: the open phase's count and the count named. -/
def barInfo (b : Barrier) (n : Nat) : Word := BitVec.ofNat 64 (b.expect % 65536 * 2 ^ 32 + n % 65536)

/-- An arrival is refused (R374). -/
def Band.barBad (v : Band) (i n : Nat) : Bool :=
  decide (n = 0) || decide (v.height < n) || (decide ((v.barrier i).expect ≠ 0) && decide ((v.barrier i).expect ≠ n))

/-- An arrival of count `n`: the slot's marks, and the phase with its completion. -/
def State.arriveAt (s : State) (k b : Nat) (v : Band) (i n : Nat) : State :=
  let o := v.barrier i
  let s := s.modSlot k (fun c => { c with
    owed := setBit c.owed i true
    lastPhase := Tab.set 0#16 c.lastPhase i o.phase })
  if o.arrivals + 1 = n then
    let s := (s.modBand b (fun u => u.setBarrier i ⟨o.phase + 1, 0, 0⟩)).evField (slotField k) 0x13 0
    s.modSlots v.slotKeys (Slot.endWait i)
  else s.modBand b (fun u => u.setBarrier i ⟨o.phase, n, o.arrivals + 1⟩)

/-- The wait of BARW and BARR. -/
def State.awaitBarrier (s : State) (k b i : Nat) (pc : Word) : State :=
  match s.band? b with
  | none => s
  | some v =>
    let c := s.slot k
    if !c.owed.getLsbD i then s
    else if (v.barrier i).phase ≠ c.lastOf i then s.modSlot k (fun c => { c with owed := setBit c.owed i false })
    else s.modSlot k (fun c => c.waitAt pc (.barrier i))

/-- BARA, and BARR with its wait. -/
def barEffect (wait : Bool) (a : XSrc) (b : XOp) (k : Nat) (s : State) : Effect := do
  let us := xUse 0 a ++ opUse b
  s.ready k us []
  let n := ((s.slot k).xval k a).toNat
  let i := ((s.slot k).opval k b).toNat % 16
  let pc := (s.slot k).pc
  match (s.slot k).band, s.bandOf k with
  | some bi, some v =>
    if v.barBad i n then .error (.trap .barmismatch (barInfo (v.barrier i) n))
    else if s.relPending k .band 0x7F#7 then .error (.stall 0)
    else .ok (fun u =>
      let u := ((u.takes k us).release k .band 0x7F#7).arriveAt k bi v i n
      if wait then u.awaitBarrier k bi i pc else u)
  | _, _ => .ok id

def barwEffect (b : XOp) (k : Nat) (s : State) : Effect := do
  let us := opUse b
  s.ready k us []
  let i := ((s.slot k).opval k b).toNat % 16
  let pc := (s.slot k).pc
  match (s.slot k).band with
  | some bi => .ok (fun u => (u.takes k us).awaitBarrier k bi i pc)
  | none => .ok id

/-! ### Arrival counters (R370-R372) -/

def acntEffect (a : XSrc) (b : XOp) (rel : Bool) (k : Nat) (s : State) : Effect := do
  let us := xUse 0 a ++ opUse b
  s.ready k us []
  if rel && s.relPending k .field 0x7F#7 then .error (.stall 0)
  else do
    let i := ((s.slot k).xval k a).toNat % 64
    let n := ((s.slot k).opval k b).toNat
    .ok (fun u =>
      let u := u.takes k us
      (if rel then u.release k .field 0x7F#7 else u).arrive (slotField k) i n)

def asetEffect (a : XSrc) (b : XOp) (k : Nat) (s : State) : Effect := do
  let us := xUse 0 a ++ opUse b
  s.ready k us []
  let i := ((s.slot k).xval k a).toNat % 64
  let v := ((s.slot k).opval k b).setWidth 48
  .ok (fun u => (u.takes k us).setArrival (slotField k) i v)

/-! ### Event counters (R377-R380) -/

/-- The level of an event code: `some true` a field event, `some false` a die or package event, none unassigned. -/
def evLevel (code : Nat) : Option Bool :=
  if 0x01 ≤ code ∧ code ≤ 0x16 then some true
  else if (0x20 ≤ code ∧ code ≤ 0x32) ∨ (0x38 ≤ code ∧ code ≤ 0x3F) then some false
  else none

/-- The qualifiers of an event code (Table 15.8). -/
def evQualOk (code q : Nat) : Bool :=
  if 0x02 ≤ code ∧ code ≤ 0x06 then decide (q ≤ 2)
  else if code = 0x0E ∨ code = 0x0F then decide (q ≤ 2)
  else if code = 0x12 then decide (q ≤ 0x17)
  else if 0x20 ≤ code ∧ code ≤ 0x2C then decide (q ≤ 7) || q == 0xFF
  else if code = 0x2D ∨ code = 0x2E then decide (q ≤ 1)
  else if code = 0x2F then decide (q ≤ 4)
  else if 0x38 ≤ code ∧ code ≤ 0x3D then decide (q ≤ 17) || q == 0xFF
  else if code = 0x3E then decide (q ≤ 7) || q == 0xFF
  else q == 0

/-- The key of the counter a row names; none above 23 (R377). -/
def evName (k n : Nat) : Option Nat :=
  if n < 8 then some (evFieldKey (slotField k) n) else if n < 24 then some (evDieKey (slotDie k) (n - 8)) else none

/-- A selector is written and its counter set to 0; it counts from `delay` steps on. Of the EVSELs that reach a counter in one step
that of the highest row, slot B after slot A, lands last (R378). -/
def State.evSelect (s : State) (key k : Nat) (sel : BitVec 16) (delay : Nat) : State :=
  let c := s.evCtr key
  if c.first = s.steps + delay ∧ k < c.by_ then s
  else { s with evc := Tab.set EvCounter.zero s.evc key ⟨sel, 0#64, c.prev, s.steps + delay, k⟩ }

def evselEffect (a : XSrc) (b : XOp) (k : Nat) (s : State) : Effect := do
  let us := xUse 0 a ++ opUse b
  s.ready k us []
  let n := ((s.slot k).xval k a).toNat % 32
  let B := (s.slot k).opval k b
  let code := B.toNat % 256
  match evName k n with
  | none => .error (.trap .baddesc B)
  | some key =>
    if evLevel code = some (decide (n < 8)) ∧ evQualOk code (bitsOf B.toNat 15 8) = true then
      .ok (fun u => (u.takes k us).evSelect key k (B.setWidth 16) (if n < 8 then 1 else 24))
    else .error (.trap .baddesc B)

/-- TRAPINFO where the spec states none: the free value of this issue (log entry 30). -/
def State.freeInfo (s : State) : Word :=
  BitVec.ofNat 64 (ofBytes ((List.range 8).map (fun i => Config.freeByte s.issueClk (2 ^ 60 + i))))

/-- What EVRD reads: of a field counter the count through the step before, of a die counter the count at its issue, which is one of
those that R379 allows (log entry 3). -/
def State.evRead (s : State) (key : Nat) : Word := if key < 512 then (s.evCtr key).prev else (s.evCtr key).value

def evrdEffect (d : Fin 32) (a : XSrc) (k : Nat) (s : State) : Effect := do
  let us := xUse 0 a
  s.ready k us [codeX d]
  match evName k (((s.slot k).xval k a).toNat % 32) with
  | none => .error (.trap .baddesc s.freeInfo)
  | some key => .ok (fun u => (u.takes k us).modSlot k (fun c => c.setX d (s.evRead key)))

/-! ### Meanings -/

def execJinit (a : XSrc) (b : XSrc) (loc : Bool) (s : State) := s.issue 8 (jinitEffect a b loc)
def execJdec (d : Fin 32) (a : XSrc) (s : State) := s.issue 8 (jdecEffect d a)
def execJread (d : Fin 32) (a : XSrc) (s : State) := s.issue 8 (jreadEffect d a)
def execBarr (a : XSrc) (b : XOp) (s : State) := s.issue (opSize b) (barEffect true a b)
def execBara (a : XSrc) (b : XOp) (s : State) := s.issue (opSize b) (barEffect false a b)
def execBarw (b : XOp) (s : State) := s.issue (opSize b) (barwEffect b)
def execAcnt (a : XSrc) (b : XOp) (rel : Bool) (s : State) := s.issue (opSize b) (acntEffect a b rel)
def execAset (a : XSrc) (b : XOp) (s : State) := s.issue (opSize b) (asetEffect a b)
def execEvsel (a : XSrc) (b : XOp) (s : State) := s.issue (opSize b) (evselEffect a b)
def execEvrd (d : Fin 32) (a : XSrc) (s : State) := s.issue 8 (evrdEffect d a)

end Sys2Proof.Machine
end

