-- ==== Sys2Proof/Machine/System.lean ====
section
/-!
DEFINITION. Group 9: the CSRs and RETT (spec/05 R110-R116, spec/16 R389); pair words (spec/03 R75-R77); and the words that are
no instruction (R78, R79).
-/
namespace Sys2Proof.Machine

/-! ### Reading CSRs (Table 5.3) -/

/-- ZFEED and NDRAIN (Table 5.6): zero off the edge and in a band that is not linked. -/
def edgeCsr (v : Band) (row : Nat) (nad : Bool) : Word :=
  if v.ownsEdge row nad then
    BitVec.ofNat 64 ((v.edge nad).position.toNat * 2 ^ 16 + (if (v.edge nad).bound then 1 else 0))
  else 0#64

/-- A CSR that the band gives. -/
def State.bandCsr (s : State) (k b : Nat) (v : Band) (c : Nat) : Word :=
  match c with
  | 0x007 => BitVec.ofNat 64 (v.height * 2 ^ 16 + v.rowIndex (slotRow k))
  | 0x008 => BitVec.ofNat 64 v.node
  | 0x009 => BitVec.ofNat 64 (v.asid * 2 ^ 16 + v.region)
  | 0x00A => BitVec.ofNat 64 v.recBase
  | 0x00B => BitVec.ofNat 64 v.reccount
  | 0x00C => BitVec.ofNat 64 v.depth
  | 0x00E => BitVec.ofNat 64 v.sideBase
  | 0x00F => BitVec.ofNat 64 v.sideSize
  | 0x011 => BitVec.ofNat 64 b
  | 0x012 => BitVec.ofNat 64 ((if v.suspend then 2 else 0) + (if v.due then 1 else 0))
  | 0x013 => edgeCsr v (slotRow k) false
  | 0x014 => edgeCsr v (slotRow k) true
  | 0x015 => BitVec.ofNat 64 (s.faultLog v.region)
  | _ => 0#64

/-- A CSR that does not depend on the band. -/
def State.slotCsr (s : State) (k : Nat) (c : Nat) : Word :=
  let t := s.slot k
  match c with
  | 0x000 => t.fpmode
  | 0x001 => t.lanestat
  | 0x002 => t.trapcause
  | 0x003 => t.trappc
  | 0x004 => t.trapinfo
  | 0x005 => t.tvec
  | 0x006 => BitVec.ofNat 64 (slotRow k)
  | 0x00D => s.time
  | 0x010 => BitVec.ofNat 64 (slotAB k)
  | 0x020 => 0x0009_0E3D#64
  | 0x021 => 0x01#64
  | 0x022 => 0x40_4040#64
  | 0x023 => s.pkgid.setWidth 64
  | _ => 0#64

/-- The CSRs that the band gives. -/
def isBandCsr (c : Nat) : Bool :=
  (0x007 ≤ c && c ≤ 0x00C) || c == 0x00E || c == 0x00F || (0x011 ≤ c && c ≤ 0x015)

/-- The value of a CSR. -/
def State.csrVal (s : State) (k : Nat) (c : Nat) : Word :=
  if isBandCsr c then
    match (s.slot k).band, s.bandOf k with
    | some b, some v => s.bandCsr k b v c
    | _, _ => 0#64
  else s.slotCsr k c

/-! ### Writing CSRs (R112, R113, R116) -/

/-- Write the RW bits of a CSR; RO and RSV bits keep what they hold. -/
def Slot.csrPut (t : Slot) (c : Nat) (new : Word) : Slot :=
  match c with
  | 0x000 => { t with fpmode := maskWrite fpmodeMask t.fpmode new }
  | 0x001 => { t with lanestat := maskWrite lanestatMask t.lanestat new }
  | 0x002 => { t with trapcause := maskWrite causeMask t.trapcause new }
  | 0x003 => { t with trappc := maskWrite pcMask t.trappc new }
  | 0x004 => { t with trapinfo := new }
  | 0x005 => { t with tvec := maskWrite pcMask t.tvec new }
  | _ => t

/-- The mode a write would leave is none of Table 2.6 (R113). -/
def badMode (c : Nat) (new : Word) : Bool := c == 0 && decide (6 ≤ new.toNat % 8)

def csrrEffect (d : Fin 32) (csr : BitVec 12) (k : Nat) (s : State) : Effect :=
  match s.ready k [] [codeX d] with
  | .error h => .error h
  | .ok _ =>
    let v := s.csrVal k csr.toNat
    .ok (fun u => u.modSlot k (fun c => c.setX d v))

/-- CSRW, CSRS and CSRC: `f` of the CSR's value and A. -/
def csrSetEffect (f : Word → Word → Word) (a : XSrc) (csr : BitVec 12) (k : Nat) (s : State) : Effect :=
  match s.ready k (xUse 0 a) [] with
  | .error h => .error h
  | .ok _ =>
    let new := f (s.csrVal k csr.toNat) ((s.slot k).xval k a)
    if badMode csr.toNat new then .error (.trap .resfield 33#64)
    else .ok (fun u => (u.takes k (xUse 0 a)).modSlot k (fun c => c.csrPut csr.toNat new))

def csrWrite (_ v : Word) : Word := v
def csrSet (old v : Word) : Word := old ||| v
def csrClear (old v : Word) : Word := old &&& ~~~v

/-- RETT: ILLEGAL outside a handler (R389). -/
def rettEffect (k : Nat) (s : State) : Effect :=
  let pc := (s.slot k).pc
  if (s.slot k).handler then .ok (fun u => u.modSlot k (fun c => c.returnTrap pc))
  else .error (.trap .illegal 52#64)

/-! ### Pair words (R76, R77) -/

/-- The effect of an instruction that a pair word may hold (Tables 4.8, 4.9); no decoded pair word holds another. -/
def halfEffect (i : Instr) : Nat → State → Effect :=
  match i with
  | .vadd g d a b rm sat un => lane2Effect 2 (laneArith .add) g d a b rm sat un
  | .vsub g d a b rm sat un => lane2Effect 2 (laneArith .sub) g d a b rm sat un
  | .vmul g d a b rm sat un => lane2Effect 4 (laneArith .mul) g d a b rm sat un
  | .vmin g d a b un => lane2Effect 2 (laneMinMax false) g d a b .rne false un
  | .vmax g d a b un => lane2Effect 2 (laneMinMax true) g d a b .rne false un
  | .vabs g d a sat => lane1Effect 2 (laneSign false) g d a .rne sat false
  | .vneg g d a sat => lane1Effect 2 (laneSign true) g d a .rne sat false
  | .vand g d a b => bitsEffect andOp g d a b
  | .vor g d a b => bitsEffect orOp g d a b
  | .vxor g d a b => bitsEffect xorOp g d a b
  | .vshl g d a b sat un => lane2Effect 2 (laneShift .shl) g d a b .rne sat un
  | .vshr g d a b => lane2Effect 2 (laneShift .shr) g d a b .rne false false
  | .vsar g d a b => lane2Effect 2 (laneShift .sar) g d a b .rne false false
  | .vrot g d a b => acrossEffect rotSource g d a b
  | .vbcast g d a b => acrossEffect bcastSource g d a b
  | .mstep g d a b kw slice => mstepEffect g d a b kw slice
  | .msteps g d a b kw slice => mstepsEffect g d a b kw slice
  | .accz g d => acczEffect g d
  | .accwr g d a => accwrEffect g d a
  | .accadd g d a b => accaddEffect g d a b
  | .add d a b => aluEffect addOp d a b
  | .sub d a b => aluEffect subOp d a b
  | .mul d a b => aluEffect mulOp d a b
  | .and d a b => aluEffect andOp d a b
  | .or d a b => aluEffect orOp d a b
  | .xor d a b => aluEffect xorOp d a b
  | .shl d a b => aluEffect shlOp d a b
  | .shr d a b => aluEffect shrOp d a b
  | .sar d a b => aluEffect sarOp d a b
  | .min d a b => aluEffect aluMin d a b
  | .max d a b => aluEffect aluMax d a b
  | .slt d a b => aluEffect sltOp d a b
  | .sltn d a b => aluEffect sltnOp d a b
  | .seq d a b => aluEffect seqOp d a b
  | .mov d a => unaryEffect id d a
  | .ld g d a b m => ldEffect false g d a b m
  | .ldv g d a b m => ldvEffect g d a b m
  | .ldb g d a b m => ldbEffect g d a b m
  | .lds d a b m => ldsEffect d a b m
  | .pref a b => prefEffect a b
  | _ => fun _ _ => .error (.trap .illegal 24#64)

/-- A halt that only makes the word wait for its registers. -/
def Halt.waits : Halt → Bool
  | .empty _ | .stall _ => true
  | _ => false

def Halt.isHold : Halt → Bool
  | .hold _ => true
  | _ => false

/-- Of two halves: the registers either waits for; a scoreboard wait; H0's trap, then H1's; a wait for translations; or both
effects (R77). -/
def joinHalves (e0 e1 : Effect) : Effect :=
  match e0, e1 with
  | .error (.empty c0), .error (.empty c1) => .error (.empty (c0 ++ c1))
  | .error h0, .error h1 =>
    if h0.waits then .error h0 else if h1.waits then .error h1
    else if h0.isHold then .error h1 else .error h0
  | .error h0, .ok _ => .error h0
  | .ok _, .error h1 => .error h1
  | .ok u0, .ok u1 => .ok (fun s => u1 (u0 s))

/-- The wait of a tensor half for its own sources: in a pair it comes before the half's mask check (R77, R183). -/
def tensorWait (us : List Use) (dst : Nat) (k : Nat) (s : State) : Option Halt :=
  match s.checkNorth k us, s.ready k us [dst] with
  | .ok _, .error h => if h.waits then some h else none
  | _, _ => none

/-- What a half waits for before any of its checks. -/
def halfWait (i : Instr) (k : Nat) (s : State) : Option Halt :=
  match i with
  | .mstep _ d a b _ _ => tensorWait (vUse 0 a ++ wUse 1 b ++ impliedUse (codeA d)) (codeA d) k s
  | .msteps _ d a b _ _ => tensorWait (rUses 0 2 a ++ wUse 1 b ++ impliedUse (codeA d)) (codeA d) k s
  | _ => none

/-- A half in its pair: its wait, or its effect. -/
def halfTurn (i : Instr) (k : Nat) (s : State) : Effect :=
  match halfWait i k s with
  | some h => .error h
  | none => halfEffect i k s

/-- Both halves read the state the word issues in; the word counts as a pair (event 0x03). -/
def pairEffect (h0 h1 : Instr) (k : Nat) (s : State) : Effect :=
  match joinHalves (halfTurn h0 k s) (halfTurn h1 k s) with
  | .error h => .error h
  | .ok u => .ok (fun t => (u t).evField (slotField k) 0x03 (slotQual k))

/-! ### Words that are no instruction (R78, R79) -/

/-- TRAPINFO of a decode trap (Table 3.9). -/
def decodeInfo (half : Bool) (field : BitVec 6) : Word := BitVec.ofNat 64 ((if half then 64 else 0) + field.toNat)

def undefinedEffect (cause : Cause) (half : Bool) (field : BitVec 6) (_ : Nat) (_ : State) : Effect :=
  .error (.trap cause (decodeInfo half field))

/-! ### Meanings -/

def execCsrr (d : Fin 32) (csr : BitVec 12) (s : State) := s.issue 8 (csrrEffect d csr)
def execCsrw (a : XSrc) (csr : BitVec 12) (s : State) := s.issue 8 (csrSetEffect csrWrite a csr)
def execCsrs (a : XSrc) (csr : BitVec 12) (s : State) := s.issue 8 (csrSetEffect csrSet a csr)
def execCsrc (a : XSrc) (csr : BitVec 12) (s : State) := s.issue 8 (csrSetEffect csrClear a csr)
def execRett (s : State) := s.issue 8 rettEffect
def execPairWord (h0 h1 : Instr) (s : State) := s.issue 8 (pairEffect h0 h1)
def execUndefinedEncoding (cause : Cause) (half : Bool) (field : BitVec 6) (s : State) :=
  s.issue 8 (undefinedEffect cause half field)

end Sys2Proof.Machine
end

