-- ==== Sys2Proof/Machine/Complete.lean ====
section
/-!
DEFINITION. Completions of issued work: loads, stores, atomics, reductions and weight loads at their targets (spec/10, spec/08
R191, R192), deferred faults (spec/16 R385), walks and fault buffers (spec/09 R220, R221), ports (spec/01 R15), WAITC
(spec/06 R137), and the end of a kill (spec/16 R391).
-/
namespace Sys2Proof.Machine

/-! ### Accesses that may go on -/

/-- An access whose grant phase finds no fault, and whose requests `rs` may be performed. -/
def State.mayPerform (s : State) (p : Pend) (rs : List Req) : Bool :=
  s.live && s.performable p rs && (s.pendBad p).isNone && !s.olderUrgent p

/-- An access's requests `rs` come to their banks: those that come behind older ones there wait (R203), and what they perform puts
the marks on the accesses of its slot that it is ordered behind in a narrow scope. -/
def State.atBanks (s : State) (p : Pend) (rs : List Req) (go : State → State) : State :=
  if s.bankOlder p rs then s.countDelayed p rs else go s

/-- A gather read served under the urgent mark is counted at its quadrant (event 0x29). -/
def State.countUrgent (s : State) (p : Pend) (rs : List Req) : State :=
  if !p.urgent then s
  else rs.foldl (fun s r => if r.loc < 2 ^ 40 then s.evQuad (hbmQuad r.loc) 0x29 1 else s) s

/-- Read every request of an access: each request's bytes. -/
def State.readReqs (s : State) (p : Pend) (dram : Bool) : List (Req × List Byte) × State :=
  p.reqs.foldl (fun acc r =>
    let q := acc.2.targetRead r.loc r.len r.key r.mig dram
    (acc.1 ++ [(r, q.1)], q.2.leaveBackoff (.req p.id r.k))) ([], s.countUrgent p p.reqs)

/-- Perform a read: its requests back off, or all are read and `f` delivers them. -/
def State.performRead (s : State) (p : Pend) (dram : Bool) (f : List (Req × List Byte) → State → State) : State :=
  s.atBanks p p.reqs (fun s =>
    let stalled := s.stalledReqs p p.reqs dram
    if stalled ≠ [] then s.backOffAll p stalled
    else
      let r := (s.markEarlier p).readReqs p dram
      f r.1 (r.2.dropPend p.id))

/-! ### Delivering loads (R239, R242, R246, R259) -/

/-- The bytes that serve a lane. -/
def laneData (rs : List (Req × List Byte)) (l : Nat) : List Byte :=
  ((rs.find? (fun r => r.1.lanes.contains l)).map Prod.snd).getD []

/-- A lane's loaded value: zero above the width, the tag, and a block scale where the load places one (R35 under ACC48; log
entry 86). -/
def loadedLane (rs : List (Req × List Byte)) (fmt : Fmt) (scale : List (Nat × BitVec 8)) (old : BitVec 8) (l : Nat) : LaneReg :=
  ⟨laneBitsOf fmt (BitVec.ofNat 64 (ofBytes (laneData rs l))), fmt, (Tab.find scale l).getD old⟩

/-- A lane register takes a long-latency result in the lanes of a mask: full, nothing pending. -/
def Slot.deliverV (c : Slot) (d : Nat) (m : Mask) (f : Nat → LaneReg) : Slot :=
  let c := ((lanesOf m).foldl (fun c l => c.setV d l (f l)) c).produced (codeV d)
  if m = BitVec.allOnes 64 then c.clearErr (codeV d) else c

/-- The reserved entry of an access has its value (R184). -/
def Slot.fillReserved (c : Slot) (id : Nat) (v : PortVal) : Slot :=
  { c with reserved := c.reserved.map (fun (r : Reserved) => if r.await = some id then ⟨none, 0, v⟩ else r) }

/-- A port entry reserved for an access that performs nothing is given back. -/
def Slot.dropReserved (c : Slot) (id : Nat) : Slot :=
  { c with reserved := c.reserved.filter (fun (r : Reserved) => r.await ≠ some id) }

/-- A v result reaches its register, or its port entry, where 64 stands for `s`. -/
def State.deliverLanes (s : State) (p : Pend) (d : Nat) (f : BitVec 8 → Nat → LaneReg) : State :=
  if !s.takesResults p.band then s
  else if d < 64 then s.modSlot p.slot (fun c => c.deliverV d p.mask (fun l => f (c.vr d l).scale l))
  else
    let v : PortVal := ⟨false, .v (Tab.ofList LaneReg.zero ((lanesOf p.mask).map (fun l => (l, f 0x7F#8 l)))), false⟩
    s.modSlot p.slot (fun c => c.fillReserved p.id v)

/-- The value of a scalar load. -/
def loadedX (sx : Bool) (w : Width) (bs : List Byte) : Word :=
  if sx then BitVec.ofInt 64 (signedOf (8 * w.bytes) (ofBytes bs)) else BitVec.ofNat 64 (ofBytes bs)

/-- The bytes of the only request of a scalar access. -/
def onlyBytes (rs : List (Req × List Byte)) : List Byte := ((rs.head?).map Prod.snd).getD []

def State.deliverScalar (s : State) (p : Pend) (d : Nat) (v : Word) : State :=
  if s.takesResults p.band then s.modSlot p.slot (fun c => c.deliverX d v) else s

def execLoadComplete (id : Nat) (s : State) : Host.Outcome State Fault Refusal :=
  match s.findPend id with
  | none => .next s
  | some p =>
    if !s.mayPerform p p.reqs then .next s
    else match p.op with
      | .loadV d fmt scale dram =>
        .next (s.performRead p dram (fun rs t => t.deliverLanes p d (fun old l => loadedLane rs fmt scale old l)))
      | .loadX d sx w => .next (s.performRead p false (fun rs t => t.deliverScalar p d (loadedX sx w (onlyBytes rs))))
      | _ => .next s

/-- A descriptor load's register: full, nothing pending. -/
def Slot.deliverD (c : Slot) (d : Nat) (v : Desc) : Slot := (c.setD d v).setPend (codeD d) false

def execLddComplete (id : Nat) (s : State) : Host.Outcome State Fault Refusal :=
  match s.findPend id with
  | none => .next s
  | some p =>
    if !s.mayPerform p p.reqs then .next s
    else match p.op with
      | .ldd d => .next (s.performRead p false (fun rs t =>
          if t.takesResults p.band then t.modSlot p.slot (fun c => c.deliverD d (BitVec.ofNat 512 (ofBytes (onlyBytes rs)))) else t))
      | _ => .next s

/-! ### XBLD (R162) -/

/-- Pattern loads of a field complete in the order they issued. -/
def State.xbldFirst (s : State) (p : Pend) : Bool :=
  s.pend.all (fun (q : Pend) => !(decide (q.id < p.id) && decide (q.op = p.op)))

def execXbldComplete (id : Nat) (s : State) : Host.Outcome State Fault Refusal :=
  match s.findPend id with
  | none => .next s
  | some p =>
    match p.op, p.reqs with
    | .xbld f k, r :: _ =>
      when (s.live && s.xbldFirst p) s ((s.setPattern f k (BitVec.ofNat 512 (ofBytes r.data))).dropPend id)
    | _, _ => .next s

/-! ### WLD (R191, R192) -/

/-- Bytes of a lane's data block, and of its metadata block. -/
def wldBlock (rs : List (Req × List Byte)) (isMeta : Bool) (l : Nat) : List Byte :=
  laneData (rs.filter (fun r => decide (64 ≤ r.1.k) == isMeta)) l

/-- The groups of metadata codes that a tag uses (R176). -/
def metaGroups (t : Fmt) : Nat :=
  match tensorWidth t t true with
  | some K => K / 4
  | none => 0

/-- A metadata word holds a reserved code in a group its tag uses. -/
def metaBad (t : Fmt) (m : BitVec 128) : Bool :=
  (List.range (metaGroups t)).any (fun g => (List.range 8).any (fun n => !metaOk (metaCode m g n)))

/-- The register a WLD leaves in a lane. -/
def loadedW (rs : List (Req × List Byte)) (fmt : Option Fmt) (kind : WKind) (old : WReg) (l : Nat) : WReg :=
  { data := BitVec.ofNat 512 (ofBytes (wldBlock rs false l))
    mdata := if kind = .sp then BitVec.ofNat 128 (ofBytes (wldBlock rs true l)) else 0#128
    sparse := decide (kind = .sp)
    tag := fmt.getD old.tag
    scales := old.scales }

/-- The lanes whose metadata hold a reserved code. -/
def wldBadLanes (c : Slot) (d : Nat) (fmt : Option Fmt) (m : Mask) (rs : List (Req × List Byte)) : Mask :=
  maskOf ((lanesOf m).filter (fun l =>
    metaBad (fmt.getD (c.wr d l).tag) (BitVec.ofNat 128 (ofBytes (wldBlock rs true l)))))

def Slot.deliverW (c : Slot) (d : Nat) (m : Mask) (f : Nat → WReg) : Slot :=
  let c := ((lanesOf m).foldl (fun c l => c.setW d l (f l)) c).produced (codeW d)
  if m = BitVec.allOnes 64 then c.clearErr (codeW d) else c

/-- A slot held by a sparse WLD goes on. -/
def Slot.endSparse (c : Slot) : Slot := if c.wait = .wldSparse then c.goOn else c

/-- The sparse WLD that has held its slot is counted with its end. -/
def State.countSparse (s : State) (k : Nat) : State := if (s.slot k).wait = .wldSparse then s.countWord k else s

/-- The end of a WLD whose blocks have been read. -/
def State.wldEnd (s : State) (p : Pend) (d : Nat) (fmt : Option Fmt) (kind : WKind) (m : Mask) (rs : List (Req × List Byte)) :
    State :=
  let c := s.slot p.slot
  let bad := if kind = .sp then wldBadLanes c d fmt m rs else 0#64
  if bad ≠ 0#64 then
    let s := if s.takesResults p.band then s.modSlot p.slot (fun c => c.produced (codeW d)) else s
    s.takeTrap p.slot .sparsemeta bad p.pc
  else if s.takesResults p.band then
    (s.countSparse p.slot).modSlot p.slot (fun c => (c.deliverW d m (fun l => loadedW rs fmt kind (c.wr d l) l)).endSparse)
  else s

def execWldComplete (id : Nat) (s : State) : Host.Outcome State Fault Refusal :=
  match s.findPend id with
  | none => .next s
  | some p =>
    if !s.mayPerform p p.reqs then .next s
    else match p.op with
      | .wld d fmt kind m => .next (s.performRead p false (fun rs t => t.wldEnd p d fmt kind m rs))
      | _ => .next s

/-! ### Stores (R243) -/

/-- An access without one of its requests; it is performed when none is left. -/
def State.dropReq (s : State) (p : Pend) (k : Nat) : State :=
  let rs := p.reqs.filter (fun r => r.k ≠ k)
  if rs = [] then s.dropPend p.id
  else { s with pend := s.pend.map (fun (q : Pend) => if q.id = p.id then { q with reqs := rs, granted := true } else q) }

/-- A lower lane of the same store writes one of the bytes first. -/
def lanesBefore (p : Pend) (r : Req) : Bool := p.reqs.any (fun q => decide (q.k < r.k) && q.meets r)

/-- A request that must back off joins its bank's order; else it is performed by `f`. -/
def State.orBackOff (s : State) (p : Pend) (r : Req) (f : State → State) : State :=
  let w := Waiter.req p.id r.k
  s.atBanks p [r] (fun s =>
    if s.backsOff w p.urgent r.loc r.key false false r.mig then s.joinBackoff w r.loc
    else f ((s.markEarlier p).leaveBackoff w))

def execStorePerform (id k : Nat) (s : State) : Host.Outcome State Fault Refusal :=
  match s.findPend id with
  | none => .next s
  | some p =>
    match p.op, p.reqs.find? (fun r => r.k = k) with
    | .store, some r =>
      when (s.mayPerform p [r] && !lanesBefore p r) s
        (s.orBackOff p r (fun t => (t.targetWrite r.loc r.key r.mig r.data).dropReq p k))
    | _, _ => .next s

/-! ### Atomics (R250) -/

/-- A read-modify-write of a request's bytes: the value there, and the state after `new` of it is written; in a queue window
too (log entry 84). -/
def State.rmw (s : State) (r : Req) (new : Nat → Nat) : Nat × State :=
  let s := match spaceOf r.loc with
    | .hbm => (if r.mig then s.migServe r.loc r.key else s).touchLine (r.loc / 256) r.key true false
    | .side f => s.evField f 0x0A 0
    | _ => s
  let m := s.readNat r.loc r.len
  (m, (s.writeMem r.loc (toBytes r.len (new m))).clearPoison r.loc r.len)

/-- The tag of an atomic's old values (R249). -/
def atomTag (f wide : Bool) : Fmt := if f then .fp32 else if wide then .i64 else .i32

/-- The operation of an atomic access. -/
def pendAtom (op : PendOp) : Option (AtomOp × Bool × Bool × Bool) :=
  match op with
  | .atomV _ o f un wide _ => some (o, f, un, wide)
  | .atomX _ o f un wide => some (o, f, un, wide)
  | .red o f un wide _ => some (o, f, un, wide)
  | _ => none

/-- An atomic that has held its slot through its grant phase lets it go on (R240, R251). -/
def State.atomRelease (s : State) (p : Pend) : State :=
  if p.granted || !decide ((s.slot p.slot).wait = .atomic) then s
  else (s.countWord p.slot).modSlot p.slot Slot.goOn

/-- The old values of an atomic all of whose requests are performed. -/
def State.atomDeliver (t : State) (p : Pend) (old : List (Nat × Word)) : State :=
  let s := t.atomRelease p
  match p.op with
  | .atomV d _ f _ wide _ => s.deliverLanes p d (fun sc l => ⟨(Tab.find old l).getD 0#64, atomTag f wide, sc⟩)
  | .atomX d _ _ _ _ => s.deliverScalar p d ((old.head?.map Prod.snd).getD 0#64)
  | _ => s

/-- Perform one request of an atomic, and deliver the old values with the last. -/
def State.atomPerform (s : State) (p : Pend) (r : Req) (o : AtomOp) (f un wide : Bool) : State :=
  let run (m : Nat) := atomRequest o f un wide m (r.ops.map BitVec.toNat) (r.news.map BitVec.toNat)
  let q := (s.countUrgent p [r]).rmw r (fun m => (run m).2)
  let old := p.old ++ r.lanes.zip ((run q.1).1.map (BitVec.ofNat 64))
  let s := { q.2 with pend := q.2.pend.map (fun (x : Pend) => if x.id = p.id then { x with old := old } else x) }
  if p.reqs.all (fun x => x.k = r.k) then (s.dropPend p.id).atomDeliver p old else s.dropReq { p with old := old } r.k

/-- An atomic that has held its slot performs all its requests once the last grant is there (log entry 77). -/
def State.atomAll (s : State) (p : Pend) (o : AtomOp) (f un wide : Bool) : State :=
  s.atBanks p p.reqs (fun s =>
    let stalled := s.stalledReqs p p.reqs false
    if stalled ≠ [] then s.backOffAll p stalled
    else p.reqs.foldl (fun t r => match t.findPend p.id with
      | some q => (t.leaveBackoff (.req p.id r.k)).atomPerform { q with granted := false } r o f un wide
      | none => t) (s.markEarlier p))

def execAtomicComplete (id k : Nat) (s : State) : Host.Outcome State Fault Refusal :=
  match s.findPend id with
  | none => .next s
  | some p =>
    match pendAtom p.op, p.reqs.find? (fun r => r.k = k) with
    | some (o, f, un, wide), some r =>
      if isRed p.op || !s.live || (s.pendBad p).isSome || s.olderUrgent p then .next s
      else if p.granted then when (s.performable p [r]) s (s.orBackOff p r (fun t => t.atomPerform p r o f un wide))
      else when (s.performable p p.reqs) s (s.atomAll p o f un wide)
    | _, _ => .next s

/-! ### RED (R251) -/

/-- The combined operand of a request (Table 13.9). -/
def combined (op : AtomOp) (f un wide : Bool) (ops : List Word) : Word :=
  match ops with
  | [] => 0#64
  | [w] => w
  | w :: t => BitVec.ofNat 64 (atomFold op f un wide w.toNat (t.map BitVec.toNat))

/-- A request of a RED is logged: the record, FAULTLOG, the slot's asyncfault bit (R251, R339). -/
def State.logRed (s : State) (p : Pend) (r : Req) (c : Cause) : State :=
  match p.op, s.band? p.band with
  | .red o f un wide bits, some v =>
    let rec_ := logBytes r.va bits.toNat c.code.toNat r.len (r.lanes.headD 0) (slotRow p.slot) (slotAB p.slot)
      (combined o f un wide r.ops) p.band
    ((s.logFault v.region rec_).modSlot p.slot (fun t => { t with asyncfault := true })).evField (slotField p.slot) 0x16 0
  | _, _ => s

/-- The fault a request of a RED meets; it is found once the slot's earlier accesses to its word are performed (R277). -/
def State.redFault (s : State) (p : Pend) (r : Req) : Option Cause :=
  match r.bad with
  | some c => some c
  | none => s.grantFault r.loc r.len r.key (slotMaster p.slot) true true r.mig

def State.redPerform (s : State) (p : Pend) (r : Req) (o : AtomOp) (f un wide : Bool) : State :=
  let q := s.rmw r (fun m => atomFold o f un wide m (r.ops.map BitVec.toNat))
  q.2.dropReq p r.k

def execRedRequestPerform (id k : Nat) (s : State) : Host.Outcome State Fault Refusal :=
  match s.findPend id with
  | none => .next s
  | some p =>
    match p.op, p.reqs.find? (fun r => r.k = k) with
    | .red o f un wide _, some r =>
      if !s.live || p.parked || !s.performable p [r] then .next s
      else match s.redFault p r with
        | some c => .next ((s.dropReq p k).logRed p r c)
        | none => .next (s.orBackOff p r (fun t => t.redPerform p r o f un wide))
    | _, _ => .next s

/-! ### Deferred faults (R385) -/

/-- The operation byte of a deferred fault that is logged. -/
def deferOp (op : PendOp) : Nat := if op.writes then 0xFE else 0xFF

/-- A free 64-bit value: no rule states it (log entry 30). -/
def State.freeWord (s : State) : Word × State :=
  (BitVec.ofNat 64 (ofBytes ((List.range 8).map (fun i => Config.freeByte s.draws i))), { s with draws := s.draws + 1 })

/-- A further deferred fault goes to the region's log; the log's operand is stated for a RED only. -/
def State.logDeferred (s : State) (p : Pend) (c : Cause) (r : Req) : State :=
  match s.band? p.band with
  | none => s
  | some v =>
    let w := s.freeWord
    let rec_ := logBytes r.va (deferOp p.op) c.code.toNat r.len (r.lanes.headD 0) (slotRow p.slot) (slotAB p.slot) w.1 p.band
    (w.2.logFault v.region rec_).modSlot p.slot (fun t => { t with asyncfault := true })

/-- What a deferred fault does once its access is gone. -/
def State.deferFault (s : State) (p : Pend) (c : Cause) (r : Req) : State :=
  match s.band? p.band with
  | none => s
  | some v =>
    let t := s.slot p.slot
    if v.status = .killing then s.foldKill p.band
    else if t.exited then s.trapAs p.slot .kill c r.va t.exitPc
    else if t.deferred.isSome then s.logDeferred p c r
    else s.modSlot p.slot (fun t => { t with deferred := some (c, r.va) })

/-- A WLD that holds its slot until it is done (R192). -/
def isSparse : PendOp → Bool
  | .wld _ _ kind _ => decide (kind = .sp)
  | _ => false

/-- The destination of an access that performs nothing is full with its prior contents; a sparse WLD, whose word then issues
without a trap of its own, is counted (R19). -/
def State.abandon (s : State) (p : Pend) : State :=
  let s := p.reqs.foldl (fun s r => s.leaveBackoff (.req p.id r.k)) (s.dropPend p.id)
  if !s.takesResults p.band then s
  else
    let sp := isSparse p.op
    (if sp then s.countSparse p.slot else s).modSlot p.slot (fun c =>
      let c := (match pendDst p.op with
        | some code => c.produced code
        | none => c).dropReserved p.id
      if sp then c.endSparse else c)

/-- The lines of a migrating page that an access meets as poisoned have been fetched (R224, R352). -/
def State.fetchPoisoned (s : State) (p : Pend) (c : Cause) : State :=
  if c = .poison then p.reqs.foldl (fun s r => if r.mig then s.migServe r.loc r.key else s) s else s

/-- An atomic that has held its slot traps at its instruction, which has done nothing (R232, R240, R251). -/
def State.atomFault (s : State) (p : Pend) (c : Cause) (r : Req) : State :=
  let s := p.reqs.foldl (fun s r => s.leaveBackoff (.req p.id r.k)) (s.dropPend p.id)
  (s.modSlot p.slot (fun t => t.dropReserved p.id)).takeTrap p.slot c r.va (s.slot p.slot).pc

/-- What a fault found in the grant phase does: an atomic traps, a load, store or WLD takes it as a deferred fault. -/
def State.grantFailed (s : State) (p : Pend) (c : Cause) (r : Req) : State :=
  let s := s.fetchPoisoned p c
  if (pendAtom p.op).isSome then s.atomFault p c r else (s.abandon p).deferFault p c r

def execDeferredFaultFound (id : Nat) (s : State) : Host.Outcome State Fault Refusal :=
  match s.findPend id with
  | none => .next s
  | some p =>
    match s.pendBad p with
    | some (c, r) => when (s.live && s.performable p p.reqs && !isRed p.op) s (s.grantFailed p c r)
    | none => .next s

/-! ### Walks and fault buffers (R220, R221) -/

/-- Walk the pages of a waiting word in order: the first fault, or none. -/
def walkPages (unit asid : Nat) (acc : AccKind) : List Word → State → Option (Word × Nat) × State
  | [], s => (none, s)
  | va :: t, s =>
    let r := s.walk asid va
    match r.1 with
    | .fault why => (some (va, why), r.2)
    | .leaf e lv =>
      let s := r.2.tlbFill unit asid (vaPage va) ⟨e, lv⟩
      match leafRefuses e acc with
      | some why => (some (va, why), s)
      | none => walkPages unit asid acc t s

/-- A slot parks on a translation fault; its replay is selected again (R19). -/
def State.parkSlot (s : State) (k asid : Nat) (va : Word) (acc : AccKind) (why : Nat) : State :=
  (s.modSlot k (fun c => { c with wait := .parked va acc, selected := false, heldDst := none })).joinFault ⟨slotDie k, .slot k, va, asid, acc, why, slotField k⟩

/-- The operand code of the register that a scalar load or atomic fills, as a word of its own or as half H1 of a pair (R76). -/
def loadDst : Instr → Option Nat
  | .lds d _ _ _ | .atoms d _ _ _ _ | .pairWord _ (.lds d _ _ _) => if d.val = 0 then none else some (codeX d)
  | .ldd d _ _ _ => some (codeD d)
  | _ => none

/-- The full register that the slot's word is to fill: it is saved as empty while the word is parked (R120). -/
def State.dstHeldBy (s : State) (k : Nat) : Option Nat :=
  ((s.fetch k).bind loadDst).bind (fun d => if (s.slot k).isEmpty d then none else some d)

def execPageWalkComplete (slot : Nat) (s : State) : Host.Outcome State Fault Refusal :=
  match s.bandOf slot, (s.slot slot).wait with
  | some v, .walk vas acc =>
    if !s.live then .next s
    else
      let r := walkPages (slotField slot) v.asid acc vas s
      match r.1 with
      | some (va, why) =>
        .next ((r.2.parkSlot slot v.asid va acc why).modSlot slot (fun c => { c with heldDst := s.dstHeldBy slot }))
      | none => .next (r.2.modSlot slot (fun c => { c with wait := .none, selected := true }))
  | _, _ => .next s

/-- An agent can take its place in a die's buffer. -/
def State.fbRoom (s : State) (w : FbWaiter) : Bool :=
  decide (s.fbPend w.die < 256) || s.fb.any (fun p => p.1 / 256 == w.die && (match p.2 with
    | some e => decide (e.asid = w.asid) && decide (vaPage e.va = vaPage w.va) && decide (e.kind = w.kind)
    | none => false))

def execFaultBufferEntryTaken (die : Nat) (s : State) : Host.Outcome State Fault Refusal :=
  match s.fbWait.find? (fun (w : FbWaiter) => w.die == die) with
  | some w => when (s.live && s.fbRoom w) s (State.placeFaultIn { s with fbWait := s.fbWait.erase w } true w)
  | none => .next s

/-! ### Ports (R15, R184) -/

/-- The first value still in flight arrives. -/
def arriveFirst : List PortEntry → List PortEntry
  | [] => []
  | e :: t => if e.arrived then e :: arriveFirst t else ⟨e.val, true⟩ :: t

def execPortValueArrive (slot : Nat) (s : State) : Host.Outcome State Fault Refusal :=
  when s.live s (s.modSlot slot (fun c => { c with south := arriveFirst c.south }))

/-- The result whose latency ends next is written to the port. -/
def execPortResultWrite (slot : Nat) (s : State) : Host.Outcome State Fault Refusal :=
  match nextResult (s.slot slot).reserved with
  | some r => when s.live s (s.writeResult slot r)
  | none => .next s

/-! ### WAITC (R137) -/

/-- One evaluation of a waiting WAITC; `expired` when its deadline has passed. -/
def State.waitcLoop (s : State) (k d : Nat) (v : Desc) (expired : Bool) : State :=
  let met := s.condMet k v
  if condDone v met then (s.countWord k).modSlot k (fun c => c.goOnWith d met)
  else match s.condPoison v with
    | some i => (s.ctrReport k i (s.slot k).pc).takeTrap k .counterpoison (BitVec.ofNat 64 i) (s.slot k).pc
    | none =>
      if expired then
        ((s.countWord k).modSlot k (fun c => c.goOnWith d (met ||| (1#64 <<< 63)))).evField (slotField k) 0x15 0
      else s

/-- A waiting WAITC of a band that runs. -/
def State.waitcEvent (s : State) (k : Nat) (timed : Bool) : State :=
  match s.bandOf k, (s.slot k).wait with
  | some v, .waitc d cond deadline =>
    let past := match deadline with
      | some t => decide (t ≤ s.time.toNat)
      | none => false
    if s.live && decide (v.status = .running) then s.waitcLoop k d cond (timed && past) else s
  | _, _ => s

def execWaitcMet (slot : Nat) (s : State) : Host.Outcome State Fault Refusal := .next (s.waitcEvent slot false)
def execWaitcTimeout (slot : Nat) (s : State) : Host.Outcome State Fault Refusal := .next (s.waitcEvent slot true)

/-! ### The end of a band (R317, R391) -/

/-- Its rows, allotments, chunks, entries and records return; the chunks become plain (R205). A collective of a band that is
saved runs on, and keeps its place in a fault buffer (Table 16.5). -/
def State.endBand (s : State) (b : Nat) (v : Band) : State :=
  let gone (a : Agent) : Bool := agentOfBand s b a && decide (a.code ≠ 4)
  let s := (s.leaveFault gone).leaveLines gone
  let s := s.dropRecords b v
  let s := s.setKinds v.fields v.chunk0 v.chunks 0#2
  let s := { s with slots := v.slotKeys.foldl (fun t k => Tab.set Slot.empty t k Slot.empty) s.slots }
  s.setBand b none

/-- Nothing a band has issued is outstanding. -/
def State.idle (s : State) (b : Nat) : Bool :=
  s.pend.all (fun (p : Pend) => p.band ≠ b) && s.cmds.all (fun (c : CopyCmd) => c.band ≠ b)
  && s.msgs.all (fun (m : Msg) => m.band ≠ b) && s.heldEnq.all (fun (m : Msg) => m.band ≠ b)
  && s.heldRec.all (fun (h : HeldRec) => (h.jdec.map Msg.band) ≠ some b)
  && s.colls.all (fun (c : CollOp) => c.band ≠ b)

/-- The killed band is gone, then its record is posted. -/
def State.endKill (s : State) (b : Nat) (v : Band) : State :=
  let s := s.endBand b v
  match v.kill with
  | some i => if i.post then s.postFault v.region i.cause.code.toNat 0 i.row i.slot i.more v.node b i.pc i.info else s
  | none => s

def execKillComplete (band : Nat) (s : State) : Host.Outcome State Fault Refusal :=
  match s.band? band with
  | some v => when (s.live && decide (v.status = .killing) && s.idle band) s (s.endKill band v)
  | none => .next s

end Sys2Proof.Machine
end

