-- ==== Sys2Proof/Machine/Launch.lean ====
section
/-!
DEFINITION. Placement and the lives of bands (spec/12 R308-R317): where a launch or a restore fits, the order of placement, the
start state of rows (spec/05 R117), retirement; pre-emption requests and their withdrawal (spec/16 R394, R396).
-/
namespace Sys2Proof.Machine

/-! ### Fitting (R309) -/

/-- What a band needs of a place. -/
structure Shape where
  height : Nat
  vregs  : Nat
  wregs  : Nat
  aregs  : Nat
  chunks : Nat
  deriving DecidableEq, Repr

/-- A place: the global row of band row 0, the slot, the first chunk. -/
structure Spot where
  row0  : Nat
  ab    : Nat
  chunk : Nat
  deriving DecidableEq, Repr

/-- Two runs of rows on the chain share a row. -/
def runsMeet (r0 h q0 g : Nat) : Bool := decide ((q0 + 4096 - r0) % 4096 < h) || decide ((r0 + 4096 - q0) % 4096 < g)

/-- The fields of a run of rows. -/
def runFields (row0 h : Nat) : List Nat := (List.range (if h ≤ 64 then 1 else h / 64)).map (fun i => (row0 / 64 + i) % 64)

/-- A band stands in the way on the rows of a place: it holds the slot, or too many registers beside it. -/
def Band.inRows (v : Band) (sh : Shape) (row0 ab : Nat) : Bool :=
  runsMeet row0 sh.height v.row0 v.height
    && (v.slotAB == ab || decide (64 < sh.vregs + v.vregs) || decide (4 < sh.wregs + v.wregs) || decide (4 < sh.aregs + v.aregs))

/-- A band holds one of the chunks of a run in some of the fields. -/
def Band.inChunks (v : Band) (fields : List Nat) (c n : Nat) : Bool :=
  v.fields.any fields.contains && decide (v.chunk0 < c + n) && decide (c < v.chunk0 + v.chunks) && decide (0 < n)

/-- The lowest free run of chunks in every field; the bands `gone` counts as removed. -/
def State.chunkRun (s : State) (gone : Nat → Bool) (fields : List Nat) (n : Nat) : Option Nat :=
  (List.range (129 - n)).find? (fun c => s.bandList.all (fun p => gone p.1 || !p.2.inChunks fields c n))

/-- A shape fits a place, beside the fields used in this step. -/
def State.fitsAt (s : State) (gone : Nat → Bool) (used : List Nat) (sh : Shape) (row0 ab : Nat) : Option Spot :=
  let fields := runFields row0 sh.height
  if fields.any used.contains || s.bandList.any (fun p => !gone p.1 && p.2.inRows sh row0 ab) then none
  else (s.chunkRun gone fields sh.chunks).map (fun c => ⟨row0, ab, c⟩)

/-- The places of R310 in order: (row of band row 0, slot). -/
def placeOrder (home height : Nat) : List (Nat × Nat) :=
  (List.range 8).flatMap (fun i => (List.range 8).flatMap (fun j =>
    let f := (home + i) % 8 * 8 + j
    [0, 1].flatMap (fun ab =>
      (List.range (if height ≤ 64 then 65 - height else 1)).map (fun r => (64 * f + r, ab)))))

/-- The first place where a shape fits. -/
def State.findSpot (s : State) (gone : Nat → Bool) (used : List Nat) (sh : Shape) (home : Nat) : Option Spot :=
  (placeOrder home sh.height).findSome? (fun p => s.fitsAt gone used sh p.1 p.2)

/-- A node's shape (R308). -/
def nodeShape (e : BitVec 512) : Shape := ⟨nodeHeight e, nodeVregs e, nodeWregs e, nodeAregs e, nodeChunks e⟩

/-- A band's shape. -/
def Band.shape (v : Band) : Shape := ⟨v.height, v.vregs, v.wregs, v.aregs, v.chunks⟩

/-! ### The order of placement (R311, R397) -/

/-- What waits for placement. -/
inductive Cand where
  | launch (n : Nat) (since : Word) (step : Nat)
  | restore (r : Restore)
  deriving DecidableEq, Repr

/-- Ticks a candidate has waited. -/
def State.waited (s : State) (c : Cand) : Nat :=
  match c with
  | .launch _ t _ => (s.time - t).toNat
  | .restore r => (s.time - r.saved).toNat

/-- The step in which a candidate's request was raised, or its save completed. -/
def Cand.step : Cand → Nat
  | .launch _ _ i => i
  | .restore r => r.step

/-- The effective priority of a candidate. -/
def State.effPrio (s : State) (c : Cand) : Nat :=
  let p := match c with
    | .launch n _ _ => s.regPriority (nodeRegion (s.node n))
    | .restore r => s.regPriority r.band.region
  min 7 (p + s.waited c / 1000000)

/-- An image of twilight, placed ahead of every launch (R408). -/
def Cand.first (c : Cand) : Bool :=
  match c with
  | .restore r => r.how == 2
  | .launch _ _ _ => false

/-- `a` comes before `b`: by effective priority, then the earlier request, then a restore before a launch, then the lower node
index, and of two bands of one node the one launched first (R311, R397). -/
def State.before (s : State) (a b : Cand) : Bool :=
  if a.first != b.first then a.first
  else if s.effPrio a ≠ s.effPrio b then decide (s.effPrio b < s.effPrio a)
  else if s.waited a ≠ s.waited b then decide (s.waited b < s.waited a)
  else if a.step ≠ b.step then decide (a.step < b.step)
  else match a, b with
    | .restore r, .restore q => decide (r.band.node < q.band.node) || (r.band.node == q.band.node && decide (r.seq < q.seq))
    | .restore _, .launch _ _ _ => true
    | .launch _ _ _, .restore _ => false
    | .launch n _ _, .launch m _ _ => decide (n < m)

def insertCand (s : State) (c : Cand) : List Cand → List Cand
  | [] => [c]
  | d :: t => if s.before c d then c :: d :: t else d :: insertCand s c t

/-- A saved band that no placed band restores yet. -/
def State.awaiting (s : State) (r : Restore) : Bool := (s.band? r.seq).isNone

/-- Everything that waits for placement, in order. -/
def State.cands (s : State) : List Cand :=
  let ls := s.nodeReq.filterMap (fun p => p.2.map (fun r => Cand.launch p.1 r.1 r.2))
  let rs := (s.restores.filter s.awaiting).map Cand.restore
  (ls ++ rs).foldl (fun t c => insertCand s c t) []

/-- Whether a candidate can be placed now: at a place, held by its budgets alone, or nowhere. -/
inductive Fit where
  | at_ (p : Spot)
  | budget
  | nowhere
  deriving DecidableEq, Repr

/-- Budgets on a region's path cover a shape (R309). -/
def State.budgetsFit (s : State) (region : Nat) (sh : Shape) : Bool :=
  s.rowsFit region sh.height && s.chunksFit region (sh.chunks * (runFields 0 sh.height).length)

/-- A launch fits by R309 and R310, and one that its budgets cannot cover is held by them whether or not it has a place (R28); a
restore fits only at its saved place (R397; log entry 27). -/
def State.fitCand (s : State) (used : List Nat) (c : Cand) : Fit :=
  match c with
  | .launch n _ _ =>
    let e := s.node n
    if !s.budgetsFit (nodeRegion e) (nodeShape e) then .budget
    else match s.findSpot (fun _ => false) used (nodeShape e) (nodeHome e) with
      | none => .nowhere
      | some p => .at_ p
  | .restore r =>
    let v := r.band
    let fields := v.fields
    if fields.any used.contains || s.bandList.any (fun p => p.2.inRows v.shape v.row0 v.slotAB
        || p.2.inChunks fields v.chunk0 v.chunks) then .nowhere
    else .at_ ⟨v.row0, v.slotAB, v.chunk0⟩

/-! ### Requests and their withdrawal (R394, R396) -/

/-- A stopped row goes on behind its YIELD. -/
def Slot.endYield (c : Slot) : Slot :=
  match c.wait with
  | .yield _ => { c with wait := .none }
  | _ => c

/-- A band's request is withdrawn: YIELDDUE clears and its rows go on. -/
def State.withdraw (s : State) (b : Nat) : State :=
  match s.band? b with
  | none => s
  | some v =>
    let s := s.modSlots v.slotKeys Slot.endYield
    s.setBand b (some { v with due := false, victimOf := none,
                               status := if v.status = .stopping then .running else v.status })

/-- The requests raised for a node's launch are withdrawn. -/
def State.withdrawFor (s : State) (n : Nat) : State :=
  (s.bandList.filter (fun p => p.2.victimOf == some n && p.2.status != .saving && p.2.status != .killing)).foldl
    (fun s p => s.withdraw p.1) s

/-! ### Placing (R310, R312-R314) -/

/-- The depth of the deepest of some records; of none, a free value (log entry 28). -/
def State.depthOfAll (s : State) (rs : List RecRef) : Nat :=
  if rs = [] then (Config.freeByte s.draws 0).toNat % 32
  else (rs.map (fun r => recDepth (s.recRead r))).foldl max 0

/-- The band that placement makes of a node's entry at a place. -/
def newBand (s : State) (n : Nat) (p : Spot) (rs : List RecRef) (depth : Nat) : Band :=
  let e := s.node n
  { node := n, region := nodeRegion e, asid := s.regAsidOf (nodeRegion e), slotAB := p.ab, row0 := p.row0,
    height := nodeHeight e, linked := nodeLinked e, vregs := nodeVregs e, wregs := nodeWregs e, aregs := nodeAregs e,
    dregs := nodeDregs e, entry := nodeEntry e, arg := nodeArg e, psize := nodePsize e, batch := nodeBatch e,
    chunk0 := p.chunk, chunks := nodeChunks e, winChunk := p.chunk + nodeSide e, winChunks := nodeWinChunks e,
    reccount := rs.length, stride := nodeStride e, depth := depth, windowHeld := true, records := rs, status := .placed,
    due := false, suspend := false, victimOf := none, kill := none, zen := Edge.empty, nad := Edge.empty, barriers := [] }

/-- Place a launch: its records are taken, its request and flush are consumed, its chunks are plain (R205, R304, R382). -/
def State.placeLaunch (s : State) (n : Nat) (p : Spot) : State :=
  let e := s.node n
  let q := s.takeRecords n none (min (s.queue n).length (nodeBatch e))
  let v := newBand q.2 n p q.1 (q.2.depthOfAll q.1)
  let partly := decide (q.1.length < nodeBatch e)
  let s := { q.2 with
    launchSeq := q.2.launchSeq + 1
    draws := q.2.draws + 1
    nodeReq := Tab.set none q.2.nodeReq n none
    nodeFlush := Tab.set false q.2.nodeFlush n false
    barred := Tab.set [] q.2.barred n [] }
  let s := s.setBand s.launchSeq (some v)
  let s := s.setKinds v.fields v.chunk0 v.chunks 0#2
  let s := s.evDie (nodeHome e) 0x2E (if partly then 1 else 0) 1
  (s.withdrawFor n).launchCheck n

/-- Place a restore: its band holds its place again; its records go with it. -/
def State.placeRestore (s : State) (r : Restore) : State :=
  let rs := s.restores.map (fun (q : Restore) => if q.seq = r.seq then { q with band := { q.band with records := [] } } else q)
  ({ s with restores := rs } : State).setBand r.seq (some { r.band with status := .placed })

def State.placeCand (s : State) (c : Cand) (p : Spot) : State :=
  match c with
  | .launch n _ _ => s.placeLaunch n p
  | .restore r => s.placeRestore r

/-- The fields a placed candidate takes. -/
def State.candFields (s : State) (c : Cand) (p : Spot) : List Nat :=
  match c with
  | .launch n _ _ => runFields p.row0 (nodeHeight (s.node n))
  | .restore r => r.band.fields

/-- One step of placement (R311): `seen` once a candidate not held by budget has been considered. -/
def placeLoop : List Cand → List Nat → Bool → State → State
  | [], _, _, s => s
  | c :: t, used, seen, s =>
    match s.fitCand used c with
    | .at_ p => placeLoop t (used ++ s.candFields c p) true (s.placeCand c p)
    | .budget => placeLoop t used seen s
    | .nowhere => if !seen && decide (1000000 ≤ s.waited c) then s else placeLoop t used true s

/-- RESUME ends once every image of twilight has its place: launches and submissions resume (R408). -/
def State.finishWake (s : State) : State :=
  if s.cands.any Cand.first then s else ({ s with power := .running } : State).endCmd 0

/-- Placement runs on a running device (R403); on one that resumes it places the images of twilight only (R408). -/
def execPlacement (s : State) : Host.Outcome State Fault Refusal :=
  if s.power = .running then .next (placeLoop s.cands [] false s)
  else when (decide (s.power = .resuming) && !s.waking) s ((placeLoop (s.cands.filter Cand.first) [] false s).finishWake)

/-! ### Releasing the rows (R23, R117, R313, R314) -/

/-- Table 5.10's RNG state. -/
def rngStart (seq row l : Nat) : Word :=
  let v := BitVec.ofNat 64 (seq * 2 ^ 18) ^^^ BitVec.ofNat 64 (row * 2 ^ 6) ^^^ BitVec.ofNat 64 l ^^^ 0x9E37_79B9_7F4A_7C15#64
  if v = 0#64 then 1#64 else v

/-- The start state of band row `j` (Tables 5.9, 5.10). -/
def startSlot (b : Nat) (v : Band) (j : Nat) : Slot :=
  let n (x : Nat) : Word := BitVec.ofNat 64 x
  { Slot.empty with
    band := some b
    x := Tab.ofList 0#64 [(1, n v.recBase), (2, n v.reccount), (3, n v.stride), (4, n j), (5, n v.height),
      (6, n v.sideBase), (7, n v.sideSize), (8, v.arg), (30, exitAddress)]
    rng := Tab.ofList 0#64 ((List.range 64).map (fun l => (l, rngStart b ((v.row0 + j) % 4096) l)))
    pc := v.entry }

/-- A band runs from its release; where its pre-emption is due, a free one stops at once; a linked one is frozen once
twilight's deadline has passed (R404). -/
def State.released (s : State) (v : Band) : BandStatus :=
  if v.due && !v.linked then .stopping
  else if v.suspend && v.linked && s.yieldBy.isNone then .frozen
  else .running

def State.releaseRows (s : State) (b : Nat) (v : Band) (mk : Nat → Slot) : State :=
  let s := (List.range v.height).foldl (fun s j => s.setSlot (v.slotOf j) (mk j)) s
  s.modBand b (fun u => { u with status := s.released u })

def execBandRelease (band : Nat) (s : State) : Host.Outcome State Fault Refusal :=
  match s.band? band with
  | some v =>
    let t := s.fillWindow band
    let u := (t.band? band).getD v
    when (s.live && decide (v.status = .placed) && s.restores.all (fun (r : Restore) => r.seq ≠ band)) s
      (t.releaseRows band u (startSlot band u))
  | none => .next s

/-! ### Retirement (R317) -/

/-- The work whose end retirement waits for: all but a flush on its way. -/
def State.workDone (s : State) (b : Nat) : Bool :=
  s.pend.all (fun (p : Pend) => p.band ≠ b) && s.cmds.all (fun (c : CopyCmd) => c.band ≠ b)
  && s.msgs.all (fun (m : Msg) => !(m.band == b) || (match m.op with
    | .qflush _ => true
    | _ => false))
  && s.heldEnq.all (fun (m : Msg) => m.band ≠ b)
  && s.heldRec.all (fun (h : HeldRec) => (h.jdec.map Msg.band) ≠ some b)
  && s.colls.all (fun (c : CollOp) => c.band ≠ b)

/-- Nothing is on its way into the nadir drain or waits in it. -/
def State.drained (s : State) (v : Band) : Bool :=
  decide (v.nad.buf = []) && decide ((s.slot (v.slotOf (v.height - 1))).reserved = [])

/-- Every row has exited, and the outstanding work has ended. -/
def State.retires (s : State) (b : Nat) (v : Band) : Bool :=
  v.slotKeys.all (fun k => (s.slot k).exited) && s.workDone b && (!v.linked || s.drained v)

def execBandRetire (band : Nat) (s : State) : Host.Outcome State Fault Refusal :=
  match s.band? band with
  | some v => when (s.live && (v.status == .running || v.status == .stopping) && s.retires band v) s (s.endBand band v)
  | none => .next s

/-! ### Pre-emption (R394, R396) -/

/-- The bytes of a band's image (Table 16.6). -/
def imageSize (v : Band) : Nat :=
  0x400 + 4096 * v.fieldCount + 1024 * v.height + 81920 * v.height + 65536 * v.chunks * v.fieldCount

/-- The offset of a free block for a band's image. -/
def State.imageBlock (s : State) (v : Band) : Option Nat := s.buddyFind v.region (blockLog (imageSize v))

/-- The parked copy commands of a band that stops to be saved stop at once, and withdraw from their fault-buffer entries
(Table 16.5). -/
def State.stopCopies (s : State) (b : Nat) : State :=
  let stops (c : CopyCmd) : Bool := c.band == b && s.cmdStopped c && decide (c.phase = .parked)
  let cmds := s.cmds.map (fun (c : CopyCmd) => if stops c then { c with phase := .resolved } else c)
  { s.leaveFault (fun a => s.cmds.any (fun (c : CopyCmd) => stops c && a == .copy c.id)) with cmds := cmds }

/-- A free band issues nothing from here on; its held ENQBs complete (R301, R395). -/
def State.stopBand (s : State) (b : Nat) : State :=
  ((s.modBand b (fun v => { v with status := .stopping })).stopCopies b).endAllHeld b

/-- A request for a band: a free one that runs stops. -/
def State.request (s : State) (b : Nat) : State :=
  match s.band? b with
  | some v => if v.linked || decide (v.status ≠ .running) then s else s.stopBand b
  | none => s

/-- Some slot of a band is parked by policy (R390). -/
def State.policyParked (s : State) (v : Band) : Bool := v.slotKeys.any (fun k => (s.slot k).policyPark)

/-- A band may be a victim of node `n`'s launch (R394, R396). -/
def State.mayYield (s : State) (n b : Nat) (v : Band) : Bool :=
  (v.status == .running || v.status == .placed) && s.restores.all (fun (r : Restore) => r.seq ≠ b) && !v.due
    && !s.policyParked v && (s.imageBlock v).isSome && !(Tab.get [] s.barred n).contains b

/-- The first candidate not held by budget. -/
def State.firstCand (s : State) : Option Cand := s.cands.find? (fun c => s.fitCand [] c ≠ .budget)

/-- The launch for which requests are raised: first in the order, waiting long enough, fitting nowhere. -/
def State.starved (s : State) : Option (Nat × Cand) :=
  match s.firstCand with
  | some (.launch n t i) =>
    let c := Cand.launch n t i
    if 1000000 ≤ s.waited c ∧ s.fitCand [] c = .nowhere then some (n, c) else none
  | _ => none

/-- The victims of a launch: the bands of lower priority in its way at the first place it would fit without them. -/
def State.victims (s : State) (n : Nat) (c : Cand) : List Nat :=
  let e := s.node n
  let sh := nodeShape e
  let low (v : Band) : Bool := decide (s.regPriority v.region < s.effPrio c)
  let gone (b : Nat) : Bool := match s.band? b with
    | some v => low v
    | none => false
  match s.findSpot gone [] sh (nodeHome e) with
  | none => []
  | some p =>
    (s.bandList.filter (fun q => low q.2 && s.mayYield n q.1 q.2
      && (q.2.inRows sh p.row0 p.ab || q.2.inChunks (runFields p.row0 sh.height) p.chunk sh.chunks))).map Prod.fst

def execPreemptionRequest (s : State) : Host.Outcome State Fault Refusal :=
  match (if s.power = .running then s.starved else none) with
  | some (n, c) =>
    .next ((s.victims n c).foldl (fun s b =>
      (s.modBand b (fun v => { v with due := true, victimOf := some n })).request b) s)
  | none => .next s

/-- Every row of a band that has not exited is stopped at a YIELD. -/
def State.allAtYield (s : State) (v : Band) : Bool :=
  v.slotKeys.all (fun k => (s.slot k).exited || (match (s.slot k).wait with
    | .yield _ => true
    | _ => false))

/-- Its ports hold nothing and its drain has written everything (R396). -/
def State.portsEmpty (s : State) (v : Band) : Bool :=
  v.slotKeys.all (fun k => decide ((s.slot k).south = []) && decide ((s.slot k).reserved = [])) && decide (v.nad.buf = [])

/-- The zenith feed stops: values read and not taken are discarded, and its entry is given up with the drain's. -/
def Edge.stopped (e : Edge) : Edge :=
  { e with buf := [], parked := false, cur := e.cur.map (fun n => { n with moved := n.passed, entry := false }) }

/-- A linked band yields. -/
def State.yieldBand (s : State) (b : Nat) : State :=
  let gone : Agent → Bool := fun a => a == .stream b false || a == .stream b true
  let s := (s.leaveFault gone).leaveLines gone
  ((s.modBand b (fun v => { v with status := .saving, zen := v.zen.stopped, nad := v.nad.stopped })).stopCopies b).endAllHeld b

/-- A linked band yields in this step (R396). -/
def State.mayYieldNow (s : State) (v : Band) : Bool :=
  v.linked && v.due && decide (v.status = .running) && s.allAtYield v && s.portsEmpty v

def execBandYield (band : Nat) (s : State) : Host.Outcome State Fault Refusal :=
  match s.band? band with
  | some v =>
    when (s.live && s.mayYieldNow v) s (s.yieldBand band)
  | none => .next s

/-- A victim's launch has been placed, or is no longer first. -/
def State.requestOver (s : State) (n : Nat) : Bool :=
  match s.starved with
  | some (m, _) => m != n
  | none => match s.firstCand with
    | some (.launch m _ _) => m != n
    | _ => true

/-- A linked band that has reached its yield points and cannot yield. -/
def State.cannotYield (s : State) (v : Band) : Bool := v.linked && s.allAtYield v && !s.portsEmpty v

def execYieldWithdraw (band : Nat) (s : State) : Host.Outcome State Fault Refusal :=
  match s.band? band with
  | some v =>
    match v.victimOf with
    | none => .next s
    | some n =>
      if !s.live || v.suspend || v.status == .saving || v.status == .killing then .next s
      else if s.requestOver n then .next (s.withdraw band)
      else when (s.cannotYield v) s
        (({ s with barred := Tab.set [] s.barred n (Tab.get [] s.barred n ++ [band]) } : State).withdraw band)
  | none => .next s

end Sys2Proof.Machine
end

