-- ==== Sys2Proof/Machine/Image.lean ====
section
/-!
DEFINITION. The context save image (spec/16 R399, R400, Tables 16.6-16.11), the save of a stopped band (R395) and its restore
(R397; spec/05 R120, spec/06 R139, spec/08 R202).
-/
namespace Sys2Proof.Machine

/-! ### Sections -/

def zeros (n : Nat) : List Byte := List.replicate n 0#8

/-- The offsets of the row, cell and side sections. -/
def rowsAt (v : Band) : Nat := 0x400 + 4096 * v.fieldCount
def cellsAt (v : Band) : Nat := rowsAt v + 1024 * v.height
def sideAt (v : Band) : Nat := cellsAt v + 81920 * v.height

/-- Table 16.7. -/
def headerImage (seq : Nat) (v : Band) (now : Word) (how : Nat) : List Byte :=
  let flags := (if v.linked then 1 else 0) + (if v.windowHeld then 2 else 0)
  toBytes 8 seq ++ toBytes 8 now.toNat ++ toBytes 2 v.node ++ toBytes 2 v.region ++ toBytes 2 v.height
  ++ toBytes 1 (v.row0 / 64) ++ toBytes 1 (v.row0 % 64) ++ toBytes 1 v.slotAB ++ toBytes 1 how
  ++ toBytes 1 v.vregs ++ toBytes 1 v.wregs ++ toBytes 1 v.aregs ++ toBytes 1 v.dregs
  ++ toBytes 1 v.chunks ++ toBytes 1 flags ++ toBytes 4 v.recBase ++ toBytes 2 v.reccount ++ toBytes 1 v.depth ++ zeros 1
  ++ toBytes 4 v.sideBase ++ toBytes 4 v.sideSize ++ toBytes 4 ((v.records.head?.map RecRef.seq).getD 0)
  ++ toBytes 4 v.records.length ++ toBytes 4 1 ++ toBytes 4 v.fieldCount ++ zeros 192

def bindDesc (b : Option Binding) : List Byte :=
  toBytes 64 (match b with
    | some n => n.desc.toNat
    | none => 0)

/-- The state word of an edge (Table 16.8). -/
def edgeWord (e : Edge) : Nat :=
  let kind (b : Option Binding) : Nat := match b with
    | some n => n.kind.code.toNat
    | none => 0
  (if e.cur.isSome then 1 else 0) + kind e.cur * 2 + (if e.queued.isSome then 8 else 0) + kind e.queued * 16
    + e.position.toNat * 2 ^ 16

/-- Table 16.8. -/
def edgeImage (v : Band) : List Byte :=
  if v.linked then
    bindDesc v.zen.cur ++ bindDesc v.zen.queued ++ bindDesc v.nad.cur ++ bindDesc v.nad.queued
    ++ toBytes 8 (edgeWord v.zen) ++ toBytes 8 (edgeWord v.nad) ++ zeros 240
  else zeros 512

/-- The barrier section. -/
def barrierImage (v : Band) : List Byte :=
  (List.range 16).flatMap (fun i =>
    let b := v.barrier i
    toBytes 2 b.phase.toNat ++ toBytes 2 b.expect ++ toBytes 2 b.arrivals ++ zeros 2) ++ zeros 128

/-- The low opcode byte of a command. -/
def copyOpByte : CopyKind → Nat
  | .copy => 0x80 | .copyef => 0x81 | .copys => 0x82

/-- Table 16.9. -/
def copyImage (v : Band) (c : CopyCmd) : List Byte :=
  toBytes 1 1 ++ toBytes 1 (copyOpByte c.kind) ++ toBytes 1 c.dst ++ zeros 1 ++ toBytes 2 (v.rowIndex (slotRow c.slot)) ++ zeros 2
  ++ toBytes 8 (copyControl c) ++ toBytes 8 c.granules ++ toBytes 8 (c.flags.toNat % 32 * 2 ^ 8 + c.arr % 2 ^ 48 * 2 ^ 16)
  ++ toBytes 8 c.count ++ zeros 24 ++ toBytes 64 c.a.toNat ++ toBytes 64 c.b.toNat ++ toBytes 64 c.c.toNat

/-- The commands of a band in a field, in order. -/
def State.bandCmds (s : State) (b f : Nat) : List CopyCmd := s.cmds.filter (fun (c : CopyCmd) => c.band == b && c.field == f)

/-- The copy section: 16 entries a field. -/
def State.copySection (s : State) (b : Nat) (v : Band) : List Byte :=
  v.fields.flatMap (fun f =>
    let es := (s.bandCmds b f).map (copyImage v)
    es.flatten ++ zeros (256 * (16 - es.length)))

/-! ### Rows and cells (R139, Tables 16.10, 16.11) -/

/-- A register is within the footprint and the live mask. -/
def liveV (v : Band) (m : BitVec 64) (i : Nat) : Bool := decide (i < v.vregs) && m.getLsbD (i / 8)
def liveW (v : Band) (m : BitVec 64) (i : Nat) : Bool := decide (i < v.wregs) && m.getLsbD (8 + i)
def liveA (v : Band) (m : BitVec 64) (i : Nat) : Bool := decide (i < v.aregs) && m.getLsbD (12 + i)
def liveD (v : Band) (m : BitVec 64) (i : Nat) : Bool := decide (i < v.dregs) && m.getLsbD (16 + i)
def liveP (m : BitVec 64) (i : Nat) : Bool := m.getLsbD (24 + i)

/-- The live mask of a slot: its YIELD's, else all ones. -/
def Slot.liveMask (c : Slot) : BitVec 64 :=
  match c.wait with
  | .yield m => m.setWidth 64
  | _ => BitVec.allOnes 64

/-- The full/empty word; the destination of a parked word is saved as empty (R120). -/
def fullWord (t : Slot) : Nat :=
  let c := match t.heldDst with
    | some d => t.setEmpty d true
    | none => t
  (~~~c.xEmpty).toNat + (~~~c.dEmpty).toNat * 2 ^ 32 + (~~~c.wEmpty).toNat * 2 ^ 40 + (~~~c.aEmpty).toNat * 2 ^ 44

/-- Exited, handler, asyncfault, replay, barrier wait; a restored word that has not replayed yet is to replay still (R120). -/
def stateWord (c : Slot) : Nat :=
  let replay := c.replay || c.refills || (match c.wait with
    | .parked _ _ => true
    | _ => false)
  let bar := match c.wait with
    | .barrier i => 16 + i * 2 ^ 8
    | _ => 0
  (if c.exited then 1 else 0) + (if c.handler then 2 else 0) + (if c.asyncfault then 4 else 0) + (if replay then 8 else 0) + bar

/-- Table 16.10. -/
def rowImage (v : Band) (c : Slot) : List Byte :=
  let m := c.liveMask
  (List.range 32).flatMap (fun i => toBytes 8 (c.xr i).toNat)
  ++ (List.range 8).flatMap (fun i => if liveD v m i then toBytes 64 (c.dr i).toNat else zeros 64)
  ++ (List.range 8).flatMap (fun i => if liveP m i then toBytes 8 (c.pr i).toNat else zeros 8)
  ++ ([c.pc, c.fpmode, c.lanestat, c.trapcause, c.trappc, c.trapinfo, c.tvec] : List Word).flatMap (fun w => toBytes 8 w.toNat)
  ++ toBytes 8 (fullWord c) ++ toBytes 8 (~~~c.vEmpty).toNat ++ toBytes 8 (stateWord c) ++ toBytes 8 m.toNat
  ++ toBytes 8 c.owed.toNat ++ (List.range 16).flatMap (fun i => toBytes 2 (c.lastOf i).toNat)
  ++ (match c.deferred with
    | some (k, a) => toBytes 8 k.code.toNat ++ toBytes 8 a.toNat
    | none => zeros 16)
  ++ zeros 48

/-- A stationary register's 96 bytes (Table 8.1). -/
def wImage (w : WReg) : List Byte :=
  toBytes 96 (w.data.toNat + w.mdata.toNat * 2 ^ 512 + (if w.sparse then 2 ^ 640 else 0) + w.tag.code.toNat * 2 ^ 652
    + w.scales.toNat * 2 ^ 656)

/-- Table 16.11. -/
def cellImage (v : Band) (c : Slot) (l : Nat) : List Byte :=
  let m := c.liveMask
  let pick (i k : Nat) (f : LaneReg → Nat) : List Byte := if liveV v m i then toBytes k (f (c.vr i l)) else zeros k
  (List.range 64).flatMap (fun i => pick i 8 (fun r => r.bits.toNat))
  ++ (List.range 64).flatMap (fun i => pick i 1 (fun r => r.tag.code.toNat))
  ++ (List.range 64).flatMap (fun i => pick i 1 (fun r => r.scale.toNat))
  ++ (List.range 4).flatMap (fun i => if liveW v m i then wImage (c.wr i l) else zeros 96)
  ++ (List.range 4).flatMap (fun i => if liveA v m i then toBytes 48 (c.ar i l).toNat else zeros 48)
  ++ toBytes 8 (c.rngOf l).toNat ++ toBytes 1 (c.nestOf l).toNat ++ zeros 55

/-- The side section: the allotment's bytes in each field. -/
def State.sideSection (s : State) (v : Band) : List Byte :=
  v.fields.flatMap (fun f => s.readMem (sideLoc f v.sideBase) v.sideSize)

/-- The whole image (Table 16.6). -/
def State.image (s : State) (b : Nat) (v : Band) (how : Nat) : List Byte :=
  let cs := v.slotKeys.map s.slot
  headerImage b v s.time how ++ edgeImage v ++ barrierImage v ++ s.copySection b v
  ++ cs.flatMap (rowImage v) ++ cs.flatMap (fun c => (List.range 64).flatMap (cellImage v c)) ++ s.sideSection v

/-! ### Saving (R395) -/

/-- What a slot waits for does not outlast a save: it settles, or its word issues again, or it is saved as waiting
(Table 16.5). -/
def settledWait (w : Wait) : Bool :=
  match w with
  | .none | .walk _ _ | .parked _ _ | .waitc _ _ _ | .sgrow _ _ _ | .copyQ | .collQ _ | .barrier _ | .yield _ => true
  | _ => false

/-- A command may be saved: it is split, or twilight stops it, and it has not ended. -/
def CopyCmd.saveable (c : CopyCmd) (how : Nat) : Bool := (copySplit c || how == 2) && !c.ended

/-- Every item of Table 16.5 has settled. -/
def State.settled (s : State) (b : Nat) (v : Band) (how : Nat) : Bool :=
  s.pend.all (fun (p : Pend) => p.band ≠ b) && s.msgs.all (fun (m : Msg) => m.band ≠ b)
  && s.heldEnq.all (fun (m : Msg) => m.band ≠ b) && s.heldRec.all (fun (h : HeldRec) => (h.jdec.map Msg.band) ≠ some b)
  && s.cmds.all (fun (c : CopyCmd) => !(c.band == b) || c.saveable how)
  && v.slotKeys.all (fun k => settledWait (s.slot k).wait && !(s.slot k).policyPark)

/-- How a band is saved (Table 16.7). -/
def Band.how (v : Band) : Nat := if v.suspend then 2 else if v.linked then 1 else 0

/-- The entries of the copy section, each with its command's number and whether that has met poison. -/
def State.cmdMarks (s : State) (b : Nat) (v : Band) : List (Nat × Nat × Bool) :=
  v.fields.zipIdx.flatMap (fun p => (s.bandCmds b p.1).zipIdx.map (fun q => (16 * p.2 + q.2, q.1.id, q.1.poison)))

/-- The rows whose next fetch lies above any PC (R104). -/
def State.highRows (s : State) (v : Band) : List (Nat × BitVec 7) :=
  Tab.ofList 0#7 (v.slotKeys.zipIdx.map (fun p => (p.2, (s.slot p.1).high)))

/-- The image's agents: the region's address space, unchecked, its effective key slot (R353, R399). -/
def State.imageVia (s : State) (region : Nat) : Via := ⟨s.regAsidOf region, none, some (s.regKeyOf region)⟩

/-- Save a band in a block of its arena: its resources return as at retirement, its records stay held. -/
def State.saveBand (s : State) (b : Nat) (v : Band) (off : Nat) : State :=
  let o := s.arenaOwner v.region
  let blk := (o, off, blockLog (imageSize v))
  let va := s.arenaVa o off
  let r : Restore := ⟨b, { v with status := .placed, due := false, suspend := false, victimOf := none }, va, blk, s.time, s.steps, v.how,
    s.cmdMarks b v, s.highRows v⟩
  let s := (s.allocBlock blk).regionWriteVia (s.imageVia v.region) va (s.image b v v.how)
  let s := { s with
    cmds := s.cmds.filter (fun (c : CopyCmd) => c.band ≠ b)
    restores := s.restores ++ [r] }
  (s.modBand b (fun u => { u with records := [] })).endBand b { v with records := [] }

def execBandSave (band : Nat) (s : State) : Host.Outcome State Fault Refusal :=
  match s.band? band with
  | some v =>
    if !s.live || !(v.status == .stopping && !v.linked || v.status == .saving) || !s.settled band v v.how then .next s
    else match s.imageBlock v with
      | some off => .next (s.saveBand band v off)
      | none => when v.suspend s (s.modBand band (fun u => { u with status := .frozen }))
  | none => .next s

/-! ### Restoring (R397) -/

/-- A number in an image. -/
def at_ (bs : List Byte) (off n : Nat) : Nat := ofBytes ((bs.drop off).take n)

/-- The numbers that a saved band's bindings and commands had, which give the order among them (R269, R280). -/
def Restore.numbers (r : Restore) : List Nat :=
  (r.band.zen.cur.toList ++ r.band.zen.queued.toList ++ r.band.nad.cur.toList ++ r.band.nad.queued.toList).map Binding.since
    ++ r.marks.map (fun p => p.2.1)

/-- Their new numbers from `base` up, in the same order; what the band did not have comes last. -/
def Restore.renumber (r : Restore) (base : Nat) (old : Option Nat) : Nat :=
  base + (match old with
    | some x => (r.numbers.filter (fun y => decide (y < x))).length
    | none => r.numbers.length)

/-- A binding as an image holds it. -/
def bindingOf (bs : List Byte) (off kind slot since position : Nat) : Option Binding :=
  (PortKind.ofCode (BitVec.ofNat 2 kind)).map (fun k => ⟨BitVec.ofNat 512 (at_ bs off 64), k, slot, since, position, position, false⟩)

/-- An edge as an image holds it; it goes on at its position. `since` gives its bindings their numbers. -/
def edgeOf (bs : List Byte) (desc word slot : Nat) (since : Option Binding → Nat) (old : Edge) : Edge :=
  let w := at_ bs word 8
  let pos := bitsOf w 47 16
  { cur := if w.testBit 0 then bindingOf bs desc (bitsOf w 2 1) slot (since old.cur) pos else none
    queued := if w.testBit 3 then bindingOf bs (desc + 64) (bitsOf w 5 4) slot (since old.queued) 0 else none
    position := BitVec.ofNat 32 pos
    buf := []
    parked := false }

/-- The barriers of an image. -/
def barriersOf (bs : List Byte) : List (Nat × Barrier) :=
  Tab.ofList Barrier.idle ((List.range 16).map (fun i =>
    (i, ⟨BitVec.ofNat 16 (at_ bs (0x300 + 8 * i) 2), at_ bs (0x302 + 8 * i) 2, at_ bs (0x304 + 8 * i) 2⟩)))

/-- A command of the copy section; none where the entry holds none. -/
def cmdOf (bs : List Byte) (v : Band) (b field off id : Nat) (poison : Bool) : Option CopyCmd :=
  let kind := match at_ bs (off + 1) 1 with
    | 0x80 => some CopyKind.copy
    | 0x81 => some CopyKind.copyef
    | 0x82 => some CopyKind.copys
    | _ => none
  if at_ bs off 1 = 1 then
    kind.map (fun k =>
      let cmd : CopyCmd := {
        id := id
        field := field
        slot := v.slotOf (at_ bs (off + 4) 2)
        band := b
        kind := k
        dst := at_ bs (off + 2) 1 % 32
        a := BitVec.ofNat 512 (at_ bs (off + 64) 64)
        b := BitVec.ofNat 512 (at_ bs (off + 128) 64)
        c := BitVec.ofNat 512 (at_ bs (off + 192) 64)
        ctrl := BitVec.ofNat 64 (at_ bs (off + 8) 8)
        count := at_ bs (off + 32) 8
        phase := .queued
        granules := at_ bs (off + 16) 8
        flags := BitVec.ofNat 6 (bitsOf (at_ bs (off + 24) 8) 12 8)
        arr := bitsOf (at_ bs (off + 24) 8) 63 16
        cancel := false
        poison := poison
        err := none }
      cmd)
  else none

/-- The commands of an image, field by field, in entry order, numbered from `base` up; an entry that the save did not fill takes a
number behind all others. -/
def cmdsOf (bs : List Byte) (r : Restore) (base : Nat) : List CopyCmd :=
  r.band.fields.zipIdx.flatMap (fun p => (List.range 16).filterMap (fun i =>
    let e := 16 * p.2 + i
    let id := match Tab.find r.marks e with
      | some q => r.renumber base (some q.1)
      | none => base + r.numbers.length + 1 + e
    cmdOf bs r.band r.seq p.1 (0x400 + 4096 * p.2 + 256 * i) id (((Tab.find r.marks e).map Prod.snd).getD false)))

/-- The lanes' registers of a row: (key, value) pairs from each cell. -/
def perCell (n : Nat) (f : Nat → Nat → α) (live : Nat → Bool) : List (Nat × α) :=
  (List.range 64).flatMap (fun l => ((List.range n).filter live).map (fun i => (64 * i + l, f l i)))

/-- A stationary register's 96 bytes as a register. -/
def wOf (x : Nat) : WReg :=
  ⟨BitVec.ofNat 512 x, BitVec.ofNat 128 (x / 2 ^ 512), x.testBit 640, Fmt.ofCode (BitVec.ofNat 4 (x / 2 ^ 652)),
    BitVec.ofNat 64 (x / 2 ^ 656)⟩

/-- The empty bits an image leaves, full outside the live mask. -/
def emptyOf {w : Nat} (full : Nat) (live : Nat → Bool) : BitVec w :=
  BitVec.ofNat w (((List.range w).map (fun i => if live i && !full.testBit i then 2 ^ i else 0)).sum)

/-- The trap cause of a code. -/
def causeOf (n : Nat) : Option Cause :=
  ([.illegal, .resoperand, .resfield, .emptysrc, .tagmismatch, .partialmask, .nestovf, .misalign, .xlate, .denied, .compressed,
    .portunbound, .sparsemeta, .latticepart, .barmismatch, .poison, .asyncfault, .swtrap, .baddesc, .depthlimit, .brk, .divzero,
    .counterpoison] : List Cause).find? (fun c => c.code.toNat = n)

/-- Band row `j` as an image holds it: bits of its fields that always read 0 stay 0 (R104, Table 5.3). -/
def slotOfImage (bs : List Byte) (b : Nat) (v : Band) (highs : List (Nat × BitVec 7)) (j : Nat) : Slot :=
  let R := rowsAt v + 1024 * j
  let C (l : Nat) : Nat := cellsAt v + 1280 * (64 * j + l)
  let w8 (o : Nat) : Word := BitVec.ofNat 64 (at_ bs (R + o) 8)
  let m : BitVec 64 := w8 0x390
  let pc := w8 0x340 &&& pcMask
  let full := at_ bs (R + 0x378) 8
  let st := at_ bs (R + 0x388) 8
  let lane (l i : Nat) : LaneReg :=
    let f := Fmt.ofCode (BitVec.ofNat 4 (at_ bs (C l + 0x200 + i) 1))
    ⟨laneBitsOf f (BitVec.ofNat 64 (at_ bs (C l + 8 * i) 8)), f, BitVec.ofNat 8 (at_ bs (C l + 0x240 + i) 1)⟩
  { Slot.empty with
    band := some b
    x := Tab.ofList 0#64 ((List.range 31).map (fun i => (i + 1, w8 (8 * (i + 1)))))
    d := Tab.ofList 0#512 (((List.range 8).filter (liveD v m)).map (fun i => (i, BitVec.ofNat 512 (at_ bs (R + 0x100 + 64 * i) 64))))
    p := Tab.ofList 0#64 (((List.range 8).filter (liveP m)).map (fun i => (i, w8 (0x300 + 8 * i))))
    v := Tab.ofList LaneReg.zero (perCell 64 lane (liveV v m))
    w := Tab.ofList WReg.zero (perCell 4 (fun l i => wOf (at_ bs (C l + 0x280 + 96 * i) 96)) (liveW v m))
    a := Tab.ofList 0#384 (perCell 4 (fun l i => BitVec.ofNat 384 (at_ bs (C l + 0x400 + 48 * i) 48)) (liveA v m))
    xEmpty := emptyOf full (fun i => i != 0)
    dEmpty := emptyOf (full / 2 ^ 32) (liveD v m)
    wEmpty := emptyOf (full / 2 ^ 40) (liveW v m)
    aEmpty := emptyOf (full / 2 ^ 44) (liveA v m)
    vEmpty := emptyOf (at_ bs (R + 0x380) 8) (liveV v m)
    pc := pc
    high := Tab.get 0#7 highs j
    fpmode := w8 0x348 &&& fpmodeMask
    lanestat := w8 0x350 &&& lanestatMask
    trapcause := w8 0x358 &&& causeMask
    trappc := w8 0x360 &&& pcMask
    trapinfo := w8 0x368
    tvec := w8 0x370 &&& pcMask
    refills := st.testBit 3
    exited := st.testBit 0
    exitPc := if st.testBit 0 then pcMask &&& (pc - 8#64) else 0#64
    handler := st.testBit 1
    asyncfault := st.testBit 2
    wait := if st.testBit 4 then .barrier (bitsOf st 11 8) else .none
    npc := if st.testBit 4 then pc + 8#64 else 0#64
    owed := BitVec.ofNat 16 (at_ bs (R + 0x398) 2)
    lastPhase := Tab.ofList 0#16 ((List.range 16).map (fun i => (i, BitVec.ofNat 16 (at_ bs (R + 0x3A0 + 2 * i) 2))))
    deferred := (causeOf (at_ bs (R + 0x3C0) 1)).map (fun c => (c, w8 0x3C8))
    nest := Tab.ofList 0#6 ((List.range 64).map (fun l => (l, BitVec.ofNat 6 (at_ bs (C l + 0x4C8) 1))))
    rng := Tab.ofList 0#64 ((List.range 64).map (fun l => (l, BitVec.ofNat 64 (at_ bs (C l + 0x4C0) 8)))) }

/-- A row's word was parked at the save and replays (event 0x0D). -/
def replayed (bs : List Byte) (v : Band) (j : Nat) : Bool := (at_ bs (rowsAt v + 1024 * j + 0x388) 8).testBit 3

/-- The band with what its image gives back (R397, R399); its number, node, region and rows are those of its place (R111), and the
records it holds stay at their die (R395). -/
def bandOfImage (bs : List Byte) (r : Restore) (v : Band) (base : Nat) : Band :=
  let since (b : Option Binding) : Nat := r.renumber base (b.map Binding.since)
  let linked := (at_ bs 31 1).testBit 0
  { v with
    linked := linked
    vregs := at_ bs 26 1
    wregs := at_ bs 27 1
    aregs := at_ bs 28 1
    dregs := at_ bs 29 1
    chunk0 := at_ bs 40 4 / 65536
    chunks := at_ bs 44 4 / 65536
    winChunk := at_ bs 32 4 / 65536
    reccount := at_ bs 36 2
    depth := at_ bs 38 1 % 32
    windowHeld := (at_ bs 31 1).testBit 1
    barriers := barriersOf bs
    zen := if linked then edgeOf bs 0x100 0x200 (v.slotOf 0) since r.band.zen else Edge.empty
    nad := if linked then edgeOf bs 0x180 0x208 (v.slotOf (v.height - 1)) since r.band.nad else Edge.empty
    due := r.band.due }

/-- Resubmit a command under its number: its token is pending again. -/
def State.resubmit (s : State) (c : CopyCmd) : State :=
  ({ s with cmds := s.cmds ++ [c], nextId := max s.nextId (c.id + 1) } : State).modSlot c.slot
    (fun t => t.setPend (codeX c.dst) true)

/-- A binding of a restored edge takes a queue entry, or waits for one. -/
def State.resumeEdge (s : State) (b : Nat) (nad : Bool) : State :=
  match (s.band? b).bind (fun v => (v.edge nad).cur) with
  | none => s
  | some n =>
    if s.copyFree (slotField n.slot) then
      s.modBand b (fun v => v.setEdge nad { v.edge nad with cur := some { n with entry := true } })
    else { s with copyLine := s.copyLine ++ [.stream b nad] }

/-- Tokens that a band's collectives still hold are pending. -/
def State.repend (s : State) (b : Nat) : State :=
  (s.colls.filter (fun (c : CollOp) => c.band == b)).foldl (fun s (c : CollOp) =>
    s.modSlot c.slot (fun t => t.setPend (codeX c.dst) true)) s

/-- Write the side chunks of an image. -/
def State.putSide (s : State) (v : Band) (bs : List Byte) : State :=
  v.fields.zipIdx.foldl (fun s p =>
    s.spanWrite (sideLoc p.1 v.sideBase) 0 false ((bs.drop (sideAt v + v.sideSize * p.2)).take v.sideSize)) s

/-- A row whose barrier completed while it was saved goes on. -/
def State.catchUp (s : State) (b : Nat) (v : Band) : State :=
  v.slotKeys.foldl (fun s k =>
    match (s.slot k).wait, s.band? b with
    | .barrier i, some u => if (u.barrier i).phase ≠ (s.slot k).lastOf i then s.modSlot k (Slot.endWait i) else s
    | _, _ => s) s

/-- Restore a band whose place is its own again (R397). -/
def State.restoreBand (s : State) (r : Restore) (v : Band) : State :=
  let b := r.seq
  let q := s.regionReadVia (s.imageVia v.region) r.image (imageSize v)
  let bs := q.1
  let s := q.2.putSide v bs
  let base := s.nextId
  let s := ({ s with nextId := base + r.numbers.length + 1 } : State).modBand b (fun u => bandOfImage bs r u base)
  let u := (s.band? b).getD v
  let s := s.releaseRows b u (slotOfImage bs b u r.highs)
  let s := ((s.resumeEdge b false).resumeEdge b true)
  let s := ((cmdsOf bs r base).foldl State.resubmit s).repend b
  let s := (List.range v.height).foldl (fun s j =>
    if replayed bs v j then s.evField (slotField (v.slotOf j)) 0x0D 0 else s) s
  let s := s.catchUp b v
  { s with blocks := s.blocks.filter (fun x => x ≠ r.block), restores := s.restores.filter (fun (x : Restore) => x.seq ≠ b) }

/-- The queue of every field has room for the commands it is to hold (R320). -/
def State.roomFor (s : State) (r : Restore) : Bool :=
  let bs := (s.regionReadVia (s.imageVia r.band.region) r.image (0x400 + 4096 * r.band.fieldCount)).1
  let cs := cmdsOf bs r 0
  r.band.fields.all (fun f => decide (s.copyHeld f + (cs.filter (fun (c : CopyCmd) => c.field == f)).length ≤ copyDepth))

def execBandRestore (band : Nat) (s : State) : Host.Outcome State Fault Refusal :=
  match s.band? band, s.restores.find? (fun (r : Restore) => r.seq == band) with
  | some v, some r => when (s.live && decide (v.status = .placed) && s.roomFor r) s (s.restoreBand r v)
  | _, _ => .next s

end Sys2Proof.Machine
end

