-- ==== Sys2Proof/Machine/Collective.lean ====
section
/-!
DEFINITION. Collective operations (spec/13 R322-R329, spec/14 R361, spec/17 R405): COLL and CSTAT, the engines' queues, the
steps of a ring, completion, and the stop of twilight. The layout of blocks in a buffer is log entry 31.
-/
namespace Sys2Proof.Machine

/-! ### Members -/

/-- A member word names this device. -/
def State.isSelf (s : State) (m : BitVec 32) : Bool := m.setWidth 24 == s.pkgid

/-- The device is the member at its rank. -/
def State.isMember (s : State) (g : Nat) : Bool :=
  match (s.membersOf g)[grpRank (s.group g)]? with
  | some m => s.isSelf m
  | none => false

/-! ### Descriptors (R325) -/

/-- The formats an operation admits. -/
def clFmtOk (op : Nat) (f : Fmt) : Bool :=
  match f with
  | .i32 | .fp16 | .bf16 | .fp32 => true
  | .i8 | .e4m3 | .raw => decide (2 ≤ op)
  | _ => false

/-- Send or receive. -/
def clPair (d : Desc) : Bool := clOp d == 4 || clOp d == 5

/-- A peer outside the group's size, whether or not the entry is valid. -/
def State.peerBad (s : State) (d : Desc) : Bool := clPair d && decide (grpSize (s.group (clGroup d)) ≤ clPeer d)

/-- The first word of a collective descriptor that breaks R325; a value outside its field's range is marked as the others. -/
def State.collBroken (s : State) (d : Desc) : Option Nat :=
  let v := d.toNat
  firstBroken ([
    (0, descKind d != 5 || bitsOf v 46 12 != 0 || decide (6 ≤ clOp d) || clRop d == 3 || (clRop d != 0 && decide (2 ≤ clOp d))
      || !clFmtOk (clOp d) (clFmt d) || decide (8 < clScope d)),
    (1, bitsOf v 127 121 != 0),
    (2, bitsOf v 191 185 != 0),
    (3, clCount d == 0 || decide (2 ^ 40 < clCount d)),
    (4, bitsOf v 319 270 != 0 || s.peerBad d)] ++ zeroFrom d 5)

/-! ### The engines' queues (R322) -/

def collDepth : Nat := 64

def collEngine (d : Desc) : Nat := clGroup d % 8

def State.collHeld (s : State) (e : Nat) : Nat :=
  (s.colls.filter (fun (c : CollOp) => c.engine == e)).length + (s.collGrant.filter (fun (p : Nat × Nat) => p.1 == e)).length

/-- A newcomer receives an entry at once. -/
def State.collFree (s : State) (e : Nat) : Bool :=
  decide (s.collHeld e < collDepth) && s.collLine.all (fun (p : Nat × Nat) => p.1 != e)

/-- Queue an operation: its token is pending. -/
def State.queueColl (s : State) (k dst : Nat) (d : Desc) (inst : BitVec 32) : State :=
  let c : CollOp := {
    id := s.nextId
    slot := k
    band := ((s.slot k).band).getD 0
    dst := dst
    desc := d
    inst := inst
    engine := collEngine d
    started := false
    steps := 0
    total := 0
    flags := 0
    err := none
    parked := false
    sendPos := 0
    recvPos := 0
    got := []
    stopAt := none }
  let s := { s with
    colls := s.colls ++ [c]
    nextId := s.nextId + 1
    collGrant := s.collGrant.filter (fun (p : Nat × Nat) => p.2 ≠ k) }
  s.modSlot k (fun t => t.producer (codeX dst))

def collEffect (d : Fin 32) (a : DSrc) (b : XOp) (k : Nat) (s : State) : Effect := do
  let us := dUse 0 a ++ opUse b
  s.ready k us [codeX d]
  let t := s.slot k
  let v := t.dr a.reg
  match s.collBroken v with
  | some w => .error (.trap .baddesc (BitVec.ofNat 64 w))
  | none =>
    let e := collEngine v
    let inst := (t.opval k b).setWidth 32
    if s.collGrant.contains (e, k) || s.collFree e then .ok (fun u => (u.takes k us).queueColl k d v inst)
    else .error (.hold (.collQ e))

/-- The first waiter of an engine's line receives a free entry. -/
def execCollQueueEntryGrant (engine : Nat) (s : State) : Host.Outcome State Fault Refusal :=
  if !s.live || decide (collDepth ≤ s.collHeld engine) then .next s
  else
    match s.collLine.find? (fun (p : Nat × Nat) => p.1 == engine) with
    | some p =>
      let s := { s with collLine := s.collLine.erase p, collGrant := s.collGrant ++ [p] }
      .next (s.modSlot p.2 (fun c => { c with wait := .none }))
    | none => .next s

/-! ### CSTAT (R328) -/

/-- An operation of a group and number runs here. -/
def State.collActive (s : State) (g : Nat) (inst : BitVec 32) : Option CollOp :=
  s.colls.find? (fun (c : CollOp) => c.started && clGroup c.desc == g && c.inst == inst)

/-- Table 13.4. -/
def CollOp.stat (c : CollOp) : Word :=
  BitVec.ofNat 64 (2 ^ 63 + (if c.parked then 2 ^ 62 else 0) + c.total % 2 ^ 30 * 2 ^ 32 + c.steps % 2 ^ 32)

def cstatEffect (d : Fin 32) (a : XSrc) (k : Nat) (s : State) : Effect := do
  let us := xUse 0 a
  s.ready k us [codeX d]
  let q := ((s.slot k).xval k a).toNat
  let v := match s.collActive (bitsOf q 11 0) (BitVec.ofNat 32 (bitsOf q 63 32)) with
    | some c => c.stat
    | none => 0#64
  .ok (fun t => (t.takes k us).modSlot k (fun c => c.setX d v))

/-! ### Starting (R325, R361) -/

def State.modColl (s : State) (id : Nat) (f : CollOp → CollOp) : State :=
  { s with colls := s.colls.map (fun (c : CollOp) => if c.id = id then f c else c) }

def collSteps (d : Desc) (G : Nat) : Nat :=
  match clOp d with
  | 0 => 2 * (G - 1)
  | 1 | 2 | 3 => G - 1
  | _ => 1

/-- The ports of an operation's ring: to the next member and from the one before; to and from every member in an all-to-all;
to the peer in a send or receive. -/
def State.collPorts (s : State) (d : Desc) : List Nat :=
  let g := clGroup d
  let G := grpSize (s.group g)
  let r := grpRank (s.group g)
  let ranks := if clPair d then [clPeer d] else if clOp d = 3 then List.range G else [(r + 1) % G, (r + G - 1) % G]
  ((ranks.filter (fun j => decide (j ≠ r))).filterMap (fun j => (s.membersOf g)[j]?)).map
    (fun m => Config.memberPort m.toNat % 18)

/-- GROUP: no valid entry, no member here, the number in use, or a pair operation with itself. -/
def State.groupBad (s : State) (c : CollOp) : Bool :=
  let g := clGroup c.desc
  !grpValid (s.group g) || !s.isMember g || (s.collActive g c.inst).isSome
    || (clPair c.desc && clPeer c.desc == grpRank (s.group g))

/-- The engine takes an operation. -/
def State.startColl (s : State) (c : CollOp) : State :=
  if s.groupBad c then s.modColl c.id (fun (c : CollOp) => { c with err := some 7 })
  else if (s.collPorts c.desc).any (fun p => !(s.link p).up) then
    s.modColl c.id (fun (c : CollOp) => { c with started := true, err := some 8 })
  else
    let total := collSteps c.desc (grpSize (s.group (clGroup c.desc)))
    s.modColl c.id (fun (c : CollOp) => { c with started := true, total := total })

/-- Every access of the slot issued before the COLL is performed, those of its collectives and nadir streams among them (R325);
copy commands are exempt as from a fence (R252). -/
def State.collMay (s : State) (c : CollOp) : Bool :=
  s.pend.all (fun (p : Pend) => !(p.slot == c.slot && decide (p.order < c.id) && !p.parked))
  && s.msgs.all (fun (m : Msg) => !(m.slot == c.slot && decide (m.id < c.id)))
  && s.heldEnq.all (fun (m : Msg) => !(m.slot == c.slot && decide (m.id < c.id)))
  && s.colls.all (fun (q : CollOp) => !(q.slot == c.slot && decide (q.id < c.id) && q.outstanding))
  && s.drainedBefore c.slot c.id

/-- The oldest operation of an engine that has not started and meets no earlier access of its slot; an engine runs any number of
its operations at once (log entry 31). -/
def execCollStart (engine : Nat) (s : State) : Host.Outcome State Fault Refusal :=
  match s.colls.find? (fun (c : CollOp) => c.engine == engine && !c.started && c.err.isNone && s.collMay c) with
  | some c => when s.awake s (s.startColl c)
  | none => .next s

/-! ### A step's bytes (R326) -/

/-- Where block `i` of an all-reduce of `n` elements begins. -/
def blockAt (n G : Nat) : Nat → Nat
  | 0 => 0
  | i + 1 =>
    if n % G = 0 then (i + 1) * (n / G)
    else if G ≤ i + 1 then n
    else max (blockAt n G i) (min n (Config.collSplit n G (i + 1)))

/-- What a step does: bytes to copy within the device first (from, to, length), the bytes it sends and to which rank, where
it receives and how many, and the local operand the received bytes combine with. -/
structure CollStep where
  own   : Option (Nat × Nat × Nat)
  send  : Option (Nat × Nat × Nat)
  recv  : Option (Nat × Nat)
  local_ : Option Nat
  deriving DecidableEq, Repr

/-- A copy of own elements that is none where source and destination are one. -/
def ownCopy (from_ into len : Nat) : Option (Nat × Nat × Nat) := if from_ = into then none else some (from_, into, len)

/-- A rank's number modulo G, from `G + a − b`. -/
def rankOf (G a b : Nat) : Nat := (a + 2 * G - b % G) % G

/-- Step `i` of an operation of rank `r` among G. The elements that the own copy of step 0 moves are taken where they lie before
it. -/
def collStep (d : Desc) (G r i : Nat) : CollStep :=
  let w := clWidth d
  let n := clCount d
  let b := n * w
  let src := clSrc d
  let dst := clDst d
  let next := (r + 1) % G
  let held := if i = 0 then src else dst
  match clOp d with
  | 0 =>
    let q := if i < G - 1 then (rankOf G r i, rankOf G r (i + 1)) else (rankOf G (r + 1) (i + 1 - G), rankOf G r (i + 1 - G))
    let at_ (j : Nat) : Nat := w * blockAt n G j
    { own := if i = 0 then ownCopy src dst b else none
      send := some (held + at_ q.1, at_ (q.1 + 1) - at_ q.1, next)
      recv := some (dst + at_ q.2, at_ (q.2 + 1) - at_ q.2)
      local_ := if i < G - 1 then some (held + at_ q.2) else none }
  | 1 =>
    { own := none
      send := some (if i = 0 then src + b * rankOf G r 1 else dst, b, next)
      recv := some (dst, b)
      local_ := some (src + b * rankOf G r (i + 2)) }
  | 2 =>
    { own := if i = 0 then ownCopy src (dst + b * r) b else none
      send := some (if i = 0 then src else dst + b * rankOf G r i, b, next)
      recv := some (dst + b * rankOf G r (i + 1), b)
      local_ := none }
  | 3 =>
    { own := if i = 0 then ownCopy (src + b * r) (dst + b * r) b else none
      send := some (src + b * ((r + i + 1) % G), b, (r + i + 1) % G)
      recv := some (dst + b * rankOf G r (i + 1), b)
      local_ := none }
  | 4 => { own := none, send := some (src, b, clPeer d), recv := none, local_ := none }
  | _ => { own := none, send := none, recv := some (dst, b), local_ := none }

/-- The copy of a group of one member. -/
def loneStep (d : Desc) : CollStep :=
  { own := if clPair d then none else ownCopy (clSrc d) (clDst d) (clCount d * clWidth d), send := none, recv := none,
    local_ := none }

/-- One combined element: the code and its flags. -/
def combineElem (f : Fmt) (rop x y : Nat) : Nat × Flags :=
  let vs := [f.value false false x, f.value false false y]
  if rop = 0 then
    let v := sumVals vs .rne
    if v.1.isNan && hasNan f then (f.nanCode, v.2)
    else
      let r := roundTo f v.1 .rne false false false 0#64
      (r.code, v.2 ||| r.fl)
  else (redMinMax ⟨0#64, .rne, false, false⟩ f (decide (rop = 2)) [x, y], flNone)

/-- Bytes cut into elements of `w` bytes. -/
def elemsOf (w : Nat) : Nat → List Byte → List Nat
  | 0, _ => []
  | n + 1, bs => ofBytes (bs.take w) :: elemsOf w n (bs.drop w)

/-- Local bytes combined with received ones. -/
def combineBytes (d : Desc) (xs ys : List Byte) : List Byte × Flags :=
  let w := clWidth d
  let rs := ((elemsOf w (xs.length / w) xs).zip (elemsOf w (xs.length / w) ys)).map
    (fun (p : Nat × Nat) => combineElem (clFmt d) (clRop d) p.1 p.2)
  (rs.flatMap (fun r => toBytes w r.1), (rs.map Prod.snd).foldl (· ||| ·) flNone)

/-! ### Reaching memory on the COLL path -/

/-- Bytes of one page that an engine reaches. -/
structure Span where
  loc : Nat
  key : Nat
  mig : Bool
  len : Nat
  deriving DecidableEq, Repr

/-- Reach `len` bytes, page by page; the first fault ends it. -/
def collReach (asid : Nat) (acc : AccKind) : Nat → State → Nat → Nat → Except WalkFault (List Span) × State
  | 0, s, _, _ => (.ok [], s)
  | fuel + 1, s, va, len =>
    if len = 0 then (.ok [], s)
    else
      let k := min len (65536 - va % 65536)
      let r := s.walk asid (BitVec.ofNat 64 va)
      match r.1 with
      | .fault why => (.error (va, acc, why), r.2)
      | .leaf e lv =>
        match leafRefuses e acc with
        | some why => (.error (va, acc, why), r.2)
        | none =>
          let q := collReach asid acc fuel r.2 (va + k) (len - k)
          match q.1 with
          | .error f => (.error f, q.2)
          | .ok t => (.ok (⟨leafLoc ⟨e, lv⟩ (BitVec.ofNat 64 va), leafKey e, leafMig e, k⟩ :: t), q.2)

def State.collSpans (s : State) (asid : Nat) (acc : AccKind) (p : Nat × Nat) : Except WalkFault (List Span) × State :=
  collReach asid acc (p.2 / 65536 + 2) s p.1 p.2

/-- The spans of several ranges, in order. -/
def collAll (asid : Nat) (acc : AccKind) : List (Nat × Nat) → State → Except WalkFault (List (List Span)) × State
  | [], s => (.ok [], s)
  | p :: t, s =>
    let q := s.collSpans asid acc p
    match q.1 with
    | .error f => (.error f, q.2)
    | .ok x =>
      let rest := collAll asid acc t q.2
      match rest.1 with
      | .error f => (.error f, rest.2)
      | .ok xs => (.ok (x :: xs), rest.2)

/-- The pieces of a span within lines. -/
def Span.lines (p : Span) : List (Nat × Nat) := linePieces (p.len / 256 + 2) p.loc p.len

def State.spansDenied (s : State) (master : Nat) (write : Bool) (ps : List Span) : Bool :=
  ps.any (fun p => p.lines.any (fun x => s.denied x.1 p.key master (!write) write))

def State.spansPoisoned (s : State) (ps : List Span) : Bool := ps.any (fun p => s.spanPoison p.loc p.len p.mig)

/-- The places of spans whose banks make the step back off (R228). -/
def State.spansStall (s : State) (w : Waiter) (write : Bool) (ps : List Span) : List Nat :=
  ps.flatMap (fun p => (p.lines.filter (fun x =>
    s.backsOff w false x.1 p.key (write && decide (x.2 = 256)) false p.mig)).map Prod.fst)

/-- A step's spans wait for the urgent reads of their quadrants (R226). -/
def State.spansYield (s : State) (ps : List Span) : Bool :=
  ps.any (fun p => p.lines.any (fun x => decide (x.1 < 2 ^ 40) && s.urgentAt (hbmQuad x.1)))

/-- An engine's spans for slot `k` come behind conflicting accesses that count as performed in a narrow scope (R275). -/
def State.spansBehind (s : State) (k : Nat) (write : Bool) (ps : List Span) : Bool :=
  ps.any (fun p => s.behindMark k (fun _ => true) write p.loc p.len)

/-- The spans a step reads and writes: those that back off join their banks' orders, or all wait for urgent reads and for accesses
they come behind, or `go` performs them. -/
def State.spansGo (s : State) (w : Waiter) (k : Nat) (rs ws : List Span) (go : State → State) : State :=
  let stall := s.spansStall w false rs ++ s.spansStall w true ws
  if stall ≠ [] then stall.foldl (fun s l => s.joinBackoff w l) s
  else if s.spansYield (rs ++ ws) || s.spansBehind k false rs || s.spansBehind k true ws then s
  else go (s.leaveBackoff w)

def readSpans (ps : List Span) (s : State) : List Byte × State :=
  ps.foldl (fun a p =>
    let r := a.2.spanRead p.loc p.len p.key p.mig
    (a.1 ++ r.1, r.2)) ([], s)

def writeSpans (ps : List Span) (bs : List Byte) (s : State) : State :=
  (ps.foldl (fun (a : State × List Byte) p => (a.1.spanWrite p.loc p.key p.mig (a.2.take p.len), a.2.drop p.len)) (s, bs)).1

/-- The bytes a step that stops at a denied destination leaves: each byte that is granted holds its old value or its new
one (R268, R327; log entry 18). -/
def landSpans (master : Nat) (ps : List Span) (bs : List Byte) (s : State) : State :=
  let t := (ps.foldl (fun (a : State × List Byte) p =>
    ((List.range p.len).foldl (fun (q : State × List Byte) i =>
      let ok := !q.1.denied (p.loc + i) p.key master false true && Config.granuleLands s.draws (p.loc + i)
      (if ok then q.1.targetWrite (p.loc + i) p.key p.mig (q.2.take 1) else q.1, q.2.drop 1)) a)) (s, bs)).1
  { t with draws := t.draws + 1 }

/-! ### A step -/

/-- The master and field of an engine's accesses. -/
def collMaster (e : Nat) : Nat := 0xC0 + e

def State.failColl (s : State) (id st : Nat) : State := s.modColl id (fun (c : CollOp) => { c with err := some st })

/-- The asid under which an operation's band was placed, saved or not. -/
def State.collAsid (s : State) (b : Nat) : Nat :=
  match s.band? b with
  | some v => v.asid
  | none => match s.restores.find? (fun (r : Restore) => r.seq == b) with
    | some r => r.band.asid
    | none => 0

/-- An operation parks on a translation fault, in the buffer of its slot's die. -/
def State.parkColl (s : State) (c : CollOp) (f : WalkFault) : State :=
  (s.modColl c.id (fun (c : CollOp) => { c with parked := true })).joinFault
    ⟨slotDie c.slot, .coll c.id, BitVec.ofNat 64 f.1, s.collAsid c.band, f.2.1, f.2.2, 0xFF⟩

/-- What a step reads: the own copy's source, the bytes sent, the local operand. -/
def CollStep.reads (p : CollStep) : List (Nat × Nat) :=
  ((p.own.map (fun x => [(x.1, x.2.2)])).getD []) ++ ((p.send.map (fun x => [(x.1, x.2.1)])).getD [])
    ++ (match p.local_, p.recv with
      | some a, some r => [(a, r.2)]
      | _, _ => [])

/-- What a step writes: the own copy's destination, the bytes received. -/
def CollStep.writes (p : CollStep) : List (Nat × Nat) :=
  ((p.own.map (fun x => [(x.2.1, x.2.2)])).getD []) ++ (p.recv.toList)

/-- The spans of one range, at index `i` of those reached. -/
def spansAt (xs : List (List Span)) (i : Nat) : List Span := (xs[i]?).getD []

/-- What a step has done: its sent bytes, its flags. -/
structure CollDone where
  s    : State
  sent : List Byte
  fl   : Flags

/-- The first index of a step's local operand among the spans it reads. -/
def CollStep.localAt (p : CollStep) : Nat := (if p.own.isSome then 1 else 0) + (if p.send.isSome then 1 else 0)

/-- The bytes a step's receive writes: those received, combined with the local operand in a reduction (R326). -/
def State.stepBytes (s : State) (d : Desc) (p : CollStep) (rs : List (List Span)) (received : List Byte) :
    (List Byte × Flags) × State :=
  if p.local_.isSome then
    let q := readSpans (spansAt rs p.localAt) s
    (combineBytes d q.1 received, q.2)
  else ((received, flNone), s)

/-- Perform a step whose every byte is reached: all it reads, then the own copy and the combined receive. -/
def State.performStep (s : State) (d : Desc) (p : CollStep) (rs ws : List (List Span)) (received : List Byte) : CollDone :=
  let o := if p.own.isSome then 1 else 0
  let own := if p.own.isSome then readSpans (spansAt rs 0) s else ([], s)
  let out := if p.send.isSome then readSpans (spansAt rs o) own.2 else ([], own.2)
  let new := out.2.stepBytes d p rs received
  let t := if p.own.isSome then writeSpans (spansAt ws 0) own.1 new.2 else new.2
  ⟨if p.recv.isSome then writeSpans (spansAt ws o) new.1.1 t else t, out.1, new.1.2⟩

/-- A step parks on its destination: its send goes out, and the bytes received wait in the engine (R329). -/
def State.parkStep (s : State) (c : CollOp) (p : CollStep) (rs : List (List Span)) (received : List Byte) (f : WalkFault) : State :=
  let s := s.modColl c.id (fun (c : CollOp) => { c with recvPos := received.length, got := received })
  let ps := spansAt rs 0
  let s := match p.own, p.send with
    | none, some x =>
      if c.sendPos ≠ 0 || s.spansDenied (collMaster c.engine) false ps || s.spansPoisoned ps then s
      else
        let q := readSpans ps s
        (q.2.send (.collSend (clGroup c.desc) c.inst c.steps x.2.2 q.1)).modColl c.id (fun (c : CollOp) =>
          { c with sendPos := x.2.1 })
    | _, _ => s
  s.parkColl c f

/-- One step of an operation: parked, stopped by a fault, backing off, or done with `k`. -/
def State.tryStep (s : State) (c : CollOp) (p : CollStep) (received : List Byte) (k : CollDone → State) : State :=
  let asid := s.collAsid c.band
  let m := collMaster c.engine
  let a := collAll asid .read p.reads s
  match a.1 with
  | .error f => a.2.parkColl c f
  | .ok rs =>
    let b := collAll asid .write p.writes a.2
    match b.1 with
    | .error f => b.2.parkStep c p rs received f
    | .ok ws =>
      let s := b.2
      if s.spansDenied m false rs.flatten then s.failColl c.id 4
      else if s.spansPoisoned rs.flatten then s.failColl c.id 5
      else if s.spansDenied m true ws.flatten then
        let q := s.stepBytes c.desc p rs received
        (landSpans m (spansAt ws (ws.length - 1)) q.1.1 q.2).failColl c.id 4
      else
        s.spansGo (.coll c.id) c.slot rs.flatten ws.flatten (fun s => k (s.performStep c.desc p rs ws received))

/-- A step of an operation may end: it runs, is not parked, and twilight has not stopped it here (R405). -/
def CollOp.runs (c : CollOp) : Bool := c.started && c.err.isNone && !c.parked && decide (c.steps < c.total)

/-- Twilight has stopped an operation: it has ended its agreed last step. -/
def CollOp.stopped (c : CollOp) : Bool :=
  match c.stopAt with
  | some i => decide (i < c.steps)
  | none => false

/-- The end of a step: what was sent leaves, the index rises, the flags gather. -/
def State.stepDone (c : CollOp) (p : CollStep) (q : CollDone) : State :=
  let s := match (if c.sendPos = 0 then p.send else none) with
    | some x => q.s.send (.collSend (clGroup c.desc) c.inst c.steps x.2.2 q.sent)
    | none => q.s
  let s := s.modColl c.id (fun (c : CollOp) => { c with
    steps := c.steps + 1
    sendPos := 0
    recvPos := 0
    got := []
    flags := c.flags ||| q.fl })
  s.evPkg 0x3E c.engine 1

/-- The ports of an operation's ring are up and trained (R408). -/
def State.ringUp (s : State) (c : CollOp) : Bool :=
  (s.collPorts c.desc).all (fun p => (s.link p).up && !(s.link p).training)

/-- A step ends with the bytes received, now or before it parked. -/
def execCollStepEnd (id : Nat) (received : List Byte) (s : State) : Host.Outcome State Fault Refusal :=
  match s.colls.find? (fun (c : CollOp) => c.id == id) with
  | none => .next s
  | some c =>
    let g := s.group (clGroup c.desc)
    let p := collStep c.desc (grpSize g) (grpRank g) c.steps
    let size := (p.recv.map Prod.snd).getD 0
    let bytes := if c.recvPos = size ∧ size ≠ 0 then c.got else received
    if !s.live || !c.runs || !s.ringUp c || c.stopped || bytes.length ≠ size then .next s
    else .next (s.tryStep c p bytes (State.stepDone c p))

/-! ### Completion (R327, R361) -/

/-- The token of Table 13.3. -/
def CollOp.token (c : CollOp) (status : Nat) : Word :=
  BitVec.ofNat 64 (c.steps % 2 ^ 32 * 2 ^ 32 + (c.flags.toNat % 32) * 2 ^ 8 + status)

/-- The token waits for a band that is saved or not released yet (Table 16.5). -/
def State.tokenHeld (s : State) (b : Nat) : Bool :=
  match s.band? b with
  | some v => v.status == .placed
  | none => s.restores.any (fun (r : Restore) => r.seq == b)

/-- The end of an operation: its token, its queue entry. -/
def State.endColl (s : State) (c : CollOp) (status : Nat) : State :=
  let gone : Agent → Bool := fun a => a == .coll c.id
  let s := s.leaveFault gone
  let s := if s.takesResults c.band then s.modSlot c.slot (fun t => t.deliverX c.dst (c.token status)) else s
  ({ s with colls := s.colls.filter (fun (q : CollOp) => q.id ≠ c.id) } : State).leaveBackoff (.coll c.id)

/-- An operation that ends with an error tells its partners (R327), ABORTED by a port or a kill included. -/
def State.tellAbort (s : State) (c : CollOp) (partner : Bool) : State :=
  if c.started && !partner then s.send (.collAbort (clGroup c.desc) c.inst) else s

def execCollComplete (id : Nat) (partnerError : Bool) (s : State) : Host.Outcome State Fault Refusal :=
  match s.colls.find? (fun (c : CollOp) => c.id == id) with
  | none => .next s
  | some c =>
    if !s.live || s.tokenHeld c.band then .next s
    else match c.err with
      | some st => .next ((s.tellAbort c false).endColl c st)
      | none =>
        if partnerError then when c.started s (s.endColl c 8)
        else if !c.started || c.parked || decide (c.steps < c.total) then .next s
        else if c.total = 0 then .next (s.tryStep c (loneStep c.desc) [] (fun q => q.s.endColl c 1))
        else .next (s.endColl c 1)

/-- A step that stops on an unresolvable translation leaves each byte that it reaches old or new (R268, R327): the pages of
its destination one by one, with the bytes received before it parked. -/
def State.landColl (s : State) (c : CollOp) : State :=
  let g := s.group (clGroup c.desc)
  let p := collStep c.desc (grpSize g) (grpRank g) c.steps
  let asid := s.collAsid c.band
  match p.recv, (collAll asid .read p.reads s).1 with
  | some r, .ok rs =>
    if c.recvPos ≠ r.2 || s.spansDenied (collMaster c.engine) false rs.flatten then s
    else
      let q := s.stepBytes c.desc p rs c.got
      (List.range (r.2 / 65536 + 2)).foldl (fun s i =>
        let lo := if i = 0 then r.1 else (r.1 / 65536 + i) * 65536
        let n := min (r.1 + r.2) ((r.1 / 65536 + i + 1) * 65536) - lo
        match (collReach asid .write 2 s lo n).1 with
        | .ok ps => landSpans (collMaster c.engine) ps ((q.1.1.drop (lo - r.1)).take n) s
        | .error _ => s) q.2
  | _, _ => s

/-! ### Twilight (R405) -/

/-- The agreed last step of an operation, with one more proposal. -/
def CollOp.propose (c : CollOp) (i : Nat) : CollOp :=
  { c with stopAt := some (max i (c.stopAt.getD 0)) }

/-- The suspending device's own operation takes its proposal; one that an earlier agreement has stopped stays where it is. -/
def CollOp.proposeOwn (c : CollOp) : CollOp := if c.stopped then c else c.propose (c.steps + 1)

/-- Every active operation proposes its own step index plus 1 to every other member. -/
def State.proposeStops (s : State) : State :=
  (s.colls.filter (fun (c : CollOp) => c.started && c.err.isNone)).foldl (fun s c =>
    (s.send (.collStop (clGroup c.desc) c.inst (c.steps + 1))).modColl c.id CollOp.proposeOwn) s

/-- A stopped operation goes on: the device that suspended has resumed. -/
def CollOp.goOn (c : CollOp) : CollOp := { c with stopAt := none }

/-- A proposal from another member. A proposal is at least 1: step 0 is the sign that the suspending member has resumed, which an
awake member's operations wait for (log entry 95). -/
def execCollStopProposal (id : Nat) (step : Nat) (s : State) : Host.Outcome State Fault Refusal :=
  if step = 0 then when s.awake s (s.modColl id CollOp.goOn)
  else when s.live s (s.modColl id (fun (c : CollOp) => if c.started && c.err.isNone then c.propose step else c))

/-! ### Meanings -/

def execColl (d : Fin 32) (a : DSrc) (b : XOp) (s : State) := s.issue (opSize b) (collEffect d a b)
def execCstat (d : Fin 32) (a : XSrc) (s : State) := s.issue 8 (cstatEffect d a)

end Sys2Proof.Machine
end

