-- ==== Sys2Proof/Machine/Scoreboard.lean ====
section
/-!
DEFINITION. The row's scoreboard (spec/01 R19): the registers each word reads, the fixed-latency results it leaves on their way
(spec/06 Table 6.1, spec/07 Table 7.3, spec/08 Table 8.7, spec/13 Table 13.1, spec/15 R379), and whether a slot's next word is
held for one.
-/
namespace Sys2Proof.Machine

/-! ### Codes beside the operand codes of Table 3.3 -/

def codeP (i : Nat) : Nat := 0x68 + i

/-- LANESTAT, for the words that wait until every earlier flag is there (R115). -/
def codeFlags : Nat := 0x80

/-- The slot's divider, which is not pipelined (R123). -/
def codeDivider : Nat := 0x81

/-- The RNG states of the lanes, as VSEED leaves them. -/
def codeRng : Nat := 0x82

/-! ### What a word reads beside its x, v, a, w and d operands -/

/-- A read that waits for no full/empty bit. -/
def plainUse (code : Nat) : List Use := [⟨3, .peek, code⟩]

def pUse (p : PSrc) : List Use := plainUse (codeP p.reg)

def gUse : Option Guard → List Use
  | some g => plainUse (codeP g.p)
  | none => []

/-- A rounding that draws from the lanes' RNGs (R47). -/
def rmUse (c : Slot) (rm : RMode) : List Use := if rm.resolve c.fpmode = .sr then plainUse codeRng else []

/-- A CSR access waits for flags on their way to LANESTAT (R115). -/
def csrUse (csr : BitVec 12) : List Use := if csr.toNat = 1 then plainUse codeFlags else []

/-! ### What a word leaves on its way -/

def busyX (d : Fin 32) (n : Nat) : List Busy := if d = 0 then [] else [⟨codeX d, n, false⟩]

/-- `q` consecutive lane registers from a destination. -/
def busyVs (d : VDst) (q n : Nat) : List Busy :=
  match d with
  | .v i => (List.range q).map (fun j => ⟨codeV (i + j), n, false⟩)
  | .s => []

def busyV (d : VDst) (n : Nat) : List Busy := busyVs d 1 n

/-- A lane result with its flags. -/
def busyVF (d : VDst) (n : Nat) : List Busy := busyV d n ++ [⟨codeFlags, n, false⟩]

/-- A tensor step's accumulator, which the next tensor step receives by forwarding (R184), and its flags. -/
def busyAcc (d : ADst) : List Busy :=
  (match d with
    | .a i => [⟨codeA i, 4, true⟩]
    | .s => []) ++ [⟨codeFlags, 4, false⟩]

/-- What the scoreboard needs to know of a word: what it reads, what it leaves on its way, whether it writes `s`. -/
structure Traits where
  uses    : List Use
  results : List Busy
  south   : Bool

def dividing (d : Fin 32) (a : XSrc) (b : XOp) : Traits :=
  ⟨xUse 0 a ++ opUse b ++ plainUse codeDivider, busyX d 20 ++ [⟨codeDivider, 20, false⟩], false⟩

/-- A word with no result of more than one step. -/
def reading (us : List Use) : Traits := ⟨us, [], false⟩

/-- A lane word with two operands whose result takes `n` steps. -/
def laneTraits (g : Option Guard) (us : List Use) (d : VDst) (n : Nat) (flags : Bool) : Traits :=
  ⟨gUse g ++ us, if flags then busyVF d n else busyV d n, dstIsS d⟩

/-- The traits of a word that is no pair, issued by slot `k` in state `s`. Events read and leave nothing. -/
def unitTraits (i : Instr) (k : Nat) (s : State) : Traits :=
  let c := s.slot k
  match i with
  | .nop => reading []
  | .add _ a b | .sub _ a b | .and _ a b | .or _ a b | .xor _ a b | .andn _ a b | .shl _ a b | .shr _ a b | .sar _ a b
  | .rot _ a b | .min _ a b | .max _ a b | .minn _ a b | .maxn _ a b | .seq _ a b | .sne _ a b | .slt _ a b | .sltn _ a b
  | .sle _ a b | .slen _ a b | .lea _ a b _ => reading (xUse 0 a ++ opUse b)
  | .mul d a b | .mulh d a b | .mulhn d a b => ⟨xUse 0 a ++ opUse b, busyX d 3, false⟩
  | .div d a b | .divn d a b | .rem d a b | .remn d a b => dividing d a b
  | .clz _ a | .ctz _ a | .popc _ a | .mov _ a => reading (xUse 0 a)
  | .sel _ a b e => reading (xUse 0 a ++ opUse b ++ xUse 2 e)
  | .li _ b => reading (opUse b)
  | .bfx _ a b _ => reading (xUse 0 a ++ xUse 1 b)
  | .bfi d a b => reading (xUse 0 a ++ xUse 1 b ++ (if d = 0 then [] else impliedUse (codeX d)))
  | .madd d a b e => ⟨xUse 0 a ++ opUse b ++ xUse 2 e, busyX d 3, false⟩
  | .j _ | .call _ _ | .lelse | .lendif | .lloop | .exit | .brk => reading []
  | .jr a | .bz a _ | .bnz a _ | .callr _ a | .dbnz _ a _ => reading (xUse 0 a)
  | .lif p | .lbreak p _ | .lcont p _ | .lendl p _ => reading (pUse p)
  | .lany d p | .lall d p | .lcnt d p => ⟨pUse p, busyX d 2, false⟩
  | .waitc _ a b => reading (dUse 0 a ++ opUse b)
  | .yield b | .trap b => reading (opUse b)
  | .vadd g d a b rm _ _ | .vsub g d a b rm _ _ => laneTraits g (vUse 0 a ++ vopUse b ++ rmUse c rm) d 2 true
  | .vmul g d a b rm _ _ => laneTraits g (vUse 0 a ++ vopUse b ++ rmUse c rm) d 4 true
  | .vfma g d a b e rm _ _ | .vfms g d a b e rm _ _ | .vdot g d a b e rm _ _ =>
    laneTraits g (vUse 0 a ++ vopUse b ++ vUse 2 e ++ rmUse c rm) d 4 true
  | .vmin g d a b _ | .vmax g d a b _ => laneTraits g (vUse 0 a ++ vopUse b) d 2 false
  | .vabs g d a _ | .vneg g d a _ => laneTraits g (vUse 0 a) d 2 true
  | .vrcp g d a rm _ | .vrsq g d a rm _ | .vsqrt g d a rm _ | .vexp2 g d a rm _ | .vlog2 g d a rm _ | .vtanh g d a rm _ =>
    laneTraits g (vUse 0 a ++ rmUse c rm) d 12 true
  | .vcmp g d a b _ _ _ => ⟨gUse g ++ vUse 0 a ++ vopUse b, [⟨codeP d, 2, false⟩], false⟩
  | .vsel g d a b p => laneTraits g (vUse 0 a ++ vUse 1 b ++ pUse p) d 2 false
  | .vand g d a b | .vor g d a b | .vxor g d a b | .vshr g d a b | .vsar g d a b => laneTraits g (vUse 0 a ++ vopUse b) d 2 false
  | .vshl g d a b _ _ => laneTraits g (vUse 0 a ++ vopUse b) d 2 true
  | .vsplat g d a _ => laneTraits g (xUse 0 a) d 2 false
  | .vmovx g d a b => ⟨gUse g ++ vUse 0 a ++ opUse b, busyX d 2, false⟩
  | .vins g d a b _ => laneTraits g (xUse 0 a ++ opUse b) d 2 false
  | .vred g d a _ rm _ _ => ⟨gUse g ++ vUse 0 a ++ rmUse c rm, busyX d 6 ++ [⟨codeFlags, 6, false⟩], false⟩
  | .vscan g d a _ rm _ _ _ => laneTraits g (vUse 0 a ++ rmUse c rm) d 6 true
  | .vcvt g d a _ rm _ _ | .vunpk g d a _ rm _ _ _ => laneTraits g (vUse 0 a ++ rmUse c rm) d 4 true
  | .vpack g d a b _ rm _ _ => laneTraits g (vUse 0 a ++ vUse 1 b ++ rmUse c rm) d 4 true
  | .vtag g d a _ => laneTraits g (vUse 0 a) d 2 false
  | .vscl g d a b _ => laneTraits g (vUse 0 a ++ opUse b) d 2 true
  | .vquant g d a b _ => laneTraits g (rUses 0 4 a ++ opUse b ++ impliedUse (codeV d)) (.v d) 6 true
  | .vdeq g d a b fmt rm _ _ =>
    ⟨gUse g ++ rUse 0 a ++ opUse b ++ rmUse c rm, busyVs (.v d) (8 / fmt.count) 6 ++ [⟨codeFlags, 6, false⟩], false⟩
  | .xbar g d a _ => laneTraits g (vUse 0 a) d 3 false
  | .xbld a _ => reading (xUse 0 a)
  | .vrot g d a b | .vbcast g d a b => laneTraits g (vUse 0 a ++ opUse b) d 3 false
  | .pand _ a b | .por _ a b | .pxor _ a b => reading (pUse a ++ pUse b)
  | .pnot _ a => reading (pUse a)
  | .pset _ b => reading (opUse b)
  | .vrng g d => laneTraits g (plainUse codeRng) d 2 false
  | .vseed g a => ⟨gUse g ++ vUse 0 a, [⟨codeRng, 2, false⟩], false⟩
  | .mstep g d a b _ _ => ⟨gUse g ++ vUse 0 a ++ wUse 1 b ++ impliedUse (codeA d), busyAcc (.a d), false⟩
  | .mstepn g d a b e _ _ => ⟨gUse g ++ rUse 0 a ++ wUse 1 b ++ nUse 2 e, busyAcc d, decide (d = .s)⟩
  | .msteps g d a b _ _ => ⟨gUse g ++ rUses 0 2 a ++ wUse 1 b ++ impliedUse (codeA d), busyAcc (.a d), false⟩
  | .accz g _ => reading (gUse g)
  | .accrd g d a b fmt rm _ clr =>
    ⟨gUse g ++ aUse 0 a ++ b.elim [] (rUses 1 4) ++ rmUse c rm,
      busyVs d (8 / fmt.count) 4 ++ (if clr then [⟨codeA a.reg, 4, false⟩] else []) ++ [⟨codeFlags, 4, false⟩], dstIsS d⟩
  | .accwr g d a => ⟨gUse g ++ rUses 0 (accwrSpan s k a (c.active g)) a, [⟨codeA d, 2, false⟩], false⟩
  | .accadd g d a b => ⟨gUse g ++ aUse 0 a ++ accOpUse b, [⟨codeA d, 4, false⟩, ⟨codeFlags, 4, false⟩], false⟩
  | .wld g _ a b _ _ => reading (gUse g ++ xUse 0 a ++ opUse b)
  | .wrecv g d a => ⟨gUse g ++ nUse 0 a, [⟨codeW d, 2, false⟩], false⟩
  | .wsend g a => ⟨gUse g ++ wUse 0 a, [], true⟩
  | .psend g a _ => ⟨gUse g ++ sendUse a, [], true⟩
  | .precv g d a =>
    ⟨gUse g ++ nUse 0 a, (match d with
      | .v i => busyV (.v i) 2
      | .a i => [⟨codeA i, 2, false⟩]), false⟩
  | .pbind a _ _ => reading (dUse 0 a)
  | .pflush => reading []
  | .wscl g d a => ⟨gUse g ++ rUse 0 a, [⟨codeW d, 2, false⟩], false⟩
  | .ld g d a b _ | .gld g d a b _ => ⟨gUse g ++ xUse 0 a ++ rUse 1 b, [], dstIsS d⟩
  | .ldv g d a b _ | .ldb g d a b _ => ⟨gUse g ++ xUse 0 a ++ opUse b, [], dstIsS d⟩
  | .st g a b e _ | .gst g a b e _ => reading (gUse g ++ xUse 0 a ++ rUse 1 b ++ rUse 2 e)
  | .stv g a b e _ => reading (gUse g ++ xUse 0 a ++ opUse b ++ rUse 2 e)
  | .lds _ a b _ | .ldd _ a b _ | .pref a b => reading (xUse 0 a ++ opUse b)
  | .sts a b e _ => reading (xUse 0 a ++ opUse b ++ xUse 2 e)
  | .atom g d a b e _ => ⟨gUse g ++ xUse 0 a ++ rUse 1 b ++ rUse 2 e, [], dstIsS d⟩
  | .red g a b e _ => reading (gUse g ++ xUse 0 a ++ rUse 1 b ++ rUse 2 e)
  | .cas g d a b e _ => ⟨gUse g ++ xUse 0 a ++ rUse 1 b ++ rUses 2 2 e, [], dstIsS d⟩
  | .atoms _ a b e _ => reading (xUse 0 a ++ opUse b ++ xUse 2 e)
  | .fence _ _ | .fencex _ _ _ => reading []
  | .sgrow _ b _ | .sfree _ b | .deq _ b => reading (opUse b)
  | .copy _ a b e => reading (dUse 0 a ++ dUse 1 b ++ xUse 2 e)
  | .copyef _ a b e => reading (dUse 0 a ++ dUse 1 b ++ dUse 2 e)
  | .copys _ a b => reading (dUse 0 a ++ xUse 1 b)
  | .std a b e _ => reading (xUse 0 a ++ opUse b ++ dUse 2 e)
  | .dset d a _ => reading (xUse 0 a ++ impliedUse (codeD d))
  | .dget _ a _ => reading (dUse 0 a)
  | .ccancel _ => reading []
  | .enq _ a b e _ _ | .enqb _ a b e _ _ => reading (xUse 0 a ++ xUse 1 b ++ xUse 2 e)
  | .qflush a | .qstat _ a | .jdec _ a | .jread _ a => reading (xUse 0 a)
  | .recdone => reading []
  | .coll _ a b => reading (dUse 0 a ++ opUse b)
  | .cstat d a => ⟨xUse 0 a, busyX d 24, false⟩
  | .jinit a b _ => reading (xUse 0 a ++ xUse 1 b)
  | .barr a b | .bara a b | .acnt a b _ | .aset a b | .evsel a b => reading (xUse 0 a ++ opUse b)
  | .barw b => reading (opUse b)
  | .evrd d a => ⟨xUse 0 a, busyX d (if (c.xval k a).toNat % 32 < 8 then 2 else 24), false⟩
  | .csrr _ n => reading (csrUse n)
  | .csrw a n | .csrs a n | .csrc a n => reading (xUse 0 a ++ csrUse n)
  | .rett => reading []
  | _ => reading []

/-- The traits of a word; a pair has those of both halves (R76). -/
def wordTraits (i : Instr) (k : Nat) (s : State) : Traits :=
  match i with
  | .pairWord h0 h1 =>
    let a := unitTraits h0 k s
    let b := unitTraits h1 k s
    ⟨a.uses ++ b.uses, a.results ++ b.results, a.south || b.south⟩
  | _ => unitTraits i k s

/-! ### The scoreboard -/

/-- A tensor step, which receives an accumulator by forwarding (R184). -/
def isTensorStep (i : Instr) : Bool :=
  match i with
  | .mstep .. | .mstepn .. | .msteps .. => true
  | _ => false

/-- A result is on its way to a register that a word reads, and the word does not receive it by forwarding. -/
def Slot.holdsUnit (c : Slot) (i : Instr) (us : List Use) : Bool :=
  us.any (fun u => c.busy.any (fun b => b.code == u.code && decide (0 < b.left) && !(b.fwd && isTensorStep i)))

/-- The scoreboard holds a fixed-latency source of a slot's word, in any source mode (R19). -/
def State.scoreHolds (s : State) (k : Nat) (i : Instr) : Bool :=
  match i with
  | .pairWord h0 h1 =>
    (s.slot k).holdsUnit h0 (unitTraits h0 k s).uses || (s.slot k).holdsUnit h1 (unitTraits h1 k s).uses
  | _ => (s.slot k).holdsUnit i (unitTraits i k s).uses

/-- The results of a word that has issued are on their way. -/
def Slot.addBusy (c : Slot) (bs : List Busy) : Slot := if bs = [] then c else { c with busy := c.busy ++ bs }

/-- One step nearer. -/
def stepBusy (bs : List Busy) : List Busy :=
  (bs.map (fun b => { b with left := b.left - 1 })).filter (fun b => decide (0 < b.left))

/-- A step passes for a slot's results on their way to registers and to its port (R19, R184). -/
def Slot.passStep (c : Slot) : Slot :=
  { c with busy := stepBusy c.busy, reserved := c.reserved.map (fun r => { r with left := r.left - 1 }) }

end Sys2Proof.Machine
end

