-- ==== Sys2Proof/Machine/Issue.lean ====
section
/-!
DEFINITION. Which word a row issues (spec/01 R19), and the passing of a step: the urgency test (spec/09 R226), the counts of
steps (spec/15 R380), the results on their way, and TIME (R381).
-/
namespace Sys2Proof.Machine

/-! ### The passing of a step -/

/-- The registers that a slot's next word is blocked on: it is not to trap first, and the band runs (R226). -/
def State.blockedOn (s : State) (k : Nat) : List Nat :=
  if !s.runnable k || ((s.slot k).deferred.isSome && !(s.slot k).handler) then []
  else match s.fetch k with
    | none => []
    | some i =>
      let t := wordTraits i k s
      let unbound := (t.uses.any (fun u => decide (u.code = codeN)) && (s.northUnbound k).isSome)
        || (t.south && (s.southUnbound k).isSome)
      if unbound || (isTensorStep i && decide ((s.slot k).openLanes ≠ allLanes))
        || t.uses.any (fun u => decide (u.mode = .trap) && u.empty s k) then []
      else emptyCodes s k t.uses

/-- The fields that hold row slots with a state. -/
def State.fieldsUsed (s : State) : List Nat := (s.slotList.map slotField).eraseDups

/-- Every slot's next word is tested, and with it each field (R226). -/
def State.testUrgency (s : State) : State :=
  let t := s.slotList.foldl (fun t k => t.modSlot k (fun c => { c with blocked := s.blockedOn k })) s
  t.fieldsUsed.foldl State.markUrgent t

/-- A copy command or binding of a field waits for an entry. -/
def State.lineWaits (s : State) (field : Nat) : Bool := s.copyLine.any (fun a => s.lineField a == field)

/-- Count a field event once for each field that `p` names. -/
def State.countFields (s : State) (code : Nat) (p : Nat → Bool) : State :=
  s.addEventsBy (fun i => decide (i < 512) && p (i / 8)) code 0 (fun _ => 1)

/-- The events that count steps (Table 15.8), for the step that ends. -/
def State.countStep (s : State) : State :=
  let s := ((s.countFields 0x01 (fun _ => true)).countFields 0x07 s.urgencyTest).countFields 0x10 s.lineWaits
  s.backoff.foldl (fun s p => s.evQuad (p.1 / 512) 0x24 1) s

/-- What waits for a bank by its own act, not as a request that has reached its target. -/
def Waiter.acting : Waiter → Bool
  | .slot _ | .act _ => true
  | _ => false

/-- A waiter that its bank could have served in this step and that has not come gives its place up (log entry 94). -/
def State.dropIdle (s : State) : State :=
  { s with backoff := s.backoff.filter (fun b =>
      !(b.2.acting && (Tab.get none s.bankUntil b.1).isNone && decide (s.nextAt false b.1 = some b.2))) }

/-- What a step holds ends with it: results come a step nearer, counters keep their counts, and the rows may issue again. -/
def State.endStep (s : State) : State :=
  let s := s.slotList.eraseDups.foldl (fun t k => t.modSlot k Slot.passStep) s
  { s with
    evc := s.evc.map (fun p => (p.1, { p.2 with prev := p.2.value }))
    steps := s.steps + 1
    stepsIn := s.stepsIn + 1
    rowsDone := []
    killStep := [] }

/-- The steps of a tick: 7 and 8 in turn (R381). -/
def State.tickSteps (s : State) : Nat := if s.clkPhase then 7 else 8

/-- TIME rises with the last step of a tick. -/
def State.endTick (s : State) : State :=
  if s.tickSteps ≤ s.stepsIn then { s with time := s.time + 1, clkPhase := !s.clkPhase, stepsIn := 0 } else s

/-- A step ends on a device that acts. -/
def State.passStep (s : State) : State :=
  if s.live then ((s.testUrgency.countStep).dropIdle.endStep).endTick else s

/-- Several steps end. -/
def State.passSteps (s : State) : Nat → State
  | 0 => s
  | n + 1 => s.passStep.passSteps n

/-! ### The word of a row (R19) -/

/-- A meaning for every instruction. -/
abbrev Exec := Instr → State → Host.Outcome State Fault Refusal

/-- A slot's word has issued and performed its effect: it has not trapped and waits for nothing. -/
def performed (s t : State) (k : Nat) : Bool :=
  decide (t.issueClk ≠ s.issueClk) && decide ((t.slot k).wait = .none)
    && (t.slot k).handler == (s.slot k).handler && (t.slot k).policyPark == (s.slot k).policyPark
    && decide ((t.bandOf k).bind Band.kill = (s.bandOf k).bind Band.kill)

/-- The word that the slot of `s` holds goes to its issue, unless the scoreboard holds it; its results are then on their way. -/
def State.tryWord (s : State) (k : Nat) (i : Instr) (ex : Exec) : Host.Outcome State Fault Refusal :=
  if s.scoreHolds k i then .next s
  else match ex i { s with cur := k } with
    | .next t => .next (if performed s t k then t.modSlot k (fun c => c.addBusy (wordTraits i k s).results) else t)
    | o => o

/-- A slot issues its word, if the instruction cache holds it; a word that meets a bank that is unavailable waits (R228). -/
def State.runSlot (s : State) (k : Nat) (ex : Exec) : Host.Outcome State Fault Refusal :=
  match s.fetch k with
  | none => .next s
  | some i => s.throughBanks (.slot k) (fun t => t.tryWord k i ex)

/-- A slot's attempt takes the row's issue: an issue or a trap stamps the slot. -/
def tookIt (s : State) (k : Nat) (o : Host.Outcome State Fault Refusal) : Bool :=
  match o with
  | .next t => decide ((t.slot k).lastIssue ≠ (s.slot k).lastIssue)
  | _ => true

/-- The two slots of a row in the order R19 tries them: the one that issued longest ago first, slot A on a tie. -/
def State.rowOrder (s : State) (r : Nat) : Nat × Nat :=
  let a := slotKey r 0
  let b := slotKey r 1
  if (s.slot b).lastIssue < (s.slot a).lastIssue then (b, a) else (a, b)

/-- The slot of a row whose word has taken the row's issue already and now has its translations. -/
def State.selectedOf (s : State) (r : Nat) : Option Nat :=
  [slotKey r 0, slotKey r 1].find? (fun k => (s.slot k).selected && s.runnable k)

/-- A word has trapped: in its handler, parked, or counted into its band's kill. -/
def trappedIn (s t : State) (k : Nat) : Bool :=
  (t.slot k).handler != (s.slot k).handler || (t.slot k).policyPark != (s.slot k).policyPark
    || (t.bandOf k).bind Band.kill != (s.bandOf k).bind Band.kill

/-- A word issued in the step of its band's kill may trap beside the one that killed it; what else it did in that step is the
same as before the kill (R393). -/
def State.runKilled (s : State) (k : Nat) (ex : Exec) : Host.Outcome State Fault Refusal :=
  match s.runSlot k ex with
  | .next t => .next (if trappedIn s t k then { t with killStep := t.killStep.erase k } else s)
  | o => o

/-- A slot of a row that is still in the step of its band's kill. -/
def State.killedOf (s : State) (r : Nat) : Option Nat := [slotKey r 0, slotKey r 1].find? s.killStep.contains

/-- The row's issue goes to the first slot of the order that can issue, and where its word only waits, to the other (R19). -/
def State.issueRow (s : State) (r : Nat) (ex : Exec) : Host.Outcome State Fault Refusal :=
  let p := s.rowOrder r
  if s.runnable p.1 then
    let o := s.runSlot p.1 ex
    if tookIt s p.1 o || !s.runnable p.2 then o
    else match o with
      | .next t => t.runSlot p.2 ex
      | w => w
  else if s.runnable p.2 then s.runSlot p.2 ex
  else match s.killedOf r with
    | some k => s.runKilled k ex
    | none => .next s

/-- The row comes to its issue of this step; a row that has had it comes to that of the next. -/
def State.turnRow (s : State) (r : Nat) : State :=
  let s := if s.rowsDone.contains r then s.passStep else s
  { s with rowsDone := s.rowsDone ++ [r] }

/-- R19: a word whose translations are known goes on without the row's issue; else the row issues. -/
def State.runRow (s : State) (r : Nat) (ex : Exec) : Host.Outcome State Fault Refusal :=
  match s.selectedOf r with
  | some k => s.runSlot k ex
  | none => (s.turnRow r).issueRow r ex

end Sys2Proof.Machine
end

