-- ==== Sys2Proof/Machine/Links.lean ====
section
/-!
DEFINITION. Prardat links (spec/13 R330-R333): flits, acknowledgement and replay, lane repair, ports that go down; and
requests from peer devices at this device's halo caches (spec/11 R284, spec/14 R353).
-/
namespace Sys2Proof.Machine

/-! ### CRC-64 (R330; log entry 14) -/

def crcPoly : BitVec 64 := 0x42F0E1EBA9EA3693#64

def crcShift : Nat → BitVec 64 → BitVec 64
  | 0, c => c
  | n + 1, c => crcShift n (if c.getLsbD 63 then (c <<< 1) ^^^ crcPoly else c <<< 1)

/-- CRC-64 with the ECMA-182 polynomial, most significant bit first, from 0. -/
def crc64 (bs : List Byte) : BitVec 64 := bs.foldl (fun (c : BitVec 64) (b : Byte) => crcShift 8 (c ^^^ ((b.setWidth 64) <<< (56 : Nat)))) 0#64

/-- Bytes 0 to 247 of a flit (Table 13.5). -/
def flitBytes (seq ack : BitVec 16) (type : BitVec 8) (payload : List Byte) : List Byte :=
  toBytes 2 seq.toNat ++ toBytes 2 ack.toNat ++ [type, 0, 0, 0] ++ payload

def flitOk (f : Flit) : Bool := f.payload.length == 240 && crc64 (flitBytes f.seq f.ack f.type f.payload) == f.crc

/-! ### Sending (R331) -/

def portCount : Nat := 18
def replayDepth : Nat := 512

/-- A port moves flits: it is up and not retraining, on a device that acts. -/
def State.portMoves (s : State) (p : Nat) : Bool :=
  s.live && decide (p < portCount) && (s.link p).up && !(s.link p).training

/-- The last number received in order. -/
def Link.ack (l : Link) : BitVec 16 := l.expect - 1

/-- A flit leaves, with its ack: it is counted. -/
def State.emitFlit (s : State) (p : Nat) (seq ack : BitVec 16) (type : BitVec 8) (payload : List Byte) : State :=
  let s := s.setLink p { s.link p with told := ack }
  (s.send (.flit p seq ack type payload (crc64 (flitBytes seq ack type payload)))).evPkg 0x38 p 1

/-- 240 bytes that no rule states (the payload of an idle or NAK flit; log entry 32). -/
def State.freePayload (s : State) : List Byte := (List.range 240).map (fun i => Config.freeByte s.draws i)

def State.drawn (s : State) : State := { s with draws := s.draws + 1 }

/-- A flit that carries no sequence of its own: idle with the next number to be sent, or NAK with a free one. -/
def State.sendIdle (s : State) (p : Nat) : State :=
  s.drawn.emitFlit p (s.link p).txSeq (s.link p).ack 0#8 s.freePayload

def State.sendNak (s : State) (p : Nat) : State :=
  let seq := BitVec.ofNat 16 (ofBytes (s.freePayload.take 2))
  let s' := (s.drawn.setLink p { s.link p with nakDue := false }).drawn
  (s'.emitFlit p seq (s.link p).ack 4#8 s.drawn.freePayload).evPkg 0x3B p 1

/-- The next flit of the replay buffer to be resent. -/
def State.resendFlit (s : State) (p : Nat) (seq : BitVec 16) : State :=
  let l := s.link p
  let s := s.setLink p { l with resend := l.resend.drop 1 }
  match l.replay.find? (fun x => x.1 = seq) with
  | some x => (s.emitFlit p x.1 l.ack x.2.1 x.2.2).evPkg 0x3C p 1
  | none => s

/-- A new sequenced flit: stored until an ack covers it. -/
def State.sendNew (s : State) (p : Nat) (type : BitVec 8) (payload : List Byte) : State :=
  let l := s.link p
  let s := s.setLink p { l with txSeq := l.txSeq + 1, replay := l.replay ++ [(l.txSeq, type, payload)] }
  s.emitFlit p l.txSeq l.ack type payload

/-- Types 1 to 3 are sequenced. -/
def sequenced (type : BitVec 8) : Bool := type == 1#8 || type == 2#8 || type == 3#8

/-- What a port sends next: a NAK that is due, nothing more while a repair is due (R332; log entry 93), a flit to resend, a new
one, or idle while the buffer is full or nothing is new. -/
def State.sendFlit (s : State) (p : Nat) (type : BitVec 8) (payload : List Byte) : State :=
  let l := s.link p
  if l.nakDue then s.sendNak p
  else if l.repair then s
  else match l.resend with
    | seq :: _ => s.resendFlit p seq
    | [] =>
      if sequenced type && payload.length == 240 && decide (l.replay.length < replayDepth) then s.sendNew p type payload
      else s.sendIdle p

def execFlitSend (port : Nat) (type : BitVec 8) (payload : List Byte) (s : State) : Host.Outcome State Fault Refusal :=
  when (s.portMoves port) s (s.sendFlit port type payload)

/-! ### Receiving (R331) -/

/-- An ack covers a number: it is at or below the ack, modulo 2^16. -/
def ackCovers (ack seq : BitVec 16) : Bool := decide ((ack - seq).toNat < 32768)

/-- Flits an ack covers leave the replay buffer. -/
def Link.acked (l : Link) (ack : BitVec 16) : Link :=
  { l with replay := l.replay.filter (fun x => !ackCovers ack x.1), resend := l.resend.filter (fun q => !ackCovers ack q) }

/-- A number within the 32,768 below the expected one. -/
def Link.below (l : Link) (seq : BitVec 16) : Bool :=
  decide (1 ≤ (l.expect - seq).toNat) && decide ((l.expect - seq).toNat ≤ 32768)

/-- NAK once per gap. -/
def Link.gap (l : Link) : Link := if l.naked then l else { l with naked := true, nakDue := true }

/-- The times of CRC errors within the last 1,000 ticks. -/
def recent (now : Word) (ts : List Word) : List Word := ts.filter (fun t => decide ((now - t).toNat ≤ 1000))

/-- A CRC error at a time; the eighth within the window makes a repair due, until it is made (R332). -/
def Link.crcError (l : Link) (now : Word) : Link :=
  let ts := recent now l.crcTimes ++ [now]
  { l with crcTimes := ts, repair := l.repair || decide (8 ≤ ts.length), naked := true, nakDue := true }

/-- A flit with a bad CRC. -/
def State.badFlit (s : State) (p : Nat) : State := (s.setLink p ((s.link p).crcError s.time)).evPkg 0x3A p 1

/-- On NAK(e) everything not acknowledged is sent again, from e (R331). -/
def Link.replayAll (l : Link) : Link := { l with resend := l.replay.map Prod.fst }

/-- A good flit, by its type. The ack of every good flit counts, and an idle flit's number only shows a gap (log entry 96). -/
def State.goodFlit (s : State) (p : Nat) (f : Flit) : State :=
  let l := (s.link p).acked f.ack
  if f.type = 4#8 then s.setLink p l.replayAll
  else if f.type = 0#8 then s.setLink p (if f.seq = l.expect || l.below f.seq then l else l.gap)
  else if !sequenced f.type then s.setLink p l
  else if f.seq = l.expect then (s.setLink p { l with expect := l.expect + 1, naked := false }).evPkg 0x39 p 1
  else s.setLink p (if l.below f.seq then l else l.gap)

def execFlitReceive (port : Nat) (f : Flit) (s : State) : Host.Outcome State Fault Refusal :=
  when (s.portMoves port) s (if flitOk f then s.goodFlit port f else s.badFlit port)

/-! ### Lanes (R332, R333) -/

/-- A repair: the port stops sending and retrains on seven lanes. Eight CRC errors in the window make it due; that a lane fails
its training check is the agenda's (log entry 1). -/
def execLaneRepair (port : Nat) (s : State) : Host.Outcome State Fault Refusal :=
  when (s.portMoves port && (s.link port).lanes == 8) s
    ((s.setLink port { s.link port with training := true, lanes := 7, crcTimes := [], repair := false }).evPkg 0x3D port 1)

/-- An access has a request out on a port. -/
def Pend.onPort (p : Pend) (port : Nat) : Bool :=
  p.reqs.any (fun (r : Req) => decide (spaceOf r.loc = .peer) && peerPort r.loc == port)

/-- A port is lost: what is out on it meets its denial at the port, and operations whose ring uses it end (R333). -/
def State.losePort (s : State) (port : Nat) : State :=
  let l := s.link port
  let s := s.setLink port { l with up := false, training := false }
  let pend := s.pend.map (fun (p : Pend) => if p.onPort port then { p with granted := false } else p)
  let colls := s.colls.map (fun (c : CollOp) =>
    if c.started && c.err.isNone && (s.collPorts c.desc).contains port then { c with err := some 8 } else c)
  { s with pend := pend, colls := colls }

/-! ### Accesses from outside, by physical address (R230, R284, R334) -/

/-- The location of an outside access. -/
def extLoc (r : ExtAccess) : Nat :=
  match r.target with
  | .hbm => r.addr.toNat
  | .side f => sideLoc f r.addr.toNat
  | .queue d => queueLoc d r.addr.toNat
  | .csr => ringLoc r.addr.toNat

/-- The lines an outside access touches. -/
def extLines (r : ExtAccess) : List (Nat × Nat) := linePieces (r.len / 256 + 2) (extLoc r) r.len

/-- The span lies in its target, which the agent reaches (Table 9.6): management every memory, the host HBM and side memory;
it carries the bytes it writes. -/
def extFits (r : ExtAccess) : Bool :=
  (match r.target with
    | .hbm => decide (r.addr.toNat + r.len ≤ 2 ^ 40)
    | .side _ => decide (r.addr.toNat + r.len ≤ 2 ^ 23)
    | .queue _ => r.mgmt && decide (r.addr.toNat + r.len ≤ 2 ^ 24)
    | .csr => false)
  && (!r.write || r.data.length == r.len)

def State.extDenied (s : State) (r : ExtAccess) (master : Nat) (read write : Bool) : Bool :=
  (extLines r).any (fun p => s.denied p.1 0 master read write)

/-- Serve a read or write under key slot 0. -/
def State.serveExt (s : State) (r : ExtAccess) (master : Nat) : State :=
  if s.extDenied r master (!r.write) r.write then s.send .denied
  else if r.write then (s.spanWrite (extLoc r) 0 false r.data).send .done
  else if s.poisonedAt (extLoc r) r.len then s.send .poisoned
  else
    let q := s.spanRead (extLoc r) r.len 0 false
    q.2.send (.readData q.1)

/-- Serve a peer's read-modify-write: the old values return (R250). -/
def State.serveAtom (s : State) (r : ExtAccess) (a : ExtAtom) (master : Nat) : State :=
  if s.extDenied r master true true then s.send .denied
  else if s.poisonedAt r.addr.toNat r.len then s.send .poisoned
  else
    let req : Req := {
      k := 0
      lanes := []
      va := 0
      loc := r.addr.toNat
      key := 0
      len := r.len
      data := []
      ops := a.ops
      news := a.news
      mig := false
      parked := false
      bad := none }
    let run (m : Nat) := atomRequest a.op a.f a.un a.wide m (a.ops.map BitVec.toNat) (a.news.map BitVec.toNat)
    let q := s.rmw req (fun m => (run m).2)
    q.2.send (.readData ((run q.1).1.flatMap (toBytes r.len)))

/-- An aligned word of the operation's width. -/
def atomFits (r : ExtAccess) (a : ExtAtom) : Bool :=
  r.len == (if a.wide then 8 else 4) && decide (r.addr.toNat % r.len = 0)

def execPeerRequest (req : ExtAccess) (atom : Option ExtAtom) (s : State) : Host.Outcome State Fault Refusal :=
  if !s.live || !extFits req || decide (req.target ≠ .hbm) then .next s
  else match atom with
    | none => .next (s.serveExt req 0xE8)
    | some a => when (atomFits req a) s (s.serveAtom req a 0xE8)

end Sys2Proof.Machine
end

