-- ==== Sys2Proof/Machine/Host.lean ====
section
/-!
DEFINITION. The host interface (spec/13 R334-R339, spec/14 R341): CXL.mem accesses, the registers of BAR0, root-record
submission, fault-buffer responses and the draining of fault logs.
-/
namespace Sys2Proof.Machine

/-! ### Registers of BAR0 (R335, Table 13.6, Table 14.1) -/

/-- The CSR block's access table grants the host its writes. -/
def State.hostWrites (s : State) : Bool := s.grants 0x88 0xE0 true

/-- SUBTAIL's 9 bits. -/
def State.setTail (s : State) (v : Word) : State := { s with subtail := v.setWidth 9 }

def execSubtailWrite (v : Word) (s : State) : Host.Outcome State Fault Refusal :=
  when (s.live && s.hostWrites) s (s.setTail v)

/-- The mailbox codes that name a command (Tables 14.2, 17.1). -/
def knownCode (op : Nat) : Bool := (decide (1 ≤ op) && decide (op ≤ 0x14)) || (decide (0x20 ≤ op) && decide (op ≤ 0x24))

def cmdCode (w : Word) : Nat := bitsOf w.toNat 63 56

/-- A write of MBCMD: discarded while a command executes; an unknown code completes with BADCMD. -/
def State.giveCmd (s : State) (w : Word) : State :=
  if s.mbCmd.isSome then { s with mbLost := true }
  else if knownCode (cmdCode w) then { s with mbCmd := some w }
  else s.endCmd 3

/-- MBDATA with one of its words replaced. -/
def State.setMbWord (s : State) (i : Nat) (v : Word) : State := { s with mbData := setDescWord s.mbData i v }

/-- The mailbox's registers, which stay live in eclipse. -/
def State.writeMailbox (s : State) (off : Nat) (v : Word) : State :=
  if off = 0x30000 then s.giveCmd v
  else if off = 0x30008 then (if v.getLsbD 62 then { s with mbLost := false } else s)
  else if 0x30040 ≤ off ∧ off < 0x30080 ∧ off % 8 = 0 then s.setMbWord ((off - 0x30040) / 8) v
  else s

/-- A 64-bit word of the submission ring. -/
def State.writeRing (s : State) (off : Nat) (v : Word) : State :=
  (s.writeMem (ringLoc (off - 0x20000)) (toBytes 8 v.toNat)).clearPoison (ringLoc (off - 0x20000)) 8

def inRing (off : Nat) : Bool := decide (0x20000 ≤ off) && decide (off < 0x24000) && off % 8 == 0

/-- The bytes of a fault-buffer entry (Table 13.8). -/
def FbEntry.bytes (e : FbEntry) : List Byte :=
  toBytes 8 e.va.toNat ++ toBytes 1 e.asid ++ toBytes 1 (match e.kind with
    | .read => 0
    | .write => 1
    | .fetch => 2) ++ toBytes 1 e.reason ++ toBytes 1 e.agent ++ toBytes 2 e.joined ++ toBytes 1 e.field ++ [1]
    ++ toBytes 8 e.time.toNat ++ List.replicate 8 0#8

/-- A 64-bit word of the fault buffers. -/
def State.fbWord (s : State) (off : Nat) : Word :=
  match Tab.get none s.fb ((off - 0x10000) / 32) with
  | some e => BitVec.ofNat 64 (ofBytes ((e.bytes.drop ((off - 0x10000) % 32)).take 8))
  | none => 0#64

/-- What a host read of a 64-bit register of BAR0 returns; WO and reserved ones read 0. -/
def State.readRegister (s : State) (off : Nat) : Word :=
  if off = 0 then s.subtail.setWidth 64
  else if off = 8 then s.subhead.setWidth 64
  else if 0x100 ≤ off ∧ off < 0x140 ∧ off % 8 = 0 then BitVec.ofNat 64 (s.fbPend ((off - 0x100) / 8))
  else if 0x10000 ≤ off ∧ off < 0x20000 ∧ off % 8 = 0 then s.fbWord off
  else if inRing off then BitVec.ofNat 64 (s.readNat (ringLoc (off - 0x20000)) 8)
  else if off = 0x30008 then
    BitVec.ofNat 64 ((if s.mbCmd.isSome then 2 ^ 63 else 0) + (if s.mbLost then 2 ^ 62 else 0) + s.mbResult.toNat)
  else if 0x30040 ≤ off ∧ off < 0x30080 ∧ off % 8 = 0 then descWord s.mbData ((off - 0x30040) / 8)
  else 0#64

/-! ### Accesses by the host and by management (R235, R334, R335, R407) -/

/-- The id an access carries: the host's, or the management controller's. -/
def extMaster (r : ExtAccess) : Nat := if r.mgmt then 0xF0 else 0xE0

/-- The host reads a 64-bit register of BAR0, judged by the CSR block's table; in eclipse only the mailbox answers. -/
def State.serveRead (s : State) (off : Nat) : State :=
  if !s.grants 0x88 0xE0 false then s.send .denied
  else if s.live || decide (0x30000 ≤ off) then s.send (.regData (s.readRegister off))
  else s.send .poisoned

/-- A read of a register of BAR0. -/
def isCsrRead (r : ExtAccess) : Bool :=
  decide (r.target = .csr) && !r.write && !r.mgmt && r.len == 8 && r.addr.toNat % 8 == 0 && decide (r.addr.toNat + 8 ≤ 2 ^ 18)

/-- Accesses to memory enter at the halo caches, banks and queue SRAM; in eclipse they return poisoned. -/
def execHostMemAccess (req : ExtAccess) (s : State) : Host.Outcome State Fault Refusal :=
  if s.power = .off then .next s
  else if isCsrRead req then .next (s.serveRead req.addr.toNat)
  else if !extFits req then .next s
  else if s.power = .eclipse then .next (s.send .poisoned)
  else when s.live s (s.serveExt req (extMaster req))

/-! ### Root-record submission (R336, R337) -/

/-- A submission entry (Table 13.7). -/
structure Submission where
  node   : Nat
  len    : Nat
  flags  : Nat
  caddr  : Nat
  inline_ : List Byte
  paddr  : Nat
  rsv    : Bool
  deriving DecidableEq, Repr

/-- Read the entry of an index. -/
def State.submission (s : State) (i : Nat) : Submission :=
  let bs := s.readMem (ringLoc (64 * i)) 64
  let v := ofBytes bs
  { node := bitsOf v 11 0
    len := bitsOf v 31 16
    flags := bitsOf v 47 32
    caddr := bitsOf v 127 64
    inline_ := (bs.drop 16).take 16
    paddr := bitsOf v 319 256
    rsv := bitsOf v 15 12 != 0 || bitsOf v 63 48 != 0 || bitsOf v 511 320 != 0 }

def Submission.wants (e : Submission) : Bool := e.flags.testBit 0

/-- The tests of R299 as R337 changes them. -/
def State.mayRoot (s : State) (e : Submission) : Bool :=
  nodeValid (s.node e.node) && !e.rsv && decide (e.flags < 2) && (!e.wants || e.caddr % 16 == 0)

/-- The launcher may reach host memory through the CXL window (R232, Table 14.7; log entry 79). -/
def State.windowGrants (s : State) (write : Bool) : Bool := s.grants 0x89 0xD0 write

/-- The entry passes, and its payload can be read. -/
def State.rootOk (s : State) (e : Submission) : Bool := s.mayRoot e && (decide (e.len ≤ 16) || s.windowGrants false)

/-- The payload: inline, or from host memory. -/
def State.rootPayload (s : State) (e : Submission) : List Byte :=
  if e.len ≤ 16 then e.inline_.take e.len else s.readMem (hostLoc e.paddr) e.len

/-- The 16 bytes of a completion; bytes 10 to 15 are stated nowhere (log entry 33). -/
def State.completion (s : State) (status : Word) (i : Nat) : List Byte :=
  toBytes 8 status.toNat ++ toBytes 2 i ++ (List.range 6).map (fun j => Config.freeByte s.draws j)

/-- Consume the entry at SUBHEAD: judge it, write its completion, advance. -/
def State.consume (s : State) : State :=
  let i := s.subhead.toNat % 256
  let e := s.submission i
  let r := s.judgeRec (s.rootOk e) 1 e.node (if s.rootOk e then s.rootPayload e else []) e.len 0
  let t := r.2.2
  let t := if e.wants && t.windowGrants true then
      (t.writeMem (hostLoc e.caddr) (t.completion (enqStatus r.1 r.2.1) i)).drawn
    else t
  { t.evPkg 0x3F 0 1 with subhead := t.subhead + 1 }

/-- Entries are consumed while the device runs (Table 17.2). -/
def execSubmissionConsume (s : State) : Host.Outcome State Fault Refusal :=
  when (decide (s.power = .running) && decide (s.subhead ≠ s.subtail)) s s.consume

/-! ### Fault-buffer responses (R222, R338) -/

/-- A RED that was parked is issued again: it comes after everything its slot has issued so far (R234, R286). -/
def State.renumber (s : State) (id : Nat) : State :=
  { s with pend := s.pend.map (fun (x : Pend) => if x.id = id then { x with order := s.nextId } else x), nextId := s.nextId + 1 }

/-- An agent holds or awaits an entry of a fault buffer. -/
def State.hasFault (s : State) (a : Agent) : Bool :=
  s.fb.any (fun p => p.2.any (fun e => e.joiners.contains a)) || s.fbWait.any (fun w => w.agent == a)

/-- One request of a RED that is issued again: walked afresh, and parked where its page still faults (R222). -/
def State.rewalkReq (s : State) (p : Pend) (v : Band) (r : Req) : State :=
  let q := s.redPlace p.slot v true r.len r.va
  let t := { q.2 with pend := q.2.pend.map (fun (x : Pend) =>
    if x.id = p.id then { x with reqs := x.reqs.map (fun (y : Req) => if y.k = r.k then redReq r.len r.k r.lanes r.ops q.1 else y) }
    else x) }
  match q.1 with
  | .fault va why =>
    if s.hasFault (.red p.id r.k) then t else t.joinFault ⟨slotDie p.slot, .red p.id r.k, va, v.asid, .write, why, slotField p.slot⟩
  | _ => t

/-- A RED that had parked is issued again from the start: every request it has still to perform (R222). -/
def State.rewalkRed (s : State) (id : Nat) : State :=
  match s.findPend id with
  | none => s
  | some p =>
    match s.band? p.band with
    | none => s
    | some v => p.reqs.foldl (fun t r => t.rewalkReq p v r) (s.renumber id)

/-- A resolved fault: each agent replays its access from the start. -/
def State.replayAgent (s : State) (a : Agent) : State :=
  match a with
  | .slot k =>
    match (s.slot k).wait with
    | .parked _ _ => (s.modSlot k (fun c => { c with wait := .none, heldDst := none })).evField (slotField k) 0x0D 0
    | _ => s
  | .copy id =>
    match s.cmds.find? (fun (c : CopyCmd) => c.id == id && decide (c.phase = .parked)) with
    | some c => (s.modCmd id (fun (c : CopyCmd) => { c with phase := .resolved })).evField c.field 0x0D 0
    | none => s
  | .stream b nad =>
    let s := match s.band? b with
      | some v => s.evField (((v.edge nad).cur.map (fun (n : Binding) => slotField n.slot)).getD (v.row0 / 64)) 0x0D 0
      | none => s
    s.modBand b (fun v => v.setEdge nad { v.edge nad with parked := false })
  | .red id k =>
    match s.findPend id with
    | none => s
    | some p =>
      if p.reqs.any (fun (r : Req) => r.k == k && r.parked) then (s.evField (slotField p.slot) 0x0D 0).rewalkRed id else s
  | .coll id => s.modColl id (fun (c : CollOp) => { c with parked := false })

/-- An unresolvable fault: a trap, an error status, a record in the log, a stream that stays parked (log entry 26). -/
def State.failAgent (s : State) (a : Agent) : State :=
  match a with
  | .slot k =>
    match (s.slot k).wait with
    | .parked va _ => (s.modSlot k (fun c => { c with wait := .none, heldDst := none })).takeTrap k .xlate va (s.slot k).pc
    | _ => s
  | .copy id =>
    match s.cmds.find? (fun (c : CopyCmd) => c.id == id && decide (c.phase = .parked)) with
    | some c => (s.landSome c 0).modCmd id (fun (c : CopyCmd) => c.fail 3)
    | none => s
  | .stream _ _ => s
  | .red id k =>
    match s.findPend id with
    | none => s
    | some p =>
      match p.reqs.find? (fun (r : Req) => r.k == k && r.parked) with
      | some r => ((s.dropReq p k).logRed p r .xlate).rewalkRed id
      | none => s
  | .coll id =>
    match s.colls.find? (fun (c : CollOp) => c.id == id && c.parked) with
    | some c => (s.landColl c).modColl id (fun (c : CollOp) => { c with parked := false, err := some 3 })
    | none => s

/-- The answer to an entry that is valid: it frees the entry and acts on its joiners in the order they joined. -/
def State.respond (s : State) (i : Nat) (e : FbEntry) (code : Nat) : State :=
  let s := { s with fb := Tab.set none s.fb i none }
  e.joiners.foldl (fun s a => if code = 1 then s.replayAgent a else s.failAgent a) s

def execFbrespWrite (v : Word) (s : State) : Host.Outcome State Fault Refusal :=
  let code := bitsOf v.toNat 63 62
  let i := 256 * bitsOf v.toNat 10 8 + bitsOf v.toNat 7 0
  if !s.live || !s.hostWrites || code = 0 || code = 3 then .next s
  else match Tab.get none s.fb i with
    | some e => .next (s.respond i e code)
    | none => .next s

/-! ### Draining a fault log (R339) -/

/-- Records drained from a region's log, at most those it holds. -/
def State.drainLog (s : State) (region n : Nat) : State :=
  let o := s.logOwner region
  let c := s.logOf o
  let c' : LogCount := { c with drained := c.drained + min n (c.written - c.drained) }
  State.writeLogCounters { s with logs := Tab.set LogCount.zero s.logs o c' } o

def execLogdrainWrite (v : Word) (s : State) : Host.Outcome State Fault Refusal :=
  when (s.live && s.hostWrites) s (s.drainLog (bitsOf v.toNat 15 0) (bitsOf v.toNat 47 32))

/-! ### Writes of BAR0 (R335) -/

/-- A host write of a 64-bit register of BAR0: SUBTAIL, FBRESP and LOGDRAIN act as their own steps, the ring and the mailbox take
the value, read-only and reserved offsets take nothing (R5). -/
def execRegisterWrite (offset : Nat) (v : Word) (s : State) : Host.Outcome State Fault Refusal :=
  if !s.hostWrites || decide (s.power = .off) then .next s
  else if offset = 0 then execSubtailWrite v s
  else if offset = 0x200 then execFbrespWrite v s
  else if offset = 0x300 then execLogdrainWrite v s
  else if 0x30000 ≤ offset then .next (s.writeMailbox offset v)
  else when (s.live && inRing offset) s (s.writeRing offset v)

end Sys2Proof.Machine
end

