-- ==== Sys2Proof/Machine/Mgmt.lean ====
section
/-!
DEFINITION. The management mailbox's commands over the tables (spec/14 R341-R361): what each command refuses, and the moment
its change takes effect.
-/
namespace Sys2Proof.Machine

/-! ### Commands (R341, R342) -/

/-- How a command ends: a result code, or the state it leaves; `none` while it goes on. -/
inductive CmdEnd where
  | refused | busy | badcmd
  | ok (s : State)
  | later (s : State)

/-- An argument bit outside the fields of a command. -/
def argBad (w : Word) (mask : Nat) : Bool := (w &&& BitVec.ofNat 64 (2 ^ 56 - 1) &&& ~~~(BitVec.ofNat 64 mask)) != 0#64

/-- Run the command that waits in the mailbox if its code is `code`; `mask` holds the argument bits it defines. -/
def State.command (s : State) (code mask : Nat) (f : Word → CmdEnd) : Host.Outcome State Fault Refusal :=
  match s.mbCmd with
  | none => .next s
  | some w =>
    if cmdCode w ≠ code then .next s
    else if argBad w mask then .next (s.endCmd 3)
    else match f w with
      | .refused => .next (s.endCmd 1)
      | .busy => .next (s.endCmd 2)
      | .badcmd => .next (s.endCmd 3)
      | .ok t => .next (t.endCmd 0)
      | .later t => .next t

/-- A word of MBDATA. -/
def State.mbWord (s : State) (i : Nat) : Nat := (descWord s.mbData i).toNat

/-- A range of this device's HBM, aligned. -/
def hbmRange (base align len : Nat) : Bool := base % align == 0 && decide (base + len ≤ 2 ^ 40)

/-! ### Node table (R343, R344) -/

def nodeReserved (e : BitVec 512) : Bool :=
  bitsOf e.toNat 511 256 != 0 || bitsOf e.toNat 195 192 != 0 || bitsOf e.toNat 159 157 != 0
  || bitsOf e.toNat 143 141 != 0 || bitsOf e.toNat 59 57 != 0

/-- Table 1.4 and R308. -/
def nodeLimits (e : BitVec 512) : Bool :=
  decide (1 ≤ nodeBatch e) && decide (nodeBatch e ≤ 4096)
  && decide (1 ≤ nodeHeight e) && (decide (nodeHeight e ≤ 64) || (nodeHeight e % 64 == 0 && decide (nodeHeight e ≤ 4096)))
  && decide (8 ≤ nodeVregs e) && decide (nodeVregs e ≤ 64) && nodeVregs e % 8 == 0
  && decide (nodeWregs e ≤ 4) && decide (nodeAregs e ≤ 4) && decide (nodeDregs e ≤ 8)
  && decide (nodeSide e ≤ 128) && decide (nodePsize e ≤ 4096) && decide (nodeChunks e ≤ 128)

/-- A budget on the region's path is below the footprint. -/
def State.nodeOver (s : State) (e : BitVec 512) : Bool :=
  (s.limiters (nodeRegion e) 1).any (fun r => decide (regRowBud (s.region r) < nodeHeight e))
  || (s.limiters (nodeRegion e) 2).any (fun r =>
      decide (regSideBud (s.region r) < nodeChunks e * max 1 (nodeHeight e / 64)))

/-- A valid region of the constellation. -/
def State.regionOk (s : State) (i : Nat) : Bool :=
  regValid (s.region i) && (match s.conBase with
    | some (_, n) => decide (i < n)
    | none => false)

def State.nodeRefused (s : State) (e : BitVec 512) : Bool :=
  nodeReserved e || (nodeEntry e).toNat % 8 != 0 || !s.regionOk (nodeRegion e)
  || (nodeValid e && (!nodeLimits e || s.nodeOver e))

/-- A node has records not released, or bands not retired. -/
def State.nodeUsed (s : State) (n : Nat) : Bool := decide (s.queue n ≠ []) || decide (s.bandsOf n ≠ 0)

/-- The entry is replaced; a node made not valid loses its request, one that is valid is tested afresh (R304, R305). -/
def State.writeNode (s : State) (n : Nat) (e : BitVec 512) : State :=
  let s := { s with nodes := Tab.set 0#512 s.nodes n e }
  if nodeValid e then s.launchCheck n
  else { s with nodeReq := Tab.set none s.nodeReq n none, nodeFlush := Tab.set false s.nodeFlush n false,
                barred := Tab.set [] s.barred n [] }

def execNodewr (s : State) : Host.Outcome State Fault Refusal :=
  s.command 0x01 0xFFF (fun w =>
    let n := bitsOf w.toNat 11 0
    let e := s.mbData
    let old := s.node n
    if s.nodeRefused e then .refused
    else if (nodeHome e != nodeHome old || nodeRegion e != nodeRegion old) && s.nodeUsed n then .busy
    else .ok (s.writeNode n e))

def execNoderd (s : State) : Host.Outcome State Fault Refusal :=
  s.command 0x02 0xFFF (fun w => .ok { s with mbData := s.node (bitsOf w.toNat 11 0) })

/-- Some node is valid. -/
def State.anyNode (s : State) : Bool := s.nodes.any (fun p => nodeValid p.2)

/-! ### The constellation (R345-R347) -/

def execRegbase (s : State) : Host.Outcome State Fault Refusal :=
  s.command 0x03 0 (fun _ =>
    let base := s.mbWord 0
    let n := bitsOf (s.mbWord 1) 16 0
    if n = 0 ∨ 65536 < n ∨ hbmRange base 64 (64 * n) = false then .refused
    else if s.anyNode then .busy
    else .ok { s with conBase := some (base, n) })

def regReserved (r : BitVec 512) : Bool :=
  bitsOf r.toNat 511 432 != 0 || bitsOf r.toNat 385 384 != 0 || bitsOf r.toNat 383 352 != 0 || r.getLsbD 313
  || bitsOf r.toNat 247 244 != 0 || r.getLsbD 185 || bitsOf r.toNat 95 94 != 0 || bitsOf r.toNat 79 78 != 0
  || bitsOf r.toNat 62 48 != 0 || bitsOf r.toNat 31 25 != 0 || bitsOf r.toNat 15 3 != 0

/-- Fields out of range, an unaligned arena or log. -/
def regRange (r : BitVec 512) : Bool :=
  let l := regArenaLog r
  decide (regRowBud r ≤ 8192) && decide (regSideBud r ≤ 8192) && regLogBase r % 64 == 0
  && (l == 0 || (decide (6 ≤ l) && decide (l ≤ 40) && regArenaBase r % 2 ^ l == 0))

/-- The parent of region `i` is a valid region below it; region 0 has none. -/
def State.parentOk (s : State) (i : Nat) (r : BitVec 512) : Bool :=
  i == 0 || (decide (regParent r < i) && regValid (s.region (regParent r)))

/-- The arena a region's records use: none at arenalog 0, whichever block gives it (R347). -/
def State.arenaOf (s : State) (i : Nat) : Option (Nat × Nat × Nat) :=
  let o := s.arenaOwner i
  let l := regArenaLog (s.region o)
  if l = 0 then none else some (o, regArenaBase (s.region o), l)

/-- Where a region's faults are logged. -/
def State.logPlace (s : State) (i : Nat) : Nat × Nat × Nat :=
  let o := s.logOwner i
  (o, regLogBase (s.region o), regLogCap (s.region o))

/-- A region has bands not retired, held records or undrained log records. -/
def State.regionUsed (s : State) (i : Nat) : Bool :=
  s.bandList.any (fun p => p.2.region == i) || s.restores.any (fun (r : Restore) => r.band.region == i)
  || s.queues.any (fun p => decide (p.2 ≠ []) && nodeRegion (s.node p.1) == i)
  || decide (s.faultLog i ≠ 0)

/-- The regions that can be in use: those with a synchronised block. -/
def State.regionList (s : State) : List Nat := 0 :: s.regions.map Prod.fst

/-- A changed block alters what a region in use may not lose. -/
def State.regionTouched (s t : State) : Bool :=
  (s.regionList.filter s.regionUsed).any (fun j =>
    s.regAsidOf j != t.regAsidOf j || s.arenaOf j != t.arenaOf j || s.logPlace j != t.logPlace j)

/-- A valid node or block names the region. -/
def State.regionNamed (s : State) (i : Nat) : Bool :=
  s.nodes.any (fun p => nodeValid p.2 && nodeRegion p.2 == i)
  || s.regions.any (fun p => regValid p.2 && p.1 != 0 && p.1 != i && regParent p.2 == i)

def State.withRegion (s : State) (i : Nat) (r : BitVec 512) : State := { s with regions := Tab.set 0#512 s.regions i r }

def execRbsync (s : State) : Host.Outcome State Fault Refusal :=
  s.command 0x04 0xFFFF (fun w =>
    let i := bitsOf w.toNat 15 0
    match s.conBase with
    | none => .refused
    | some (base, n) =>
      if n ≤ i then .refused
      else
        let q := s.spanRead (base + 64 * i) 64 0 false
        let r := BitVec.ofNat 512 (ofBytes q.1)
        let t := q.2.withRegion i r
        if regReserved r || !regRange r || !s.parentOk i r then .refused
        else if q.2.regionTouched t || (!regValid r && regValid (s.region i) && s.regionNamed i) then .busy
        else .ok t)

/-! ### Address spaces (R348-R350) -/

def execAsidroot (s : State) : Host.Outcome State Fault Refusal :=
  s.command 0x05 0 (fun _ =>
    if hbmRange (s.mbWord 0) 4096 2048 = false then .refused
    else if s.anyNode then .busy
    else .ok { s with asidRoot := some (s.mbWord 0) })

/-- The pages a SHOOT names. -/
structure Shot where
  asid  : Nat
  page  : Nat
  pages : Nat
  ic    : Bool
  deriving DecidableEq, Repr

def State.shot (s : State) : Shot :=
  ⟨bitsOf (s.mbWord 1) 7 0, bitsOf (s.mbWord 0) 63 16, bitsOf (s.mbWord 1) 31 8, (s.mbWord 1).testBit 39⟩

def Shot.names (q : Shot) (asid page : Nat) : Bool :=
  asid == q.asid && (q.pages == 0 || (decide (q.page ≤ page) && decide (page < q.page + q.pages)))

def State.shootRefused (s : State) : Bool :=
  bitsOf (s.mbWord 0) 15 0 != 0 || bitsOf (s.mbWord 1) 63 40 != 0 || bitsOf (s.mbWord 1) 38 32 != 0
  || (s.shot.pages != 0 && decide (2 ^ 41 < s.shot.page + s.shot.pages))

/-- Every TLB drops the pages' translations, and every instruction cache the pages, where they are named too. -/
def State.shootDown (s : State) (q : Shot) : State :=
  { s with
    tlb := Tab.keep (fun k => !q.names (k / 2 ^ 48 % 256) (k % 2 ^ 48)) s.tlb
    icache := if q.ic then Tab.keep (fun k => !q.names (k / 2 ^ 64 % 256) (k % 2 ^ 64 / 2 ^ 16)) s.icache else s.icache }

/-- An access that translated through a named page is neither performed yet nor parked; a RED parks whole (R220). -/
def State.shootWaits (s : State) (q : Shot) : Bool :=
  s.pend.any (fun (p : Pend) => p.path == pathGather
    && !p.parked && p.reqs.any (fun (r : Req) => q.names (s.asidOf p.band) (vaPage r.va)))

def execShoot (s : State) : Host.Outcome State Fault Refusal :=
  s.command 0x06 0 (fun _ =>
    if s.shootRefused then .refused
    else
      let t := s.shootDown s.shot
      if s.shootWaits s.shot then .later t else .ok t)

/-! ### Migration tables (R351, R352) -/

def migReserved (e : BitVec 256) : Bool :=
  bitsOf e.toNat 255 206 != 0 || bitsOf e.toNat 191 134 != 0 || bitsOf e.toNat 127 116 != 0 || bitsOf e.toNat 79 64 != 0
  || bitsOf e.toNat 58 40 != 0 || bitsOf e.toNat 15 0 != 0

/-- The frame an entry's old page lies in keeps to Table 9.3. -/
def migOldOk (e : BitVec 256) : Bool :=
  let f := bitsOf e.toNat 115 80 * 2 ^ 16
  match bitsOf e.toNat 60 59 with
  | 0 => frameOk 0 f
  | 1 => frameOk 1 f
  | 2 => frameOk 2 f
  | _ => false

/-- An entry without its read-only fields. -/
def migBlank (e : BitVec 256) : Mig := ⟨e &&& ~~~(BitVec.ofNat 256 (2 ^ 206 - 2 ^ 192 + 2 ^ 62)), false, []⟩

/-- V of an entry of a quadrant's table. -/
def migOn (m : Mig) : Bool := m.raw.getLsbD 63

/-- The new frame overlaps that of another entry of the controller with V set. -/
def State.migOverlaps (s : State) (key : Nat) (m : Mig) : Bool :=
  s.migs.any (fun p => p.1 / 16 == key / 16 && p.1 != key && migOn p.2
    && decide (migNew m < migNew p.2 + migSize p.2) && decide (migNew p.2 < migNew m + migSize m))

def State.migRefused (s : State) (key : Nat) (e : BitVec 256) : Bool :=
  let m := migBlank e
  migReserved e || !migOldOk e || migNew m / 2 ^ 34 != key / 16
  || migNew m % migSize m != 0 || bitsOf e.toNat 115 80 * 2 ^ 16 % migSize m != 0
  || s.migOverlaps key m || (bitsOf e.toNat 133 128 != 0 && bitsOf e.toNat 60 59 != 0)

def migKeyOf (w : Word) : Nat := 16 * bitsOf w.toNat 5 0 + bitsOf w.toNat 11 8

def execMigwr (s : State) : Host.Outcome State Fault Refusal :=
  s.command 0x07 0xF3F (fun w =>
    let key := migKeyOf w
    let e := s.mbData.setWidth 256
    let old := Tab.get Mig.idle s.migs key
    if s.migRefused key e then .refused
    else if migOn old && (e.getLsbD 63 || !old.retired) then .busy
    else .ok { s with migs := Tab.set Mig.idle s.migs key (migBlank e) })

/-- An entry as it is read: its count of valid lines and its retired mark. -/
def migRead (m : Mig) : BitVec 256 :=
  m.raw ||| BitVec.ofNat 256 (m.lines.length * 2 ^ 192 + (if m.retired then 2 ^ 62 else 0))

/-- MBDATA with its low 256 bits replaced. -/
def State.lowData (s : State) (e : BitVec 256) : BitVec 512 := (s.mbData >>> 256 <<< 256) ||| e.setWidth 512

def execMigrd (s : State) : Host.Outcome State Fault Refusal :=
  s.command 0x08 0xF3F (fun w => .ok { s with mbData := s.lowData (migRead (Tab.get Mig.idle s.migs (migKeyOf w))) })

/-! ### Access tables (R353, R354) -/

/-- The masters of Table 14.7. -/
def masterIds : List Nat := List.range 0xC8 ++ [0xD0, 0xE0, 0xE8, 0xF0]

/-- The bits of a table that are not reserved. -/
def aclMask : BitVec 512 := masterIds.foldl (fun m i => m ||| (BitVec.ofNat 512 3 <<< (2 * i))) 0#512

/-- Both bits of a master. -/
def aclBoth (t : BitVec 512) (m : Nat) : Bool := t.getLsbD (2 * m) && t.getLsbD (2 * m + 1)

def execAclwr (s : State) : Host.Outcome State Fault Refusal :=
  s.command 0x09 0xFF (fun w =>
    let t := bitsOf w.toNat 7 0
    let v := s.mbData &&& aclMask
    if 0x89 < t then .badcmd
    else if !aclBoth v 0xF0 || (t == 0x88 && !aclBoth v 0xE0) then .refused
    else .ok { s with acl := Tab.set (aclReset t) s.acl t v })

def execAclrd (s : State) : Host.Outcome State Fault Refusal :=
  s.command 0x0A 0xFF (fun w =>
    let t := bitsOf w.toNat 7 0
    if 0x89 < t then .badcmd else .ok { s with mbData := s.aclTable t })

/-! ### Keys (R355-R357, R231) -/

/-- The loaded bits, reported after a key command, with zeros above (R355; log entry 69). -/
def State.loadedBits (s : State) : BitVec 512 :=
  BitVec.ofNat 512 ((s.keys.map (fun p => if p.2.isSome then 2 ^ p.1 else 0)).sum)

def State.reportKeys (s : State) : State := { s with mbData := s.loadedBits }

def execKeyload (s : State) : Host.Outcome State Fault Refusal :=
  s.command 0x0B 0x3F (fun w =>
    let i := bitsOf w.toNat 5 0
    if i = 0 ∨ s.mbData.extractLsb' 0 256 = s.mbData.extractLsb' 256 256 then .refused
    else .ok (State.reportKeys { s with keys := Tab.set none s.keys i (some s.mbData) }))

def execKeyclr (s : State) : Host.Outcome State Fault Refusal :=
  s.command 0x0C 0x3F (fun w => .ok (State.reportKeys { s with keys := Tab.set none s.keys (bitsOf w.toNat 5 0) none }))

/-- The halo-cache lines held under a slot. -/
def State.linesOf (s : State) (slot : Nat) : List Nat :=
  s.halo.filterMap (fun p => match p.2 with
    | some l => if l.slot = slot then some p.1 else none
    | none => none)

def execKeywb (s : State) : Host.Outcome State Fault Refusal :=
  s.command 0x0D 0x3F (fun w => .ok (((s.linesOf (bitsOf w.toNat 5 0)).foldl State.evictLine s).reportKeys))

/-! ### Patterns (R358, R359) -/

/-- An entry of a pattern from 0x40 to 0xFE. -/
def patBad (v : BitVec 512) : Bool :=
  (List.range 64).any (fun i => let b := bitsOf v.toNat (8 * i + 7) (8 * i); decide (0x40 ≤ b) && decide (b ≤ 0xFE))

def execPatwr (s : State) : Host.Outcome State Fault Refusal :=
  s.command 0x0E 0xF3F (fun w =>
    if patBad s.mbData then .refused else .ok (s.setPattern (bitsOf w.toNat 5 0) (bitsOf w.toNat 11 8) s.mbData))

/-! ### Collective groups (R360, R361) -/

/-- The fields of Table 14.8: reserved bits are ignored and read as 0 (R6). -/
def grpMask : BitVec 256 :=
  BitVec.ofNat 256 (2 ^ 104 - 2 ^ 63 + 2 ^ 52 - 2 ^ 32 + 2 ^ 14 - 1)

/-- The fields of an entry keep to Table 14.8. -/
def grpFields (e : BitVec 256) : Bool :=
  (grpScope e == 6 || grpScope e == 7) && decide (1 ≤ grpSize e) && decide (grpSize e ≤ 16384)
  && decide (grpRank e < grpSize e) && hbmRange (grpMembers e) 4 (4 * grpSize e)

/-- The words of a member array. -/
def memberWords (n : Nat) (bs : List Byte) : List (BitVec 32) := (elemsOf 4 n bs).map (BitVec.ofNat 32)

def execGrpwr (s : State) : Host.Outcome State Fault Refusal :=
  s.command 0x0F 0xFFF (fun w =>
    let g := bitsOf w.toNat 11 0
    let e := s.mbData.setWidth 256 &&& grpMask
    if !grpFields e then .refused
    else
      let q := s.spanRead (grpMembers e) (4 * grpSize e) 0 false
      let ms := memberWords (grpSize e) q.1
      let here := match ms[grpRank e]? with
        | some m => s.isSelf m
        | none => false
      if !here then .refused
      else if s.colls.any (fun (c : CollOp) => clGroup c.desc == g) then .busy
      else .ok { q.2 with groups := Tab.set 0#256 q.2.groups g e, members := Tab.set [] q.2.members g ms })

def execGrprd (s : State) : Host.Outcome State Fault Refusal :=
  s.command 0x10 0xFFF (fun w => .ok { s with mbData := s.lowData (s.group (bitsOf w.toNat 11 0)) })

/-! ### Spill rings, the threshold, PKGID, ports (Table 14.2) -/

def execSpillset (s : State) : Host.Outcome State Fault Refusal :=
  s.command 0x11 0x7 (fun w =>
    let die := bitsOf w.toNat 2 0
    let base := s.mbWord 0
    let size := bitsOf (s.mbWord 1) 24 0
    if size % 4096 ≠ 0 ∨ 2 ^ 24 < size ∨ hbmRange base 64 (32 * size) = false then .refused
    else if s.spilledOf die ≠ [] then .busy
    else .ok { s with spill := Tab.set (0, 0) s.spill die (base, size) })

def execThresh (s : State) : Host.Outcome State Fault Refusal :=
  s.command 0x12 0x3FFF (fun w =>
    let t := bitsOf w.toNat 13 0
    if t < 64 ∨ 8192 < t then .refused else .ok { s with thresh := t })

def execPkgset (s : State) : Host.Outcome State Fault Refusal :=
  s.command 0x13 0xFFFFFF (fun w => .ok { s with pkgid := w.setWidth 24 })

def execPortrst (s : State) : Host.Outcome State Fault Refusal :=
  s.command 0x14 0x1F (fun w =>
    let p := bitsOf w.toNat 4 0
    if 17 < p then .badcmd else .ok (s.setLink p { Link.reset with training := true }))

end Sys2Proof.Machine
end

