-- ==== Sys2Proof/Machine/Power.lean ====
section
/-!
DEFINITION. Twilight, eclipse, resume and reset (spec/17), answers to parked slots (spec/16 R390), power on and its loss.
-/
namespace Sys2Proof.Machine

/-! ### SUSPEND (R402-R405) -/

/-- A placed band whose restore has not begun waits for its restore again: no restore takes place in twilight. -/
def State.unplace (s : State) (b : Nat) (v : Band) : State :=
  if v.status == .placed && s.restores.any (fun (r : Restore) => r.seq == b) then
    ({ s with restores := s.restores.map (fun (r : Restore) =>
        if r.seq = b then { r with band := { r.band with records := v.records } } else r) } : State).setBand b none
  else s

/-- A frozen band issues nothing more and keeps what it holds (R404). -/
def State.freeze (s : State) (b : Nat) : State := (s.modBand b (fun v => { v with status := .frozen })).endAllHeld b

/-- Twilight asks a band to stop: a free one stops, or is frozen at once where its image has no place. -/
def State.duskBand (s : State) (b : Nat) : State :=
  match s.band? b with
  | none => s
  | some v =>
    if v.status = .killing then s
    else
      let s := s.setBand b (some { v with due := true, suspend := true, victimOf := none })
      if v.linked || !(v.status == .running || v.status == .stopping) then s.stopCopies b
      else if (s.imageBlock v).isNone then s.freeze b
      else s.stopBand b

/-- Twilight begins. -/
def State.dusk (s : State) (deadline base : Nat) : State :=
  let s := { s with power := .twilight, yieldBy := some (s.time.toNat + deadline), eclipseAt := some base }
  let s := s.bandList.foldl (fun s p => s.unplace p.1 p.2) s
  let s := (s.bandList.map Prod.fst).foldl (fun s b => (s.duskBand b).endAllHeld b) s
  s.proposeStops

def defaultYield : Nat := 50000000

/-- The eclipse area's base keeps to Table 17.1. -/
def eclipseBaseOk (b : Nat) : Bool := b % 2 ^ 30 == 0 && decide (b ≤ 0xFF80000000)

/-- The controller's own SUSPEND: the default deadline, and an area that no rule states (log entry 36). -/
def State.ownDusk (s : State) : State :=
  let base := ofBytes [Config.freeByte s.draws 0, Config.freeByte s.draws 1] % 1023 * 2 ^ 30
  ({ s with draws := s.draws + 1, mbCmd := some (BitVec.ofNat 64 (0x20 * 2 ^ 56)) } : State).dusk defaultYield base

def execSuspend (s : State) : Host.Outcome State Fault Refusal :=
  if s.mbCmd.isNone then when (decide (s.power = .running)) s s.ownDusk
  else if s.power = .twilight then .next s
  else s.command 0x20 0xFFFFFFF (fun w =>
    let d := bitsOf w.toNat 27 0
    let base := s.mbWord 0
    if 200000000 < d ∨ eclipseBaseOk base = false ∨ s.power ≠ .running then .refused
    else .later (s.dusk (if d = 0 then defaultYield else d) base))

/-- The save of a band waits for what no step of twilight brings: the answer to a parked RED, room for the record of a JDEC. -/
def State.saveStuck (s : State) (b : Nat) : Bool :=
  s.pend.any (fun (p : Pend) => p.band == b && p.parked) || s.heldRec.any (fun (h : HeldRec) => (h.jdec.map Msg.band) == some b)

/-- At the deadline: linked bands that have not yielded and do not yield in this step, free ones with a parked slot or with
unsettled work; and those that have yielded with a save that cannot end in twilight (log entry 37). -/
def State.expireBand (s : State) (b : Nat) : State :=
  match s.band? b with
  | none => s
  | some v =>
    if v.status = .running then (if s.mayYieldNow v && !s.saveStuck b then s.yieldBand b else s.freeze b)
    else if v.status = .saving && s.saveStuck b then s.freeze b
    else if v.status = .stopping && (s.policyParked v || !s.settled b v v.how) then s.freeze b
    else s

def execYieldDeadlineExpiry (s : State) : Host.Outcome State Fault Refusal :=
  match s.yieldBy with
  | some t =>
    when (decide (s.power = .twilight) && decide (t ≤ s.time.toNat)) s
      ((s.bandList.map Prod.fst).foldl State.expireBand { s with yieldBy := none })
  | none => .next s

/-! ### Eclipse (R403, R406, R407) -/

/-- Every band is saved or frozen. -/
def State.bandsSettled (s : State) : Bool := s.bandList.all (fun p => p.2.status == .frozen)

/-- An operation has no step left: it has ended but for its token, or is one of a single member, which has no steps (R361). -/
def CollOp.overNow (c : CollOp) : Bool := c.err.isSome || (c.started && decide (c.total ≤ c.steps))

/-- Only REDs that are parked are outstanding; no message, command or operation is between its boundaries. -/
def State.workSettled (s : State) : Bool :=
  s.pend.all (fun (p : Pend) => isRed p.op && p.parked)
  && decide (s.msgs = []) && decide (s.heldEnq = [])
  && s.cmds.all (fun (c : CopyCmd) => !c.ended)
  && s.colls.all (fun (c : CollOp) => s.tokenHeld c.band && c.overNow
      || c.err.isNone && (!c.started || c.parked || (c.stopped && decide (c.steps < c.total))))

/-- A port has acknowledged every flit it has received and drained its replay buffer. -/
def Link.settled (l : Link) : Bool := decide (l.replay = []) && !l.training && decide (l.told = l.ack)

/-- Every port that is up has settled. -/
def State.linksSettled (s : State) : Bool := (List.range portCount).all (fun p => !(s.link p).up || (s.link p).settled)

/-- A slot parked on a translation leaves its entry and replays at resume. -/
def Slot.darken (c : Slot) : Slot :=
  match c.wait with
  | .parked _ _ => { c with wait := .none, replay := true, heldDst := none }
  | _ => c

/-- The bytes of the eclipse area. -/
def eclipseSize : Nat := 2 ^ 31

/-- The on-die state is written to the area under a key no master can read: its bytes are free values (log entry 12). -/
def State.writeEclipse (s : State) : State :=
  match s.eclipseAt with
  | none => s
  | some b =>
    { s with
      mem := s.mem.forget ⟨b, eclipseSize, s.draws⟩
      draws := s.draws + 1
      unkeyed := Tab.keep (fun l => !(decide (b / 256 ≤ l) && decide (l < (b + eclipseSize) / 256))) s.unkeyed
      lineKey := Tab.keep (fun l => !(decide (b / 256 ≤ l) && decide (l < (b + eclipseSize) / 256))) s.lineKey
      poison := Tab.keep (fun w => !(decide (b / 8 ≤ w) && decide (w < (b + eclipseSize) / 8))) s.poison }

/-- Every dirty line is written back; the halo caches, TLBs and instruction caches keep nothing. -/
def State.dropCaches (s : State) : State :=
  let s := (s.halo.map Prod.fst).foldl State.evictLine s
  { s with tlb := [], icache := [] }

/-- What eclipse keeps (R406). -/
def State.kept (s : State) : Kept := {
  pkgid := s.pkgid
  thresh := s.thresh
  asidRoot := s.asidRoot
  conBase := s.conBase
  acl := s.acl
  groups := s.groups
  members := s.members
  nodes := s.nodes
  nodeReq := s.nodeReq
  nodeFlush := s.nodeFlush
  barred := s.barred
  regions := s.regions
  bands := s.bands
  slots := s.slots
  migs := s.migs
  patterns := s.patterns
  evc := s.evc
  spill := s.spill
  cmds := s.cmds
  copyLine := s.copyLine
  copyGrant := s.copyGrant
  colls := s.colls
  collLine := s.collLine
  collGrant := s.collGrant
  links := s.links
  subtail := s.subtail }

/-- The state of R406 is there again: what a command changed in eclipse is lost, but for the mailbox and the keys, which the
management controller holds (log entry 97). -/
def State.bringBack (s : State) (k : Kept) : State := { s with
  pkgid := k.pkgid
  thresh := k.thresh
  asidRoot := k.asidRoot
  conBase := k.conBase
  acl := k.acl
  groups := k.groups
  members := k.members
  nodes := k.nodes
  nodeReq := k.nodeReq
  nodeFlush := k.nodeFlush
  barred := k.barred
  regions := k.regions
  bands := k.bands
  slots := k.slots
  migs := k.migs
  patterns := k.patterns
  evc := k.evc
  spill := k.spill
  cmds := k.cmds
  copyLine := k.copyLine
  copyGrant := k.copyGrant
  colls := k.colls
  collLine := k.collLine
  collGrant := k.collGrant
  links := k.links
  subtail := k.subtail
  tlb := []
  icache := []
  halo := []
  acts := []
  alerts := []
  eclipsed := none }

/-- Eclipse: caches written back, the area written, counts not kept, parked accesses marked for replay. -/
def State.enterEclipse (s : State) : State :=
  let s := s.dropCaches.writeEclipse
  let s := s.leaveFault (fun _ => true)
  let s := s.modSlots s.slotList Slot.darken
  let cmds := s.cmds.map (fun (c : CopyCmd) => match c.phase with
    | .running _ => { c with phase := .resolved }
    | _ => c)
  let s := { s with cmds := cmds }
  State.endCmd { s with
    power := .eclipse
    yieldBy := none
    eclipsed := some s.kept
    acts := []
    alerts := []
    bankUntil := []
    backoff := []
    refresh := []
    openRow := [] } 0

def execEclipseEnter (s : State) : Host.Outcome State Fault Refusal :=
  when (decide (s.power = .twilight) && s.bandsSettled && s.workSettled && s.linksSettled) s s.enterEclipse

/-! ### RESUME (R408) -/

/-- The slots marked for replay, as agents. -/
def State.darkSlots (s : State) : List Nat := s.slotList.filter (fun k => (s.slot k).replay)

/-- A replay-marked slot goes on at its word. -/
def State.replaySlot (s : State) (k : Nat) : State :=
  (s.modSlot k (fun c => { c with replay := false })).evField (slotField k) 0x0D 0

/-- Everything else that parked on a translation replays: copy commands, streams, reductions, collectives. -/
def State.darkAgents (s : State) : List Agent :=
  (s.cmds.filter (fun (c : CopyCmd) => decide (c.phase = .parked))).map (fun c => .copy c.id)
  ++ s.bandList.flatMap (fun p => (if p.2.zen.parked then [Agent.stream p.1 false] else [])
      ++ (if p.2.nad.parked then [Agent.stream p.1 true] else []))
  ++ s.pend.filterMap (fun (p : Pend) => (p.reqs.find? (fun (r : Req) => r.parked)).map (fun r => Agent.red p.id r.k))
  ++ (s.colls.filter (fun (c : CollOp) => c.parked)).map (fun c => .coll c.id)

/-- A binding of a frozen band that had given its queue entry up asks for one again (R199). -/
def State.thawEdge (s : State) (b : Nat) (nad : Bool) : State :=
  match (s.band? b).bind (fun v => (v.edge nad).cur) with
  | some n => if n.entry || s.copyLine.contains (.stream b nad) then s else s.resumeEdge b nad
  | none => s

/-- A frozen band runs on in place; twilight's request is over, so its rows go on behind their YIELDs (log entry 37). -/
def State.thaw (s : State) (b : Nat) : State :=
  match s.band? b with
  | none => s
  | some v =>
    let s := (s.modSlots v.slotKeys Slot.endYield).setBand b (some { v with
      status := if v.status = .frozen then .running else v.status, due := false, suspend := false })
    (s.thawEdge b false).thawEdge b true

/-- The ports retrain on the lanes they have. -/
def State.retrain (s : State) : State :=
  (List.range portCount).foldl (fun s p =>
    if (s.link p).up then s.setLink p { s.link p with training := true } else s) s

/-- Some port is still retraining. -/
def State.retraining (s : State) : Bool := (List.range portCount).any (fun p => (s.link p).up && (s.link p).training)

/-- The ports have retrained or gone down: marked accesses replay, frozen bands run on, and the images of twilight are next. -/
def State.wake (s : State) : State :=
  if !s.waking || s.retraining then s
  else
    let s := { s with waking := false }
    let s := s.darkSlots.foldl State.replaySlot s
    let s := s.darkAgents.foldl State.replayAgent s
    ((s.bandList.map Prod.fst).foldl State.thaw s).finishWake

/-- RESUME begins: the state is there again, and the ports retrain. -/
def State.dawn (s : State) : State :=
  let s := match s.eclipsed with
    | some k => s.bringBack k
    | none => s
  let s := ({ s with power := .resuming, waking := true, eclipseAt := none } : State).retrain
  let colls := s.colls.map CollOp.goOn
  ({ s with colls := colls } : State).wake

def execResume (s : State) : Host.Outcome State Fault Refusal :=
  if s.power = .resuming then .next s
  else s.command 0x21 0 (fun _ => if s.power ≠ .eclipse then .refused else .later s.dawn)

/-! ### Ports that retrain (R332, R333, R408) -/

def execRetrainComplete (port : Nat) (s : State) : Host.Outcome State Fault Refusal :=
  when (s.live && decide (port < portCount) && (s.link port).up && (s.link port).training) s
    (s.setLink port { (s.link port).replayAll with training := false }).wake

/-- A port that retrains in vain, or that runs on seven lanes and loses another. -/
def execPortDown (port : Nat) (s : State) : Host.Outcome State Fault Refusal :=
  when (s.live && decide (port < portCount) && (s.link port).up
    && ((s.link port).training || (s.link port).lanes == 7)) s (s.losePort port).wake

/-! ### RESET and power (R407, R409, R410) -/

/-- A location outside the package's own memories keeps its bytes; HBM keeps them on RESET. -/
def keptByte (hbm : Bool) (loc : Nat) : Bool := decide (2 ^ 52 ≤ loc) || (hbm && decide (loc < 2 ^ 40))

/-- What a reset leaves: Table 17.3, with the model's own agenda, clock and record of outputs. -/
def State.cleared (s : State) : State :=
  { State.reset with
    agenda := s.agenda
    cur := s.cur
    issueClk := s.issueClk
    nextId := s.nextId
    draws := s.draws
    outbox := s.outbox
    steps := s.steps
    stepsIn := s.stepsIn
    clkPhase := s.clkPhase }

/-- RESET: dirty lines are written back, HBM is kept as it is stored, TIME counts on. -/
def State.resetDevice (s : State) : State :=
  let s := s.dropCaches
  let t := s.cleared
  { t with
    time := s.time
    mem := { s.mem with cells := Tab.keep (keptByte true) s.mem.cells }
    lineKey := s.lineKey
    unkeyed := s.unkeyed
    poison := Tab.keep (fun w => decide (8 * w < 2 ^ 40)) s.poison }

def execReset (s : State) : Host.Outcome State Fault Refusal := s.command 0x22 0 (fun _ => .ok s.resetDevice)

/-- Power-on: HBM is undefined, TIME is 0 (R381, R409). -/
def execPowerOn (s : State) : Host.Outcome State Fault Refusal :=
  let t := s.cleared
  .next { t with
    draws := s.draws + 1
    mem := {
      cells := Tab.keep (keptByte false) s.mem.cells
      fills := ⟨0, 2 ^ 40, s.draws⟩ :: s.mem.fills.filter (fun (f : Fill) => decide (2 ^ 40 < f.base + f.len)) } }

/-- A loss of power in eclipse loses the state: nothing happens until power-on. -/
def execPowerLoss (s : State) : Host.Outcome State Fault Refusal :=
  let t := s.cleared
  when (decide (s.power = .eclipse)) s { t with power := .off, mem := { s.mem with cells := Tab.keep (keptByte true) s.mem.cells } }

/-! ### PARKANS and PWRSTAT (R390, R402) -/

/-- The slot an answer names, if it is parked by policy. -/
def State.parkedSlot (s : State) : Option (Nat × Nat) :=
  let b := s.mbWord 0
  let j := bitsOf (s.mbWord 1) 11 0
  match s.band? b with
  | some v =>
    if j < v.height ∧ v.slotAB = bitsOf (s.mbWord 1) 16 16 ∧ (s.slot (v.slotOf j)).policyPark then some (b, v.slotOf j) else none
  | none => none

/-- TRAPPC as an answer gives it (R112). -/
def trappcOf (w : Nat) : Word := BitVec.ofNat 64 (bitsOf w 56 3 * 8)

/-- A parked slot continues at TRAPPC, which has 57 bits; at the exit address its row ends. -/
def Slot.unpark (c : Slot) : Slot :=
  if c.trappc = exitAddress then { c with policyPark := false }.exitRow c.pc
  else { c with policyPark := false, pc := c.trappc, high := 0 }

/-- The answers: resume, where the value of TRAPPC may be replaced first; kill without a record; hold (R390). -/
def State.answerPark (s : State) (b k answer : Nat) : State :=
  match answer with
  | 0 =>
    let s := if (s.mbWord 1).testBit 32 then s.modSlot k (fun c => { c with trappc := trappcOf (s.mbWord 2) }) else s
    s.modSlot k Slot.unpark
  | 1 => s.killBand b ⟨false, .swtrap, 0#64, 0#64, slotRow k, slotAB k, 0⟩
  | _ => s

def execParkans (s : State) : Host.Outcome State Fault Refusal :=
  s.command 0x23 0 (fun _ =>
    let answer := bitsOf (s.mbWord 1) 25 24
    match s.parkedSlot with
    | some (b, k) => if answer = 3 then .refused else .ok (s.answerPark b k answer)
    | none => .refused)

/-- The code of a device state. -/
def Power.code (p : Power) : Nat :=
  match p with
  | .running => 0
  | .twilight => 1
  | .eclipse | .off => 2
  | .resuming => 3

def State.frozenBands (s : State) : Nat := (s.bandList.filter (fun p => p.2.status == .frozen)).length

def execPwrstat (s : State) : Host.Outcome State Fault Refusal :=
  s.command 0x24 0 (fun _ =>
    .ok ((s.setMbWord 0 (BitVec.ofNat 64 s.power.code)).setMbWord 1 (BitVec.ofNat 64 s.frozenBands)))

end Sys2Proof.Machine
end

