-- ==== Sys2Proof/Machine/Dram.lean ====
section
/-!
DEFINITION. Memory controllers (spec/09 R225-R229), instruction-cache fills (R214), uncorrectable errors (R233, spec/16 R386),
and the tick of the reference clock (spec/15 R381).
-/
namespace Sys2Proof.Machine

/-! ### Migration fill (R225) -/

/-- Fill a line before any access has come through its leaf: the entry names no key slot of the new frame, so the line takes
that of the first access to it (log entry 75). -/
def State.fillMig (s : State) (key : Nat) (m : Mig) (i : Nat) : State :=
  (s.migFetch key m i 0).setUnkeyed (migNew m / 256 + i) true

/-- The first line of a migrating page that is not valid. -/
def migNext (m : Mig) : Option Nat := (List.range (migSize m / 256)).find? (fun i => !Tab.get false m.lines i)

/-- A demand access waits at a bank of a quadrant: whatever waits there but the fills. -/
def State.demandAt (s : State) (quadrant : Nat) : Bool :=
  s.backoff.any (fun b => b.1 / 512 == quadrant && (match b.2 with
    | .act (.event (.migrationBackgroundFill _ _)) => false
    | _ => true))

/-- The fill yields to every demand access and to the urgent reads (R225, R226). -/
def execMigrationBackgroundFill (quadrant entry : Nat) (s : State) : Host.Outcome State Fault Refusal :=
  let key := 16 * quadrant + entry
  let m := Tab.get Mig.idle s.migs key
  match (if s.live && decide (entry < 16) && migActive m then migNext m else none) with
  | some i =>
    when (!s.demandAt quadrant && !s.urgentAt quadrant) s ((s.fillMig key m i).evQuad quadrant 0x2B 1)
  | none => .next s

/-! ### Refresh (R228, R229) -/

/-- The quadrant of a row's key, its bank's key, its row. -/
def rowQuad (r : Nat) : Nat := r / 32768 / 512
def rowBank (r : Nat) : Nat := r / 32768
def rowOf (r : Nat) : Nat := r % 32768

/-- The rows at distances 1 and 2 of a row that exist. -/
def neighbours (row : Nat) : Nat :=
  (if 1 ≤ row then 1 else 0) + (if 2 ≤ row then 1 else 0) + (if row + 1 < 32768 then 1 else 0) + (if row + 2 < 32768 then 1 else 0)

/-- Refresh management for the first alert of a quadrant: its count is 0 and its bank unavailable for 30 ticks. -/
def State.manageRow (s : State) (r : Nat) : State :=
  let s := (s.evQuad (rowQuad r) 0x22 1).evQuad (rowQuad r) 0x23 (neighbours (rowOf r))
  { s with
    acts := Tab.set 0 s.acts r 0
    alerts := s.alerts.erase r
    bankUntil := Tab.set none s.bankUntil (rowBank r) (some (s.time.toNat + 30)) }

def execRefreshManagement (quadrant : Nat) (s : State) : Host.Outcome State Fault Refusal :=
  match s.alerts.find? (fun r => rowQuad r == quadrant) with
  | some r => when s.live s (s.manageRow r)
  | none => .next s

/-- Banks of a quadrant whose 30 ticks have passed are available again. -/
def execBankAvailable (quadrant : Nat) (s : State) : Host.Outcome State Fault Refusal :=
  when s.live s { s with bankUntil := s.bankUntil.filter (fun p => !(p.1 / 512 == quadrant && (match p.2 with
    | some t => decide (t ≤ s.time.toNat)
    | none => true))) }

/-- The postponed refreshes of a bank. -/
def State.postponed (s : State) (bank : Nat) : Nat := Tab.get 0 s.refresh bank

/-- A copy command runs on an engine: its burst is under way. -/
def State.bursts (s : State) (id : Nat) : Bool :=
  s.cmds.any (fun (c : CopyCmd) => c.id == id && (match c.phase with
    | .running _ => true
    | _ => false))

/-- At the limit of 8, with a row held open by the burst of command `id`: the bank refreshes and reopens the row, one more
activation. -/
def State.reopen (s : State) (bank row id : Nat) : State :=
  let P := bank / 512 * 2 ^ 34 + row * 2 ^ 19 + bank % 64 * 2 ^ 13 + bank / 64 % 8 * 2 ^ 8
  let s := { s with refresh := Tab.set 0 s.refresh bank (s.postponed bank - 1) }
  let s := (s.activate P).evQuad (bank / 512) 0x25 1
  { s with openRow := Tab.set none s.openRow bank (some (row, id)) }

def execMidBurstRefresh (quadrant bank : Nat) (s : State) : Host.Outcome State Fault Refusal :=
  let key := 512 * quadrant + bank
  match Tab.get none s.openRow key with
  | some (row, id) =>
    when (s.live && decide (bank < 512) && decide (8 ≤ s.postponed key) && s.bursts id) s (s.reopen key row id)
  | none => .next s

/-- A refresh that falls due is postponed, below the limit, or performed with those postponed (log entry 38). -/
def State.refreshDue (s : State) (bank : Nat) (postpone : Bool) : State :=
  if postpone then { s with refresh := Tab.set 0 s.refresh bank (s.postponed bank + 1) }
  else { s with refresh := Tab.set 0 s.refresh bank 0, openRow := Tab.set none s.openRow bank none }

def execPeriodicRefresh (quadrant bank : Nat) (postpone : Bool) (s : State) : Host.Outcome State Fault Refusal :=
  let key := 512 * quadrant + bank
  when (s.live && decide (quadrant < 64) && decide (bank < 512) && (!postpone || decide (s.postponed key < 8))) s
    (s.refreshDue key postpone)

/-! ### The reference clock (R377, R381) -/

/-- One tick: the steps left of it pass, and TIME rises at its end; in eclipse only TIME counts (R381). -/
def State.tick (s : State) : State :=
  if s.live then s.passSteps (max 1 (s.tickSteps - s.stepsIn)) else { s with time := s.time + 1, clkPhase := !s.clkPhase }

def execTick (s : State) : Host.Outcome State Fault Refusal := when (decide (s.power ≠ .off)) s s.tick

/-! ### Uncorrectable errors (R233, R386) -/

/-- The memories whose words carry a poison mark. -/
def holdsPoison (loc : Nat) : Bool :=
  match spaceOf loc with
  | .hbm | .side _ | .queue _ => true
  | _ => false

/-- A register of a row slot: the operand codes of registers that hold errors. -/
def errCode (c : Nat) : Bool := (decide (1 ≤ c) && decide (c < 0x68)) || (decide (0x70 ≤ c) && decide (c < 0x78))

/-- The first value of a port is marked. -/
def markFirst (es : List PortEntry) : List PortEntry :=
  match es with
  | [] => []
  | e :: t => { e with val := { e.val with bad := true } } :: t

def State.spoil (s : State) (t : ErrTarget) : State :=
  match t with
  | .memWord loc => if holdsPoison loc then s.markPoison loc else s
  | .register k code =>
    if errCode code.toNat && (s.bandOf k).isSome && !(s.slot k).softErr.contains code then
      s.modSlot k (fun c => { c with softErr := c.softErr ++ [code] })
    else s
  | .portValue k => s.modSlot k (fun c => { c with south := markFirst c.south })

def execUncorrectableError (at_ : ErrTarget) (s : State) : Host.Outcome State Fault Refusal := .next (s.spoil at_)

/-! ### Instruction-cache fills (R214) -/

/-- Words an instruction cache of 256 KiB holds (R214). -/
def icWords : Nat := 32768

/-- A full instruction cache drops a word for the one that comes. -/
def State.icRoom (s : State) (f : Nat) : State :=
  let ks := (s.icache.map Prod.fst).filter (fun k => k / 2 ^ 64 / 256 == f)
  if ks.length < icWords then s
  else match ks[Config.victim ks s.draws % ks.length]? with
    | some k => { s with icache := Tab.set none s.icache k none, draws := s.draws + 1 }
    | none => s

/-- Fill the word at an address of a slot's field, or park the slot on the fault its fetch meets; a fetch that its target
denies, or that meets poison, fills nothing (log entry 34). -/
def State.fillWord (s : State) (k : Nat) (v : Band) (pc : Word) : State :=
  let f := slotField k
  let r := s.translate f v.asid .fetch pc
  match r.1 with
  | .inr why => r.2.parkSlot k v.asid pc .fetch why
  | .inl l =>
    let p := r.2.placeOf (0, pc) l
    if r.2.denied p.loc p.key (slotMaster k) true false || r.2.meetsPoison p.loc 8 p.mig then r.2
    else
      let q := r.2.targetRead p.loc 8 p.key p.mig false
      let t := q.2.icRoom f
      { t with icache := Tab.set none t.icache (icKey f v.asid pc) (some (BitVec.ofNat 64 (ofBytes q.1))) }

/-- The address a slot's next word misses at: its PC, or the literal behind it, whose own address the fault then holds (R74; log
entry 87). -/
def State.fetchMiss (s : State) (k : Nat) (v : Band) : Option Word :=
  let pc := (s.slot k).fetchAt
  let at_ (a : Word) := Tab.get none s.icache (icKey (slotField k) v.asid a)
  match at_ pc with
  | none => some pc
  | some w => if wordIsExtended w && (at_ (pc + 8)).isNone then some (pc + 8) else none

def execInstructionCacheFill (slot : Nat) (s : State) : Host.Outcome State Fault Refusal :=
  match s.bandOf slot with
  | none => .next s
  | some v =>
    if !s.runnable slot then .next s
    else match s.fetchMiss slot v with
      | none => .next s
      | some pc =>
        .next ((s.fillWord slot v pc).evField (slotField slot) 0x11 0)

end Sys2Proof.Machine
end

