-- ==== Sys2Proof/Machine/Dispatch.lean ====
section
/-!
DEFINITION. The dispatch of every operation to its meaning: one arm per constructor of Instr.
-/
namespace Sys2Proof.Machine

def exec (i : Instr) (s : State) : Host.Outcome State Fault Refusal :=
  match i with
  | .nop => Sys2Proof.Machine.execNop s
  | .add d a b => Sys2Proof.Machine.execAdd d a b s
  | .sub d a b => Sys2Proof.Machine.execSub d a b s
  | .mul d a b => Sys2Proof.Machine.execMul d a b s
  | .mulh d a b => Sys2Proof.Machine.execMulh d a b s
  | .mulhn d a b => Sys2Proof.Machine.execMulhn d a b s
  | .div d a b => Sys2Proof.Machine.execDiv d a b s
  | .divn d a b => Sys2Proof.Machine.execDivn d a b s
  | .rem d a b => Sys2Proof.Machine.execRem d a b s
  | .remn d a b => Sys2Proof.Machine.execRemn d a b s
  | .and d a b => Sys2Proof.Machine.execAnd d a b s
  | .or d a b => Sys2Proof.Machine.execOr d a b s
  | .xor d a b => Sys2Proof.Machine.execXor d a b s
  | .andn d a b => Sys2Proof.Machine.execAndn d a b s
  | .shl d a b => Sys2Proof.Machine.execShl d a b s
  | .shr d a b => Sys2Proof.Machine.execShr d a b s
  | .sar d a b => Sys2Proof.Machine.execSar d a b s
  | .rot d a b => Sys2Proof.Machine.execRot d a b s
  | .min d a b => Sys2Proof.Machine.execMin d a b s
  | .max d a b => Sys2Proof.Machine.execMax d a b s
  | .minn d a b => Sys2Proof.Machine.execMinn d a b s
  | .maxn d a b => Sys2Proof.Machine.execMaxn d a b s
  | .clz d a => Sys2Proof.Machine.execClz d a s
  | .ctz d a => Sys2Proof.Machine.execCtz d a s
  | .popc d a => Sys2Proof.Machine.execPopc d a s
  | .seq d a b => Sys2Proof.Machine.execSeq d a b s
  | .sne d a b => Sys2Proof.Machine.execSne d a b s
  | .slt d a b => Sys2Proof.Machine.execSlt d a b s
  | .sltn d a b => Sys2Proof.Machine.execSltn d a b s
  | .sle d a b => Sys2Proof.Machine.execSle d a b s
  | .slen d a b => Sys2Proof.Machine.execSlen d a b s
  | .sel d a b c => Sys2Proof.Machine.execSel d a b c s
  | .lea d a b k => Sys2Proof.Machine.execLea d a b k s
  | .mov d a => Sys2Proof.Machine.execMov d a s
  | .li d b => Sys2Proof.Machine.execLi d b s
  | .bfx d a b sx => Sys2Proof.Machine.execBfx d a b sx s
  | .bfi d a b => Sys2Proof.Machine.execBfi d a b s
  | .madd d a b c => Sys2Proof.Machine.execMadd d a b c s
  | .j imm => Sys2Proof.Machine.execJ imm s
  | .jr a => Sys2Proof.Machine.execJr a s
  | .bz a imm => Sys2Proof.Machine.execBz a imm s
  | .bnz a imm => Sys2Proof.Machine.execBnz a imm s
  | .call d imm => Sys2Proof.Machine.execCall d imm s
  | .callr d a => Sys2Proof.Machine.execCallr d a s
  | .dbnz d a imm => Sys2Proof.Machine.execDbnz d a imm s
  | .lif p => Sys2Proof.Machine.execLif p s
  | .lelse => Sys2Proof.Machine.execLelse s
  | .lendif => Sys2Proof.Machine.execLendif s
  | .lloop => Sys2Proof.Machine.execLloop s
  | .lbreak p k => Sys2Proof.Machine.execLbreak p k s
  | .lcont p k => Sys2Proof.Machine.execLcont p k s
  | .lendl p back => Sys2Proof.Machine.execLendl p back s
  | .lany d p => Sys2Proof.Machine.execLany d p s
  | .lall d p => Sys2Proof.Machine.execLall d p s
  | .lcnt d p => Sys2Proof.Machine.execLcnt d p s
  | .waitc d a b => Sys2Proof.Machine.execWaitc d a b s
  | .yield b => Sys2Proof.Machine.execYield b s
  | .exit => Sys2Proof.Machine.execExit s
  | .trap b => Sys2Proof.Machine.execTrap b s
  | .brk => Sys2Proof.Machine.execBrk s
  | .vadd g d a b rm sat un => Sys2Proof.Machine.execVadd g d a b rm sat un s
  | .vsub g d a b rm sat un => Sys2Proof.Machine.execVsub g d a b rm sat un s
  | .vmul g d a b rm sat un => Sys2Proof.Machine.execVmul g d a b rm sat un s
  | .vfma g d a b c rm sat un => Sys2Proof.Machine.execVfma g d a b c rm sat un s
  | .vfms g d a b c rm sat un => Sys2Proof.Machine.execVfms g d a b c rm sat un s
  | .vmin g d a b un => Sys2Proof.Machine.execVmin g d a b un s
  | .vmax g d a b un => Sys2Proof.Machine.execVmax g d a b un s
  | .vabs g d a sat => Sys2Proof.Machine.execVabs g d a sat s
  | .vneg g d a sat => Sys2Proof.Machine.execVneg g d a sat s
  | .vrcp g d a rm sat => Sys2Proof.Machine.execVrcp g d a rm sat s
  | .vrsq g d a rm sat => Sys2Proof.Machine.execVrsq g d a rm sat s
  | .vsqrt g d a rm sat => Sys2Proof.Machine.execVsqrt g d a rm sat s
  | .vexp2 g d a rm sat => Sys2Proof.Machine.execVexp2 g d a rm sat s
  | .vlog2 g d a rm sat => Sys2Proof.Machine.execVlog2 g d a rm sat s
  | .vtanh g d a rm sat => Sys2Proof.Machine.execVtanh g d a rm sat s
  | .vcmp g d a b cc any un => Sys2Proof.Machine.execVcmp g d a b cc any un s
  | .vsel g d a b c => Sys2Proof.Machine.execVsel g d a b c s
  | .vand g d a b => Sys2Proof.Machine.execVand g d a b s
  | .vor g d a b => Sys2Proof.Machine.execVor g d a b s
  | .vxor g d a b => Sys2Proof.Machine.execVxor g d a b s
  | .vshl g d a b sat un => Sys2Proof.Machine.execVshl g d a b sat un s
  | .vshr g d a b => Sys2Proof.Machine.execVshr g d a b s
  | .vsar g d a b => Sys2Proof.Machine.execVsar g d a b s
  | .vdot g d a b c rm sat un => Sys2Proof.Machine.execVdot g d a b c rm sat un s
  | .vsplat g d a fmt => Sys2Proof.Machine.execVsplat g d a fmt s
  | .vmovx g d a b => Sys2Proof.Machine.execVmovx g d a b s
  | .vins g d a b fmt => Sys2Proof.Machine.execVins g d a b fmt s
  | .vred g d a op rm sat un => Sys2Proof.Machine.execVred g d a op rm sat un s
  | .vscan g d a op rm sat un excl => Sys2Proof.Machine.execVscan g d a op rm sat un excl s
  | .vcvt g d a fmt rm sat un => Sys2Proof.Machine.execVcvt g d a fmt rm sat un s
  | .vpack g d a b fmt rm sat un => Sys2Proof.Machine.execVpack g d a b fmt rm sat un s
  | .vunpk g d a fmt rm sat un part => Sys2Proof.Machine.execVunpk g d a fmt rm sat un part s
  | .vtag g d a fmt => Sys2Proof.Machine.execVtag g d a fmt s
  | .vscl g d a b add => Sys2Proof.Machine.execVscl g d a b add s
  | .vquant g d a b word => Sys2Proof.Machine.execVquant g d a b word s
  | .vdeq g d a b fmt rm sat word => Sys2Proof.Machine.execVdeq g d a b fmt rm sat word s
  | .xbar g d a k => Sys2Proof.Machine.execXbar g d a k s
  | .xbld a k => Sys2Proof.Machine.execXbld a k s
  | .vrot g d a b => Sys2Proof.Machine.execVrot g d a b s
  | .vbcast g d a b => Sys2Proof.Machine.execVbcast g d a b s
  | .pand d a b => Sys2Proof.Machine.execPand d a b s
  | .por d a b => Sys2Proof.Machine.execPor d a b s
  | .pxor d a b => Sys2Proof.Machine.execPxor d a b s
  | .pnot d a => Sys2Proof.Machine.execPnot d a s
  | .pset d b => Sys2Proof.Machine.execPset d b s
  | .vrng g d => Sys2Proof.Machine.execVrng g d s
  | .vseed g a => Sys2Proof.Machine.execVseed g a s
  | .mstep g d a b kw slice => Sys2Proof.Machine.execMstep g d a b kw slice s
  | .mstepn g d a b c kw slice => Sys2Proof.Machine.execMstepn g d a b c kw slice s
  | .msteps g d a b kw slice => Sys2Proof.Machine.execMsteps g d a b kw slice s
  | .accz g d => Sys2Proof.Machine.execAccz g d s
  | .accrd g d a b fmt rm sat clr => Sys2Proof.Machine.execAccrd g d a b fmt rm sat clr s
  | .accwr g d a => Sys2Proof.Machine.execAccwr g d a s
  | .accadd g d a b => Sys2Proof.Machine.execAccadd g d a b s
  | .wld g d a b fmt kind => Sys2Proof.Machine.execWld g d a b fmt kind s
  | .wrecv g d a => Sys2Proof.Machine.execWrecv g d a s
  | .wsend g a => Sys2Proof.Machine.execWsend g a s
  | .psend g a rel => Sys2Proof.Machine.execPsend g a rel s
  | .precv g d a => Sys2Proof.Machine.execPrecv g d a s
  | .pbind a kind nad => Sys2Proof.Machine.execPbind a kind nad s
  | .pflush => Sys2Proof.Machine.execPflush s
  | .wscl g d a => Sys2Proof.Machine.execWscl g d a s
  | .ld g d a b m => Sys2Proof.Machine.execLd g d a b m s
  | .ldv g d a b m => Sys2Proof.Machine.execLdv g d a b m s
  | .ldb g d a b m => Sys2Proof.Machine.execLdb g d a b m s
  | .st g a b c m => Sys2Proof.Machine.execSt g a b c m s
  | .stv g a b c m => Sys2Proof.Machine.execStv g a b c m s
  | .lds d a b m => Sys2Proof.Machine.execLds d a b m s
  | .sts a b c m => Sys2Proof.Machine.execSts a b c m s
  | .gld g d a b m => Sys2Proof.Machine.execGld g d a b m s
  | .gst g a b c m => Sys2Proof.Machine.execGst g a b c m s
  | .atom g d a b c m => Sys2Proof.Machine.execAtom g d a b c m s
  | .red g a b c m => Sys2Proof.Machine.execRed g a b c m s
  | .cas g d a b c m => Sys2Proof.Machine.execCas g d a b c m s
  | .atoms d a b c m => Sys2Proof.Machine.execAtoms d a b c m s
  | .fence scope kind => Sys2Proof.Machine.execFence scope kind s
  | .fencex scope kind paths => Sys2Proof.Machine.execFencex scope kind paths s
  | .pref a b => Sys2Proof.Machine.execPref a b s
  | .sgrow d b kind => Sys2Proof.Machine.execSgrow d b kind s
  | .sfree d b => Sys2Proof.Machine.execSfree d b s
  | .copy d a b c => Sys2Proof.Machine.execCopy d a b c s
  | .copyef d a b c => Sys2Proof.Machine.execCopyef d a b c s
  | .copys d a b => Sys2Proof.Machine.execCopys d a b s
  | .ldd d a b loc => Sys2Proof.Machine.execLdd d a b loc s
  | .std a b c loc => Sys2Proof.Machine.execStd a b c loc s
  | .dset d a k => Sys2Proof.Machine.execDset d a k s
  | .dget d a k => Sys2Proof.Machine.execDget d a k s
  | .ccancel a => Sys2Proof.Machine.execCcancel a s
  | .enq d a b c t loc => Sys2Proof.Machine.execEnq d a b c t loc s
  | .enqb d a b c t loc => Sys2Proof.Machine.execEnqb d a b c t loc s
  | .qflush a => Sys2Proof.Machine.execQflush a s
  | .qstat d a => Sys2Proof.Machine.execQstat d a s
  | .recdone => Sys2Proof.Machine.execRecdone s
  | .deq d b => Sys2Proof.Machine.execDeq d b s
  | .coll d a b => Sys2Proof.Machine.execColl d a b s
  | .cstat d a => Sys2Proof.Machine.execCstat d a s
  | .jinit a b loc => Sys2Proof.Machine.execJinit a b loc s
  | .jdec d a => Sys2Proof.Machine.execJdec d a s
  | .jread d a => Sys2Proof.Machine.execJread d a s
  | .barr a b => Sys2Proof.Machine.execBarr a b s
  | .bara a b => Sys2Proof.Machine.execBara a b s
  | .barw b => Sys2Proof.Machine.execBarw b s
  | .acnt a b rel => Sys2Proof.Machine.execAcnt a b rel s
  | .aset a b => Sys2Proof.Machine.execAset a b s
  | .evsel a b => Sys2Proof.Machine.execEvsel a b s
  | .evrd d a => Sys2Proof.Machine.execEvrd d a s
  | .csrr d csr => Sys2Proof.Machine.execCsrr d csr s
  | .csrw a csr => Sys2Proof.Machine.execCsrw a csr s
  | .csrs a csr => Sys2Proof.Machine.execCsrs a csr s
  | .csrc a csr => Sys2Proof.Machine.execCsrc a csr s
  | .rett => Sys2Proof.Machine.execRett s
  | .pairWord h0 h1 => Sys2Proof.Machine.execPairWord h0 h1 s
  | .undefinedEncoding cause half field => Sys2Proof.Machine.execUndefinedEncoding cause half field s
  | .killComplete band => Sys2Proof.Machine.execKillComplete band s
  | .deferredFaultFound id => Sys2Proof.Machine.execDeferredFaultFound id s
  | .loadComplete id => Sys2Proof.Machine.execLoadComplete id s
  | .lddComplete id => Sys2Proof.Machine.execLddComplete id s
  | .wldComplete id => Sys2Proof.Machine.execWldComplete id s
  | .xbldComplete id => Sys2Proof.Machine.execXbldComplete id s
  | .atomicComplete id k => Sys2Proof.Machine.execAtomicComplete id k s
  | .redRequestPerform id k => Sys2Proof.Machine.execRedRequestPerform id k s
  | .storePerform id k => Sys2Proof.Machine.execStorePerform id k s
  | .pageWalkComplete slot => Sys2Proof.Machine.execPageWalkComplete slot s
  | .faultBufferEntryTaken die => Sys2Proof.Machine.execFaultBufferEntryTaken die s
  | .copyQueueEntryGrant field => Sys2Proof.Machine.execCopyQueueEntryGrant field s
  | .copyGranule field engine => Sys2Proof.Machine.execCopyGranule field engine s
  | .copyComplete field id => Sys2Proof.Machine.execCopyComplete field id s
  | .bindingStart band nad => Sys2Proof.Machine.execBindingStart band nad s
  | .zenithRead band => Sys2Proof.Machine.execZenithRead band s
  | .nadirWrite band => Sys2Proof.Machine.execNadirWrite band s
  | .pflushComplete slot => Sys2Proof.Machine.execPflushComplete slot s
  | .portValueArrive slot => Sys2Proof.Machine.execPortValueArrive slot s
  | .portResultWrite slot => Sys2Proof.Machine.execPortResultWrite slot s
  | .waitcMet slot => Sys2Proof.Machine.execWaitcMet slot s
  | .waitcTimeout slot => Sys2Proof.Machine.execWaitcTimeout slot s
  | .sgrowGrant slot => Sys2Proof.Machine.execSgrowGrant slot s
  | .sgrowRefuse field => Sys2Proof.Machine.execSgrowRefuse field s
  | .sfreeComplete slot => Sys2Proof.Machine.execSfreeComplete slot s
  | .recdoneRelease slot => Sys2Proof.Machine.execRecdoneRelease slot s
  | .enqArrival id => Sys2Proof.Machine.execEnqArrival id s
  | .enqbRetry die => Sys2Proof.Machine.execEnqbRetry die s
  | .enqbTimeout id => Sys2Proof.Machine.execEnqbTimeout id s
  | .qflushArrival id => Sys2Proof.Machine.execQflushArrival id s
  | .qstatArrival id => Sys2Proof.Machine.execQstatArrival id s
  | .deqRefill id => Sys2Proof.Machine.execDeqRefill id s
  | .launchAgeExpiry node => Sys2Proof.Machine.execLaunchAgeExpiry node s
  | .poisonedRecordRemove node => Sys2Proof.Machine.execPoisonedRecordRemove node s
  | .placement => Sys2Proof.Machine.execPlacement s
  | .bandRelease band => Sys2Proof.Machine.execBandRelease band s
  | .bandRetire band => Sys2Proof.Machine.execBandRetire band s
  | .jinitArrival id => Sys2Proof.Machine.execJinitArrival id s
  | .jdecArrival id => Sys2Proof.Machine.execJdecArrival id s
  | .joinRecordAccept die => Sys2Proof.Machine.execJoinRecordAccept die s
  | .jreadArrival id => Sys2Proof.Machine.execJreadArrival id s
  | .collQueueEntryGrant engine => Sys2Proof.Machine.execCollQueueEntryGrant engine s
  | .collStart engine => Sys2Proof.Machine.execCollStart engine s
  | .collStepEnd id received => Sys2Proof.Machine.execCollStepEnd id received s
  | .collComplete id partnerError => Sys2Proof.Machine.execCollComplete id partnerError s
  | .collStopProposal id step => Sys2Proof.Machine.execCollStopProposal id step s
  | .peerRequest req atom => Sys2Proof.Machine.execPeerRequest req atom s
  | .flitSend port type payload => Sys2Proof.Machine.execFlitSend port type payload s
  | .flitReceive port f => Sys2Proof.Machine.execFlitReceive port f s
  | .laneRepair port => Sys2Proof.Machine.execLaneRepair port s
  | .retrainComplete port => Sys2Proof.Machine.execRetrainComplete port s
  | .portDown port => Sys2Proof.Machine.execPortDown port s
  | .hostMemAccess req => Sys2Proof.Machine.execHostMemAccess req s
  | .subtailWrite v => Sys2Proof.Machine.execSubtailWrite v s
  | .submissionConsume => Sys2Proof.Machine.execSubmissionConsume s
  | .fbrespWrite v => Sys2Proof.Machine.execFbrespWrite v s
  | .logdrainWrite v => Sys2Proof.Machine.execLogdrainWrite v s
  | .registerWrite offset v => Sys2Proof.Machine.execRegisterWrite offset v s
  | .nodewr => Sys2Proof.Machine.execNodewr s
  | .noderd => Sys2Proof.Machine.execNoderd s
  | .regbase => Sys2Proof.Machine.execRegbase s
  | .rbsync => Sys2Proof.Machine.execRbsync s
  | .asidroot => Sys2Proof.Machine.execAsidroot s
  | .shoot => Sys2Proof.Machine.execShoot s
  | .migwr => Sys2Proof.Machine.execMigwr s
  | .migrd => Sys2Proof.Machine.execMigrd s
  | .aclwr => Sys2Proof.Machine.execAclwr s
  | .aclrd => Sys2Proof.Machine.execAclrd s
  | .keyload => Sys2Proof.Machine.execKeyload s
  | .keyclr => Sys2Proof.Machine.execKeyclr s
  | .keywb => Sys2Proof.Machine.execKeywb s
  | .patwr => Sys2Proof.Machine.execPatwr s
  | .grpwr => Sys2Proof.Machine.execGrpwr s
  | .grprd => Sys2Proof.Machine.execGrprd s
  | .spillset => Sys2Proof.Machine.execSpillset s
  | .thresh => Sys2Proof.Machine.execThresh s
  | .pkgset => Sys2Proof.Machine.execPkgset s
  | .portrst => Sys2Proof.Machine.execPortrst s
  | .suspend => Sys2Proof.Machine.execSuspend s
  | .resume => Sys2Proof.Machine.execResume s
  | .reset => Sys2Proof.Machine.execReset s
  | .parkans => Sys2Proof.Machine.execParkans s
  | .pwrstat => Sys2Proof.Machine.execPwrstat s
  | .yieldDeadlineExpiry => Sys2Proof.Machine.execYieldDeadlineExpiry s
  | .eclipseEnter => Sys2Proof.Machine.execEclipseEnter s
  | .powerOn => Sys2Proof.Machine.execPowerOn s
  | .powerLoss => Sys2Proof.Machine.execPowerLoss s
  | .preemptionRequest => Sys2Proof.Machine.execPreemptionRequest s
  | .bandSave band => Sys2Proof.Machine.execBandSave band s
  | .bandYield band => Sys2Proof.Machine.execBandYield band s
  | .yieldWithdraw band => Sys2Proof.Machine.execYieldWithdraw band s
  | .bandRestore band => Sys2Proof.Machine.execBandRestore band s
  | .migrationBackgroundFill quadrant entry => Sys2Proof.Machine.execMigrationBackgroundFill quadrant entry s
  | .refreshManagement quadrant => Sys2Proof.Machine.execRefreshManagement quadrant s
  | .bankAvailable quadrant => Sys2Proof.Machine.execBankAvailable quadrant s
  | .midBurstRefresh quadrant bank => Sys2Proof.Machine.execMidBurstRefresh quadrant bank s
  | .tick => Sys2Proof.Machine.execTick s
  | .uncorrectableError tgt => Sys2Proof.Machine.execUncorrectableError tgt s
  | .instructionCacheFill slot => Sys2Proof.Machine.execInstructionCacheFill slot s
  | .periodicRefresh quadrant bank postpone => Sys2Proof.Machine.execPeriodicRefresh quadrant bank postpone s

end Sys2Proof.Machine
end

