-- ==== Sys2Proof/Machine/Step.lean ====
section
/-!
DEFINITION. One step of the machine: the next act of the agenda (log entry 1), or a TICK where the agenda is empty. A row
issues at most one word in a step, from the slot R19 picks, fetched through the instruction cache (spec/09 R214).
-/
namespace Sys2Proof.Machine

/-- The events of the opcode table: the rows that stand after the instruction words. -/
def isEvent : Instr → Bool
  | .killComplete .. | .deferredFaultFound .. | .loadComplete .. | .lddComplete .. | .wldComplete ..
  | .xbldComplete .. | .atomicComplete .. | .redRequestPerform .. | .storePerform .. | .pageWalkComplete ..
  | .faultBufferEntryTaken .. | .copyQueueEntryGrant .. | .copyGranule .. | .copyComplete .. | .bindingStart ..
  | .zenithRead .. | .nadirWrite .. | .pflushComplete .. | .portValueArrive .. | .portResultWrite ..
  | .waitcMet .. | .waitcTimeout .. | .sgrowGrant .. | .sgrowRefuse .. | .sfreeComplete .. | .recdoneRelease ..
  | .enqArrival .. | .enqbRetry .. | .enqbTimeout .. | .qflushArrival .. | .qstatArrival .. | .deqRefill ..
  | .launchAgeExpiry .. | .poisonedRecordRemove .. | .placement | .bandRelease .. | .bandRetire ..
  | .jinitArrival .. | .jdecArrival .. | .joinRecordAccept .. | .jreadArrival .. | .collQueueEntryGrant ..
  | .collStart .. | .collStepEnd .. | .collComplete .. | .collStopProposal .. | .peerRequest .. | .flitSend ..
  | .flitReceive .. | .laneRepair .. | .retrainComplete .. | .portDown .. | .hostMemAccess .. | .subtailWrite ..
  | .submissionConsume | .fbrespWrite .. | .logdrainWrite .. | .registerWrite .. | .nodewr | .noderd | .regbase
  | .rbsync | .asidroot | .shoot | .migwr | .migrd | .aclwr | .aclrd | .keyload | .keyclr | .keywb | .patwr
  | .grpwr | .grprd | .spillset | .thresh | .pkgset | .portrst | .suspend | .resume | .reset | .parkans
  | .pwrstat | .yieldDeadlineExpiry | .eclipseEnter | .powerOn | .powerLoss | .preemptionRequest | .bandSave ..
  | .bandYield .. | .yieldWithdraw .. | .bandRestore .. | .migrationBackgroundFill .. | .refreshManagement ..
  | .bankAvailable .. | .midBurstRefresh .. | .tick | .uncorrectableError .. | .instructionCacheFill ..
  | .periodicRefresh .. => true
  | _ => false

/-- One act of the agenda. -/
def State.act (s : State) (a : Act) : Host.Outcome State Fault Refusal :=
  match a with
  | .row r => s.runRow r exec
  | .pass => .next s.passStep
  | .event i => if isEvent i then s.throughBanks (.act (.event i)) (exec i) else .next s
  | .tlbDrop u asid page => .next { s with tlb := Tab.set none s.tlb (tlbKey u asid page) none }
  | .icDrop f asid va => .next { s with icache := Tab.set none s.icache (icKey f asid (BitVec.ofNat 64 va)) none }
  | .haloEvict line => s.throughBanks (.act (.haloEvict line)) (fun t => .next (t.evictLine line))

/-- One step: the agenda's next act; an empty agenda ticks the clock. -/
def step (s : State) : Host.Outcome State Fault Refusal :=
  match s.agenda with
  | [] => exec .tick s
  | a :: t => { s with agenda := t }.act a

/-- The state with an instruction placed where the next step fetches: the band of log entry 2 runs in slot A of row 0,
the words lie in the instruction cache at its PC, and the agenda's next act is that row's issue. -/
def State.withFetchWord (s : State) (nbits w : Nat) : State := s.placeWords (w % 2 ^ nbits)

end Sys2Proof.Machine
end

