-- ==== Sys2Proof/WellFormed.lean ====
section
/-!
DEFINITION. Well-formed instructions: the terms of `Instr` that some word of the spec stands for, under the largest
footprint. Each condition is one of the operand tables of spec/04 or of the rules R62-R77, R95 and R150: which classes an
opcode admits, that a class 10 word has no modifier and no operand C (R72), that the north port stands in at most one
source (R68), that a register group ends within its file, and the values a modifier field may take.
-/
namespace Sys2Proof

/-- Field B is no class 10 immediate. -/
def XOp.noImm : XOp → Bool
  | .imm _ => false
  | _ => true

/-- Field B is no class 11 literal. -/
def XOp.noLit : XOp → Bool
  | .lit _ => false
  | _ => true

def XOp.isReg : XOp → Bool
  | .reg _ => true
  | _ => false

def VOp.noImm : VOp → Bool
  | .imm _ => false
  | _ => true

/-- An immediate leaves no room for a modifier, so the modifier must be the zero one (R72). -/
def XOp.orZero (b : XOp) (modZero : Bool) : Bool := b.noImm || modZero
def VOp.orZero (b : VOp) (modZero : Bool) : Bool := b.noImm || modZero

/-- At most one of three sources is the north port (R68). -/
def atMostOneN (x y z : Bool) : Bool := !((x && y) || ((x || y) && z))

/-- Element arithmetic with B of any class. -/
def wfArith (a : VSrc) (b : VOp) (rm : RMode) (sat un : Bool) : Bool :=
  atMostOneN a.isN b.isN false && b.orZero (rm == .rne && !sat && !un)

/-- Element arithmetic with three sources: no immediate (Table 4.4). -/
def wfFma (a : VSrc) (b : VOp) (c : VSrc) : Bool := b.noImm && atMostOneN a.isN b.isN c.isN

/-- Lane instructions with A and B of kind v and no modifier. -/
def wfVV (a : VSrc) (b : VOp) : Bool := atMostOneN a.isN b.isN false

/-- A conversion's format (R150). -/
def wfCvt (f : Fmt) : Bool := f != .raw && f != .pl16

/-- The groups of VDEQ and ACCRD (R169, R187). -/
def wfGroup (i : Fin 64) (k : Nat) : Bool := decide (i.val + k ≤ 64)

/-- Table 10.1's modifier where `fmt` and `x` must be zero unless the entry defines them. -/
def MemMod.ok (fmtOk xOk : Bool) (m : MemMod) : Bool := (fmtOk || m.fmt == .raw) && (xOk || !m.x)

def MemMod.zero : MemMod := ⟨.row, .raw, false, false, .w8⟩

/-- Table 10.3's combinations (R248, R250). -/
def AtomMod.ok (scalar : Bool) (m : AtomMod) : Bool :=
  (scalar || m.op != .cas) && (!m.f || m.op == .add || m.op == .min || m.op == .max) &&
    (!m.un || ((m.op == .min || m.op == .max) && !m.f)) && !(scalar && m.glob) && !(m.f && m.wide)

/-- WLD's formats and kinds (R190). -/
def wfWld (f : Fmt) (k : WKind) : Bool :=
  (f != .i16 && f != .i32 && f != .i64 && f != .fp32 && f != .acc48) &&
    !(k == .lat && f != .pl16 && f != .raw) && !(f == .pl16 && k != .lat) && !(k == .sp && f == .mxe2m1)

def wfAccFmt (f : Fmt) : Bool := f == .fp32 || f == .bf16 || f == .fp16 || f == .e4m3 || f == .e5m2

def wfAccrd (d : VDst) (b : Option RSrc) (f : Fmt) : Bool :=
  wfAccFmt f &&
  (match d with
    | .v i => wfGroup i (regsOfEight f)
    | .s => f == .e4m3 || f == .e5m2) &&
  (match b with
    | none => true
    | some r => wfGroup r.reg 4)

/-! ## The operands of a pair half (R75): registers, waited for, and no guard -/

def XSrc.half (s : XSrc) : Bool := s.mode == .wait && s.name != .rowid
def XOp.half : XOp → Bool
  | .reg s => s.half
  | _ => false
def VSrc.half (s : VSrc) : Bool := s.mode == .wait && s.name != .n && s.name != .lane
def VOp.half : VOp → Bool
  | .reg s => s.half
  | _ => false
def VDst.half (d : VDst) : Bool := d != .s
def MemMod.half (m : MemMod) : Bool := m == ⟨.row, .raw, false, false, m.width⟩

/-- Table 4.8: the instructions of half H0. -/
def wfH0 : Instr → Bool
  | .vadd g d a b _ sat un | .vsub g d a b _ sat un | .vmul g d a b _ sat un =>
    g == none && d.half && a.half && b.half && !sat && !un
  | .vmin g d a b un | .vmax g d a b un => g == none && d.half && a.half && b.half && !un
  | .vabs g d a sat | .vneg g d a sat => g == none && d.half && a.half && !sat
  | .vand g d a b | .vor g d a b | .vxor g d a b | .vshr g d a b | .vsar g d a b =>
    g == none && d.half && a.half && b.half
  | .vshl g d a b sat un => g == none && d.half && a.half && b.half && !sat && !un
  | .vrot g d a b | .vbcast g d a b => g == none && d.half && a.half && b.half
  | .mstep g _ a b kw sl => g == none && a.half && b.mode == .wait && kw == 0 && sl == 0
  | .msteps g _ a b kw sl =>
    g == none && a.mode == .wait && decide (a.reg.val % 2 = 0) && b.mode == .wait && kw == 0 && sl == 0
  | .accz g _ => g == none
  | .accwr g _ a => g == none && a.mode == .wait
  | .accadd g _ a b => g == none && a.mode == .wait &&
    (match b with
      | .a s => s.mode == .wait
      | .n _ => false)
  | _ => false

/-- Table 4.9: the instructions of half H1. -/
def wfH1 : Instr → Bool
  | .add _ a b | .sub _ a b | .mul _ a b | .and _ a b | .or _ a b | .xor _ a b | .shl _ a b | .shr _ a b
  | .sar _ a b | .min _ a b | .max _ a b | .slt _ a b | .sltn _ a b | .seq _ a b => a.half && b.half
  | .mov _ a => a.half
  | .ld g d a b m => g == none && d.half && a.half && b.mode == .wait && m.half
  | .ldv g d a b m | .ldb g d a b m => g == none && d.half && a.half && b.half && m.half
  | .lds _ a b m => a.half && b.half && m.half
  | .pref a b => a.half && b.half
  | _ => false

/-- Rules 1 to 4 of R76 on two instructions. -/
def wfPair (h0 h1 : Instr) : Bool :=
  wfH0 h0 && wfH1 h1 &&
    (match RawHalf.ofInstr h0, RawHalf.ofInstr h1 with
      | some x, some y => pairRules x y
      | _, _ => false)

/-- The well-formed instructions. An event's arguments come from outside the encoding and carry no condition here. -/
def Instr.wf : Instr → Bool
  | .sel _ _ b _ | .madd _ _ b _ => b.noImm
  | .lea _ _ b k => b.orZero (k == 0)
  | .li _ b => !b.isReg
  | .trap b | .barw b => b.noLit
  | .vadd _ _ a b rm sat un | .vsub _ _ a b rm sat un | .vmul _ _ a b rm sat un => wfArith a b rm sat un
  | .vfma _ _ a b c _ _ _ | .vfms _ _ a b c _ _ _ | .vdot _ _ a b c _ _ _ => wfFma a b c
  | .vmin _ _ a b un | .vmax _ _ a b un => wfVV a b && b.orZero (!un)
  | .vcmp _ _ a b cc any un => wfVV a b && b.orZero (cc == .eq && !any && !un)
  | .vsel _ _ a b _ => wfVV a (.reg b)
  | .vand _ _ a b | .vor _ _ a b | .vxor _ _ a b | .vshr _ _ a b | .vsar _ _ a b => wfVV a b
  | .vshl _ _ a b sat un => wfVV a b && b.orZero (!sat && !un)
  | .vmovx _ _ _ b | .vins _ _ _ b _ | .vscl _ _ _ b _ | .vrot _ _ _ b | .vbcast _ _ _ b => b.noImm
  | .vred _ _ _ _ rm _ _ => rm != .sr
  | .vcvt _ _ _ f _ _ _ => wfCvt f
  | .vpack _ _ a b f _ _ _ => wfVV a (.reg b) && wfCvt f
  | .vunpk _ _ _ f _ _ _ _ => wfCvt f
  | .vquant _ _ a b _ => b.noImm && wfGroup a.reg 4
  | .vdeq _ d _ b f _ _ _ => b.noImm && (f == .fp32 || f == .fp16 || f == .bf16) && wfGroup d (regsOfEight f)
  | .msteps _ _ a _ _ _ => decide (a.reg.val % 2 = 0)
  | .accrd _ d _ b f _ _ _ => wfAccrd d b f
  | .wld _ _ _ b f k => wfWld f k && b.orZero (f == .raw && k == .dense)
  | .ld _ _ _ _ m => m.ok true false
  | .ldv _ _ _ b m | .ldb _ _ _ b m => m.ok true false && b.orZero (m == .zero)
  | .st _ _ _ _ m | .gst _ _ _ _ m => m.ok false false
  | .stv _ _ b _ m | .sts _ b _ m => b.noImm && m.ok false false
  | .lds _ _ b m => m.ok false true && b.orZero (m == .zero)
  | .atom _ _ _ _ _ m | .red _ _ _ _ m => m.ok false
  | .cas _ _ _ _ c m => decide (c.reg.val % 2 = 0) && m.op == .cas && !m.f && !m.un
  | .atoms _ _ b c m => b.noImm && m.ok true && (m.op == .cas || c == ⟨.x 0, .wait⟩)
  | .fencex _ _ paths => paths != 0
  | .sgrow _ b kind => b.noLit && b.orZero (kind == .plain)
  | .sfree _ b | .deq _ b => b.noLit
  | .ldd _ _ b loc => b.orZero (!loc)
  | .std _ b _ _ => b.noImm
  | .barr _ b | .bara _ b | .evsel _ b => b.noLit
  | .acnt _ b rel => b.orZero (!rel)
  | .csrr _ c | .csrw _ c | .csrs _ c | .csrc _ c => csrAssigned c
  | .pairWord h0 h1 => wfPair h0 h1
  | .undefinedEncoding cause half field =>
    (cause == .illegal || cause == .resoperand || cause == .resfield) && (!half || decide (field.toNat ≤ 24))
  | _ => true

/-- The rows of the opcode table that are words of the hart's instruction stream; the others are events. -/
def Instr.isWord (i : Instr) : Bool := (encode i).isSome

end Sys2Proof
end

