-- ==== Sys2Proof/Certificates/Slice0/Obligations.lean ====
section
/-!
DEFINITION. The statements for the provers, each a proposition about the model that formalises rules of the spec. The
namespace Sys2Proof.Claims holds the words they share: what must hold for a word to perform its effect, and what may
change. Where a statement gives a value, the value is written from the rule and not by the meaning's own function, but
for element arithmetic that rounds, whose functions have statements of their own.
-/

open Sys2Proof Sys2Proof.Machine

/-! ## Words shared by the statements -/

namespace Sys2Proof.Claims

/-- The row slot whose word executes. -/
def here (s : State) : Slot := s.slot s.cur

/-- The slot holds a row context (R110), and no deferred fault is due before its next word (R385). -/
def CanIssue (s : State) : Prop :=
  (s.bandOf s.cur).isSome = true ∧ ((here s).deferred = none ∨ (here s).handler = true)

/-- The sources are full, but for peeks, and correct, and no destination has a long-latency write pending (R70, R108,
R386). -/
def Ready (s : State) (us : List Use) (dsts : List Nat) : Prop :=
  (∀ u ∈ us, (u.mode = .peek ∨ u.empty s s.cur = false) ∧ u.bad s s.cur = false) ∧
  ∀ d ∈ dsts, (here s).isPend d = false

/-- The slot goes on at an address: the PC holds its low 57 bits, and a fetch beyond them faults (R104, R218). -/
def goesTo (c : Slot) (t : Word) : Slot :=
  { c with pc := t &&& 0x01FFFFFFFFFFFFFF, high := BitVec.ofNat 7 (t.toNat / 2 ^ 57), refills := false }

/-- The row's issue goes to the slot: its stamp is a new one (R19); a word that has taken the row's issue before its
translations were known takes it no second time. -/
def stamped (s : State) (c : Slot) : Slot :=
  if c.selected then { c with selected := false, blocked := [] } else { c with lastIssue := s.issueClk + 1, blocked := [] }

/-- The slot as a word that traps or waits leaves it, but for the trap or the wait. -/
def took (s : State) : Slot := stamped s (here s)

/-- The counters after the issue of a word is counted (event 0x02). -/
def issueCounted (s : State) : List (Nat × EvCounter) := (s.evField (slotField s.cur) 2 (slotQual s.cur)).evc

/-- The state after a word of `size` bytes has issued and its sources `us` have been read: statement SourcesRead says
what it holds. -/
def sourced (s : State) (us : List Use) (size : Nat) : State := (s.issued s.cur size).takes s.cur us

/-- The same for a lane word whose active lanes are `m`: an empty mask takes nothing from the north port (R122). -/
def sourcedLanes (s : State) (us : List Use) (m : Mask) (size : Nat) : State :=
  (s.issued s.cur size).takesMasked s.cur us m

/-- The word completes: the next state is `u` but for the executing slot, of which `P` relates the slot in `u` to the
slot after. No other slot changes and no byte of memory. -/
def ActsIn (i : Instr) (s u : State) (P : Slot → Slot → Prop) : Prop :=
  ∃ t, exec i s = .next t ∧ t = { u with slots := t.slots } ∧ (∀ k, k ≠ s.cur → t.slot k = u.slot k) ∧
    (∀ loc, t.byte loc = s.byte loc) ∧ P (u.slot s.cur) (t.slot s.cur)

/-- A word whose sources are `us` and which touches nothing but its slot. -/
def Acts (i : Instr) (s : State) (us : List Use) (size : Nat) (P : Slot → Slot → Prop) : Prop :=
  ActsIn i s (sourced s us size) P

/-- x register `d` takes `v` and is full; x0 discards it; nothing else of the slot changes (R61, R104). -/
def WroteX (d : Fin 32) (v : Word) (c c' : Slot) : Prop :=
  c' = { c with x := c'.x, xEmpty := c'.xEmpty,
                softErr := if d = 0 then c.softErr else c.softErr.filter (· ≠ BitVec.ofNat 7 d) } ∧
  c'.xr d = (if d = 0 then 0 else v) ∧ (∀ i : Fin 32, i ≠ d → c'.xr i = c.xr i) ∧
  ∀ i : Fin 32, c'.isEmpty (codeX i) = if i = d then false else c.isEmpty (codeX i)

/-- Operand codes whose register has a full/empty bit: x1 to x31, v, a, w and d registers (R107). -/
def hasBit (code : Nat) : Bool := (decide (0 < code) && decide (code < 0x68)) || (decide (0x70 ≤ code) && decide (code < 0x78))

/-- The device acts: it runs, is in twilight (R403), or is on its way back from eclipse (R408). -/
def Live (s : State) : Prop := s.power = .running ∨ s.power = .twilight ∨ s.power = .resuming

/-! ### Bytes and records -/

/-- The low `n` bytes of a value, least significant first (R3). -/
def lowBytes (n v : Nat) : List Byte := (List.range n).map (fun i => BitVec.ofNat 8 (v / 2 ^ (8 * i)))

/-- The bytes at a location as a number, least significant first (R3). -/
def numberAt (s : State) (loc n : Nat) : Nat := ((List.range n).map (fun j => (s.byte (loc + j)).toNat * 256 ^ j)).sum

/-- An entry of a die's record area in its queue SRAM (R293). -/
def entryAt (die i : Nat) : Nat := 2 ^ 41 + die * 2 ^ 24 + (0x80000 + 32 * i) % 2 ^ 24

/-- A record's 32 bytes (Table 12.1) as one number: `word` is its inline payload or the address of its block. -/
def recordNumber (s : State) (node origin depth len word : Nat) : Nat :=
  len + origin * 2 ^ 13 + depth * 2 ^ 15 + node * 2 ^ 20 + (Tab.get 0#32 s.nodeSeq node).toNat * 2 ^ 32 + s.time.toNat * 2 ^ 64 +
    word * 2 ^ 128

/-- A record with an inline payload is accepted in the plain record area at entry `i` of die `die` (R291, R292, R297): its 32
bytes, its place at its queue's tail, the next sequence number; other queues and bytes stay. -/
def Accepted (s t : State) (die i node origin depth len : Nat) (payload : List Byte) (charge : Option Nat) : Prop :=
  let seq := (Tab.get 0#32 s.nodeSeq node).toNat
  t.queue node = s.queue node ++ [⟨die, false, i, seq, charge, len, none⟩] ∧ (∀ n, n ≠ node → t.queue n = s.queue n) ∧
  Tab.get 0#32 t.nodeSeq node = BitVec.ofNat 32 (seq + 1) ∧
  ∀ loc, t.byte loc = if entryAt die i ≤ loc ∧ loc < entryAt die i + 32 then
      (lowBytes 32 (recordNumber s node origin depth len (ofBytes (payload.take 16)))).getD (loc - entryAt die i) 0
    else s.byte loc

/-- The payload of a fault record (Table 16.3). -/
def faultBytes (cause kind row ab more node seq : Nat) (pc info : Word) : List Byte :=
  lowBytes 32 (cause + kind * 2 ^ 8 + row * 2 ^ 16 + ab * 2 ^ 32 + min more 255 * 2 ^ 40 + node * 2 ^ 48 + seq % 2 ^ 64 * 2 ^ 64 +
    pc.toNat * 2 ^ 128 + info.toNat * 2 ^ 192)

/-- Nothing of a band is outstanding but its parked port values (R317). -/
def WorkEnded (s : State) (b : Nat) : Prop :=
  (∀ p ∈ s.pend, p.band ≠ b) ∧ (∀ c ∈ s.cmds, c.band ≠ b) ∧ (∀ m ∈ s.msgs, m.band ≠ b) ∧ (∀ m ∈ s.heldEnq, m.band ≠ b) ∧
  (∀ h ∈ s.heldRec, ∀ m, h.jdec = some m → m.band ≠ b) ∧ ∀ c ∈ s.colls, c.band ≠ b

/-! ### Traps taken in the row -/

/-- A trap of cause `c` goes to the slot's own handler (R387, R112): the region's policy for it is in-row, the slot has a
handler and is not in it, and its band is not being killed. -/
def InRow (s : State) (c : Cause) : Prop :=
  ∃ v, s.bandOf s.cur = some v ∧ v.status ≠ .killing ∧ s.policy v.region c = .inRow ∧ (here s).tvec ≠ 0 ∧
    (here s).handler = false ∧ (here s).deferred = none

/-- The word's queue entries and places in line are given up (R320, R322). -/
def leftLines (s : State) : State := s.leaveLines (fun a => decide (a = .slot s.cur))

/-- The word traps in its row: TRAPCAUSE, TRAPPC and TRAPINFO are written, the handler bit is set and the PC is TVEC; the
word has no other effect (R387, R388). -/
def Traps (i : Instr) (s : State) (cause : Cause) (info pc : Word) : Prop :=
  ∃ t, exec i s = .next t ∧
    t = { leftLines s with
      slots := t.slots, issueClk := s.issueClk + 1
      evc := (s.evField (slotField s.cur) 0x12 cause.code.toNat).evc } ∧
    (∀ k, k ≠ s.cur → t.slot k = s.slot k) ∧ (∀ loc, t.byte loc = s.byte loc) ∧
    t.slot s.cur = { took s with
      trapcause := cause.code.setWidth 64, trappc := pc, trapinfo := info, handler := true, pc := (here s).tvec, high := 0
      wait := .none, late := [], refills := false }

end Sys2Proof.Claims

open Sys2Proof.Claims

/-! ## Encoding (spec/03, spec/04) -/

namespace Sys2Proof.Claims

/-- Encoding an instruction and decoding its words gives it back, whatever follows a word that takes no literal. -/
def CodesBack (i : Instr) : Prop :=
  (∃ w, encode i = some [w] ∧ wordIsExtended w = false ∧ ∀ lit, decode w lit = i) ∨
  ∃ w lit, encode i = some [w, lit] ∧ wordIsExtended w = true ∧ decode w lit = i

/-- Groups 0 and 1: scalar, address and control instructions (Table 4.2). -/
def isScalarOrControl : Instr → Bool
  | .nop | .add .. | .sub .. | .mul .. | .mulh .. | .mulhn .. | .div .. | .divn .. | .rem .. | .remn .. | .and ..
  | .or .. | .xor .. | .andn .. | .shl .. | .shr .. | .sar .. | .rot .. | .min .. | .max .. | .minn .. | .maxn ..
  | .clz .. | .ctz .. | .popc .. | .seq .. | .sne .. | .slt .. | .sltn .. | .sle .. | .slen .. | .sel .. | .lea ..
  | .mov .. | .li .. | .bfx .. | .bfi .. | .madd .. | .j .. | .jr .. | .bz .. | .bnz .. | .call .. | .callr ..
  | .dbnz .. | .lif .. | .lelse | .lendif | .lloop | .lbreak .. | .lcont .. | .lendl .. | .lany .. | .lall ..
  | .lcnt .. | .waitc .. | .yield .. | .exit | .trap .. | .brk => true
  | _ => false

/-- Groups 2 and 3: lane instructions, conversions, crossbar and predicates (Table 4.3). -/
def isLaneWord : Instr → Bool
  | .vadd .. | .vsub .. | .vmul .. | .vfma .. | .vfms .. | .vmin .. | .vmax .. | .vabs .. | .vneg .. | .vrcp ..
  | .vrsq .. | .vsqrt .. | .vexp2 .. | .vlog2 .. | .vtanh .. | .vcmp .. | .vsel .. | .vand .. | .vor .. | .vxor ..
  | .vshl .. | .vshr .. | .vsar .. | .vdot .. | .vsplat .. | .vmovx .. | .vins .. | .vred .. | .vscan .. | .vcvt ..
  | .vpack .. | .vunpk .. | .vtag .. | .vscl .. | .vquant .. | .vdeq .. | .xbar .. | .xbld .. | .vrot .. | .vbcast ..
  | .pand .. | .por .. | .pxor .. | .pnot .. | .pset .. | .vrng .. | .vseed .. => true
  | _ => false

/-- Groups 4 and 5: tensor, port and memory instructions (Tables 4.4, 4.5). -/
def isTensorOrMemory : Instr → Bool
  | .mstep .. | .mstepn .. | .msteps .. | .accz .. | .accrd .. | .accwr .. | .accadd .. | .wld .. | .wrecv ..
  | .wsend .. | .psend .. | .precv .. | .pbind .. | .pflush | .wscl .. | .ld .. | .ldv .. | .ldb .. | .st .. | .stv ..
  | .lds .. | .sts .. | .gld .. | .gst .. | .atom .. | .red .. | .cas .. | .atoms .. | .fence .. | .fencex ..
  | .pref .. | .sgrow .. | .sfree .. => true
  | _ => false

/-- Groups 6 to 9: copies and descriptors, queues, counters, system (Tables 4.5, 4.6). -/
def isUnitWord : Instr → Bool
  | .copy .. | .copyef .. | .copys .. | .ldd .. | .std .. | .dset .. | .dget .. | .ccancel .. | .enq .. | .enqb ..
  | .qflush .. | .qstat .. | .recdone | .deq .. | .coll .. | .cstat .. | .jinit .. | .jdec .. | .jread .. | .barr ..
  | .bara .. | .barw .. | .acnt .. | .aset .. | .evsel .. | .evrd .. | .csrr .. | .csrw .. | .csrs .. | .csrc ..
  | .rett => true
  | _ => false

end Sys2Proof.Claims

/-- R63, R65, R69, R72, R74, Table 4.2: decoding undoes encoding on every well-formed scalar, address and control instruction,
at every operand. -/
def Obligations.RoundTripScalar : Prop := ∀ i, isScalarOrControl i = true → i.wf = true → CodesBack i

/-- R64, R65, R68, Table 4.3: decoding undoes encoding on every well-formed lane, conversion, crossbar and predicate
instruction, at every operand and guard. -/
def Obligations.RoundTripLane : Prop := ∀ i, isLaneWord i = true → i.wf = true → CodesBack i

/-- Tables 4.4 and 4.5: decoding undoes encoding on every well-formed tensor, port and memory instruction, at every operand.
Tables 4.5 and 4.6: it does so on every well-formed copy, queue, counter and system instruction. -/
def Obligations.RoundTripTensorMemoryUnits : Prop :=
  (∀ i, isTensorOrMemory i = true → i.wf = true → CodesBack i) ∧
  (∀ i, isUnitWord i = true → i.wf = true → CodesBack i)

/-- R75, R76, Tables 4.8 and 4.9: decoding undoes encoding on every pair word that these rules allow. -/
def Obligations.RoundTripPair : Prop := ∀ a b, (Instr.pairWord a b).wf = true → CodesBack (.pairWord a b)

/-- Words that the spec's worked examples write out decode to the instructions it names there. -/
def Obligations.DecodesSpecWords : Prop :=
  decode 0x8010050C7FFFFFFD 0 = .add 5 ⟨.x 6, .wait⟩ (.imm 0x7FFFFFFD) ∧
  decode 0xC22005007F000000 0x100000000 = .li 5 (.lit 0x100000000) ∧
  decode 0x84600C187FFFFFFB 0 = .dbnz 12 ⟨.x 12, .wait⟩ 0x7FFFFFFB ∧
  decode 0x0809234825800000 0 = .vadd (some ⟨false, 2⟩) (.v 3) ⟨.v 4, .wait⟩ (.reg ⟨.v 5, .take⟩) .rne false false ∧
  decode 0x4860519040122418 0 =
    .pairWord (.mstep none 0 ⟨.v 8, .wait⟩ ⟨0, .wait⟩ 0 0) (.add 9 ⟨.x 9, .wait⟩ (.reg ⟨.x 3, .wait⟩)) ∧
  decode 0x0C002A44000014C0 0 = .vcvt none (.v 10) ⟨.v 2, .wait⟩ .bf16 .sr false false ∧
  decode 0x10107942643C0008 0 = .mstepn none .s ⟨1, .wait⟩ ⟨0, .wait⟩ .wait 1 0 ∧
  decode 0xD07065147F0001C8 0x40 = .wld none 1 ⟨.x 10, .wait⟩ (.lit 0x40) .pl16 .lat ∧
  decode 0x14902A0826138022 0 =
    .atom none (.v 10) ⟨.x 4, .wait⟩ ⟨6, .wait⟩ ⟨7, .wait⟩ ⟨.row, .add, true, false, false, false, false⟩ ∧
  decode 0x180014E272048000 0 = .copy 20 ⟨1, .wait⟩ ⟨2, .wait⟩ ⟨.x 9, .wait⟩ ∧
  decode 0x1C000928150B0002 0 = .enq 9 ⟨.x 20, .wait⟩ ⟨.x 21, .wait⟩ ⟨.x 22, .wait⟩ true false ∧
  decode 0x1E000CE604000000 0 = .coll 12 ⟨3, .wait⟩ (.reg ⟨.x 4, .wait⟩) ∧
  decode 0xA030000A00000003 0 = .barr ⟨.x 5, .wait⟩ (.imm 3) ∧
  decode 0xA410000E00000000 0 = .csrw ⟨.x 7, .wait⟩ 0

/-! ## The step (spec/01) -/

namespace Sys2Proof.Claims

/-- The instruction cache of the slot's field holds the word at its PC, and behind an extended word its literal; under
the band's footprint they decode to `i` (R62, R67, R214). -/
def WordAt (s : State) (k : Nat) (i : Instr) : Prop :=
  ∃ v w, s.bandOf k = some v ∧ (s.slot k).high = 0 ∧
    Tab.get none s.icache (icKey (slotField k) v.asid (s.slot k).pc) = some w ∧
    ((wordIsExtended w = false ∧ decodeIn v.footprint w 0 = i) ∨
     (wordIsExtended w = true ∧ ∃ l, Tab.get none s.icache (icKey (slotField k) v.asid ((s.slot k).pc + 8)) = some l ∧
        decodeIn v.footprint w l = i))

/-- A waiter stands first at every bank it waits for (R228). -/
def AtTurn (w : State) (a : Waiter) : Prop :=
  ∀ b, (b, a) ∈ w.backoff → w.backoff.find? (fun x => x.1 == b) = some (b, a)

/-- The state in which an act of waiter `a` goes ahead: it has left the banks it waited for. -/
def comeUp (w : State) (a : Waiter) : State := { w with backoff := w.backoff.filter (fun b => b.2 ≠ a), clash := [] }

/-- The state in which waiter `a`, which has met banks that are unavailable, stands behind the others at each of them (R228). -/
def queuedAt (w : State) (a : Waiter) (banks : List Nat) : State := banks.foldl (fun u b => u.joinBank a b) w

/-- The outcome when slot `k` comes to its issue in `w` with the word `i`: behind others at a bank it does nothing; held by the
scoreboard it only leaves the banks; else it runs, and waits whole where it meets a bank that is unavailable. A word that has
performed leaves its fixed-latency results on their way (R19, R228). -/
def Ran (w : State) (k : Nat) (i : Instr) (o : Host.Outcome State Fault Refusal) : Prop :=
  let u := comeUp w (.slot k)
  (¬ AtTurn w (.slot k) → o = .next w) ∧
  (AtTurn w (.slot k) → u.scoreHolds k i = true → o = .next u) ∧
  (AtTurn w (.slot k) → u.scoreHolds k i = false → ∀ t, exec i { u with cur := k } = .next t →
    (t.clash ≠ [] → o = .next (queuedAt w (.slot k) t.clash)) ∧
    (t.clash = [] → performed u t k = false → o = .next t) ∧
    (t.clash = [] → performed u t k = true → o = .next (t.modSlot k (fun c => c.addBusy (wordTraits i k u).results)))) ∧
  (AtTurn w (.slot k) → u.scoreHolds k i = false → (∀ t, exec i { u with cur := k } ≠ .next t) → o = exec i { u with cur := k })

/-- The outcome when the event `i` comes in `w`. -/
def Came (w : State) (i : Instr) (o : Host.Outcome State Fault Refusal) : Prop :=
  let a := Waiter.act (.event i)
  (¬ AtTurn w a → o = .next w) ∧
  (AtTurn w a → ∀ t, exec i (comeUp w a) = .next t →
    (t.clash ≠ [] → o = .next (queuedAt w a t.clash)) ∧ (t.clash = [] → o = .next t)) ∧
  (AtTurn w a → (∀ t, exec i (comeUp w a) ≠ .next t) → o = exec i (comeUp w a))

/-- The state in which a row comes to its issue: where it has had that of this step, the step ends first. -/
def comesToIssue (s : State) (r : Nat) : State :=
  let u := if r ∈ s.rowsDone then s.passStep else s
  { u with rowsDone := u.rowsDone ++ [r] }

/-- The slot's band runs and it waits for nothing (R13, R140, R390, R403). -/
def MayIssue (s : State) (k : Nat) : Prop :=
  ∃ v, s.bandOf k = some v ∧ Live s ∧ v.status = .running ∧
    (s.slot k).exited = false ∧ (s.slot k).policyPark = false ∧ (s.slot k).wait = .none

/-- The slot has taken the row's issue between two states: its stamp is a new one. -/
def Took (w t : State) (k : Nat) : Prop := (t.slot k).lastIssue ≠ (w.slot k).lastIssue

end Sys2Proof.Claims

/-- R13, R19: when the agenda's next act is a row, the slot that issued longest ago, slot A on a tie, comes to its issue with
the instruction its PC decodes to; where it cannot issue, or its word takes no issue, the other one comes with its own; a word
that has taken the row's issue before its translations were known goes on ahead of both, and where no slot can issue nothing
happens. A row that has had the issue of this step comes to that of the next. A step whose next act is an event of the opcode
table is that event; with an empty agenda the clock ticks (the agenda is the model's choice, log entry 1). Readings: log
entries 1 (the agenda), 10 (an event out of its time), 85 (a word in a waiting line has issued), 94 (an act that meets an
unavailable bank). -/
def Obligations.StepRunsDecodedAndEvents : Prop :=
  (∀ (s : State) (r : Nat) (rest : List Act) (i : Instr) (first second : Nat), s.agenda = .row r :: rest →
     let a := { s with agenda := rest }
     let w := comesToIssue a r
     let going (k : Nat) : Prop := MayIssue a k ∧ (a.slot k).selected = true
     (first = 2 * r ∧ second = 2 * r + 1 ∧ (w.slot (2 * r)).lastIssue ≤ (w.slot (2 * r + 1)).lastIssue ∨
      first = 2 * r + 1 ∧ second = 2 * r ∧ (w.slot (2 * r + 1)).lastIssue < (w.slot (2 * r)).lastIssue) →
     (going first → ¬ going second → WordAt a first i → ∀ o, Ran a first i o → step s = o) ∧
     (going second → ¬ going first → WordAt a second i → ∀ o, Ran a second i o → step s = o) ∧
     (¬ going first → ¬ going second →
       (MayIssue w first → WordAt w first i → ∀ t, Ran w first i (.next t) →
         (Took w t first ∨ ¬ MayIssue w second → step s = .next t) ∧
         (¬ Took w t first → MayIssue w second → ∀ j, WordAt t second j → ∀ o, Ran t second j o → step s = o)) ∧
       (¬ MayIssue w first → MayIssue w second → WordAt w second i → ∀ o, Ran w second i o → step s = o) ∧
       (¬ MayIssue w first → ¬ MayIssue w second → first ∉ w.killStep → second ∉ w.killStep → step s = .next w))) ∧
  (∀ (s : State) (i : Instr) (rest : List Act), s.agenda = .event i :: rest → encode i = none →
     (∀ c h f, i ≠ .undefinedEncoding c h f) → (∀ a b, i ≠ .pairWord a b) →
     ∀ o, Came { s with agenda := rest } i o → step s = o) ∧
  (∀ (s : State) (rest : List Act), s.agenda = .pass :: rest → step s = .next { s with agenda := rest }.passStep) ∧
  ∀ s : State, s.agenda = [] → step s = exec .tick s

/-- Every step keeps the memory's canonical form: locations strictly rise and none is listed with what it reads as. -/
def Obligations.StepKeepsMemory : Prop := ∀ s t : State, s.mem.wf = true → step s = .next t → t.mem.wf = true

/-- R110, R410, Table 17.3: the machine right after power-on. Readings: log entries 4 and 5 (memory without a value), 29. -/
def Obligations.ResetValues : Prop :=
  (∀ k, State.reset.slot k = Slot.empty ∧ State.reset.bandOf k = none) ∧
  (∀ f a, State.reset.byte (sideLoc f a) = 0 ∧ State.reset.chunkAt f a = 0) ∧
  (∀ d a, State.reset.byte (queueLoc d a) = 0) ∧ (∀ i, ctrState (State.reset.ctrRead i) = 0 ∧ ctrCount (State.reset.ctrRead i) = 0) ∧
  (∀ n, State.reset.queue n = [] ∧ Tab.get 0#32 State.reset.nodeSeq n = 0 ∧ nodeValid (State.reset.node n) = false) ∧
  (∀ u a p, State.reset.tlbLook u a p = none) ∧ (∀ k, Tab.get none State.reset.icache k = none ∧ Tab.get none State.reset.halo k = none) ∧
  (∀ k, Tab.get none State.reset.keys k = none) ∧
  (∀ f k l, l < 64 → patternEntry (State.reset.pattern f k) l = l) ∧
  (∀ k, Tab.get none State.reset.fb k = none) ∧ State.reset.cmds = [] ∧ State.reset.colls = [] ∧
  State.reset.subtail = 0 ∧ State.reset.subhead = 0 ∧
  (∀ f i, State.reset.arrivalCtr f i = 0) ∧ (∀ k, State.reset.evCtr k = EvCounter.zero) ∧ (∀ k, Tab.get 0 State.reset.acts k = 0) ∧
  State.reset.time = 0 ∧ State.reset.launchSeq = 0 ∧ State.reset.power = .running ∧
  (∀ p, (State.reset.link p).up = true ∧ (State.reset.link p).lanes = 8) ∧ State.reset.mem.wf = true

/-! ## Sources (spec/03, spec/05) -/

/-- R62, R69, R70, R16: issue moves the PC past the word, within its 57 bits (R104), and stamps the slot; reading the sources
empties exactly the registers that take mode names; a word that names the north port, but for a peek, consumes the value at its
head, from the zenith feed in band row 0 and from the row above otherwise; nothing else changes. Readings: log entries 3. -/
def Obligations.SourcesRead : Prop :=
  ∀ (s : State) (us : List Use) (size : Nat), (s.bandOf s.cur).isSome = true →
    let u := sourced s us size
    let d := u.slot s.cur
    (∀ code, code < 0x78 → d.isEmpty code = ((here s).isEmpty code || (hasBit code && decide (code ∈ tookCodes us)))) ∧
    d = { stamped s (goesTo (here s) ((here s).pc + BitVec.ofNat 64 size)) with
      xEmpty := d.xEmpty, vEmpty := d.vEmpty, aEmpty := d.aEmpty, wEmpty := d.wEmpty, dEmpty := d.dEmpty
      lastTaken := d.lastTaken, south := d.south } ∧
    u = { s with slots := u.slots, bands := u.bands, issueClk := s.issueClk + 1, evc := issueCounted s } ∧
    ((∀ x ∈ us, x.code = codeN → x.mode = .peek) →
      u.bands = s.bands ∧ d.lastTaken = (here s).lastTaken ∧ d.south = (here s).south ∧
      ∀ k, k ≠ s.cur → u.slot k = s.slot k) ∧
    ∀ v b w, (∃ x ∈ us, x.code = codeN ∧ x.mode ≠ .peek) → (here s).band = some b → s.band? b = some v →
      s.northHead s.cur = some w → d.lastTaken = some w ∧
      (v.rowIndex (slotRow s.cur) = 0 →
        u.band? b = some { v with zen := { v.zen with buf := v.zen.buf.drop 1 }.pass } ∧
        (∀ c, c ≠ b → u.band? c = s.band? c) ∧ d.south = (here s).south ∧ ∀ k, k ≠ s.cur → u.slot k = s.slot k) ∧
      (v.rowIndex (slotRow s.cur) ≠ 0 →
        u.bands = s.bands ∧ d.south = (here s).south ∧
        u.slot (northSlot s.cur) = { s.slot (northSlot s.cur) with south := (s.slot (northSlot s.cur)).south.drop 1 } ∧
        ∀ k, k ≠ s.cur → k ≠ northSlot s.cur → u.slot k = s.slot k)

/-! ## Scalar instructions (spec/06) -/

namespace Sys2Proof.Claims

/-- An instruction that writes one x register: destination, sources, bytes, and the value it writes. -/
structure ScalarForm where
  d    : Fin 32
  us   : List Use
  size : Nat
  val  : State → Word

/-- It completes: D holds the value, x0 reads 0, and nothing else changes. -/
def Writes (i : Instr) (f : ScalarForm) (s : State) : Prop := Acts i s f.us f.size (WroteX f.d (f.val s))

def binary (d : Fin 32) (a : XSrc) (b : XOp) (f : Word → Word → Word) : ScalarForm :=
  ⟨d, xUse 0 a ++ opUse b, opSize b, fun s => f ((here s).xval s.cur a) ((here s).opval s.cur b)⟩

def flag (p : Prop) [Decidable p] : Word := if p then 1 else 0

/-- The two-operand integer instructions of Table 6.3 and what each computes (R125, R126, R127). -/
def binaryForm : Instr → Option ScalarForm
  | .add d a b => some (binary d a b fun x y => x + y)
  | .sub d a b => some (binary d a b fun x y => x - y)
  | .mul d a b => some (binary d a b fun x y => x * y)
  | .mulh d a b => some (binary d a b fun x y => BitVec.ofInt 64 (x.toInt * y.toInt / 2 ^ 64))
  | .mulhn d a b => some (binary d a b fun x y => BitVec.ofNat 64 (x.toNat * y.toNat / 2 ^ 64))
  | .div d a b => some (binary d a b fun x y => BitVec.ofInt 64 (x.toInt.tdiv y.toInt))
  | .divn d a b => some (binary d a b fun x y => x / y)
  | .rem d a b => some (binary d a b fun x y => BitVec.ofInt 64 (x.toInt.tmod y.toInt))
  | .remn d a b => some (binary d a b fun x y => x % y)
  | .and d a b => some (binary d a b fun x y => x &&& y)
  | .or d a b => some (binary d a b fun x y => x ||| y)
  | .xor d a b => some (binary d a b fun x y => x ^^^ y)
  | .andn d a b => some (binary d a b fun x y => x &&& ~~~y)
  | .shl d a b => some (binary d a b fun x y => x <<< (y.toNat % 64))
  | .shr d a b => some (binary d a b fun x y => x >>> (y.toNat % 64))
  | .sar d a b => some (binary d a b fun x y => x.sshiftRight (y.toNat % 64))
  | .rot d a b => some (binary d a b fun x y => x.rotateLeft (y.toNat % 64))
  | .min d a b => some (binary d a b fun x y => if y.toInt < x.toInt then y else x)
  | .max d a b => some (binary d a b fun x y => if x.toInt < y.toInt then y else x)
  | .minn d a b => some (binary d a b fun x y => if y < x then y else x)
  | .maxn d a b => some (binary d a b fun x y => if x < y then y else x)
  | .seq d a b => some (binary d a b fun x y => flag (x = y))
  | .sne d a b => some (binary d a b fun x y => flag (x ≠ y))
  | .slt d a b => some (binary d a b fun x y => flag (x.toInt < y.toInt))
  | .sltn d a b => some (binary d a b fun x y => flag (x < y))
  | .sle d a b => some (binary d a b fun x y => flag (x.toInt ≤ y.toInt))
  | .slen d a b => some (binary d a b fun x y => flag (x ≤ y))
  | .lea d a b k => some (binary d a b fun x y => x + y * 2 ^ k.val)
  | .bfx d a b sx => some (binary d a (.reg b) fun x y =>
      let f := (x >>> (y.toNat % 64)).setWidth (min (y.toNat / 256 % 128) 64)
      if sx then f.signExtend 64 else f.setWidth 64)
  | _ => none

/-- The divisor of a division. -/
def divisor : Instr → Option XOp
  | .div _ _ b | .divn _ _ b | .rem _ _ b | .remn _ _ b => some b
  | _ => none

/-- The CSRs (Table 5.3), of a row of band number `b` with entry `v`. -/
def csrTable (s : State) (b : Nat) (v : Band) (n : Nat) : Word :=
  let c := here s
  let row := slotRow s.cur
  let edge (nad : Bool) : Word :=
    if v.linked = true ∧ (if nad then v.rowIndex row + 1 = v.height else v.rowIndex row = 0) then
      let e := if nad then v.nad else v.zen
      BitVec.ofNat 64 (e.position.toNat * 65536 + if e.cur.isSome || e.queued.isSome then 1 else 0)
    else 0
  match n with
  | 0x000 => c.fpmode | 0x001 => c.lanestat | 0x002 => c.trapcause | 0x003 => c.trappc
  | 0x004 => c.trapinfo | 0x005 => c.tvec | 0x006 => BitVec.ofNat 64 row
  | 0x007 => BitVec.ofNat 64 (v.height * 65536 + v.rowIndex row)
  | 0x008 => BitVec.ofNat 64 v.node | 0x009 => BitVec.ofNat 64 (v.asid * 65536 + v.region)
  | 0x00A => BitVec.ofNat 64 (65536 * v.winChunk) | 0x00B => BitVec.ofNat 64 v.reccount
  | 0x00C => BitVec.ofNat 64 v.depth | 0x00D => s.time
  | 0x00E => BitVec.ofNat 64 (65536 * v.chunk0) | 0x00F => BitVec.ofNat 64 (65536 * v.chunks)
  | 0x010 => BitVec.ofNat 64 (slotAB s.cur) | 0x011 => BitVec.ofNat 64 b
  | 0x012 => BitVec.ofNat 64 ((if v.suspend then 2 else 0) + if v.due then 1 else 0)
  | 0x013 => edge false | 0x014 => edge true | 0x015 => BitVec.ofNat 64 (s.faultLog v.region)
  | 0x020 => 0x00090E3D | 0x021 => 0x01 | 0x022 => 0x404040 | 0x023 => s.pkgid.setWidth 64
  | _ => 0

/-- A CSR as the executing row reads it. -/
def csrOf (s : State) (n : Nat) : Word :=
  match (here s).band, s.bandOf s.cur with
  | some b, some v => csrTable s b v n
  | _, _ => 0

/-- The event counter that a row's number 0 to 23 names: 8 of its field, 16 of its die (R377). -/
def evNumber (s : State) (n : Nat) : Nat :=
  if n < 8 then 8 * (slotRow s.cur / 64) + n else 512 + 16 * (slotRow s.cur / 512) + (n - 8)

/-- The other instructions that write one x register from their sources and the state: Table 6.3, LANY, LALL and LCNT (R134),
DGET (R259), EVRD (R379), CSRR (R116). -/
def otherForm : Instr → Option ScalarForm
  | .mov d a => some ⟨d, xUse 0 a, 8, fun s => (here s).xval s.cur a⟩
  | .clz d a => some ⟨d, xUse 0 a, 8, fun s =>
      BitVec.ofNat 64 ((List.range 64).takeWhile (fun j => !((here s).xval s.cur a).getMsbD j)).length⟩
  | .ctz d a => some ⟨d, xUse 0 a, 8, fun s =>
      BitVec.ofNat 64 ((List.range 64).takeWhile (fun j => !((here s).xval s.cur a).getLsbD j)).length⟩
  | .popc d a => some ⟨d, xUse 0 a, 8, fun s =>
      BitVec.ofNat 64 ((List.range 64).countP (fun j => ((here s).xval s.cur a).getLsbD j))⟩
  | .li d b => some ⟨d, opUse b, opSize b, fun s => (here s).opval s.cur b⟩
  | .sel d a b e => some ⟨d, xUse 0 a ++ opUse b ++ xUse 2 e, opSize b, fun s =>
      if (here s).xval s.cur a ≠ 0 then (here s).opval s.cur b else (here s).xval s.cur e⟩
  | .madd d a b e => some ⟨d, xUse 0 a ++ opUse b ++ xUse 2 e, opSize b, fun s =>
      (here s).xval s.cur a * (here s).opval s.cur b + (here s).xval s.cur e⟩
  | .bfi d a b => some ⟨d, xUse 0 a ++ xUse 1 b ++ (if d = 0 then [] else impliedUse (codeX d)), 8, fun s =>
      let y := ((here s).xval s.cur b).toNat
      let m : Word := ((BitVec.allOnes 64).setWidth (min (y / 256 % 128) 64)).setWidth 64 <<< (y % 64)
      ((here s).xr d &&& ~~~m) ||| (((here s).xval s.cur a <<< (y % 64)) &&& m)⟩
  | .lany d p => some ⟨d, [], 8, fun s => flag (∃ l : Fin 64, (here s).openLanes.getLsbD l = true ∧ ((here s).pr p.reg).getLsbD l = true)⟩
  | .lall d p => some ⟨d, [], 8, fun s => flag (∀ l : Fin 64, (here s).openLanes.getLsbD l = true → ((here s).pr p.reg).getLsbD l = true)⟩
  | .lcnt d p => some ⟨d, [], 8, fun s =>
      BitVec.ofNat 64 ((List.range 64).countP (fun l => (here s).openLanes.getLsbD l && ((here s).pr p.reg).getLsbD l))⟩
  | .dget d a i => some ⟨d, dUse 0 a, 8, fun s => ((here s).dr a.reg).extractLsb' (64 * i.val) 64⟩
  | .evrd d a => some ⟨d, xUse 0 a, 8, fun s =>
      let n := ((here s).xval s.cur a).toNat % 32
      let c := Tab.get EvCounter.zero s.evc (evNumber s n)
      if n < 8 then c.prev else c.value⟩
  | .csrr d n => some ⟨d, [], 8, fun s => csrOf s n.toNat⟩
  | _ => none

/-- What else the instruction asks: EVRD a counter number below 24 (R379). -/
def otherOk (s : State) : Instr → Prop
  | .evrd _ a => ((here s).xval s.cur a).toNat % 32 < 24
  | _ => True

end Sys2Proof.Claims

/-- R125, R126, R127, Table 6.3: each two-operand integer instruction, in every operand form, completes when its sources are
ready and a divisor is not 0; it writes its value to D and changes nothing else. Completes: add, sub, mul, mulh, mulhn, div,
divn, rem, remn, and, or, xor, andn, shl, shr, sar, rot, min, max, minn, maxn, seq, sne, slt, sltn, sle, slen, lea, bfx. -/
def Obligations.ScalarBinary : Prop :=
  ∀ (i : Instr) (f : ScalarForm) (s : State), binaryForm i = some f → CanIssue s → Ready s f.us [codeX f.d] →
    (∀ b, divisor i = some b → (here s).opval s.cur b ≠ 0) → Writes i f s

/-- R125, R127, R134, R116, R259: each other instruction that writes one x register from its sources and the state completes
when its sources are ready; it writes its value to D and changes nothing else. R125: NOP changes nothing but the PC. EVRD of a
field counter (numbers 0 to 7) gives the count through the step before (R379); that EVRD of a die counter (numbers 8 to 23)
gives the count at its issue is the model's choice (log entry 3): R379 lets it be that of some step up to issue + 24.
Completes: nop, clz, ctz, popc, sel, mov, li, bfi, madd, lany, lall, lcnt, dget, evrd, csrr. Readings: log entries 3 (the reads
of die counters). -/
def Obligations.ScalarOther : Prop :=
  (∀ (i : Instr) (f : ScalarForm) (s : State), otherForm i = some f → CanIssue s → Ready s f.us [codeX f.d] →
     otherOk s i → Writes i f s) ∧
  (∀ s : State, CanIssue s → Acts .nop s [] 8 (fun c c' => c' = c))

/-- R70, Table 16.1: a two-operand integer instruction with an empty trap-mode source traps EMPTYSRC, and TRAPINFO has bit 0
set for field A, bit 1 for field B. R70, R19: a two-operand integer instruction with an empty wait-mode or take-mode source and
no empty trap-mode source waits: its slot's registers, PC and stamp stay as they are, and so does every other slot and all
memory. Readings: log entries 48 (an empty trap-mode source comes first). -/
def Obligations.EmptySources : Prop :=
  (∀ (i : Instr) (d : Fin 32) (a : XSrc) (b : XOp) (f : Word → Word → Word) (s : State),
     binaryForm i = some (binary d a b f) → InRow s .emptysrc →
     let bad (us : List Use) : Bool := us.any (fun u => decide (u.mode = .trap) && (here s).isEmpty u.code)
     (bad (xUse 0 a) || bad (opUse b)) = true →
     Traps i s .emptysrc ((if bad (xUse 0 a) then 1 else 0) + if bad (opUse b) then 2 else 0) (here s).pc) ∧
  (∀ (i : Instr) (f : ScalarForm) (s : State), binaryForm i = some f → CanIssue s →
     (∀ u ∈ f.us, ¬ (u.mode = .trap ∧ (here s).isEmpty u.code = true)) →
     (∃ u ∈ f.us, (u.mode = .wait ∨ u.mode = .take) ∧ (here s).isEmpty u.code = true) →
     ∃ t, exec i s = .next t ∧ t.slot s.cur = { here s with blocked := (t.slot s.cur).blocked } ∧
       (∀ k, k ≠ s.cur → t.slot k = s.slot k) ∧ ∀ loc, t.byte loc = s.byte loc)

/-- R126, R387: with a divisor that is not 0, DIV and REM read their operands signed and DIVN and REMN unsigned, the quotient
is rounded toward zero and the remainder is A − B × quotient; with a divisor of 0, in every operand form, the instruction traps
DIVZERO at its own address and writes nothing. The most negative number divided by −1 is itself, with remainder 0, and does not
trap. -/
def Obligations.Divisions : Prop :=
  (∀ (d : Fin 32) (a : XSrc) (b : XOp) (s : State), CanIssue s → Ready s (xUse 0 a ++ opUse b) [codeX d] →
    let x := (here s).xval s.cur a
    let y := (here s).opval s.cur b
    let writes (i : Instr) (v : Word) : Prop := Acts i s (xUse 0 a ++ opUse b) (opSize b) (WroteX d v)
    y ≠ 0 →
    (∃ q : Word, writes (.div d a b) q ∧ writes (.rem d a b) (x - y * q) ∧
      (¬ (x = 0x8000000000000000 ∧ y = 0xFFFFFFFFFFFFFFFF) → q.toInt.natAbs = x.toInt.natAbs / y.toInt.natAbs ∧
        (0 < q.toInt → (0 < x.toInt ↔ 0 < y.toInt)) ∧ (q.toInt < 0 → ¬ (0 < x.toInt ↔ 0 < y.toInt))) ∧
      (x = 0x8000000000000000 ∧ y = 0xFFFFFFFFFFFFFFFF → q = x)) ∧
    writes (.divn d a b) (BitVec.ofNat 64 (x.toNat / y.toNat)) ∧ writes (.remn d a b) (BitVec.ofNat 64 (x.toNat % y.toNat))) ∧
  ∀ (i : Instr) (f : ScalarForm) (b : XOp) (s : State), divisor i = some b → binaryForm i = some f → InRow s .divzero →
    Ready s f.us [codeX f.d] → (here s).opval s.cur b = 0 → Traps i s .divzero 0 (here s).pc

/-! ## Control and lane structure (spec/06) -/

namespace Sys2Proof.Claims

/-- The exit address (R118). -/
def exitAt : Word := 0x01FFFFFFFFFFFFF8

/-- A branch: its register source, whether it branches, where, and the link it writes. -/
structure BranchForm where
  us    : List Use
  take  : State → Bool
  dest  : State → Word
  link  : Option (Fin 32 × (State → Word))

def rel (imm : BitVec 31) (s : State) : Word := (here s).pc + imm.signExtend 64 * 8

/-- R129, but for a register target that is the exit address or misaligned. -/
def branchForm : Instr → Option BranchForm
  | .j imm => some ⟨[], fun _ => true, rel imm, none⟩
  | .jr a => some ⟨xUse 0 a, fun _ => true, fun s => (here s).xval s.cur a, none⟩
  | .bz a imm => some ⟨xUse 0 a, fun s => (here s).xval s.cur a == 0, rel imm, none⟩
  | .bnz a imm => some ⟨xUse 0 a, fun s => (here s).xval s.cur a != 0, rel imm, none⟩
  | .call d imm => some ⟨[], fun _ => true, rel imm, some (d, fun s => (here s).pc + 8)⟩
  | .callr d a => some ⟨xUse 0 a, fun _ => true, fun s => (here s).xval s.cur a, some (d, fun s => (here s).pc + 8)⟩
  | .dbnz d a imm => some ⟨xUse 0 a, fun s => (here s).xval s.cur a - 1 != 0, rel imm,
      some (d, fun s => (here s).xval s.cur a - 1)⟩
  | _ => none

/-- The register that names the target of JR and CALLR. -/
def targetReg : Instr → Option XSrc
  | .jr a | .callr _ a => some a
  | _ => none

/-- The new counter of a lane under a lane-structure instruction, from its predicate bit and its counter (R132). -/
def nestRule : Instr → Option (PSrc × (Bool → Nat → Nat))
  | .lif p => some (p, fun b c => if c > 0 then c + 1 else if b = false then 1 else 0)
  | .lelse => some (⟨0, .wait⟩, fun _ c => if c = 1 then 0 else if c = 0 then 1 else c)
  | .lendif => some (⟨0, .wait⟩, fun _ c => if c > 0 then c - 1 else 0)
  | .lloop => some (⟨0, .wait⟩, fun _ c => if c > 0 then c + 2 else 0)
  | .lbreak p k => some (p, fun b c => if c = 0 ∧ b = true then k.val + 2 else c)
  | .lcont p k => some (p, fun b c => if c = 0 ∧ b = true then k.val + 1 else c)
  | _ => none

/-- The nesting counters become `n`; the lanes at 0 are the open ones (R59); nothing else changes. -/
def Nested (n : Nat → Nat) (c c' : Slot) : Prop :=
  c' = { c with nest := c'.nest } ∧
  ∀ l, l < 64 → (c'.nestOf l).toNat = n l ∧ (c'.openLanes.getLsbD l = true ↔ n l = 0)

end Sys2Proof.Claims

/-- R118, R129: J, JR, BZ, BNZ, CALL, CALLR and DBNZ complete: the PC is the target where the branch is taken and the next word
otherwise, the link register holds its value, and nothing else changes. R118, R129, R140: EXIT, and JR and CALLR to the exit
address, end the row: its slot is exited, its PC is past the word, no link is written, and nothing else changes. R129: a
misaligned register target traps MISALIGN with TRAPINFO the target and TRAPPC the branch word. Completes: j, jr, bz, bnz, call,
callr, dbnz, exit. Readings: log entries 3. -/
def Obligations.Branches : Prop :=
  (∀ (i : Instr) (f : BranchForm) (s : State), branchForm i = some f → CanIssue s →
     Ready s f.us (f.link.elim [] (fun l => [codeX l.1])) →
     (∀ a, targetReg i = some a → (here s).xval s.cur a % 8 = 0 ∧ (here s).xval s.cur a ≠ exitAt) →
     Acts i s f.us 8 (fun c c' => ∃ c1, (match f.link with
         | some l => WroteX l.1 (l.2 s) c c1
         | none => c1 = c) ∧ c' = if f.take s then goesTo c1 (f.dest s) else c1)) ∧
  (∀ (s : State), CanIssue s →
     let exited (c c' : Slot) : Prop := c' = { c with exited := true, exitPc := (here s).pc, wait := .none }
     Acts .exit s [] 8 exited ∧
     (∀ a, Ready s (xUse 0 a) [] → (here s).xval s.cur a = exitAt → Acts (.jr a) s (xUse 0 a) 8 exited) ∧
     ∀ (d : Fin 32) (a : XSrc), Ready s (xUse 0 a) [codeX d] → (here s).xval s.cur a = exitAt → Acts (.callr d a) s (xUse 0 a) 8 exited) ∧
  (∀ (i : Instr) (f : BranchForm) (a : XSrc) (s : State), branchForm i = some f → targetReg i = some a → InRow s .misalign →
     Ready s f.us (f.link.elim [] (fun l => [codeX l.1])) → (here s).xval s.cur a % 8 ≠ 0 →
     Traps i s .misalign ((here s).xval s.cur a) (here s).pc)

/-- R132: LIF, LELSE, LENDIF, LLOOP, LBREAK and LCONT give every lane, active or not, its new counter, when none exceeds 63,
and change nothing else. R133: where a counter would exceed 63, the instruction traps NESTOVF with the set of such lanes in
TRAPINFO and the counters unchanged. R132: LENDL closes or repeats a loop: after its two steps it branches back where some lane
is at 0, and lowers the counters by 2 otherwise. Completes: lif, lelse, lendif, lloop, lbreak, lcont, lendl. -/
def Obligations.LaneNesting : Prop :=
  (∀ (i : Instr) (p : PSrc) (f : Bool → Nat → Nat) (s : State), nestRule i = some (p, f) → CanIssue s →
     let new (l : Nat) : Nat := f (((here s).pr p.reg).getLsbD l) ((here s).nestOf l).toNat
     (∀ l, l < 64 → new l ≤ 63) → Acts i s [] 8 (Nested new)) ∧
  (∀ (i : Instr) (p : PSrc) (f : Bool → Nat → Nat) (s : State), nestRule i = some (p, f) → InRow s .nestovf →
     let new (l : Nat) : Nat := f (((here s).pr p.reg).getLsbD l) ((here s).nestOf l).toNat
     (∃ l, l < 64 ∧ 63 < new l) →
     ∃ w : Word, (∀ l, l < 64 → (w.getLsbD l = true ↔ 63 < new l)) ∧ Traps i s .nestovf w (here s).pc) ∧
  (∀ (p : PSrc) (back : BitVec 13) (s : State), CanIssue s →
     let mid (l : Nat) : Nat :=
       let c := ((here s).nestOf l).toNat
       if c = 0 then (if ((here s).pr p.reg).getLsbD l then 0 else 2) else if c = 1 then 0 else c
     ((∃ l, l < 64 ∧ mid l = 0) → Acts (.lendl p back) s [] 8 (fun c c' => ∃ c1, Nested mid c c1 ∧
       c' = goesTo c1 ((here s).pc - BitVec.ofNat 64 (8 * back.toNat)))) ∧
     ((∀ l, l < 64 → mid l ≠ 0) → Acts (.lendl p back) s [] 8 (Nested (fun l => mid l - 2))))

/-! ### WAITC, YIELD (R135-R139) -/

namespace Sys2Proof.Claims

/-- The condition words of a vector, by number. -/
def condWord (d : Desc) (i : Nat) : Word := d.extractLsb' (64 * i) 64

/-- A vector that step 3 of R137 lets pass: its count and header, its conditions by kind, and zero beyond the count. -/
def goodVector (dregs : Nat) (d : Desc) : Prop :=
  let n := (condWord d 0).toNat % 8
  n ≠ 0 ∧ (condWord d 0).toNat < 16 ∧
  (∀ i, 1 ≤ i → i ≤ n →
    let w := condWord d i
    let arg := w.toNat % 2 ^ 56
    w.toNat / 2 ^ 56 % 16 = 0 ∧
    ((w.toNat / 2 ^ 60 = 1 ∧ arg < 64 ∧ (32 ≤ arg → arg - 32 < 8 ∧ arg - 32 < dregs)) ∨
     (w.toNat / 2 ^ 60 = 2 ∧ arg < 2 ^ 54) ∨ (w.toNat / 2 ^ 60 = 3 ∧ arg < 2 ^ 16) ∨ w.toNat / 2 ^ 60 = 4 ∨
     (w.toNat / 2 ^ 60 = 5 ∧ arg = 0))) ∧
  ∀ i, n < i → i ≤ 7 → condWord d i = 0

/-- A condition holds now (Table 6.9). -/
def condTrue (s : State) (w : Word) : Prop :=
  let arg := w.toNat % 2 ^ 56
  (w.toNat / 2 ^ 60 = 1 ∧ (if arg < 32 then (here s).isEmpty (codeX arg) = false else (here s).isEmpty (codeD (arg - 32)) = false)) ∨
  (w.toNat / 2 ^ 60 = 2 ∧ arg % 2 ^ 48 ≤ (s.arrivalCtr (slotRow s.cur / 64) (arg / 2 ^ 48)).toNat) ∨
  (w.toNat / 2 ^ 60 = 3 ∧ s.ctrBad arg = false ∧ s.ctrRead arg % 2 ^ 32 = 0) ∨
  (w.toNat / 2 ^ 60 = 4 ∧ arg ≤ s.time.toNat) ∨
  (w.toNat / 2 ^ 60 = 5 ∧ (s.northHead s.cur).isSome = true)

/-- `met` is the status of the vector's conditions: bit i - 1 for condition i. -/
def isStatus (s : State) (d : Desc) (met : Word) : Prop :=
  ∀ i, i < 64 → (met.getLsbD i = true ↔ i < (condWord d 0).toNat % 8 ∧ condTrue s (condWord d (i + 1)))

/-- The vector is met: every condition under `all`, some condition otherwise. -/
def vectorMet (d : Desc) (met : Word) : Prop :=
  if (condWord d 0).getLsbD 3 then ∀ i, i < (condWord d 0).toNat % 8 → met.getLsbD i = true else met ≠ 0

/-- No condition names a poisoned join counter. -/
def noPoison (s : State) (d : Desc) : Prop :=
  ∀ i, 1 ≤ i → i ≤ (condWord d 0).toNat % 8 → (condWord d i).toNat / 2 ^ 60 = 3 → s.ctrBad ((condWord d i).toNat % 2 ^ 56) = false

/-- The slot waits at its word and goes on behind it. -/
def Waiting (s : State) (w : Wait) (c c' : Slot) : Prop :=
  c' = { c with npc := c.pc ||| (c.high.setWidth 64 <<< 57), pc := (here s).pc, high := 0, wait := w }

/-- A word waits in its slot and takes its sources, with its results, when the wait ends; until then nothing of it is counted
(R70, R380). -/
def WaitsTaking (i : Instr) (s : State) (us : List Use) (size : Nat) (w : Wait) : Prop :=
  ActsIn i s { sourced s [] size with evc := s.evc } (fun c c' => ∃ c1, Waiting s w c c1 ∧ c' = { c1 with late := tookCodes us })

/-- The same of a word that is counted at its issue, since it cannot trap any more. -/
def WaitsLate (i : Instr) (s : State) (us : List Use) (size : Nat) (w : Wait) : Prop :=
  Acts i s [] size (fun c c' => ∃ c1, Waiting s w c c1 ∧ c' = { c1 with late := tookCodes us })

/-- Kind 5 is used only where the north port is bound (R137, step 4). -/
def portBound (s : State) (d : Desc) : Prop :=
  (∃ i, 1 ≤ i ∧ i ≤ (condWord d 0).toNat % 8 ∧ (condWord d i).toNat / 2 ^ 60 = 5) → s.northUnbound s.cur = none

end Sys2Proof.Claims

/-- R137: WAITC with a good vector that is met writes its status and completes; one that is not met with B = 0 writes it with
bit 63 set; any other waits at its word with its deadline TIME + B, none for B = 2^64 - 1, and takes its sources only when its
wait ends (R70). R139: YIELD only reads B where no yield is due, and waits with its live mask where one is. Completes: waitc,
yield. Readings: log entries 60 (when takes act), 49, 88. -/
def Obligations.WaitsAndYields : Prop :=
  (∀ (d : Fin 32) (a : DSrc) (b : XOp) (met : Word) (v : Band) (s : State), CanIssue s → s.bandOf s.cur = some v →
     Ready s (dUse 0 a ++ opUse b) [codeX d] →
     let V := (here s).dr a.reg
     let B := (here s).opval s.cur b
     goodVector v.dregs V → portBound s V → isStatus s V met →
     (vectorMet V met → Acts (.waitc d a b) s (dUse 0 a ++ opUse b) (opSize b) (WroteX d met)) ∧
     (¬ vectorMet V met → noPoison s V → B = 0 →
       ActsIn (.waitc d a b) s ((sourced s (dUse 0 a ++ opUse b) (opSize b)).evField (slotField s.cur) 0x15 0)
         (WroteX d (met ||| 0x8000000000000000))) ∧
     (¬ vectorMet V met → noPoison s V → B ≠ 0 →
       WaitsTaking (.waitc d a b) s (dUse 0 a ++ opUse b) (opSize b)
         (.waitc d V (if B = BitVec.allOnes 64 then none else some (s.time.toNat + B.toNat))))) ∧
  (∀ (b : XOp) (v : Band) (s : State), CanIssue s → s.bandOf s.cur = some v → Ready s (opUse b) [] →
     Acts (.yield b) s (opUse b) (opSize b) (fun c c' =>
       c' = if v.due then { c with wait := .yield (((here s).opval s.cur b).setWidth 32) } else c))

/-! ### Traps and returns (spec/16) -/

/-- R141, R142, R387, R388: TRAP raises SWTRAP with B in TRAPINFO and TRAPPC behind the word; BRK raises BREAK at its own word
with TRAPINFO 0; each enters the slot's handler. R78, R79, Table 3.9: a word that is no instruction traps at its own address
with TRAPINFO naming the half and the field. Completes: trap, brk, undefinedEncoding. Readings: log entries 39 and 40 (the
field that is named). -/
def Obligations.WordTraps : Prop :=
  ((∀ (b : XOp) (s : State), InRow s .swtrap → Ready s (opUse b) [] →
     Traps (.trap b) s .swtrap ((here s).opval s.cur b) ((here s).pc + BitVec.ofNat 64 (opSize b))) ∧
   ∀ s : State, InRow s .brk → Traps .brk s .brk 0 (here s).pc) ∧
  (∀ (c : Cause) (h : Bool) (f : BitVec 6) (s : State), InRow s c → c ≠ .asyncfault →
     Traps (.undefinedEncoding c h f) s c (BitVec.ofNat 64 ((if h then 64 else 0) + f.toNat)) (here s).pc)

/-- R389: RETT outside a handler traps ILLEGAL with field 52; inside one it clears the handler bit and goes to TRAPPC, or ends
the row where TRAPPC is the exit address. Completes: rett. -/
def Obligations.ReturnFromTrap : Prop :=
  ∀ s : State,
    (InRow s .illegal → Traps .rett s .illegal 52 (here s).pc) ∧
    (CanIssue s → (here s).handler = true → Acts .rett s [] 8 (fun c c' => c' =
      if (here s).trappc = exitAt then { c with handler := false, exited := true, exitPc := (here s).pc, wait := .none }
      else goesTo { c with handler := false } (here s).trappc))

/-- R387, R391, R112: a BRK whose trap may not be handled in the row (its policy is kill and report, or in-row without a
handler or within it) kills the band: every row of it stops and the report holds the trap. R390: under park and notify the slot
keeps its PC, holds the trap in its CSRs and issues nothing more, and a record of kind 1 is posted; no other slot changes.
R392, Tables 12.1 and 16.3: a fault record joins the tail of the queue of its region's handler node, its payload in a block of
the arena of that node's region, or, where no block is free, its first 16 bytes in the record; it waits at that node's home die
where no entry is free; no other queue changes. Readings: log entries 71 (the nearest handler), 81 (traps of the step of a
kill). -/
def Obligations.TrapPolicies : Prop :=
  (∀ (b : Nat) (v : Band) (s : State), CanIssue s → (here s).deferred = none → (here s).band = some b → s.band? b = some v →
     v.status ≠ .killing →
     (s.policy v.region .brk = .kill ∨
       s.policy v.region .brk = .inRow ∧ ((here s).tvec = 0 ∨ (here s).handler = true)) →
     ∃ t w, exec .brk s = .next t ∧ t.band? b = some w ∧ w.status = .killing ∧
       w.kill = some ⟨true, .brk, (here s).pc, 0, slotRow s.cur, slotAB s.cur, 0⟩ ∧
       (∀ k, k ∈ v.slotKeys → (t.slot k).wait = .none ∧ (t.slot k).south = [] ∧ (t.slot k).reserved = [] ∧
         (t.slot k).deferred = none) ∧ (∀ m ∈ t.heldEnq, m.band ≠ b) ∧
       (∀ c, c ≠ b → t.band? c = s.band? c) ∧ ∀ loc, t.byte loc = s.byte loc) ∧
  (∀ (b : Nat) (v : Band) (s : State), CanIssue s → (here s).deferred = none → (here s).band = some b → s.band? b = some v →
     v.status ≠ .killing → s.policy v.region .brk = .park →
     ∃ u : State, exec .brk s = .next (u.postFault v.region 0x15 1 (slotRow s.cur) (slotAB s.cur) 0 v.node b (here s).pc 0) ∧
       u = { leftLines s with
         slots := u.slots, issueClk := s.issueClk + 1, evc := (s.evField (slotField s.cur) 0x12 0x15).evc } ∧
       u.slot s.cur = { took s with
         trapcause := 0x15, trappc := (here s).pc, trapinfo := 0, policyPark := true, wait := .none, late := [] } ∧
       ∀ k, k ≠ s.cur → u.slot k = s.slot k) ∧
  (∀ (s : State) (region cause kind row ab more node seq : Nat) (pc info : Word),
     let t := s.postFault region cause kind row ab more node seq pc info
     let h := s.regHandlerNode region
     let die := nodeHome (s.node h)
     let payload := faultBytes cause kind row ab more node seq pc info
     let owner := nodeRegion (s.node h)
     (s.recPlace die true = none → t = { s with heldRec := s.heldRec ++ [⟨h, 3, 0, payload, die, none, 0⟩] }) ∧
     ∀ i, s.recPlace die true = some (false, i) → i < 507904 →
       (s.buddyFind owner 6 = none → Accepted s t die i h 3 0 16 payload none) ∧
       ∀ off e lv f, s.buddyFind owner 6 = some off →
         let o := s.arenaOwner owner
         let va := s.arenaVa o off
         let loc := leafLoc ⟨e, lv⟩ va
         (s.walk (s.regAsidOf o) va).1 = .leaf e lv → va.toNat % 65536 + 32 ≤ 65536 → spaceOf loc = .side f →
         s.denied loc 0 0xD0 false true = false → loc % 256 + 32 ≤ 256 →
         t.queue h = s.queue h ++ [⟨die, false, i, (Tab.get 0#32 s.nodeSeq h).toNat, none, 32, some (o, off, 6)⟩] ∧
         (∀ n, n ≠ h → t.queue n = s.queue n) ∧ numberAt t (entryAt die i) 32 = recordNumber s h 3 0 32 va.toNat % 2 ^ 256 ∧
         ∀ j, j < 32 → t.byte (loc + j) = payload.getD j 0)

/-- R134: LANY writes 1 where some lane with counter 0 has its predicate bit set, LALL where every such lane has, and 1 with no
lane at 0, LCNT how many have; they change no counter and no predicate. -/
def Obligations.LanePredicates : Prop :=
  ∀ (d : Fin 32) (p : PSrc) (s : State), CanIssue s → Ready s [] [codeX d] →
    let open_ (l : Nat) : Bool := decide ((here s).nestOf l = 0)
    let set_ (l : Nat) : Bool := ((here s).pr p.reg).getLsbD l
    Acts (.lany d p) s [] 8 (WroteX d (if (List.range 64).any (fun l => open_ l && set_ l) then 1 else 0)) ∧
    Acts (.lall d p) s [] 8 (WroteX d (if (List.range 64).all (fun l => !open_ l || set_ l) then 1 else 0)) ∧
    Acts (.lcnt d p) s [] 8 (WroteX d (BitVec.ofNat 64 ((List.range 64).countP (fun l => open_ l && set_ l))))

/-! ## Lane instructions (spec/07) -/

namespace Sys2Proof.Claims

/-- The ports a lane word names can serve it: bound, and with an active lane, room in the port it writes, of the kind it
accepts, and a north value of the kind it reads (R21, R22, R122, R145, R194). -/
def PortsOk (s : State) (us : List Use) (south : Option PortKind) (north : PortKind) (m : Mask) : Prop :=
  ((∃ u ∈ us, u.code = codeN) → s.northUnbound s.cur = none) ∧
  (south.isSome = true → s.southUnbound s.cur = none) ∧
  (m ≠ 0 → (∀ kind, south = some kind → s.southFull s.cur = false ∧ s.southKindOk s.cur kind = true) ∧
    ∀ u ∈ us, u.code = codeN → (s.northVal s.cur u.mode).body.kind = north)

/-- An instruction that computes a result in each active lane, and its latency (Table 7.3). -/
structure LaneForm where
  g    : Option Guard
  d    : VDst
  us   : List Use
  size : Nat
  val  : State → Nat → Option LaneOut
  lat  : Nat

/-- The lanes that a lane word acts on: those open under the nesting counters whose predicate bit the guard takes (R59). -/
def lanesOn (s : State) (g : Option Guard) : Mask :=
  match g with
  | none => (here s).openLanes
  | some g => (here s).openLanes &&& if g.neg then ~~~(here s).pr g.p else (here s).pr g.p

/-- Source values in a lane, and of a scalar operand (R72, R74, R146, R149). -/
def va (s : State) (a : VSrc) (l : Nat) : LaneReg :=
  match a.name with
  | .v i => (here s).vr i l
  | .n => (s.northVal s.cur a.mode).lane l
  | .lane => ⟨BitVec.ofNat 64 l, .i64, 127⟩
def vb (s : State) (a : VSrc) (b : VOp) (l : Nat) : LaneReg :=
  match b with
  | .reg v => va s v l
  | .imm i => laneImm (va s a l).tag i
  | .lit w => ⟨w, (va s a l).tag, 127⟩
def xv (s : State) (a : XSrc) : Word :=
  match a.name with
  | .x i => (here s).xr i
  | .rowid => BitVec.ofNat 64 (s.cur / 2)
def ov (s : State) (b : XOp) : Word :=
  match b with
  | .reg a => xv s a
  | .imm i => BitVec.ofInt 64 i.toInt
  | .lit w => w

/-- The rounding context of a word (R48, R114). -/
def roundBy (s : State) (rm : RMode) (sat un : Bool) : RoundCtx := ⟨(here s).fpmode, rm.resolve (here s).fpmode, sat, un⟩

/-- The RNG state of a lane before the word. -/
def drawn (s : State) (l : Nat) : Word := (here s).rngOf l

/-- The bits a lane register holds under a tag: an ACC48 value lies in its low 48 bits, and the others are written with zeros
(R35). -/
def heldAs (tag : Fmt) (bits : Word) : Word := if tag = .acc48 then BitVec.ofNat 64 (bits.toNat % 2 ^ 48) else bits

/-- Bits under A's tag; a register copied with its tag and scale; neither rounds. -/
def bitsOut (s : State) (l : Nat) (bits : Word) (tag : Fmt) : Option LaneOut := some ⟨heldAs tag bits, tag, none, 0, drawn s l⟩
def regOut (s : State) (l : Nat) (r : LaneReg) : Option LaneOut := some ⟨heldAs r.tag r.bits, r.tag, some r.scale, 0, drawn s l⟩

/-- The scale D holds in a lane, 2^0 for the port (R164). -/
def scaleAt (s : State) (d : VDst) (l : Nat) : BitVec 8 :=
  match d with
  | .v i => ((here s).vr i l).scale
  | .s => 127

def arith (op : ArithOp) (g : Option Guard) (d : VDst) (a : VSrc) (b : VOp) (rm : RMode) (sat un : Bool) : LaneForm :=
  ⟨g, d, vUse 0 a ++ vopUse b, vopSize b, fun s l => laneArith op (roundBy s rm sat un) (va s a l) (vb s a b l) (drawn s l),
    if op = .mul then 4 else 2⟩
def fused (sub : Bool) (g : Option Guard) (d : VDst) (a : VSrc) (b : VOp) (c : VSrc) (rm : RMode) (sat un : Bool) : LaneForm :=
  ⟨g, d, vUse 0 a ++ vopUse b ++ vUse 2 c, vopSize b, fun s l =>
    laneFma sub (roundBy s rm sat un) (va s a l) (vb s a b l) (va s c l) (drawn s l), 4⟩
def function (op : FunOp) (g : Option Guard) (d : VDst) (a : VSrc) (rm : RMode) (sat : Bool) : LaneForm :=
  ⟨g, d, vUse 0 a, 8, fun s l => laneFun op (roundBy s rm sat false) (va s a l) (drawn s l), 12⟩
def bitwise (f : Word → Word → Word) (g : Option Guard) (d : VDst) (a : VSrc) (b : VOp) : LaneForm :=
  ⟨g, d, vUse 0 a ++ vopUse b, vopSize b, fun s l => bitsOut s l (f (va s a l).bits (vb s a b l).bits) (va s a l).tag, 2⟩
def shift (op : ShiftOp) (g : Option Guard) (d : VDst) (a : VSrc) (b : VOp) (sat un : Bool) : LaneForm :=
  ⟨g, d, vUse 0 a ++ vopUse b, vopSize b, fun s l =>
    laneShift op (roundBy s .rne sat un) (va s a l) (vb s a b l) (drawn s l), 2⟩
def across (g : Option Guard) (d : VDst) (a : VSrc) (b : XOp) (src : Nat → Nat → Nat) : LaneForm :=
  ⟨g, d, vUse 0 a ++ opUse b, opSize b, fun s l => regOut s l (va s a (src l ((ov s b).toNat % 64))), 3⟩

/-- The instructions with one result in each active lane, but VINS and VSCAN (R152 to R171). -/
def laneForm : Instr → Option LaneForm
  | .vadd g d a b rm sat un => some (arith .add g d a b rm sat un)
  | .vsub g d a b rm sat un => some (arith .sub g d a b rm sat un)
  | .vmul g d a b rm sat un => some (arith .mul g d a b rm sat un)
  | .vfma g d a b c rm sat un => some (fused false g d a b c rm sat un)
  | .vfms g d a b c rm sat un => some (fused true g d a b c rm sat un)
  | .vmin g d a b un => some ⟨g, d, vUse 0 a ++ vopUse b, vopSize b, fun s l =>
      laneMinMax false (roundBy s .rne false un) (va s a l) (vb s a b l) (drawn s l), 2⟩
  | .vmax g d a b un => some ⟨g, d, vUse 0 a ++ vopUse b, vopSize b, fun s l =>
      laneMinMax true (roundBy s .rne false un) (va s a l) (vb s a b l) (drawn s l), 2⟩
  | .vabs g d a sat => some ⟨g, d, vUse 0 a, 8, fun s l => laneSign false (roundBy s .rne sat false) (va s a l) (drawn s l), 2⟩
  | .vneg g d a sat => some ⟨g, d, vUse 0 a, 8, fun s l => laneSign true (roundBy s .rne sat false) (va s a l) (drawn s l), 2⟩
  | .vrcp g d a rm sat => some (function .rcp g d a rm sat)
  | .vrsq g d a rm sat => some (function .rsq g d a rm sat)
  | .vsqrt g d a rm sat => some (function .sqrt g d a rm sat)
  | .vexp2 g d a rm sat => some (function .exp2 g d a rm sat)
  | .vlog2 g d a rm sat => some (function .log2 g d a rm sat)
  | .vtanh g d a rm sat => some (function .tanh g d a rm sat)
  | .vsel g d a b p => some ⟨g, d, vUse 0 a ++ vUse 1 b, 8, fun s l =>
      regOut s l (if ((here s).pr p.reg).getLsbD l then va s a l else va s b l), 2⟩
  | .vand g d a b => some (bitwise (fun x y => x &&& y) g d a b)
  | .vor g d a b => some (bitwise (fun x y => x ||| y) g d a b)
  | .vxor g d a b => some (bitwise (fun x y => x ^^^ y) g d a b)
  | .vshl g d a b sat un => some (shift .shl g d a b sat un)
  | .vshr g d a b => some (shift .shr g d a b false false)
  | .vsar g d a b => some (shift .sar g d a b false false)
  | .vdot g d a b c rm sat un => some ⟨g, d, vUse 0 a ++ vopUse b ++ vUse 2 c, vopSize b, fun s l =>
      laneDot (roundBy s rm sat un) (va s a l) (vb s a b l) (va s c l) (drawn s l), 4⟩
  | .vsplat g d a f => some ⟨g, d, xUse 0 a, 8, fun s l => bitsOut s l (splatElems f (xv s a).toNat) f, 2⟩
  | .vcvt g d a f rm sat un => some ⟨g, d, vUse 0 a, 8, fun s l =>
      laneCvt f (roundBy s rm sat un) (va s a l) (scaleAt s d l) (drawn s l), 4⟩
  | .vpack g d a b f rm sat un => some ⟨g, d, vUse 0 a ++ vUse 1 b, 8, fun s l =>
      lanePack f (roundBy s rm sat un) (va s a l) (va s b l) (scaleAt s d l) (drawn s l), 4⟩
  | .vunpk g d a f rm sat un part => some ⟨g, d, vUse 0 a, 8, fun s l =>
      laneUnpk f part (roundBy s rm sat un) (va s a l) (scaleAt s d l) (drawn s l), 4⟩
  | .vtag g d a f => some ⟨g, d, vUse 0 a, 8, fun s l => regOut s l ⟨(va s a l).bits, f, (va s a l).scale⟩, 2⟩
  | .vscl g d a b add => some ⟨g, d, vUse 0 a ++ opUse b, opSize b, fun s l =>
      let r := va s a l
      let sum : Int := r.scale.toNat + (ov s b).toInt
      some ⟨heldAs r.tag r.bits, r.tag, some (if add then (if r.scale = 255 then 255 else BitVec.ofInt 8 (max 0 (min sum 254)))
          else (ov s b).setWidth 8),
        if add = true ∧ r.scale ≠ 255 ∧ (sum < 0 ∨ 254 < sum) then flSat else 0, drawn s l⟩, 2⟩
  | .vquant g d a b w => some ⟨g, .v d, rUses 0 4 a ++ opUse b ++ impliedUse (codeV d), opSize b, fun s l =>
      laneQuant (here s).fpmode ((List.range 4).map (fun i => (here s).vr (a.reg + i) l)) ((here s).vr d l).bits
        ((ov s b).setWidth 8) w (drawn s l), 6⟩
  | .xbar g d a k => some ⟨g, d, vUse 0 a, 8, fun s l =>
      let e := (s.pattern (slotRow s.cur / 64) k).toNat / 256 ^ l % 256
      regOut s l (if e = 255 then LaneReg.zero else va s a (e % 64)), 3⟩
  | .vrot g d a b => some (across g d a b (fun l n => (l + 64 - n) % 64))
  | .vbcast g d a b => some (across g d a b (fun _ n => n))
  | .vrng g d => some ⟨g, d, [], 8, fun s l => some ⟨rngNext (drawn s l), .raw, none, 0, rngNext (drawn s l)⟩, 2⟩
  | _ => none

/-- XBAR asks besides that no pattern load of its slot is outstanding (R162); a conversion to an MX tag that the scale which the
destination register holds is correct (R148, R164, R386). -/
def alsoReady (s : State) : Instr → Prop
  | .xbar _ _ _ _ => ∀ p ∈ s.pend, p.slot = s.cur → ∀ f k, p.op ≠ .xbld f k
  | .vcvt g (.v d) _ f _ _ _ | .vpack g (.v d) _ _ f _ _ _ | .vunpk g (.v d) _ f _ _ _ _ =>
    f.isMx = true → lanesOn s g ≠ 0 → BitVec.ofNat 7 (codeV d) ∉ (here s).softErr
  | _ => True

/-- LANESTAT after the flags of the active lanes are collected (R54). -/
def stat (m : Mask) (out : Nat → Option LaneOut) (old : Word) : Word :=
  (List.range 64).foldl (fun w l => if m.getLsbD l then w ||| (((out l).map LaneOut.fl).getD 0).setWidth 64 else w) old

/-- RNG states and flags after a lane word (R49, R50, R54). -/
def LaneState (m : Mask) (out : Nat → Option LaneOut) (c c' : Slot) : Prop :=
  c'.lanestat = stat m out c.lanestat ∧
  ∀ l, l < 64 → c'.rngOf l = if m.getLsbD l then ((out l).map LaneOut.rng).getD (c.rngOf l) else c.rngOf l

/-- A lane register after a result: bits and tag, and the scale where the instruction sets one (R148). -/
def laneReg (o : LaneOut) (old : BitVec 8) : LaneReg := ⟨o.bits, o.tag, o.scale.getD old⟩

/-- The results of the active lanes stand in v register `d`, which is full; its other lanes, the other registers and
everything else of the slot are as before (R61, R122, R148). -/
def LanesWritten (d : Fin 64) (m : Mask) (out : Nat → Option LaneOut) (c c' : Slot) : Prop :=
  c' = { c with v := c'.v, rng := c'.rng, lanestat := c'.lanestat, vEmpty := c'.vEmpty,
                softErr := if m = BitVec.allOnes 64 then c.softErr.filter (· ≠ BitVec.ofNat 7 (codeV d)) else c.softErr } ∧
  (∀ l, l < 64 → c'.vr d l = if m.getLsbD l then ((out l).map (fun o => laneReg o (c.vr d l).scale)).getD (c.vr d l)
      else c.vr d l) ∧
  (∀ i : Fin 64, i ≠ d → (∀ l, l < 64 → c'.vr i l = c.vr i l) ∧ c'.isEmpty (codeV i) = c.isEmpty (codeV i)) ∧
  c'.isEmpty (codeV d) = false ∧ LaneState m out c c'

/-- The results are reserved for the south port as one value, zero in the inactive lanes, that is written when the latency ends
(R15, R145, R184); an empty mask reserves nothing (R122). -/
def LanesSent (lat : Nat) (m : Mask) (out : Nat → Option LaneOut) (c c' : Slot) : Prop :=
  if m = 0 then c' = c
  else ∃ v, c' = { c with rng := c'.rng, lanestat := c'.lanestat, reserved := c.reserved ++ [⟨none, lat, v⟩] } ∧
    v.rel = false ∧ v.bad = false ∧ v.body.kind = .vv ∧
    (∀ l, l < 64 → v.lane l = if m.getLsbD l then ((out l).map (fun o => laneReg o 127)).getD LaneReg.zero else LaneReg.zero) ∧
    LaneState m out c c'

def LanesTo (d : VDst) (lat : Nat) (m : Mask) (out : Nat → Option LaneOut) (c c' : Slot) : Prop :=
  match d with
  | .v i => LanesWritten i m out c c'
  | .s => LanesSent lat m out c c'

def southOf (d : VDst) (kind : PortKind) : Option PortKind := if d = .s then some kind else none

/-- A lane word completes: the state after its sources are read, but for its own slot. -/
def LaneActs (i : Instr) (s : State) (us : List Use) (m : Mask) (size : Nat) (P : Slot → Slot → Prop) : Prop :=
  ActsIn i s (sourcedLanes s us m size) P

end Sys2Proof.Claims

/-- R122, R145, R147, R148, R152 to R157, R160 to R168, R171: every lane instruction with one result in each active lane
completes where its sources and ports are ready and each active lane's tags allow a result: the results go to the active lanes
of D, or as one value to the south port; inactive lanes and everything else stay. Completes: vadd, vsub, vmul, vfma, vfms,
vmin, vmax, vabs, vneg, vrcp, vrsq, vsqrt, vexp2, vlog2, vtanh, vsel, vand, vor, vxor, vshl, vshr, vsar, vdot, vsplat, vcvt,
vpack, vunpk, vtag, vscl, vquant, xbar, vrot, vbcast, vrng. Readings: log entries 3, 21 (the checks of a word with no active
lane), 52 (the order of port values), 86 (the unused bits of an ACC48 register). -/
def Obligations.LaneResults : Prop :=
  ∀ (i : Instr) (f : LaneForm) (s : State), laneForm i = some f → CanIssue s → alsoReady s i →
    let m := lanesOn s f.g
    Ready s f.us (dstCodes f.d) → PortsOk s f.us (southOf f.d .vv) .vv m →
    (∀ l, l < 64 → m.getLsbD l = true → (f.val s l).isSome = true) →
    LaneActs i s f.us m f.size (LanesTo f.d f.lat m (f.val s))

/-- R147: where some active lane's tags do not allow a result, the instruction traps TAGMISMATCH with the set of those lanes in
TRAPINFO and no other effect. -/
def Obligations.TagMismatchTraps : Prop :=
  ∀ (i : Instr) (f : LaneForm) (s : State), laneForm i = some f → InRow s .tagmismatch → alsoReady s i →
    let m := lanesOn s f.g
    Ready s f.us (dstCodes f.d) → PortsOk s f.us (southOf f.d .vv) .vv m →
    (∃ l, l < 64 ∧ m.getLsbD l = true ∧ f.val s l = none) →
    ∃ w : Word, (∀ l, l < 64 → (w.getLsbD l = true ↔ m.getLsbD l = true ∧ f.val s l = none)) ∧
      Traps i s .tagmismatch w (here s).pc

/-! ### Numbers and roundings (spec/02) -/

namespace Sys2Proof.Claims

/-- What an element means: NaN, an infinity, or a number with the sign its zero has. -/
inductive Quantity where
  | nan
  | inf (neg : Bool)
  | fin (neg : Bool) (r : Rat)
  deriving DecidableEq

/-- Exponent bits, fraction bits and bias of the floating-point formats (Table 2.2), an MX format's being its element's (R37). -/
def floatOf (f : Fmt) : Option (Nat × Nat × Int) :=
  match f with
  | .fp16 => some (5, 10, 15)
  | .bf16 => some (8, 7, 127)
  | .fp32 => some (8, 23, 127)
  | .e4m3 | .mxe4m3 => some (4, 3, 7)
  | .e5m2 | .mxe5m2 => some (5, 2, 15)
  | .mxe2m1 => some (2, 1, 1)
  | .acc48 => some (10, 37, 511)
  | _ => none

/-- The format has an infinity; it has a NaN (Table 2.2, R34). -/
def hasInf (f : Fmt) : Bool :=
  f = .fp16 || f = .bf16 || f = .fp32 || f = .e5m2 || f = .mxe5m2 || f = .acc48
def hasNaN (f : Fmt) : Bool := hasInf f || f = .e4m3 || f = .mxe4m3

/-- The first code without sign that is no finite number (Table 2.2, R34). -/
def topCode (f : Fmt) : Nat :=
  match f with
  | .e4m3 | .mxe4m3 => 127
  | .mxe2m1 => 8
  | _ => match floatOf f with
    | some (eb, mb, _) => (2 ^ eb - 1) * 2 ^ mb
    | none => 0

/-- The canonical NaN (Table 2.2), 0 for a format that has none (R51). -/
def nanOf (f : Fmt) : Nat :=
  match f with
  | .fp16 => 0x7E00
  | .bf16 => 0x7FC0
  | .fp32 => 0x7FC00000
  | .e4m3 | .mxe4m3 => 0x7F
  | .e5m2 | .mxe5m2 => 0x7E
  | .acc48 => 0x7FF000000000
  | _ => 0

/-- The magnitude that a code without sign stands for, with the exponent range unbounded above (R33). -/
def magnitude (mb : Nat) (bias : Int) (k : Nat) : Rat :=
  if k / 2 ^ mb = 0 then (k : Rat) * 2 ^ (1 - bias - mb)
  else ((2 ^ mb + k % 2 ^ mb : Nat) : Rat) * 2 ^ (((k / 2 ^ mb : Nat) : Int) - bias - mb)

/-- The integer reading of a code of `w` bits (R32). -/
def readInt (w : Nat) (un : Bool) (c : Nat) : Int :=
  if un || decide (c % 2 ^ w < 2 ^ (w - 1)) then ((c % 2 ^ w : Nat) : Int) else ((c % 2 ^ w : Nat) : Int) - ((2 ^ w : Nat) : Int)

def ofInt (i : Int) : Quantity := .fin (decide (i < 0)) i

/-- The number of an element code, without a register's scale; a subnormal that FPMODE flushes is a zero (R33, R34, R37, R53). -/
def numOf (f : Fmt) (un flush : Bool) (c : Nat) : Quantity :=
  match floatOf f with
  | some (eb, mb, bias) =>
    let k := c % 2 ^ (eb + mb)
    let neg := c.testBit (eb + mb)
    if k < topCode f then
      let r := if flush && decide (k < 2 ^ mb) then 0 else magnitude mb bias k
      .fin neg (if neg then -r else r)
    else if hasInf f && decide (k = topCode f) then .inf neg else .nan
  | none => if f = .mxi8 then .fin (decide (readInt 8 false c < 0)) (readInt 8 false c / 64) else ofInt (readInt f.bits un c)

/-- The flush bit of a format's class (R53, Table 5.4). -/
def flushes (fpmode : Word) (f : Fmt) : Bool :=
  match f with
  | .fp32 => fpmode.getLsbD 4
  | .fp16 | .bf16 => fpmode.getLsbD 5
  | .e4m3 | .e5m2 | .mxe4m3 | .mxe5m2 | .mxe2m1 => fpmode.getLsbD 6
  | _ => false

/-- A number times a power of two. -/
def Quantity.times (x : Quantity) (e : Int) : Quantity :=
  match x with
  | .fin n r => .fin n (r * 2 ^ e)
  | y => y

/-- A number under a scale field, whose code 0xFF is NaN (R36). -/
def Quantity.scaled (x : Quantity) (sc : BitVec 8) : Quantity := if sc = 255 then .nan else x.times ((sc.toNat : Int) - 127)

/-- Element `i` of a lane register, under its scale where its tag uses one (R37). -/
def elemNum (k : RoundCtx) (r : LaneReg) (i : Nat) : Quantity :=
  let x := numOf r.tag k.un (flushes k.fpmode r.tag) (subElem r.tag r.bits i)
  if r.tag.isMx then x.scaled r.scale else x

def Quantity.neg (x : Quantity) : Quantity :=
  match x with
  | .nan => .nan
  | .inf n => .inf (!n)
  | .fin n r => .fin (!n) (-r)

def Quantity.real (x : Quantity) : Rat :=
  match x with
  | .fin _ r => r
  | _ => 0

/-- The exact sum, and whether it is invalid (R52, R55, R152). -/
def addNum (mode : RMode) (xs : List Quantity) : Quantity × Flags :=
  if .nan ∈ xs then (.nan, 0)
  else if .inf false ∈ xs ∧ .inf true ∈ xs then (.nan, flInvalid)
  else if .inf false ∈ xs then (.inf false, 0)
  else if .inf true ∈ xs then (.inf true, 0)
  else
    let r := (xs.map Quantity.real).sum
    if r ≠ 0 then (.fin (decide (r < 0)) r, 0)
    else if ∀ x ∈ xs, x = .fin false 0 then (.fin false 0, 0)
    else if ∀ x ∈ xs, x = .fin true 0 then (.fin true 0, 0)
    else (.fin (decide (mode = .rdn)) 0, 0)

/-- The exact product, and whether it is invalid (R52, R54). -/
def mulNum (x y : Quantity) : Quantity × Flags :=
  match x, y with
  | .nan, _ => (.nan, 0)
  | _, .nan => (.nan, 0)
  | .inf n, .inf m => (.inf (n != m), 0)
  | .inf n, .fin m r => if r = 0 then (.nan, flInvalid) else (.inf (n != m), 0)
  | .fin n r, .inf m => if r = 0 then (.nan, flInvalid) else (.inf (n != m), 0)
  | .fin n r, .fin m t => (.fin (n != m) (r * t), 0)

/-- Numbers compared, zeros of both signs being equal (R155). -/
def less (x y : Quantity) : Bool :=
  match x, y with
  | .nan, _ => false
  | _, .nan => false
  | .inf n, .inf m => n && !m
  | .inf n, _ => n
  | _, .inf m => !m
  | .fin _ r, .fin _ t => decide (r < t)
def same (x y : Quantity) : Bool := x ≠ .nan && y ≠ .nan && !less x y && !less y x

/-- A condition of VCMP (R155). -/
def holdsOf (cc : Cmp) (x y : Quantity) : Bool :=
  match cc with
  | .eq => same x y
  | .ne => !same x y
  | .lt => less x y
  | .le => less x y || same x y
  | .gt => less y x
  | .ge => less y x || same x y
  | .uo => x = .nan || y = .nan

/-- One number is not above another; −0 is below +0 (R152). -/
def notAbove (x y : Quantity) : Bool :=
  match x, y with
  | .nan, _ => false
  | _, .nan => false
  | .inf n, .inf m => n || !m
  | .inf n, _ => n
  | _, .inf m => !m
  | .fin n r, .fin m t => decide (r < t) || (decide (r = t) && (n || !m))

/-- An exact result: besides NaN, infinities and zeros, a magnitude given by how it compares with every rational number, so that
a root has one; or a code that is delivered as it is. -/
inductive Exact where
  | nan
  | inf (neg : Bool)
  | zero (neg : Bool)
  | mag (neg : Bool) (cut : Rat → Ordering)
  | code (c : Nat)

def order (x y : Rat) : Ordering := if x < y then .lt else if x = y then .eq else .gt

def exactOf (x : Quantity) : Exact :=
  match x with
  | .nan => .nan
  | .inf n => .inf n
  | .fin n r => if r = 0 then .zero n else .mag (decide (r < 0)) (order r.abs)

/-- The draw of LaneRandom: the next state, and the fraction of 24 bits it gives a rounding (R49, R50). -/
def advance (s : Word) : Word :=
  let a := s ^^^ (s <<< 13)
  let b := a ^^^ (a >>> 7)
  b ^^^ (b <<< 17)
def fraction (s : Word) : Rat := (((advance s).toNat / 2 ^ 40 : Nat) : Rat) / 2 ^ 24

/-- A magnitude strictly between two neighbours `u` apart goes to the upper one; `odd` is the lower one's last bit (Table 2.6,
R49). -/
def goesUp (mode : RMode) (neg : Bool) (cut : Rat → Ordering) (lo u : Rat) (odd : Bool) (rng : Word) : Bool :=
  match mode with
  | .rne => cut (lo + u / 2) = .gt || (cut (lo + u / 2) = .eq && odd)
  | .rtz | .dyn => false
  | .rup => !neg
  | .rdn => neg
  | .rna => cut (lo + u / 2) ≠ .lt
  | .sr => cut (lo + u * (1 - fraction rng)) ≠ .lt

def ifSet (b : Bool) (fl : Flags) : Flags := if b then fl else 0

/-- RoundTo of a non-zero magnitude into a floating-point format (R47, R49, R51, R53, R54, Table 2.7); a result that rounds to
zero sets no underflow (log entry 17). -/
def RoundsFloat (f : Fmt) (mb : Nat) (bias : Int) (mode : RMode) (sat flush neg : Bool) (cut : Rat → Ordering) (rng : Word)
    (out : Rounded) : Prop :=
  ∃ k, cut (magnitude mb bias k) ≠ .lt ∧ cut (magnitude mb bias (k + 1)) = .lt ∧
    let lo := magnitude mb bias k
    let inexact := decide (cut lo ≠ .eq)
    let n := if inexact && goesUp mode neg cut lo (magnitude mb bias (k + 1) - lo) (decide (k % 2 = 1)) rng then k + 1 else k
    let sign := if neg then 2 ^ (f.bits - 1) else 0
    let toInf := mode = .rne ∨ mode = .rna ∨ mode = .sr ∨ mode = .rup ∧ neg = false ∨ mode = .rdn ∧ neg = true
    out.rng = (if inexact && decide (mode = .sr) then advance rng else rng) ∧
    (topCode f ≤ n → out.code = sign + (if sat = false ∧ toInf ∧ hasNaN f = true then topCode f else topCode f - 1) ∧
      out.fl = flOverflow ||| flInexact ||| ifSet (sat || (decide toInf && !hasNaN f)) flSat) ∧
    (n < topCode f → flush = true ∧ 0 < n ∧ n < 2 ^ mb → out.code = sign ∧ out.fl = flUnderflow ||| flInexact) ∧
    (n < topCode f → ¬ (flush = true ∧ 0 < n ∧ n < 2 ^ mb) → out.code = sign + n ∧
      out.fl = ifSet inexact flInexact ||| ifSet (inexact && decide (0 < n ∧ n < 2 ^ mb)) flUnderflow)

/-- RoundTo of a non-zero magnitude into an integer format of `w` bits (R51). -/
def RoundsInt (w : Nat) (un sat : Bool) (mode : RMode) (neg : Bool) (cut : Rat → Ordering) (rng : Word) (out : Rounded) : Prop :=
  let lo : Int := if un then 0 else -(2 ^ (w - 1))
  let hi : Int := if un then 2 ^ w - 1 else 2 ^ (w - 1) - 1
  ∃ k : Nat, cut k ≠ .lt ∧ cut (k + 1) = .lt ∧
    let inexact := decide (cut k ≠ .eq)
    let n := if inexact && goesUp mode neg cut k 1 (decide (k % 2 = 1)) rng then k + 1 else k
    let i : Int := if neg then -n else n
    out.rng = (if inexact && decide (mode = .sr) then advance rng else rng) ∧
    out.code = ((if sat then max lo (min hi i) else i) % 2 ^ w).toNat ∧
    out.fl = ifSet inexact flInexact ||| ifSet (sat && decide (i < lo ∨ hi < i)) flSat

/-- RoundTo of an exact result (R51); ACC48 takes RoundACC, which keeps subnormals, draws nothing and reports overflow alone
(R38, R39). MXI8 takes the signed integer branch on 64 times the value. -/
def RoundsTo (f : Fmt) (k : RoundCtx) (x : Exact) (rng : Word) (out : Rounded) : Prop :=
  match x with
  | .code c => out = ⟨c, 0, rng⟩
  | .zero neg => out = ⟨if neg ∧ (floatOf f).isSome then 2 ^ (f.bits - 1) else 0, 0, rng⟩
  | .nan => out = ⟨nanOf f, ifSet (!hasNaN f) flInvalid, rng⟩
  | .inf neg =>
    match floatOf f with
    | some _ =>
      let sign := if neg then 2 ^ (f.bits - 1) else 0
      if f = .acc48 then out = ⟨sign + topCode f, 0, rng⟩
      else if k.sat = true ∨ f = .mxe2m1 then out = ⟨sign + (topCode f - 1), flSat, rng⟩
      else out = ⟨sign + topCode f, ifSet (!hasInf f) flInvalid, rng⟩
    | none =>
      let un := k.un && decide (f ≠ .mxi8)
      if k.sat then out = ⟨if un then (if neg then 0 else 2 ^ f.bits - 1) else if neg then 2 ^ (f.bits - 1) else 2 ^ (f.bits - 1) - 1,
        flSat, rng⟩ else out = ⟨0, flInvalid, rng⟩
  | .mag neg cut =>
    match floatOf f with
    | some (_, mb, bias) =>
      if f = .acc48 then ∃ r, RoundsFloat f mb bias .rne false false neg cut rng r ∧ out = ⟨r.code, r.fl &&& flOverflow, rng⟩
      else RoundsFloat f mb bias k.mode k.sat (flushes k.fpmode f) neg cut rng out
    | none =>
      if f = .mxi8 then RoundsInt 8 false k.sat k.mode neg (fun q => cut (q / 64)) rng out
      else RoundsInt f.bits k.un k.sat k.mode neg cut rng out

/-- The elements of a result are the exact values `x` rounded in element order, each from the RNG state that the one before it
left, and the flags are those of the operation and of the roundings (R49, R54). -/
def Elements (f : Fmt) (k : RoundCtx) (n : Nat) (x : Nat → Exact × Flags) (rng : Word) (code : Nat → Nat) (fl : Flags)
    (rng' : Word) : Prop :=
  ∃ (out : Nat → Rounded) (st : Nat → Word), st 0 = rng ∧ st n = rng' ∧
    (∀ i, i < n → RoundsTo f k (x i).1 (st i) (out i) ∧ st (i + 1) = (out i).rng ∧ code i = (out i).code) ∧
    fl = ((List.range n).map (fun i => (x i).2 ||| (out i).fl)).foldl (· ||| ·) 0

/-- A lane result of elements of a format, which sets no scale. -/
def LaneElements (f : Fmt) (k : RoundCtx) (x : Nat → Exact × Flags) (rng : Word) (o : LaneOut) : Prop :=
  o.tag = f ∧ o.scale = none ∧ Elements f k f.count x rng (subElem f o.bits) o.fl o.rng ∧
    (f = .acc48 → o.bits.toNat < 2 ^ 48)

def exactly (p : Quantity × Flags) : Exact × Flags := (exactOf p.1, p.2)

/-- The formats of element arithmetic (Table 7.1). -/
def arithmetic (f : Fmt) : Prop := f.isInt = true ∨ f = .fp32 ∨ f = .fp16 ∨ f = .bf16

/-- a × b + c or a × b − c, and its flags; a NaN operand passes without one (R152). -/
def fmaNum (sub : Bool) (mode : RMode) (x y z : Quantity) : Quantity × Flags :=
  if x = .nan ∨ y = .nan ∨ z = .nan then (.nan, 0)
  else
    let p := mulNum x y
    let r := addNum mode [p.1, if sub then z.neg else z]
    (r.1, p.2 ||| r.2)

/-- A sum of products and a further term (R154, R55, R152). -/
def dotNum (mode : RMode) (z : Quantity) (xs : List (Quantity × Quantity)) : Quantity × Flags :=
  if z = .nan ∨ ∃ p ∈ xs, p.1 = .nan ∨ p.2 = .nan then (.nan, 0)
  else
    let ps := xs.map (fun p => mulNum p.1 p.2)
    let r := addNum mode (z :: ps.map Prod.fst)
    (r.1, (ps.map Prod.snd).foldl (· ||| ·) 0 ||| r.2)

/-- The result format of VDOT (R154). -/
def dotFormat (f : Fmt) : Option Fmt :=
  match f with
  | .i8 | .i16 => some .i32
  | .fp16 | .bf16 | .e4m3 | .e5m2 | .mxe4m3 | .mxe5m2 | .mxi8 => some .fp32
  | _ => none

/-- The functions of one operand: Table 7.5, the roots and the reciprocals as cuts, and of the other three the values that are
rational; their other values are fixed by R153 alone (log entry 7). -/
def funExact (op : FunOp) (f : Fmt) (x : Quantity) : Option (Exact × Flags) :=
  let sign (n : Bool) : Nat := if n then 2 ^ (f.bits - 1) else 0
  let infinity (n : Bool) : Exact := .code (sign n + topCode f)
  let one (n : Bool) : Exact := .code (sign n + (if f = .fp32 then 0x3F800000 else if f = .bf16 then 0x3F80 else 0x3C00))
  match x with
  | .nan => some (.nan, 0)
  | .inf false => match op with
    | .rcp | .rsq => some (.zero false, 0)
    | .sqrt | .exp2 | .log2 => some (infinity false, 0)
    | .tanh => some (one false, 0)
  | .inf true => match op with
    | .rcp => some (.zero true, 0)
    | .exp2 => some (.zero false, 0)
    | .tanh => some (one true, 0)
    | .rsq | .sqrt | .log2 => some (.nan, flInvalid)
  | .fin n r =>
    if r = 0 then match op with
      | .rcp | .rsq => some (infinity n, 0)
      | .sqrt | .tanh => some (.zero n, 0)
      | .exp2 => some (one false, 0)
      | .log2 => some (infinity true, 0)
    else match op with
      | .rcp => some (.mag (decide (r < 0)) (fun q => order 1 (r.abs * q)), 0)
      | .rsq => some (if r < 0 then (.nan, flInvalid) else (.mag false (fun q => order 1 (r * q * q)), 0))
      | .sqrt => some (if r < 0 then (.nan, flInvalid) else (.mag false (fun q => order r (q * q)), 0))
      | .exp2 => if r.den = 1 then some (.mag false (order (2 ^ r.num)), 0) else none
      | .log2 => if r < 0 then some (.nan, flInvalid)
          else if r.den = 1 ∧ r.num = 2 ^ r.num.toNat.log2 then some (exactOf (ofInt r.num.toNat.log2), 0)
          else if r.num = 1 ∧ r.den = 2 ^ r.den.log2 then some (exactOf (ofInt (-r.den.log2)), 0) else none
      | .tanh => none

/-- The tags that VCVT, VPACK and VUNPK take (Table 7.1). -/
def convertible (f : Fmt) : Prop := f ≠ .raw ∧ f ≠ .pl16

/-- A converted element: an MX destination divides by the scale that D holds, 0xFF there counting as the exponent 128 (R164; log
entry 45). -/
def convNum (g : Fmt) (sd : BitVec 8) (x : Quantity) : Exact × Flags :=
  (exactOf (if g.isMx then x.times (127 - (sd.toNat : Int)) else x), 0)

/-! #### Pleiad words (R40 to R45) -/

/-- Coordinate `i` of a word (Tables 2.3 to 2.5). -/
def coordinate (w i : Nat) : Rat :=
  let h := w.testBit 15
  let c (j : Nat) : Rat := match w / 4 ^ j % 4 with
    | 0 => if h then 1 / 2 else 0
    | 1 => if h then 3 / 2 else 1
    | 2 => if h then -1 / 2 else -1
    | _ => if h then -3 / 2 else 2
  if i < 7 then c i
  else
    let sum := ((List.range 7).map c).sum
    let even (r : Rat) : Bool := decide ((r / 2).den = 1)
    let e := w.testBit 14
    if h then (if even (sum + 1 / 2) then (if e then -3 / 2 else 1 / 2) else if e then 3 / 2 else -1 / 2)
    else if even sum then (if e then 2 else 0) else if e then -1 else 1

/-- The nearest integer, on a tie the even one. -/
def nearest (z : Rat) : Int :=
  let n := z.floor
  if z - n < 1 / 2 then n else if z - n = 1 / 2 ∧ n % 2 = 0 then n else n + 1

/-- CosetRound: the rounded coordinates, and where their sum is odd the acceptable one with the largest error, the first on a tie,
moved to the other side of its input (R45). -/
def rounded (z : Nat → Rat) (lo hi : Int) (boxed : Bool) : Nat → Int :=
  let f (i : Nat) : Int := nearest (z i)
  let g (i : Nat) : Int := if z i < f i then f i - 1 else f i + 1
  let err (i : Nat) : Rat := (z i - f i).abs
  let ok (i : Nat) : Bool := !boxed || (decide (lo ≤ g i) && decide (g i ≤ hi))
  let first (i : Nat) : Bool := ok i && (List.range 8).all (fun j => !ok j || decide (err j < err i) || (decide (err j = err i) && decide (i ≤ j)))
  fun i => if ((List.range 8).map f).sum % 2 ≠ 0 ∧ (List.range 8).find? first = some i then g i else f i

/-- The squared distance of eight values to a point. -/
def distance (y p : Nat → Rat) : Rat := ((List.range 8).map (fun i => (y i - p i) * (y i - p i))).sum

def within (lo hi : Rat) (p : Nat → Rat) : Bool := (List.range 8).all (fun i => decide (lo ≤ p i) && decide (p i ≤ hi))

/-- QuantPL16: the point, and whether the nearer candidate lay outside the box (R45, R46). -/
def quantised (y : Nat → Rat) : (Nat → Rat) × Bool :=
  let whole (p : Nat → Int) (i : Nat) : Rat := p i
  let half (p : Nat → Int) (i : Nat) : Rat := p i + 1 / 2
  let P := whole (rounded y (-1) 2 false)
  let H := half (rounded (fun i => y i - 1 / 2) (-2) 1 false)
  let inP (p : Nat → Rat) : Bool := within (-1) 2 p
  let inH (p : Nat → Rat) : Bool := within (-3 / 2) (3 / 2) p
  if (if distance y P ≤ distance y H then inP P else inH H) then (if distance y P ≤ distance y H then P else H, false)
  else
    let P' := if inP P then P else whole (rounded (fun i => max (-1) (min 2 (y i))) (-1) 2 true)
    let H' := if inH H then H else half (rounded (fun i => max (-3 / 2) (min (3 / 2) (y i)) - 1 / 2) (-2) 1 true)
    (if distance y P' ≤ distance y H' then P' else H', true)

end Sys2Proof.Claims

/-! ### What one lane computes -/

/-- R32, R51, R152: on integer tags VADD, VSUB and VMUL take the exact result of each pair of elements under un; without SAT it
wraps and no flag is raised, with SAT it is clamped to the format's range and SAT is raised where it had to be. The tags must
be equal. R157: VSHL, VSHR and VSAR without SAT shift each element by B's element modulo the element width, on integer tags and
RAW; VSHL under SAT clamps the exact product on integer tags. R152, R51, R52, R54: on every arithmetic tag VADD, VSUB, VMUL,
VFMA and VFMS round the exact result of each element once, a NaN operand passing as the canonical NaN without a flag. R152:
VMIN and VMAX give the lesser and the greater element, VABS and VNEG the element without its sign or with the other. R153: the
functions give Table 7.5 and the once-rounded true value, which is stated for the roots and reciprocals and wherever the other
functions' values are rational (log entry 7). R154: VDOT rounds each half's exact sum of products once. R72, R149: an immediate
stands in every element, rounded or reduced to its width. Readings: log entries 7, 17. -/
def Obligations.LaneArithmetic : Prop :=
  (∀ (op : ArithOp) (k : RoundCtx) (f : Fmt) (a b : Word) (sa sb : BitVec 8) (rng : Word), f.isInt = true →
     let lo : Int := if k.un then 0 else -(2 ^ (f.bits - 1))
     let hi : Int := if k.un then 2 ^ f.bits - 1 else 2 ^ (f.bits - 1) - 1
     let exact (i : Nat) : Int :=
       let x := intOf f.bits k.un (subElem f a i)
       let y := intOf f.bits k.un (subElem f b i)
       match op with
       | .add => x + y
       | .sub => x - y
       | .mul => x * y
     (∃ o, laneArith op k ⟨a, f, sa⟩ ⟨b, f, sb⟩ rng = some o ∧ o.tag = f ∧ o.scale = none ∧ o.rng = rng ∧
       (∀ i, i < f.count → subElem f o.bits i =
         ((if k.sat then max lo (min hi (exact i)) else exact i) % 2 ^ f.bits).toNat) ∧
       (o.fl = if k.sat = true ∧ ∃ i, i < f.count ∧ (exact i < lo ∨ hi < exact i) then flSat else 0)) ∧
     ∀ g, g ≠ f → laneArith op k ⟨a, f, sa⟩ ⟨b, g, sb⟩ rng = none) ∧
  (∀ (op : ArithOp) (k : RoundCtx) (f : Fmt) (a b : Word) (sa sb : BitVec 8) (rng : Word), arithmetic f → k.mode ≠ .dyn →
     let x (i : Nat) := elemNum k ⟨a, f, sa⟩ i
     let y (i : Nat) := elemNum k ⟨b, f, sb⟩ i
     ∃ o, laneArith op k ⟨a, f, sa⟩ ⟨b, f, sb⟩ rng = some o ∧ LaneElements f k (fun i => exactly (match op with
       | .add => addNum k.mode [x i, y i]
       | .sub => addNum k.mode [x i, (y i).neg]
       | .mul => mulNum (x i) (y i))) rng o) ∧
  (∀ (sub : Bool) (k : RoundCtx) (f : Fmt) (a b c : LaneReg) (rng : Word), k.mode ≠ .dyn → a.tag = f →
     (arithmetic f → b.tag = f → c.tag = f → ∃ o, laneFma sub k a b c rng = some o ∧
       LaneElements f k (fun i => exactly (fmaNum sub k.mode (elemNum k a i) (elemNum k b i) (elemNum k c i))) rng o) ∧
     (¬ arithmetic f ∨ b.tag ≠ f → (∀ op, laneArith op k a b rng = none) ∧ (∀ m, laneMinMax m k a b rng = none) ∧
       laneFma sub k a b c rng = none) ∧ (c.tag ≠ f → laneFma sub k a b c rng = none)) ∧
  (∀ (top : Bool) (k : RoundCtx) (f : Fmt) (a b : LaneReg) (rng : Word), arithmetic f → a.tag = f → b.tag = f →
     ∃ o, laneMinMax top k a b rng = some o ∧ o.tag = f ∧ o.scale = none ∧ o.fl = 0 ∧ o.rng = rng ∧ ∀ i, i < f.count →
       let x := elemNum k a i
       let y := elemNum k b i
       let e := subElem f o.bits i
       (x = .nan ∨ y = .nan → e = nanOf f) ∧
       (x ≠ .nan → y ≠ .nan → numOf f k.un false e = if notAbove x y = top then y else x)) ∧
  (∀ (neg : Bool) (k : RoundCtx) (f : Fmt) (a : LaneReg) (rng : Word), a.tag = f → k.un = false →
     (f.isFloat = true → ∃ o, laneSign neg k a rng = some o ∧ o.tag = f ∧ o.scale = none ∧ o.fl = 0 ∧ o.rng = rng ∧
       ∀ i, i < f.count →
         let e := subElem f o.bits i
         match elemNum k a i with
         | .nan => e = nanOf f
         | .inf n => numOf f false false e = .inf (neg && !n)
         | .fin n r => numOf f false false e = .fin (neg && !n) (if neg then -r else r.abs)) ∧
     (f.isInt = true → ∃ o, laneSign neg k a rng = some o ∧ LaneElements f k (fun i =>
       let c := readInt f.bits false (subElem f a.bits i)
       (exactOf (ofInt (if neg then -c else c.natAbs)), 0)) rng o) ∧
     (¬ arithmetic f → laneSign neg k a rng = none)) ∧
  (∀ (op : FunOp) (k : RoundCtx) (a : LaneReg) (rng : Word), k.mode ≠ .dyn →
     (∀ x : Nat → Exact × Flags, (a.tag = .fp32 ∨ a.tag = .fp16 ∨ a.tag = .bf16) →
       (∀ i, i < a.tag.count → funExact op a.tag (elemNum k a i) = some (x i)) →
       ∃ o, laneFun op k a rng = some o ∧ LaneElements a.tag k x rng o) ∧
     ((laneFun op k a rng).isSome = true ↔ a.tag = .fp32 ∨ a.tag = .fp16 ∨ a.tag = .bf16)) ∧
  (∀ (k : RoundCtx) (a b c : LaneReg) (rng : Word), k.mode ≠ .dyn →
     (∀ g, dotFormat a.tag = some g → b.tag = a.tag → c.tag = g →
       let m := a.tag.count / 2
       ∃ o, laneDot k a b c rng = some o ∧ o.tag = g ∧ o.scale = none ∧
         Elements g k 2 (fun h => exactly (dotNum k.mode (elemNum k c h)
           ((List.range m).map (fun i => (elemNum k a (h * m + i), elemNum k b (h * m + i)))))) rng (subElem g o.bits) o.fl o.rng) ∧
     (dotFormat a.tag = none ∨ b.tag ≠ a.tag ∨ dotFormat a.tag ≠ some c.tag → laneDot k a b c rng = none)) ∧
  (∀ (t : Fmt) (imm : BitVec 31) (j : Nat), j < t.count →
     let o := laneImm t imm
     o.tag = t ∧ o.scale = 127 ∧
     (arithmetic t ∨ t = .e4m3 ∨ t = .e5m2 →
       ∃ out, RoundsTo t ⟨0, .rne, false, false⟩ (exactOf (ofInt imm.toInt)) 0 out ∧ subElem t o.bits j = out.code) ∧
     (¬ (arithmetic t ∨ t = .e4m3 ∨ t = .e5m2) → subElem t o.bits j = (imm.toInt % 2 ^ t.bits).toNat)) ∧
  (∀ (k : RoundCtx) (f : Fmt) (a b : LaneReg) (rng : Word), a.tag = f →
     (f.isInt = true → b.tag = f → k.sat = true → ∃ o, laneShift .shl k a b rng = some o ∧ LaneElements f k (fun i =>
       (exactOf (ofInt (readInt f.bits k.un (subElem f a.bits i) * 2 ^ (subElem f b.bits i % f.bits))), 0)) rng o) ∧
     ((f.isInt = false ∧ f ≠ .raw) ∨ b.tag ≠ f → ∀ op, laneShift op k a b rng = none)) ∧
  (∀ (op : ShiftOp) (k : RoundCtx) (f : Fmt) (a b : Word) (sa sb : BitVec 8) (rng : Word),
     (f.isInt = true ∨ f = .raw) → (k.sat = false ∨ f = .raw ∨ op ≠ .shl) →
     ∃ o, laneShift op k ⟨a, f, sa⟩ ⟨b, f, sb⟩ rng = some o ∧ o.tag = f ∧ o.fl = 0 ∧ o.rng = rng ∧
       ∀ i, i < f.count →
         let x := subElem f a i
         let n := subElem f b i % f.bits
         subElem f o.bits i = match op with
           | .shl => x * 2 ^ n % 2 ^ f.bits
           | .shr => x / 2 ^ n
           | .sar => (signedOf f.bits x / 2 ^ n % 2 ^ f.bits).toNat)

/-- R47, R51: RoundTo gives a value that the format holds exactly its own code, in every mode, without a flag and without a
draw; the one exception is a NaN, which becomes the canonical one. R33, R34, R37: every element code has the value of its
format's layout. R38, R39, R47, R49, R51, R53, R54: RoundTo takes every exact value to its neighbour under the mode, with the
flags, the overflow results and the draws that these rules give. Readings: log entries 17 (a result that rounds to zero). -/
def Obligations.RoundToExact : Prop :=
  (∀ (f : Fmt) (un flush : Bool) (c : Nat), c < 2 ^ f.bits → match f.value un flush c, numOf f un flush c with
     | .nan, .nan => True
     | .inf n, .inf m => n = m
     | .fin n m e st, .fin n' r => st = false ∧ n = n' ∧ r = (if n then -1 else 1) * (m : Rat) * 2 ^ e
     | _, _ => False) ∧
  (∀ (f : Fmt) (x : Val) (k : RoundCtx) (rng : Word), f ≠ .raw → f ≠ .pl16 → k.mode ≠ .dyn →
     let out := roundTo f x k.mode k.sat k.un (flushes k.fpmode f) rng
     match x with
     | .nan => RoundsTo f k .nan rng out
     | .inf n => RoundsTo f k (.inf n) rng out
     | .fin n m e false => RoundsTo f k (if m = 0 then .zero n else .mag n (order (m * 2 ^ e))) rng out
     | .fin _ _ _ true => True) ∧
  ∀ (f : Fmt) (L : Layout) (c : Nat) (mode : RMode) (sat un : Bool) (rng : Word), f.layout = some L → f ≠ .acc48 →
    c < 2 ^ f.bits → (∀ n, f.value un false c ≠ .inf n) →
    roundTo f (f.value un false c) mode sat un false rng =
      if (f.value un false c).isNan then ⟨f.nanCode, 0, rng⟩ else ⟨c, 0, rng⟩

/-! ### Predicates, element moves and reductions (R155, R158-R160, R169-R171) -/

namespace Sys2Proof.Claims

/-- p register `d` is `v` and nothing else of the slot changes. -/
def WroteP (d : Fin 8) (v : Mask) (c c' : Slot) : Prop :=
  c' = { c with p := c'.p } ∧ c'.pr d = v ∧ ∀ i : Fin 8, i ≠ d → c'.pr i = c.pr i

/-- The predicate operations: all 64 bits, whatever the nesting (R170). -/
def predForm (s : State) : Instr → Option (Fin 8 × List Use × Nat × Mask)
  | .pand d a b => some (d, [], 8, (here s).pr a.reg &&& (here s).pr b.reg)
  | .por d a b => some (d, [], 8, (here s).pr a.reg ||| (here s).pr b.reg)
  | .pxor d a b => some (d, [], 8, (here s).pr a.reg ^^^ (here s).pr b.reg)
  | .pnot d a => some (d, [], 8, ~~~(here s).pr a.reg)
  | .pset d b => some (d, opUse b, opSize b, ov s b)
  | _ => none

/-- VCMP in a lane: the condition over its elements, all of them or any (R155). -/
def compared (s : State) (a : VSrc) (b : VOp) (cc : Cmp) (any un : Bool) (l : Nat) : Bool :=
  let f := (va s a l).tag
  let k := roundBy s .rne false un
  let holds (i : Nat) : Bool := holdsOf cc (elemNum k (va s a l) i) (elemNum k (vb s a b l) i)
  if any then (List.range f.count).any holds else (List.range f.count).all holds

/-- The tags VCMP accepts in a lane: an integer or floating-point format, the same in both (Table 7.1, R149). -/
def comparable (s : State) (a : VSrc) (b : VOp) (l : Nat) : Prop :=
  ((va s a l).tag.isInt = true ∨ (va s a l).tag.isFloat = true) ∧ (vb s a b l).tag = (va s a l).tag

/-- The active lanes below 64, in lane order. -/
def actives (m : Mask) : List Nat := (List.range 64).filter (fun l => m.getLsbD l)

/-- The formats an operation of VRED and VSCAN takes (R158). -/
def redTakes (op : RedOp) (f : Fmt) : Bool :=
  f.isInt || ((op = .add || op = .min || op = .max) && (f = .fp32 || f = .fp16 || f = .bf16))

/-- What an exclusive scan gives its lowest active lane (R159). -/
def identityOf (op : RedOp) (f : Fmt) (un : Bool) : Nat :=
  match op with
  | .add | .or | .xor => 0
  | .and => 2 ^ f.bits - 1
  | .min => if f.isInt then (if un then 2 ^ f.bits - 1 else 2 ^ (f.bits - 1) - 1) else topCode f
  | .max => if f.isInt then (if un then 0 else 2 ^ (f.bits - 1)) else 2 ^ (f.bits - 1) + topCode f

/-- A reduction's active lanes have one format, and one that its operation takes (R158). -/
def sameFormat (s : State) (a : VSrc) (op : RedOp) (m : Mask) (f : Fmt) : Prop :=
  redTakes op f = true ∧ ∀ l, l < 64 → m.getLsbD l = true → (va s a l).tag = f

/-- x register `d` takes `v`, and flags are collected. -/
def WroteXFlags (d : Fin 32) (v : Word) (fl : Flags) (c c' : Slot) : Prop :=
  WroteX d v { c with lanestat := c.lanestat ||| fl.setWidth 64 } c'

end Sys2Proof.Claims

/-- R170: PAND, POR, PXOR, PNOT and PSET write all 64 bits of their predicate and change nothing else. R122, R155: VCMP writes
the bits of the active lanes, which are 1 where the condition holds, and keeps the others. Completes: pand, por, pxor, pnot,
pset, vcmp. -/
def Obligations.PredicatesAndCompares : Prop :=
  (∀ (i : Instr) (d : Fin 8) (us : List Use) (size : Nat) (v : Mask) (s : State), predForm s i = some (d, us, size, v) →
     CanIssue s → Ready s us [] → Acts i s us size (WroteP d v)) ∧
  (∀ (g : Option Guard) (d : Fin 8) (a : VSrc) (b : VOp) (cc : Cmp) (any un : Bool) (s : State), CanIssue s →
     let us := vUse 0 a ++ vopUse b
     let m := lanesOn s g
     Ready s us [] → PortsOk s us none .vv m → (∀ l, l < 64 → m.getLsbD l = true → comparable s a b l) →
     LaneActs (.vcmp g d a b cc any un) s us m (vopSize b) (fun c c' => c' = { c with p := c'.p } ∧
       (∀ l, l < 64 → (c'.pr d).getLsbD l = if m.getLsbD l then compared s a b cc any un l else (c.pr d).getLsbD l) ∧
       ∀ i : Fin 8, i ≠ d → c'.pr i = c.pr i))

/-- R158: VRED writes 0 where no lane is active; otherwise it combines the elements of the active lanes, of one format, in lane
order, and collects its flags. A format that the operation does not take in the lowest active lane traps TAGMISMATCH with every
active lane in TRAPINFO (R147: it is the lane format of each), and other formats than that lane's trap it with their lanes.
R158, R51, R52: VRED `add` rounds the exact sum of all elements once, into I64 on integer tags, where it is without SAT the sum
modulo 2^64; `and`, `or` and `xor` combine the element codes bit by bit, zero-extended and without a flag; `min` and `max` give
the least and the greatest element. R159: VSCAN gives each active lane the combination of the active lanes up to it, itself
included unless the scan is exclusive: at each element position a sum rounded once, an extreme element, a bitwise combination,
or where no lane stands before it the identity of its operation. Completes: vred, vscan. Readings: log entries 3, 17. -/
def Obligations.ReductionsAndScans : Prop :=
  (∀ (g : Option Guard) (d : Fin 32) (a : VSrc) (op : RedOp) (rm : RMode) (sat un : Bool) (s : State), CanIssue s →
     let us := vUse 0 a
     let m := lanesOn s g
     Ready s us [codeX d] → PortsOk s us none .vv m →
     (m = 0 → LaneActs (.vred g d a op rm sat un) s us m 8 (WroteX d 0)) ∧
     (∀ f, m ≠ 0 → sameFormat s a op m f →
       let r := redResult op (roundBy s rm sat un) f ((actives m).flatMap (fun l => subElems f (va s a l).bits)) 0
       LaneActs (.vred g d a op rm sat un) s us m 8 (WroteXFlags d r.1 r.2)) ∧
     (∀ l, l < 64 → m.getLsbD l = true → (∀ j, j < l → m.getLsbD j = false) → InRow s .tagmismatch →
       (redTakes op (va s a l).tag = false → Traps (.vred g d a op rm sat un) s .tagmismatch m (here s).pc) ∧
       (redTakes op (va s a l).tag = true → ∀ w : Word,
         (∀ j, j < 64 → (w.getLsbD j = true ↔ m.getLsbD j = true ∧ (va s a j).tag ≠ (va s a l).tag)) → w ≠ 0 →
         Traps (.vred g d a op rm sat un) s .tagmismatch w (here s).pc))) ∧
  (∀ (k : RoundCtx) (f : Fmt) (cs : List Nat) (rng : Word), arithmetic f → k.mode ≠ .dyn → cs ≠ [] → (∀ c ∈ cs, c < 2 ^ f.bits) →
     let xs := cs.map (numOf f k.un (flushes k.fpmode f))
     let calm : RoundCtx := if k.mode = .sr ∨ f.isInt = true then { k with mode := .rne } else k
     let g := if f.isInt then .i64 else f
     (∃ out, RoundsTo g calm (exactly (addNum calm.mode xs)).1 rng out ∧
       redResult .add k f cs rng = (BitVec.ofNat 64 out.code, (addNum calm.mode xs).2 ||| out.fl)) ∧
     (f.isInt = false → ∀ op, op = .min ∨ op = .max →
       (redResult op k f cs rng).2 = 0 ∧
       (.nan ∈ xs → (redResult op k f cs rng).1 = BitVec.ofNat 64 (nanOf f)) ∧
       (.nan ∉ xs → ∃ c, c < 2 ^ f.bits ∧ (redResult op k f cs rng).1 = BitVec.ofNat 64 c ∧ numOf f k.un false c ∈ xs ∧
         ∀ x ∈ xs, if op = .min then notAbove (numOf f k.un false c) x = true else notAbove x (numOf f k.un false c) = true))) ∧
  (∀ (k : RoundCtx) (f : Fmt) (cs : List Nat) (rng : Word), f.isInt = true → (∀ c ∈ cs, c < 2 ^ f.bits) → cs ≠ [] →
     (k.sat = false → redResult .add k f cs rng = (BitVec.ofInt 64 (cs.map (intOf f.bits k.un)).sum, 0)) ∧
     (∀ i, i < f.bits → ((redResult .and k f cs rng).1.getLsbD i = true ↔ ∀ c ∈ cs, c.testBit i = true) ∧
       ((redResult .or k f cs rng).1.getLsbD i = true ↔ ∃ c ∈ cs, c.testBit i = true) ∧
       ((redResult .xor k f cs rng).1.getLsbD i = true ↔ (cs.countP (fun c => c.testBit i)) % 2 = 1)) ∧
     (∀ op, op ≠ .add → (redResult op k f cs rng).2 = 0) ∧
     (∀ op, op = .and ∨ op = .or ∨ op = .xor → ∀ i, f.bits ≤ i → (redResult op k f cs rng).1.getLsbD i = false) ∧
     (∃ c ∈ cs, (redResult .max k f cs rng).1 = BitVec.ofInt 64 (intOf f.bits k.un c) ∧
       ∀ e ∈ cs, intOf f.bits k.un e ≤ intOf f.bits k.un c) ∧
     (∃ c ∈ cs, (redResult .min k f cs rng).1 = BitVec.ofInt 64 (intOf f.bits k.un c) ∧
       ∀ e ∈ cs, intOf f.bits k.un c ≤ intOf f.bits k.un e)) ∧
  (∀ (g : Option Guard) (d : VDst) (a : VSrc) (op : RedOp) (rm : RMode) (sat un excl : Bool) (f : Fmt) (s : State), CanIssue s →
     let us := vUse 0 a
     let m := lanesOn s g
     Ready s us (dstCodes d) → PortsOk s us (southOf d .vv) .vv m → sameFormat s a op m f →
     LaneActs (.vscan g d a op rm sat un excl) s us m 8 (LanesTo d 6 m (fun l =>
       some (laneScan op (roundBy s rm sat un) f
         (((actives m).filter (fun j => if excl then decide (j < l) else decide (j ≤ l))).map (va s a)) (drawn s l))))) ∧
  (∀ (op : RedOp) (k : RoundCtx) (f : Fmt) (rs : List LaneReg) (rng : Word), redTakes op f = true → k.mode ≠ .dyn →
     (∀ r ∈ rs, r.tag = f) →
     let o := laneScan op k f rs rng
     let calm : RoundCtx := if f.isInt then { k with mode := .rne } else k
     let cs (i : Nat) := rs.map (fun r => subElem f r.bits i)
     (rs = [] → o.tag = f ∧ o.scale = none ∧ o.fl = 0 ∧ o.rng = rng ∧ ∀ i, i < f.count → subElem f o.bits i = identityOf op f k.un) ∧
     (rs ≠ [] → op = .add → LaneElements f calm (fun i => exactly (addNum calm.mode (rs.map (fun r => elemNum k r i)))) rng o) ∧
     (rs ≠ [] → op ≠ .add → o.tag = f ∧ o.scale = none ∧ o.fl = 0 ∧ o.rng = rng ∧ ∀ i, i < f.count →
       let e := subElem f o.bits i
       let xs := rs.map (fun r => elemNum k r i)
       (op = .min ∨ op = .max → (.nan ∈ xs → e = nanOf f) ∧ (.nan ∉ xs → numOf f k.un false e ∈ xs ∧
         ∀ x ∈ xs, if op = .min then notAbove (numOf f k.un false e) x = true else notAbove x (numOf f k.un false e) = true)) ∧
       ∀ j, j < f.bits → (op = .and → (e.testBit j = true ↔ ∀ c ∈ cs i, c.testBit j = true)) ∧
         (op = .or → (e.testBit j = true ↔ ∃ c ∈ cs i, c.testBit j = true)) ∧
         (op = .xor → (e.testBit j = true ↔ (cs i).countP (fun c => c.testBit j) % 2 = 1))))

/-- R160: VMOVX writes the bits of lane B mod 64 to D, or 0 where that lane is inactive; VINS writes A under its format to that
lane, if it is active, and to no other; bits [63:48] of an ACC48 value are zeros there (R35, log entry 86). R145, R160: VINS to
the south port sends one value whenever a lane is active, with A in lane B mod 64 if that lane is active and zeros elsewhere.
R169: VDEQ writes the eight elements of a Pleiad word in each active lane to consecutive registers, two or four elements to
each; every register is full, and other lanes and registers stay. R171: VSEED gives each active lane's RNG its source and
changes nothing else. R164, R165: VCVT, VPACK and VUNPK round each source element once into its place of Table 7.6, under D's
scale for an MX destination, whose code 0xFF counts as the exponent 128 (log entry 45). R43, R169: VDEQ rounds each coordinate
times both powers of two once. R45, R46, R168: VQUANT puts the word of QuantPL16's point of its eight inputs in one place of D
and keeps the other three. Completes: vmovx, vins, vdeq, vseed. Readings: log entries 45, 52, 86 (the unused bits of an ACC48
register), 90 (VINS to the port). -/
def Obligations.ElementMoves : Prop :=
  ((∀ (g : Option Guard) (d : Fin 32) (a : VSrc) (b : XOp) (s : State), CanIssue s →
     let us := vUse 0 a ++ opUse b
     let m := lanesOn s g
     let l := (ov s b).toNat % 64
     Ready s us [codeX d] → PortsOk s us none .vv m →
     LaneActs (.vmovx g d a b) s us m (opSize b) (WroteX d (if m.getLsbD l then heldAs (va s a l).tag (va s a l).bits else 0))) ∧
   ∀ (g : Option Guard) (d : Fin 64) (a : XSrc) (b : XOp) (f : Fmt) (s : State), CanIssue s →
     let us := xUse 0 a ++ opUse b
     let m := lanesOn s g
     let n := (ov s b).toNat % 64
     Ready s us [codeV d] →
     LaneActs (.vins g (.v d) a b f) s us m (opSize b)
       (LanesWritten d (m &&& (1#64 <<< n)) (fun l => bitsOut s l (xv s a) f))) ∧
  (∀ (g : Option Guard) (a : XSrc) (b : XOp) (f : Fmt) (s : State), CanIssue s →
     let us := xUse 0 a ++ opUse b
     let m := lanesOn s g
     let n := (ov s b).toNat % 64
     Ready s us [] → PortsOk s us (some .vv) .vv m → m ≠ 0 →
     LaneActs (.vins g .s a b f) s us m (opSize b) (fun c c' => ∃ v,
       c' = { c with rng := c'.rng, reserved := c.reserved ++ [⟨none, 2, v⟩] } ∧ v.rel = false ∧ v.bad = false ∧ v.body.kind = .vv ∧
       (∀ l, l < 64 → c'.rngOf l = c.rngOf l) ∧
       ∀ l, l < 64 → v.lane l = if l = n ∧ m.getLsbD l = true then ⟨heldAs f (xv s a), f, 127⟩ else LaneReg.zero)) ∧
  (∀ (g : Option Guard) (d : Fin 64) (a : RSrc) (b : XOp) (f : Fmt) (rm : RMode) (sat : Bool) (word : Fin 4) (s : State),
     CanIssue s → (f = .fp32 ∨ f = .fp16 ∨ f = .bf16) →
     let q := 8 / f.count
     let us := rUse 0 a ++ opUse b
     let m := lanesOn s g
     let r (l : Nat) : LaneReg := (here s).vr a.reg l
     let out (l : Nat) := laneDeq f (roundBy s rm sat false) (r l) (ov s b) word (drawn s l)
     d.val + q ≤ 64 → Ready s us ((List.range q).map (fun i => codeV (d + i))) →
     (∀ l, l < 64 → m.getLsbD l = true → (r l).tag = .pl16) →
     LaneActs (.vdeq g d a b f rm sat word) s us m (opSize b) (fun c c' =>
       (∀ l, l < 64 → ∀ i, i < 64 → c'.vr i l =
         if m.getLsbD l = true ∧ d.val ≤ i ∧ i < d.val + q then
           ⟨((out l).map (fun o => o.1.getD (i - d.val) 0)).getD 0, f, (c.vr i l).scale⟩ else c.vr i l) ∧
       (∀ i, i < 64 → c'.isEmpty (codeV i) = if d.val ≤ i ∧ i < d.val + q then false else c.isEmpty (codeV i)) ∧
       LaneState m (fun l => (out l).map (fun o => ⟨0, f, none, o.2.1, o.2.2⟩)) c c' ∧
       c' = { c with v := c'.v, rng := c'.rng, lanestat := c'.lanestat, vEmpty := c'.vEmpty, softErr := c'.softErr })) ∧
  (∀ (g : Option Guard) (a : VSrc) (s : State), CanIssue s →
     let us := vUse 0 a
     let m := lanesOn s g
     Ready s us [] → PortsOk s us none .vv m →
     LaneActs (.vseed g a) s us m 8 (fun c c' => c' = { c with rng := c'.rng } ∧
       ∀ l, l < 64 → c'.rngOf l = if m.getLsbD l then (va s a l).bits else c.rngOf l)) ∧
  (∀ (g : Fmt) (k : RoundCtx) (a b : LaneReg) (sd : BitVec 8) (part : Nat) (rng : Word), g ≠ .raw → g ≠ .pl16 → k.mode ≠ .dyn →
     let n := a.tag.count
     (convertible a.tag → n ≤ g.count → ∃ o, laneCvt g k a sd rng = some o ∧ LaneElements g k
       (fun i => if i < n then convNum g sd (elemNum k a i) else (.code 0, 0)) rng o) ∧
     (convertible a.tag → g.count = 2 * n → b.tag = a.tag → ∃ o, lanePack g k a b sd rng = some o ∧ LaneElements g k
       (fun i => convNum g sd (if i < n then elemNum k a i else elemNum k b (i - n))) rng o) ∧
     (convertible a.tag → g.count < n → part * g.count < n → ∃ o, laneUnpk g part k a sd rng = some o ∧ LaneElements g k
       (fun i => convNum g sd (elemNum k a (part * g.count + i))) rng o) ∧
     (¬ convertible a.tag ∨ g.count < n → laneCvt g k a sd rng = none) ∧
     (¬ convertible a.tag ∨ g.count ≠ 2 * n ∨ b.tag ≠ a.tag → lanePack g k a b sd rng = none) ∧
     (¬ convertible a.tag ∨ n ≤ g.count ∨ n ≤ part * g.count → laneUnpk g part k a sd rng = none)) ∧
  (∀ (g : Fmt) (k : RoundCtx) (a : LaneReg) (b : Word) (word : Nat) (rng : Word), (g = .fp32 ∨ g = .fp16 ∨ g = .bf16) →
     k.mode ≠ .dyn →
     let w := a.bits.toNat / 2 ^ (16 * word) % 2 ^ 16
     (a.tag = .pl16 → ∃ rs fl rng', laneDeq g k a b word rng = some (rs, fl, rng') ∧ rs.length = 8 / g.count ∧
       Elements g k 8 (fun i => (exactOf (((Quantity.fin (decide (coordinate w i < 0)) (coordinate w i)).scaled a.scale).times b.toInt), 0)) rng
         (fun i => subElem g (rs.getD (i / g.count) 0) (i % g.count)) fl rng') ∧
     (a.tag ≠ .pl16 → laneDeq g k a b word rng = none)) ∧
  (∀ (fpmode : Word) (as : List LaneReg) (old : Word) (c : BitVec 8) (word : Nat) (rng : Word), as.length = 4 → word < 4 →
     let x (i : Nat) : Quantity := numOf .fp32 false (fpmode.getLsbD 4) (subElem .fp32 (as.getD (i / 2) LaneReg.zero).bits (i % 2))
     let y (i : Nat) : Rat := (x i).real * 2 ^ (127 - (c.toNat : Int))
     ((∀ r ∈ as, r.tag = .fp32) → ∃ o, laneQuant fpmode as old c word rng = some o ∧ o.tag = .pl16 ∧ o.scale = some c ∧
       o.rng = rng ∧ (∀ j, j < 4 → j ≠ word → subElem .pl16 o.bits j = subElem .pl16 old j) ∧
       let w := subElem .pl16 o.bits word
       (c = 255 ∨ (∃ i, i < 8 ∧ (x i = .nan ∨ ∃ n, x i = .inf n)) → w = 0 ∧ o.fl = flInvalid) ∧
       (c ≠ 255 → (∀ i, i < 8 → x i ≠ .nan ∧ ∀ n, x i ≠ .inf n) →
         (∀ i, i < 8 → coordinate w i = (quantised y).1 i) ∧ o.fl = if (quantised y).2 then flLatovf else 0)) ∧
     ((∃ r ∈ as, r.tag ≠ .fp32) → laneQuant fpmode as old c word rng = none))

/-! ## Tensor and ports (spec/08) -/

namespace Sys2Proof.Claims

/-- Element `n` of an accumulator, of 48 bits (R177). -/
def element (r : BitVec 384) (n : Nat) : Nat := r.toNat / 2 ^ (48 * n) % 2 ^ 48

/-- A tensor step: its guard, destination, sources, weight register, width and slice fields, and in each lane the registers of
operand A and the accumulator it adds to; `sparse` for MSTEPS, `north` the kind it reads from the north port. -/
structure StepForm where
  g      : Option Guard
  d      : ADst
  us     : List Use
  w      : Fin 4
  kw     : Nat
  slice  : Nat
  sparse : Bool
  north  : PortKind
  a      : State → Nat → List LaneReg
  acc    : State → Nat → BitVec 384

def stepForm : Instr → Option StepForm
  | .mstep g d a b kw sl => some ⟨g, .a d, vUse 0 a ++ wUse 1 b ++ impliedUse (codeA d), b.reg, kw.toNat, sl, false, .vv,
      fun s l => [va s a l], fun s l => (here s).ar d l⟩
  | .mstepn g d a b m kw sl => some ⟨g, d, rUse 0 a ++ wUse 1 b ++ [⟨2, m, codeN⟩], b.reg, kw.toNat, sl, false, .acc,
      fun s l => [(here s).vr a.reg l], fun s l => (s.northVal s.cur m).acc l⟩
  | .msteps g d a b kw sl => some ⟨g, .a d, rUses 0 2 a ++ wUse 1 b ++ impliedUse (codeA d), b.reg, kw.toNat, sl, true, .vv,
      fun s l => [(here s).vr a.reg l, (here s).vr (a.reg + 1) l], fun s l => (here s).ar d l⟩
  | _ => none

/-- The full width of a pair of formats, none where Table 8.6 has no such pair. -/
def widthOf (f t : Fmt) (sparse : Bool) : Option Nat :=
  let eight (x : Fmt) : Bool := x = .i8 || x = .e4m3 || x = .e5m2 || x = .mxe4m3 || x = .mxe5m2 || x = .mxi8
  let sixteen (x : Fmt) : Bool := x = .fp16 || x = .bf16
  if sixteen f && (sixteen t || (t = .pl16 && !sparse)) then some (if sparse then 8 else 4)
  else if eight f && (eight t || (t = .pl16 && !sparse)) then some (if sparse then 16 else 8)
  else if f = .mxe2m1 && t = .mxe2m1 && !sparse then some 16 else none

/-- The slices of a pair of formats (Table 8.6). -/
def slicesOf (f t : Fmt) : Nat := if t ≠ .pl16 then 1 else if f = .fp16 ∨ f = .bf16 then 8 else 4

/-- The operands of a lane form a pair of Table 8.6 of the step's kind, and the width and slice fields fit it (R181). -/
def PairOk (f : StepForm) (s : State) (l : Nat) : Prop :=
  let w := (here s).wr f.w l
  w.sparse = f.sparse ∧ ∃ r t K, f.a s l = r :: t ∧ (∀ q ∈ t, q.tag = r.tag) ∧ widthOf r.tag w.tag w.sparse = some K ∧
    f.kw ≤ K ∧ (f.sparse = true → f.kw = 0) ∧ f.slice < slicesOf r.tag w.tag

/-- Element `k` of operand A, from the first register or, past its elements, from the second (R182). -/
def stepA (regs : List LaneReg) (k : Nat) : Quantity :=
  let r := regs.getD 0 LaneReg.zero
  let q := if k < r.tag.count then r else regs.getD 1 r
  let x := numOf q.tag false false (subElem q.tag q.bits (k % r.tag.count))
  if q.tag.isMx then x.scaled q.scale else x

/-- The weight of row `k` and column `n` (R175, R176, Table 8.1): element 8k + n of a dense register, a coordinate of word
slice·K + k of Pleiad weights, and of a sparse register the stored element whose position in its group of four the metadata
names, +0 at the other positions; under column scale `n` for MX and PL16 weights. -/
def stepW (w : WReg) (slice K k n : Nat) : Quantity :=
  let stored (i : Nat) : Quantity := numOf w.tag false false (w.data.toNat / 2 ^ (i * w.tag.bits) % 2 ^ w.tag.bits)
  let code := w.mdata.toNat / 2 ^ (4 * (8 * (k / 4) + n)) % 16
  let x : Quantity :=
    if w.sparse then
      if k % 4 = code % 4 then stored (8 * (2 * (k / 4)) + n)
      else if k % 4 = code / 4 then stored (8 * (2 * (k / 4) + 1) + n) else .fin false 0
    else if w.tag = .pl16 then
      let v := coordinate (w.data.toNat / 2 ^ (16 * (slice * K + k)) % 2 ^ 16) n
      .fin (decide (v < 0)) v
    else stored (8 * k + n)
  if w.tag.isMx ∨ w.tag = .pl16 then x.scaled (BitVec.ofNat 8 (w.scales.toNat / 256 ^ n)) else x

/-- RoundACC of a number: the code and its flags (R38, R39). -/
def RoundsACC (x : Quantity) (code : Nat) (fl : Flags) : Prop :=
  RoundsTo .acc48 ⟨0, .rne, false, false⟩ (exactOf x) 0 ⟨code, fl, 0⟩

/-- Column `n` of a lane: the element added to, plus the products over the rows of the step, rounded once to ACC48 (R182, R39,
R55), and its flags; both infinities among the terms are invalid, whatever else is (log entry 51). -/
def Column (f : StepForm) (s : State) (l n : Nat) (code : Nat) (fl : Flags) : Prop :=
  let w := (here s).wr f.w l
  let K := (widthOf ((f.a s l).headD LaneReg.zero).tag w.tag w.sparse).getD 0
  let rows := if f.kw = 0 then K else f.kw
  let ps := (List.range rows).map (fun k => mulNum (stepA (f.a s l) k) (stepW w f.slice K k n))
  let terms := numOf .acc48 false false (element (f.acc s l) n) :: ps.map Prod.fst
  ∃ fl', RoundsACC (addNum .rne terms).1 code fl' ∧
    fl = (ps.map Prod.snd).foldl (· ||| ·) 0 ||| (if .inf false ∈ terms ∧ .inf true ∈ terms then flInvalid else 0) ||| fl'

/-- LANESTAT after the flags of a list of results. -/
def flagged (old : Word) (fls : List Flags) : Word := fls.foldl (fun w fl => w ||| fl.setWidth 64) old

/-- A slot that has collected flags. -/
def withFlags (c : Slot) (fls : List Flags) : Slot := { c with lanestat := flagged c.lanestat fls }

/-- Accumulator `d` holds `new` in the lanes of `m` and is full; its other lanes and everything else stay. -/
def AccWritten (d : Fin 4) (m : Mask) (new : Nat → BitVec 384) (c c' : Slot) : Prop :=
  c' = { c with a := c'.a, aEmpty := c'.aEmpty,
                softErr := if m = BitVec.allOnes 64 then c.softErr.filter (· ≠ BitVec.ofNat 7 (codeA d)) else c.softErr } ∧
  (∀ l, l < 64 → c'.ar d l = if m.getLsbD l then new l else c.ar d l) ∧
  (∀ i : Fin 4, i ≠ d → (∀ l, l < 64 → c'.ar i l = c.ar i l) ∧ c'.isEmpty (codeA i) = c.isEmpty (codeA i)) ∧
  c'.isEmpty (codeA d) = false

/-- The same of a stationary register. -/
def WWritten (d : Fin 4) (m : Mask) (new : Nat → WReg) (c c' : Slot) : Prop :=
  c' = { c with w := c'.w, wEmpty := c'.wEmpty,
                softErr := if m = BitVec.allOnes 64 then c.softErr.filter (· ≠ BitVec.ofNat 7 (codeW d)) else c.softErr } ∧
  (∀ l, l < 64 → c'.wr d l = if m.getLsbD l then new l else c.wr d l) ∧
  (∀ i : Fin 4, i ≠ d → (∀ l, l < 64 → c'.wr i l = c.wr i l) ∧ c'.isEmpty (codeW i) = c.isEmpty (codeW i)) ∧
  c'.isEmpty (codeW d) = false

/-- What PSEND and WSEND send. -/
def sendForm : Instr → Option (Option Guard × SendSrc × Bool)
  | .psend g a rel => some (g, a, rel)
  | .wsend g a => some (g, .w a, false)
  | _ => none

/-- Earlier work of the slot on the named paths (Table 11.3) that a release waits for in every scope: messages to home dies and
held ENQBs, collective operations that go on, and values its streams have accepted and not written; copy commands are exempt
(R252). -/
def WorkLeft (s : State) (paths : BitVec 7) : Prop :=
  (paths.getLsbD 4 = true ∧ ((∃ m ∈ s.msgs, m.slot = s.cur) ∨ ∃ m ∈ s.heldEnq, m.slot = s.cur)) ∨
  (paths.getLsbD 5 = true ∧ ∃ c ∈ s.colls, c.slot = s.cur ∧ c.err = none ∧ c.parked = false ∧
    ¬ (c.started = true ∧ 0 < c.total ∧ c.total ≤ c.steps)) ∨
  (paths.getLsbD 2 = true ∧ ∃ p ∈ s.bandList, p.2.nad.parked = false ∧ ∃ q ∈ p.2.nad.buf, q.slot = s.cur)

/-- An earlier access of the slot that a release at a scope covers: on a named path, not to peer memory alone in a scope narrower
than pod (R284), and not held by a translation fault (R286). -/
def Covers (s : State) (scope : Scope) (paths : BitVec 7) (p : Pend) : Prop :=
  p.slot = s.cur ∧ paths.getLsbD p.path = true ∧ (∀ r ∈ p.reqs, r.parked = false) ∧
  (scope.code.toNat < 6 → ∃ r ∈ p.reqs, spaceOf r.loc ≠ .peer)

/-- A release in a scope narrower than the package has taken effect: from here on the accesses it covers count as performed there
(R275, R282; log entry 92). -/
def ReleasedIn (s : State) (scope : Scope) (paths : BitVec 7) (t : State) : Prop :=
  t = { s with pend := t.pend, nextId := t.nextId } ∧
  ((∃ p ∈ s.pend, Covers s scope paths p ∧ ∀ m ∈ p.marks, m.2 ≠ scope) → t.nextId = s.nextId + 1) ∧
  ((∀ p ∈ s.pend, ¬ (Covers s scope paths p ∧ ∀ m ∈ p.marks, m.2 ≠ scope)) → t.nextId = s.nextId) ∧
  ∃ f : Pend → Pend, t.pend = s.pend.map f ∧ ∀ p ∈ s.pend,
    (Covers s scope paths p ∧ (∀ m ∈ p.marks, m.2 ≠ scope) → f p = { p with marks := p.marks ++ [(s.nextId, scope)] }) ∧
    (¬ (Covers s scope paths p ∧ ∀ m ∈ p.marks, m.2 ≠ scope) → f p = p)

/-- A value is written to the south port at its word's issue, or, where earlier words have reserved entries, takes the place
behind them and follows as soon as they are written (R16, R184, R194). -/
def SentSouth (w : PortVal) (c c' : Slot) : Prop :=
  c' = if c.reserved = [] then { c with south := c.south ++ [⟨w, false⟩] }
    else { c with reserved := c.reserved ++ [⟨none, 0, w⟩] }

/-- A port value made from the register of a send in the active lanes, zero in the others (R179, R194). -/
def Carries (s : State) (a : SendSrc) (m : Mask) (v : PortVal) : Prop :=
  v.bad = false ∧ match a with
  | .v r => v.body.kind = .vv ∧ ∀ l, l < 64 → v.lane l = if m.getLsbD l then (here s).vr r.reg l else LaneReg.zero
  | .a r => v.body.kind = .acc ∧ ∀ l, l < 64 → v.acc l = if m.getLsbD l then (here s).ar r.reg l else 0
  | .w r => v.body.kind = .wc ∧ ∀ l, l < 64 → v.chunk l = if m.getLsbD l then (here s).wr r.reg l else WReg.blank

end Sys2Proof.Claims

/-- R55, R56, R181 to R183: with all 64 lanes active, sources and ports ready and a permitted pair in every lane, MSTEP, MSTEPN
and MSTEPS add their products to every accumulator element, into D or as one ACC vector to the south port, and collect their
flags. R180, R182: a tensor step with an inactive lane traps PARTIALMASK with the inactive lanes in TRAPINFO. Completes: mstep,
mstepn, msteps. Readings: log entries 41 (kw and slice), 51 (both infinities), 52. -/
def Obligations.TensorSteps : Prop :=
  (∀ (i : Instr) (f : StepForm) (s : State), stepForm i = some f → CanIssue s → lanesOn s f.g = BitVec.allOnes 64 →
     Ready s f.us (match f.d with
       | .a d => [codeA d]
       | .s => []) →
     PortsOk s f.us (if f.d = .s then some .acc else none) f.north (BitVec.allOnes 64) → (∀ l, l < 64 → PairOk f s l) →
     ActsIn i s ((sourced s f.us 8).evField (slotField s.cur) 0x04 (slotQual s.cur)) (fun c c' =>
       ∃ (new : Nat → BitVec 384) (fl : Nat → Nat → Flags),
         (∀ l, l < 64 → ∀ n, n < 8 → Column f s l n (element (new l) n) (fl l n)) ∧
         let c1 := withFlags c ((List.range 64).flatMap (fun l => (List.range 8).map (fl l)))
         match f.d with
         | .a d => AccWritten d (BitVec.allOnes 64) new c1 c'
         | .s => ∃ v, c' = { c1 with reserved := c.reserved ++ [⟨none, 4, v⟩] } ∧ v.rel = false ∧ v.bad = false ∧
             v.body.kind = .acc ∧ ∀ l, l < 64 → v.acc l = new l)) ∧
  (∀ (i : Instr) (f : StepForm) (s : State), stepForm i = some f → InRow s .partialmask →
     lanesOn s f.g ≠ BitVec.allOnes 64 → PortsOk s f.us (if f.d = .s then some .acc else none) f.north 0 →
     Traps i s .partialmask (~~~lanesOn s f.g) (here s).pc)

/-- R187: ACCRD writes the eight elements of its accumulator, post-scaled and rounded, in the active lanes to one, two or four
consecutive registers, or as one value to the south port; with CLR it then clears the accumulator there. R56, R187: each
element is the once-rounded exact product with its post-scale, and the canonical NaN without a flag where either is NaN. R38,
R188: ACCWR takes eight elements in each active lane from the consecutive registers their tag needs and rounds each once to
ACC48; every register of the largest group is a source. With no active lane only A is. Completes: accrd, accwr. Readings: log
entries 17, 51, 52. -/
def Obligations.AccumulatorReadsAndWrites : Prop :=
  (∀ (g : Option Guard) (d : VDst) (a : ASrc) (b : Option RSrc) (f : Fmt) (rm : RMode) (sat clr : Bool) (s : State),
     CanIssue s → (f = .fp32 ∨ f = .fp16 ∨ f = .bf16 ∨ f = .e4m3 ∨ f = .e5m2) →
     let q := 8 / f.count
     let us := aUse 0 a ++ b.elim [] (rUses 1 4)
     let m := lanesOn s g
     let out (l : Nat) := accRdCell f (roundBy s rm sat false) ((here s).ar a.reg l)
       (b.elim [] (fun r => (List.range 4).map (fun i => (here s).vr (r.reg + i) l))) (drawn s l)
     let codes (l i : Nat) : Word := joinElems f (((((out l).map Prod.fst).getD []).drop (i * f.count)).take f.count)
     let read (c c1 : Slot) : Prop := match d with
       | .v d => (∀ l, l < 64 → ∀ i, i < 64 → c1.vr i l =
           if m.getLsbD l = true ∧ d.val ≤ i ∧ i < d.val + q then ⟨codes l (i - d.val), f, (c.vr i l).scale⟩ else c.vr i l) ∧
         (∀ i, i < 64 → c1.isEmpty (codeV i) = if d.val ≤ i ∧ i < d.val + q then false else c.isEmpty (codeV i)) ∧
         LaneState m (fun l => (out l).map (fun o => ⟨0, f, none, o.2.1, o.2.2⟩)) c c1 ∧
         c1 = { c with v := c1.v, rng := c1.rng, lanestat := c1.lanestat, vEmpty := c1.vEmpty, softErr := c1.softErr }
       | .s => LanesSent 4 m (fun l => (out l).map (fun o => ⟨codes l 0, f, none, o.2.1, o.2.2⟩)) c c1
     (∀ i, d = .v i → i.val + q ≤ 64) → (d = .s → f = .e4m3 ∨ f = .e5m2) →
     Ready s us (match d with
       | .v d => (List.range q).map (fun i => codeV (d + i))
       | .s => []) → PortsOk s us (southOf d .vv) .vv m →
     (∀ r, b = some r → ∀ l, l < 64 → m.getLsbD l = true → ∀ i, i < 4 → ((here s).vr (r.reg + i) l).tag = .fp32) →
     LaneActs (.accrd g d a b f rm sat clr) s us m 8 (fun c c' => ∃ c1, read c c1 ∧
       if clr then AccWritten a.reg m (fun _ => 0) c1 c' else c' = c1)) ∧
  (∀ (g : Option Guard) (d : Fin 4) (a : RSrc) (v : Band) (q : Nat) (s : State), CanIssue s → s.bandOf s.cur = some v →
     let m := lanesOn s g
     let tag (l : Nat) : Fmt := ((here s).vr a.reg l).tag
     let regs (f : Fmt) (n : Nat) : Prop :=
       (f = .fp32 ∨ f = .i32) ∧ n = 4 ∨ (f = .fp16 ∨ f = .bf16) ∧ n = 2 ∨ f = .acc48 ∧ n = 8
     (m = 0 ∧ q = 1 ∨ ∃ l, l < 64 ∧ m.getLsbD l = true ∧ regs (tag l) q) →
     (∀ l, l < 64 → m.getLsbD l = true → ∃ n, regs (tag l) n ∧ n ≤ q ∧ ∀ i, i < n → ((here s).vr (a.reg + i) l).tag = tag l) →
     a.reg.val + q ≤ 64 → a.reg.val + q ≤ v.vregs → Ready s (rUses 0 q a) [codeA d] →
     Acts (.accwr g d a) s (rUses 0 q a) 8 (fun c c' =>
       ∃ new : Nat → BitVec 384, (∀ l, l < 64 → m.getLsbD l = true → ∀ n, n < 8 → ∃ fl, RoundsACC (numOf (tag l) false false
           (subElem (tag l) ((here s).vr (a.reg + n / (tag l).count) l).bits (n % (tag l).count))) (element (new l) n) fl) ∧
         AccWritten d m new c c')) ∧
  ∀ (g : Fmt) (k : RoundCtx) (a : BitVec 384) (post : List LaneReg) (rng : Word),
    (g = .fp32 ∨ g = .fp16 ∨ g = .bf16 ∨ g = .e4m3 ∨ g = .e5m2) → k.mode ≠ .dyn → (post = [] ∨ post.length = 4) →
    let p (n : Nat) : Quantity := if post = [] then .fin false 1
      else numOf .fp32 false false (subElem .fp32 (post.getD (n / 2) LaneReg.zero).bits (n % 2))
    ((∀ r ∈ post, r.tag = .fp32) → ∃ cs fl rng', accRdCell g k a post rng = some (cs, fl, rng') ∧ cs.length = 8 ∧
      Elements g k 8 (fun n => exactly (mulNum (numOf .acc48 false false (element a n)) (p n))) rng (fun n => cs.getD n 0) fl rng') ∧
    ((∃ r ∈ post, r.tag ≠ .fp32) → accRdCell g k a post rng = none)

/-- R179, R194, R195: PSEND and WSEND put one value, of their register in the active lanes, in the south port, or in the nadir
drain, behind the entries that earlier words have reserved; PSEND.rel does so once no other work of its slot is left, with the
slot's earlier accesses counting as performed at band scope from there on, and until then stays at its word and changes
nothing; an empty mask sends nothing (R122). R179, R196: PRECV and WRECV read one value of their kind from the north port into
D in the active lanes. Completes: psend, wsend, precv, wrecv. Readings: log entries 52 (the order of port values), 86, 92
(releases in a scope narrower than the package). -/
def Obligations.PortTransfers : Prop :=
  (∀ (i : Instr) (g : Option Guard) (a : SendSrc) (rel : Bool) (v : Band) (s : State), sendForm i = some (g, a, rel) →
     CanIssue s → s.bandOf s.cur = some v →
     let us := sendUse a
     let m := lanesOn s g
     Ready s us [] → PortsOk s us (some (sendKind a)) .vv m →
     (m = 0 → Acts i s us 8 (fun c c' => c' = c)) ∧
     (m ≠ 0 → rel = true → WorkLeft s 0x7F → exec i s = .next s) ∧
     (m ≠ 0 → (rel = true → ¬ WorkLeft s 0x7F) → ∃ u w, w.rel = rel ∧ Carries s a m w ∧
       (rel = true → ReleasedIn (sourced s us 8) .band 0x7F u) ∧ (rel = false → u = sourced s us 8) ∧
       (v.rowIndex (slotRow s.cur) + 1 ≠ v.height ∨ (here s).reserved ≠ [] → ActsIn i s u (SentSouth w)) ∧
       (v.rowIndex (slotRow s.cur) + 1 = v.height → (here s).reserved = [] →
         exec i s = .next (u.modBandOf s.cur (fun v => { v with nad := v.nad.accept w }))))) ∧
  (∀ (g : Option Guard) (mode : SrcMode) (s : State), CanIssue s →
     let us : List Use := [⟨0, mode, codeN⟩]
     let m := lanesOn s g
     let w := s.northVal s.cur mode
     (∀ d : Fin 64, Ready s us [codeV d] → PortsOk s us none .vv m →
       LaneActs (.precv g (.v d) mode) s us m 8 (LanesWritten d m (fun l => regOut s l (w.lane l)))) ∧
     (∀ d : Fin 4, Ready s us [codeA d] → PortsOk s us none .acc m →
       LaneActs (.precv g (.a d) mode) s us m 8 (AccWritten d m w.acc)) ∧
     (∀ d : Fin 4, Ready s us [codeW d] → PortsOk s us none .wc m →
       LaneActs (.wrecv g d mode) s us m 8 (WWritten d m w.chunk)))

/-- R186, R189: ACCZ clears its accumulator in the active lanes, and ACCADD writes the sums of its sources there, each element
rounded once to ACC48. R193: WSCL replaces the column scales of the active lanes and keeps the rest of the stationary register.
Completes: accz, accadd, wscl. Readings: log entries 51. -/
def Obligations.Accumulators : Prop :=
  ((∀ (g : Option Guard) (d : Fin 4) (s : State), CanIssue s → Ready s [] [codeA d] →
     Acts (.accz g d) s [] 8 (AccWritten d (lanesOn s g) (fun _ => 0))) ∧
   ∀ (g : Option Guard) (d : Fin 4) (a : ASrc) (b : AccOp) (s : State), CanIssue s →
     let us := aUse 0 a ++ (match b with
       | .a r => aUse 1 r
       | .n m => [⟨1, m, codeN⟩])
     let m := lanesOn s g
     let y (l : Nat) : BitVec 384 := match b with
       | .a r => (here s).ar r.reg l
       | .n m => (s.northVal s.cur m).acc l
     let sum (l n : Nat) := addNum .rne [numOf .acc48 false false (element ((here s).ar a.reg l) n),
       numOf .acc48 false false (element (y l) n)]
     Ready s us [codeA d] → PortsOk s us none .acc m →
     LaneActs (.accadd g d a b) s us m 8 (fun c c' =>
       ∃ (new : Nat → BitVec 384) (fl : Nat → Nat → Flags),
         (∀ l, l < 64 → m.getLsbD l = true → ∀ n, n < 8 → RoundsACC (sum l n).1 (element (new l) n) (fl l n)) ∧
         AccWritten d m new (withFlags c ((actives m).flatMap (fun l =>
           (List.range 8).map (fun n => (sum l n).2 ||| fl l n)))) c')) ∧
  (∀ (g : Option Guard) (d : Fin 4) (a : RSrc) (s : State), CanIssue s →
     let m := lanesOn s g
     Ready s (rUse 0 a) [codeW d] →
     LaneActs (.wscl g d a) s (rUse 0 a) m 8 (fun c c' => c' = { c with w := c'.w, wEmpty := c'.wEmpty } ∧
       (∀ l, l < 64 → c'.wr d l = if m.getLsbD l then { c.wr d l with scales := ((here s).vr a.reg l).bits } else c.wr d l) ∧
       (∀ i : Fin 4, i ≠ d → ∀ l, l < 64 → c'.wr i l = c.wr i l) ∧ c'.isEmpty (codeW d) = false))

/-! ## Memory accesses at issue (spec/10) -/

namespace Sys2Proof.Claims

/-- Table 9.1: what an access off the WEIGHT and COPY paths asks of the kind of a chunk or page; `half` for a write of whole
16-bit words. -/
def kindOk (kind : Nat) (write half : Bool) : Prop := kind ≠ 1 ∧ (kind = 2 → write = true ∧ half = true)

/-- An access by the executing slot: global or local, its kind for translation, what Table 9.1 asks, its bytes. -/
structure Manner where
  glob  : Bool
  acc   : AccKind
  write : Bool
  half  : Bool
  n     : Nat

/-- The leaf by which the slot's field serves a global address: its TLB holds one that permits the access (R218, R219); the exit
address is never mapped (R118). -/
def served (s : State) (v : Band) (acc : AccKind) (va : Word) : Option TlbLeaf :=
  if va.toNat / 8 = exitAt.toNat / 8 then none
  else (s.tlbLook (slotField s.cur) v.asid (va.toNat / 65536)).filter (fun l => (leafRefuses l.leaf acc).isNone)

/-- An address is aligned, lies in the band's allotment or is served by the TLB, and in memory of a kind that takes it
(R238, R204, R220, R240). -/
def Lands (s : State) (v : Band) (q : Manner) (va : Word) : Prop :=
  va.toNat % q.n = 0 ∧
  if q.glob then ∃ l, served s v q.acc va = some l ∧ kindOk (s.kindAt l (leafLoc l va)) q.write q.half
  else 65536 * v.chunk0 ≤ va.toNat ∧ va.toNat + q.n ≤ 65536 * v.chunk0 + 65536 * v.chunks ∧
    kindOk (s.chunkAt (slotField s.cur) va.toNat) q.write q.half

/-- The location of such an address (Table 9.3). -/
def locOf (s : State) (v : Band) (q : Manner) (va : Word) : Nat :=
  if q.glob then ((served s v q.acc va).map (fun l => leafLoc l va)).getD 0 else sideLoc (slotField s.cur) va.toNat

/-- Its key slot, 0 for a local one (R230). -/
def keyAt (s : State) (v : Band) (q : Manner) (va : Word) : Nat :=
  if q.glob then ((served s v q.acc va).map (fun l => leafKey l.leaf)).getD 0 else 0

/-- A request of an access: its number, the lanes it serves, its address and what it carries. -/
def request (s : State) (v : Band) (q : Manner) (k : Nat) (lanes : List Nat) (va : Word) (data : List Byte)
    (ops news : List Word) : Req :=
  { k := k, lanes := lanes, va := va, loc := locOf s v q va, key := keyAt s v q va, len := q.n, data := data, ops := ops
    news := news, mig := q.glob && ((served s v q.acc va).map (fun l => leafMig l.leaf)).getD false, parked := false
    bad := none }

/-- The access a word of the executing slot opens; its path is LANE for local and GATHER for global ones (Table 11.3). -/
def opened (s : State) (glob : Bool) (scope : Scope) (rel acq : Bool) (op : PendOp) (m : Mask) (reqs : List Req) : Pend :=
  { id := s.nextId, order := s.nextId, slot := s.cur, band := ((here s).band).getD 0, path := if glob then 3 else 0
    scope := scope, rel := rel, acq := acq, op := op, mask := m, reqs := reqs, urgent := false, old := [], pc := (here s).pc, granted := false
    marks := [] }

/-! #### Order between accesses (R237, R248, R277, R284, R286) -/

/-- A release or an acquire orders what it reaches besides peer memory, and, at pod or wider, that too (R284). -/
def inScopeOf (sc : Scope) (q : Pend) (rs : List Req) : Prop :=
  6 ≤ sc.code.toNat ∨ (∃ a ∈ q.reqs, spaceOf a.loc ≠ .peer) ∧ ∃ b ∈ rs, spaceOf b.loc ≠ .peer

/-- An earlier access stands before the requests `rs` of another: on one path, with a shared location (R277), the later one a
release (R248) or the earlier one an acquire (R237) whose scope is no narrower than the package (log entry 92); one that a
translation fault holds stands before nothing (R286). -/
def StandsBefore (q p : Pend) (rs : List Req) : Prop :=
  q.path = p.path ∧ (∀ a ∈ q.reqs, a.parked = false) ∧
  ((∃ a ∈ q.reqs, a.bad = none ∧ ∃ b ∈ rs, a.loc < b.loc + b.len ∧ b.loc < a.loc + a.len) ∨
    (p.rel = true ∧ 4 ≤ p.scope.code.toNat ∧ inScopeOf p.scope q rs) ∨
    (q.acq = true ∧ 4 ≤ q.scope.code.toNat ∧ inScopeOf q.scope q rs))

/-- An access that writes memory. -/
def writesTo : PendOp → Bool
  | .store | .atomV .. | .atomX .. | .red .. => true
  | _ => false

/-- One instance of a scope holds both row slots (Table 11.1). -/
def Shares (s : State) (c : Scope) (k j : Nat) : Prop :=
  match c with
  | .row => k = j
  | .band => k = j ∨ ((s.slot k).band.isSome = true ∧ (s.slot k).band = (s.slot j).band)
  | .field => k / 2 / 64 = j / 2 / 64
  | .die => k / 2 / 512 = j / 2 / 512
  | _ => True

/-- An access of another slot, which counts as performed in a scope that holds both since before this one was ordered there, stands
before a request of this one with which it conflicts (R273, R275, R282; log entry 92). -/
def CountsBefore (s : State) (q p : Pend) (b : Req) : Prop :=
  q.slot ≠ p.slot ∧ (∃ m ∈ q.marks, (∀ n ∈ p.marks, m.1 ≤ n.1) ∧ Shares s m.2 q.slot p.slot) ∧
  (writesTo p.op = true ∨ writesTo q.op = true) ∧ (∀ f k, q.op ≠ .xbld f k) ∧
  ∃ a ∈ q.reqs, a.bad = none ∧ a.loc < b.loc + b.len ∧ b.loc < a.loc + a.len

/-- No access stands before these requests. -/
def Unblocked (s : State) (p : Pend) (rs : List Req) : Prop :=
  (∀ q ∈ s.pend, q.slot = p.slot → q.order < p.order → ¬ StandsBefore q p rs) ∧ ∀ q ∈ s.pend, ∀ b ∈ rs, ¬ CountsBefore s q p b

/-- A state in which an access has been opened besides. -/
def withAccess (u : State) (p : Pend) : State := { u with pend := u.pend ++ [p], nextId := u.nextId + 1 }

/-- A register is empty and awaits a long-latency result; x0 does not; nothing else changes (R108). -/
def Awaits (code : Nat) (c c' : Slot) : Prop :=
  c' = { c with
    xEmpty := c'.xEmpty, vEmpty := c'.vEmpty, wEmpty := c'.wEmpty, dEmpty := c'.dEmpty
    xPend := c'.xPend, vPend := c'.vPend, wPend := c'.wPend, dPend := c'.dPend } ∧
  ∀ i, i < 0x78 → c'.isEmpty i = (c.isEmpty i || decide (i = code ∧ hasBit i)) ∧
    c'.isPend i = (c.isPend i || decide (i = code ∧ hasBit i))

/-- A lane destination of an access numbered `id`: its register awaits it, or a reserved entry of the south port (R184). -/
def AwaitsAt (d : VDst) (id : Nat) (c c' : Slot) : Prop :=
  match d with
  | .v i => Awaits (codeV i) c c'
  | .s => c' = { c with reserved := c.reserved ++ [⟨some id, 0, PortVal.none_⟩] }

/-- With no active lane the register is full at once, and the port is not touched (R122). -/
def AwaitsNothing (d : VDst) (c c' : Slot) : Prop :=
  match d with
  | .v i => c' = { c with vEmpty := c'.vEmpty } ∧ ∀ j, j < 0x78 → c'.isEmpty j = (c.isEmpty j && decide (j ≠ codeV i))
  | .s => c' = c

def dstNum (d : VDst) : Nat :=
  match d with
  | .v i => i
  | .s => 64

/-- An offset or stride as it enters an address: bits 55 to 0 under an MX tag, whose top byte is a scale (R239). -/
def offset (f : Fmt) (w : Word) : Word := if f.isMx then (w.setWidth 56).signExtend 64 else w

/-- A lane load: guard, destination, sources, bytes, whether it is global, whether one request serves every lane, its modifier,
each lane's address and the word that carries its scale. -/
structure LoadForm where
  g    : Option Guard
  d    : VDst
  us   : List Use
  size : Nat
  glob : Bool
  one  : Bool
  mm   : MemMod
  addr : State → Nat → Word
  part : State → Nat → Word

/-- R242, R245: LD and GLD add a lane's offset, LDV a stride times the lane, LDB one offset. -/
def loadForm : Instr → Option LoadForm
  | .ld g d a b mm => some ⟨g, d, xUse 0 a ++ rUse 1 b, 8, false, false, mm,
      fun s l => xv s a + offset mm.fmt ((here s).vr b.reg l).bits, fun s l => ((here s).vr b.reg l).bits⟩
  | .gld g d a b mm => some ⟨g, d, xUse 0 a ++ rUse 1 b, 8, true, false, mm,
      fun s l => xv s a + offset mm.fmt ((here s).vr b.reg l).bits, fun s l => ((here s).vr b.reg l).bits⟩
  | .ldv g d a b mm => some ⟨g, d, xUse 0 a ++ opUse b, opSize b, false, false, mm,
      fun s l => xv s a + BitVec.ofNat 64 l * offset mm.fmt (ov s b), fun s _ => ov s b⟩
  | .ldb g d a b mm => some ⟨g, d, xUse 0 a ++ opUse b, opSize b, false, true, mm,
      fun s _ => xv s a + offset mm.fmt (ov s b), fun s _ => ov s b⟩
  | _ => none

/-- A scalar read: its sources, bytes of the word, destination code, manner, modifier and address. -/
structure ReadForm where
  us   : List Use
  size : Nat
  dst  : Nat
  glob : Bool
  n    : Nat
  scope : Scope
  acq  : Bool
  op   : PendOp
  addr : State → Word

/-- LDS and LDD (R246, R259). -/
def readForm : Instr → Option ReadForm
  | .lds d a b mm => some ⟨xUse 0 a ++ opUse b, opSize b, codeX d, true, mm.width.bytes, mm.scope, mm.ordered,
      .loadX d mm.x mm.width, fun s => xv s a + ov s b⟩
  | .ldd d a b loc => some ⟨xUse 0 a ++ opUse b, opSize b, codeD d, !loc, 64, .row, false, .ldd d,
      fun s => xv s a + ov s b⟩
  | _ => none

/-- A store: guard (none for a scalar one), sources, bytes of the word, whether global, scope, release, bytes written, and each
lane's address and data. -/
structure StoreForm where
  lanes : Option (Option Guard)
  us    : List Use
  size  : Nat
  glob  : Bool
  scope : Scope
  rel   : Bool
  n     : Nat
  addr  : State → Nat → Word
  data  : State → Nat → Nat

/-- R243, R245, R246, R259: ST, GST, STV, STS and STD. -/
def storeForm : Instr → Option StoreForm
  | .st g a b c mm => some ⟨some g, xUse 0 a ++ rUse 1 b ++ rUse 2 c, 8, false, mm.scope, mm.ordered, mm.width.bytes,
      fun s l => xv s a + ((here s).vr b.reg l).bits, fun s l => ((here s).vr c.reg l).bits.toNat⟩
  | .gst g a b c mm => some ⟨some g, xUse 0 a ++ rUse 1 b ++ rUse 2 c, 8, true, mm.scope, mm.ordered, mm.width.bytes,
      fun s l => xv s a + ((here s).vr b.reg l).bits, fun s l => ((here s).vr c.reg l).bits.toNat⟩
  | .stv g a b c mm => some ⟨some g, xUse 0 a ++ opUse b ++ rUse 2 c, opSize b, false, mm.scope, mm.ordered, mm.width.bytes,
      fun s l => xv s a + BitVec.ofNat 64 l * ov s b, fun s l => ((here s).vr c.reg l).bits.toNat⟩
  | .sts a b c mm => some ⟨none, xUse 0 a ++ opUse b ++ xUse 2 c, opSize b, true, mm.scope, mm.ordered, mm.width.bytes,
      fun s _ => xv s a + ov s b, fun s _ => (xv s c).toNat⟩
  | .std a b d loc => some ⟨none, xUse 0 a ++ opUse b ++ dUse 2 d, opSize b, !loc, .row, false, 64,
      fun s _ => xv s a + ov s b, fun s _ => ((here s).dr d.reg).toNat⟩
  | _ => none

/-- The lanes a store acts on: a scalar store's one access is numbered 0. -/
def storeLanes (s : State) (f : StoreForm) : List Nat :=
  match f.lanes with
  | some g => actives (lanesOn s g)
  | none => [0]

def storeMask (s : State) (f : StoreForm) : Mask :=
  match f.lanes with
  | some g => lanesOn s g
  | none => 0

/-! ### Atomics -/

/-- The active lanes that are the first with their address: an aggregated access makes one request for each (R251). -/
def leaders (m : Mask) (addr : Nat → Word) : List Nat :=
  (actives m).filter (fun l => decide (∀ j, j < l → m.getLsbD j = true → addr j ≠ addr l))

/-- The active lanes with the address of lane `l`. -/
def sharers (m : Mask) (addr : Nat → Word) (l : Nat) : List Nat := (actives m).filter (fun j => decide (addr j = addr l))

/-- An operand of an atomic at its width. -/
def operand (wide : Bool) (w : Word) : Word := if wide then w else BitVec.ofNat 64 (w.toNat % 2 ^ 32)

def atomWidth (mm : AtomMod) : Nat := if mm.wide then 8 else 4

/-- The target grants the executing slot a read and a write there, its page is not migrating, and nothing it reads is poisoned
(R240, R249). -/
def Grants (s : State) (v : Band) (q : Manner) (va : Word) : Prop :=
  s.denied (locOf s v q va) (keyAt s v q va) (slotField s.cur) true true = false ∧ s.poisonedAt (locOf s v q va) q.n = false ∧
  (q.glob = true → ∀ l, served s v q.acc va = some l → leafMig l.leaf = false)

/-- An atomic that reaches a peer holds its slot until the last grant is there, and takes its sources with its result (R240, R251;
log entry 77); `d` the port entry it reserves. -/
def HoldsAtomic (i : Instr) (s : State) (us : List Use) (size : Nat) (p : Pend) (toPort : Bool) : Prop :=
  ActsIn i s (withAccess { sourced s [] size with evc := s.evc } p) (fun c c' => ∃ c1 c2,
    c1 = (if toPort then { c with reserved := c.reserved ++ [⟨some s.nextId, 0, PortVal.none_⟩] } else c) ∧
    Waiting s .atomic c1 c2 ∧ c' = { c2 with late := tookCodes us })

/-- A lane atomic: guard, destination, sources, modifier, address, operand and CAS's new value of each lane. -/
structure AtomForm where
  g    : Option Guard
  d    : VDst
  us   : List Use
  mm   : AtomMod
  addr : State → Nat → Word
  ops  : State → Nat → Word
  news : State → Nat → Word

def atomForm : Instr → Option AtomForm
  | .atom g d a b c mm => some ⟨g, d, xUse 0 a ++ rUse 1 b ++ rUse 2 c, mm, fun s l => xv s a + ((here s).vr b.reg l).bits,
      fun s l => operand mm.wide ((here s).vr c.reg l).bits, fun _ _ => 0⟩
  | .cas g d a b c mm => some ⟨g, d, xUse 0 a ++ rUse 1 b ++ rUses 2 2 c, { mm with op := .cas },
      fun s l => xv s a + ((here s).vr b.reg l).bits, fun s l => operand mm.wide ((here s).vr c.reg l).bits,
      fun s l => operand mm.wide ((here s).vr (c.reg + 1) l).bits⟩
  | _ => none

end Sys2Proof.Claims

/-- R239, R242, R245: LD, LDV, LDB and GLD, whose active lanes' addresses all resolve, open an access with a request for each
active lane (one in all for LDB); the destination awaits it. With no active lane the destination is full at once. R246, R259:
LDS and LDD at an address that resolves open one access, which their register awaits. Completes: ld, ldv, ldb, gld, lds, ldd.
Readings: log entries 8 and 92 (what an earlier access orders). -/
def Obligations.Loads : Prop :=
  (∀ (i : Instr) (f : LoadForm) (v : Band) (s : State), loadForm i = some f → CanIssue s → s.bandOf s.cur = some v →
     let m := lanesOn s f.g
     let q : Manner := ⟨f.glob, .read, false, false, f.mm.width.bytes⟩
     let rs := if f.one then ((actives m).take 1).map (fun l => request s v q l (actives m) (f.addr s l) [] [] [])
       else (actives m).map (fun l => request s v q l [l] (f.addr s l) [] [] [])
     let sc := if f.mm.fmt.isMx then (actives m).map (fun l => (l, (f.part s l).extractLsb' 56 8)) else []
     Ready s f.us (dstCodes f.d) → PortsOk s f.us (southOf f.d .vv) .vv m → (∀ l ∈ actives m, Lands s v q (f.addr s l)) →
     (m = 0 → Acts i s f.us f.size (AwaitsNothing f.d)) ∧
     (m ≠ 0 → ActsIn i s (withAccess (sourced s f.us f.size)
       (opened s f.glob f.mm.scope false f.mm.ordered (.loadV (dstNum f.d) f.mm.fmt sc (f.glob && f.mm.x)) m rs))
       (AwaitsAt f.d s.nextId))) ∧
  (∀ (i : Instr) (f : ReadForm) (v : Band) (s : State), readForm i = some f → CanIssue s → s.bandOf s.cur = some v →
     let q : Manner := ⟨f.glob, .read, false, false, f.n⟩
     Ready s f.us [f.dst] → Lands s v q (f.addr s) →
     ActsIn i s (withAccess (sourced s f.us f.size)
       (opened s f.glob f.scope false f.acq f.op 0 [request s v q 0 [0] (f.addr s) [] [] []])) (Awaits f.dst))

/-- R243, R245, R246, R259: ST, STV, GST, STS and STD at addresses that resolve open an access that carries the low bytes of
each lane's datum; at issue they change no byte of memory and no register, and with no active lane they open nothing.
Completes: st, stv, gst, sts, std. Readings: log entries 8, 92. -/
def Obligations.Stores : Prop :=
  ∀ (i : Instr) (f : StoreForm) (v : Band) (s : State), storeForm i = some f → CanIssue s → s.bandOf s.cur = some v →
    let q : Manner := ⟨f.glob, .write, true, decide (2 ≤ f.n), f.n⟩
    Ready s f.us [] → (∀ l ∈ storeLanes s f, Lands s v q (f.addr s l)) →
    (storeLanes s f = [] → Acts i s f.us f.size (fun c c' => c' = c)) ∧
    (storeLanes s f ≠ [] → ActsIn i s (withAccess (sourced s f.us f.size)
      (opened s f.glob f.scope f.rel false .store (storeMask s f)
        ((storeLanes s f).map (fun l => request s v q l [l] (f.addr s l) (lowBytes f.n (f.data s l)) [] []))))
      (fun c c' => c' = c))

namespace Sys2Proof.Claims

/-- A memory word that resolves addresses at issue: its sources, destinations, the mask and lanes that have an address (a scalar
word's one address is numbered 0), where it delivers, its manner and its addresses. -/
structure Touch where
  us    : List Use
  dsts  : List Nat
  south : Option PortKind
  mask  : State → Mask
  lanes : State → List Nat
  q     : Manner
  addr  : State → Nat → Word

def touchForm (i : Instr) : Option Touch :=
  match loadForm i, storeForm i, readForm i, atomForm i, i with
  | some f, _, _, _, _ => some ⟨f.us, dstCodes f.d, southOf f.d .vv, fun s => lanesOn s f.g, fun s => actives (lanesOn s f.g),
      ⟨f.glob, .read, false, false, f.mm.width.bytes⟩, f.addr⟩
  | _, some f, _, _, _ => some ⟨f.us, [], none, fun s => storeMask s f, fun s => storeLanes s f,
      ⟨f.glob, .write, true, decide (2 ≤ f.n), f.n⟩, f.addr⟩
  | _, _, some f, _, _ => some ⟨f.us, [f.dst], none, fun _ => 0, fun _ => [0], ⟨f.glob, .read, false, false, f.n⟩,
      fun s _ => f.addr s⟩
  | _, _, _, some f, _ => some ⟨f.us, dstCodes f.d, southOf f.d .vv, fun s => lanesOn s f.g, fun s => actives (lanesOn s f.g),
      ⟨f.mm.glob, .write, false, false, atomWidth f.mm⟩, f.addr⟩
  | _, _, _, _, .atoms d a b c mm => some ⟨xUse 0 a ++ opUse b ++ xUse 2 c, [codeX d], none, fun _ => 0, fun _ => [0],
      ⟨true, .write, false, false, atomWidth mm⟩, fun s _ => xv s a⟩
  | _, _, _, _, _ => none

/-- The word has passed its waits, and its addresses are aligned (R238, R240). -/
def Reaches (f : Touch) (s : State) : Prop :=
  Ready s f.us f.dsts ∧ PortsOk s f.us f.south .vv (f.mask s) ∧ ∀ l ∈ f.lanes s, (f.addr s l).toNat % f.q.n = 0

/-- A global address is served, a local one lies in the allotment (R204, R219). -/
def Found (f : Touch) (s : State) (v : Band) (l : Nat) : Prop :=
  if f.q.glob then (served s v f.q.acc (f.addr s l)).isSome = true
  else 65536 * v.chunk0 ≤ (f.addr s l).toNat ∧ (f.addr s l).toNat + f.q.n ≤ 65536 * v.chunk0 + 65536 * v.chunks

/-- The kind of the chunk or page an address lies in (R206). -/
def kindOf (f : Touch) (s : State) (v : Band) (l : Nat) : Nat :=
  if f.q.glob then ((served s v f.q.acc (f.addr s l)).map (fun e => s.kindAt e (leafLoc e (f.addr s l)))).getD 0
  else s.chunkAt (slotField s.cur) (f.addr s l).toNat

/-- The trap of Table 9.1: a write of less than whole words of a lattice chunk is a part of it, any other access to a compressed or
lattice chunk COMPRESSED. -/
def kindCause (q : Manner) (kind : Nat) : Option Cause :=
  if kind = 1 then some .compressed
  else if kind = 2 then (if q.write = false then some .compressed else if q.half = false then some .latticepart else none)
  else none

end Sys2Proof.Claims

/-- R238, R240: a lane load, lane store or scalar access with a misaligned address traps MISALIGN, with the set of its
offending lanes in TRAPINFO (a scalar one, with its address). R220: a memory word with a page that its TLB does not serve waits
for the walks of its pages and does nothing else. R204, R240, Table 9.1: an aligned local address outside the allotment traps
DENIED, and an address in a chunk or page of a kind that does not take the access COMPRESSED or LATTICEPART, with the address
of the lowest such lane; R240, R249: an atomic whose target denies it or whose words are poisoned traps DENIED or POISON.
Readings: log entries 68, 77, 89 (XBLD). -/
def Obligations.MisalignedAccessTraps : Prop :=
  (∀ (i : Instr) (f : LoadForm) (s : State), loadForm i = some f → InRow s .misalign →
    let m := lanesOn s f.g
    Ready s f.us (dstCodes f.d) → PortsOk s f.us (southOf f.d .vv) .vv m →
    ∀ w : Word, w ≠ 0 →
      (∀ l, l < 64 → (w.getLsbD l = true ↔ m.getLsbD l = true ∧ (f.addr s l).toNat % f.mm.width.bytes ≠ 0)) →
      Traps i s .misalign w (here s).pc) ∧
  (∀ (i : Instr) (f : StoreForm) (g : Option Guard) (s : State), storeForm i = some f → f.lanes = some g → InRow s .misalign →
    Ready s f.us [] → ∀ w : Word, w ≠ 0 →
      (∀ l, l < 64 → (w.getLsbD l = true ↔ (lanesOn s g).getLsbD l = true ∧ (f.addr s l).toNat % f.n ≠ 0)) →
      Traps i s .misalign w (here s).pc) ∧
  (∀ (i : Instr) (f : StoreForm) (s : State), storeForm i = some f → f.lanes = none → InRow s .misalign → Ready s f.us [] →
    (f.addr s 0).toNat % f.n ≠ 0 → Traps i s .misalign (f.addr s 0) (here s).pc) ∧
  (∀ (i : Instr) (f : ReadForm) (s : State), readForm i = some f → InRow s .misalign → Ready s f.us [f.dst] →
    (f.addr s).toNat % f.n ≠ 0 → Traps i s .misalign (f.addr s) (here s).pc) ∧
  (∀ (i : Instr) (f : Touch) (v : Band) (s : State), touchForm i = some f → CanIssue s → s.bandOf s.cur = some v → Reaches f s →
    f.q.glob = true → (∃ l ∈ f.lanes s, ¬ Found f s v l) →
    ∃ t vas, exec i s = .next t ∧ t.slot s.cur = { took s with wait := .walk vas f.q.acc } ∧ t.pend = s.pend ∧
      (∀ k, k ≠ s.cur → t.slot k = s.slot k) ∧ (∀ loc, t.byte loc = s.byte loc) ∧
      (∀ x ∈ vas, ∃ l ∈ f.lanes s, f.addr s l = x ∧ ¬ Found f s v l) ∧
      ∀ l ∈ f.lanes s, ¬ Found f s v l → ∃ x ∈ vas, x.toNat / 65536 = (f.addr s l).toNat / 65536) ∧
  (∀ (i : Instr) (f : Touch) (v : Band) (l : Nat) (s : State), touchForm i = some f → InRow s .denied → s.bandOf s.cur = some v →
    Reaches f s → f.q.glob = false → l ∈ f.lanes s → ¬ Found f s v l → (∀ j ∈ f.lanes s, j < l → Found f s v j) →
    Traps i s .denied (f.addr s l) (here s).pc) ∧
  (∀ (i : Instr) (f : Touch) (v : Band) (l : Nat) (c : Cause) (s : State), touchForm i = some f → InRow s c → s.bandOf s.cur = some v →
    Reaches f s → (∀ j ∈ f.lanes s, Found f s v j) → l ∈ f.lanes s → kindCause f.q (kindOf f s v l) = some c →
    (∀ j ∈ f.lanes s, j < l → kindCause f.q (kindOf f s v j) = none) → Traps i s c (f.addr s l) (here s).pc) ∧
  ∀ (i : Instr) (g : AtomForm) (f : Touch) (v : Band) (l : Nat) (s : State), atomForm i = some g → touchForm i = some f →
    s.bandOf s.cur = some v → Reaches f s → (∀ j ∈ f.lanes s, Found f s v j ∧ kindCause f.q (kindOf f s v j) = none) → l ∈ f.lanes s →
    (∀ p ∈ s.pend, p.slot ≠ s.cur ∧ p.marks = []) →
    let den (j : Nat) : Bool := s.denied (locOf s v f.q (f.addr s j)) (keyAt s v f.q (f.addr s j)) (slotField s.cur) true true
    let poi (j : Nat) : Bool := s.poisonedAt (locOf s v f.q (f.addr s j)) f.q.n
    (InRow s .denied → den l = true → (∀ j ∈ f.lanes s, j < l → den j = false) → Traps i s .denied (f.addr s l) (here s).pc) ∧
    (InRow s .poison → (∀ j ∈ f.lanes s, den j = false ∧ ∀ e, served s v .write (f.addr s j) = some e → leafMig e.leaf = false) →
      poi l = true → (∀ j ∈ f.lanes s, j < l → poi j = false) → Traps i s .poison (f.addr s l) (here s).pc)

/-- R248, R249, R251: ATOM, CAS and ATOMS at granted addresses, with no earlier access of the slot before them, open one access
with a request for each distinct address; their destination awaits it, or, where a peer is reached, the slot waits at its word
(log entry 77). RED opens one that no register awaits and whose grants are judged when it is performed. Completes: atom, cas,
atoms, red. Readings: log entries 68, 77. -/
def Obligations.Atomics : Prop :=
  (∀ (i : Instr) (f : AtomForm) (v : Band) (s : State), atomForm i = some f → CanIssue s → s.bandOf s.cur = some v →
    let m := lanesOn s f.g
    let q : Manner := ⟨f.mm.glob, .write, false, false, atomWidth f.mm⟩
    let rs := (leaders m (f.addr s)).map (fun l =>
      let t := sharers m (f.addr s) l
      request s v q l t (f.addr s l) [] (t.map (f.ops s)) (t.map (f.news s)))
    Ready s f.us (dstCodes f.d) → PortsOk s f.us (southOf f.d .vv) .vv m →
    (∀ l ∈ actives m, Lands s v q (f.addr s l) ∧ Grants s v q (f.addr s l)) →
    let p := opened s f.mm.glob f.mm.scope f.mm.acqrel f.mm.acqrel
      (.atomV (dstNum f.d) f.mm.op f.mm.f f.mm.un f.mm.wide (decide (f.mm.op = .cas))) m rs
    (m = 0 → Acts i s f.us 8 (AwaitsNothing f.d)) ∧
    (m ≠ 0 → Unblocked s p rs →
      ((∀ r ∈ rs, spaceOf r.loc ≠ .peer) → ActsIn i s (withAccess (sourced s f.us 8) { p with granted := true }) (AwaitsAt f.d s.nextId)) ∧
      ((∃ r ∈ rs, spaceOf r.loc = .peer) → HoldsAtomic i s f.us 8 p (decide (f.d = .s))))) ∧
  (∀ (d : Fin 32) (a : XSrc) (b : XOp) (c : XSrc) (mm : AtomMod) (v : Band) (s : State), CanIssue s → s.bandOf s.cur = some v →
    let us := xUse 0 a ++ opUse b ++ xUse 2 c
    let q : Manner := ⟨true, .write, false, false, atomWidth mm⟩
    let r := request s v q 0 [0] (xv s a) [] [operand mm.wide (ov s b)] [operand mm.wide (xv s c)]
    let p := opened s true mm.scope mm.acqrel mm.acqrel (.atomX d mm.op mm.f mm.un mm.wide) 0 [r]
    Ready s us [codeX d] → Lands s v q (xv s a) → Grants s v q (xv s a) → Unblocked s p [r] →
    (spaceOf r.loc ≠ .peer → ActsIn (.atoms d a b c mm) s (withAccess (sourced s us (opSize b)) { p with granted := true })
      (Awaits (codeX d))) ∧
    (spaceOf r.loc = .peer → HoldsAtomic (.atoms d a b c mm) s us (opSize b) p false)) ∧
  ∀ (g : Option Guard) (a : XSrc) (b c : RSrc) (mm : AtomMod) (v : Band) (s : State), CanIssue s → s.bandOf s.cur = some v →
    let us := xUse 0 a ++ rUse 1 b ++ rUse 2 c
    let m := lanesOn s g
    let addr (l : Nat) := xv s a + ((here s).vr b.reg l).bits
    let q : Manner := ⟨mm.glob, .write, false, false, atomWidth mm⟩
    let bits : BitVec 6 := BitVec.ofNat 6 (mm.op.code.toNat * 8 + (if mm.f then 4 else 0) + (if mm.un then 2 else 0) +
      if mm.glob then 1 else 0)
    Ready s us [] → (∀ l ∈ actives m, Lands s v q (addr l)) →
    (m = 0 → Acts (.red g a b c mm) s us 8 (fun c c' => c' = c)) ∧
    (m ≠ 0 → ActsIn (.red g a b c mm) s (withAccess (sourced s us 8)
      (opened s mm.glob mm.scope mm.acqrel false (.red mm.op mm.f mm.un mm.wide bits) m
        ((leaders m addr).zipIdx.map (fun p =>
          let t := sharers m addr p.1
          request s v q p.2 t (addr p.1) [] (t.map (fun l => operand mm.wide ((here s).vr c.reg l).bits)) []))))
      (fun c c' => c' = c))

/-! ### Fences, prefetch, stationary registers and patterns -/

namespace Sys2Proof.Claims

/-- FENCE names every path, FENCEX its own set (R252). -/
def fenceForm : Instr → Option (Scope × FenceKind × BitVec 7)
  | .fence sc k => some (sc, k, 0x7F)
  | .fencex sc k ps => some (sc, k, ps)
  | _ => none

/-- An access of the executing slot that a synchronisation of a scope orders: below pod, not one to peer memory alone (R284). -/
def Ordered (s : State) (sc : Scope) (p : Pend) : Prop := p.slot = s.cur ∧ (6 ≤ sc.code.toNat ∨ ∃ r ∈ p.reqs, spaceOf r.loc ≠ .peer)

/-- What a fence waits for is done: REDs; for a release, the earlier work on the paths it names that it waits for in every scope,
and at the package and beyond the earlier accesses it covers; for an acquire, the earlier reads (R252, R253). -/
def FenceOpen (s : State) (sc : Scope) (k : FenceKind) (ps : BitVec 7) : Prop :=
  (∀ p ∈ s.pend, p.slot = s.cur → isRed p.op = false) ∧
  (k ≠ .acq → ¬ WorkLeft s ps ∧ (4 ≤ sc.code.toNat → ∀ p ∈ s.pend, ¬ Covers s sc ps p)) ∧
  (k ≠ .rel → ∀ p ∈ s.pend, Ordered s sc p → p.op = .store)

/-- A fence completes: its slot only goes on, and with a release in a scope narrower than the package the accesses it covers count
as performed there. -/
def FenceDone (i : Instr) (s : State) (sc : Scope) (k : FenceKind) (ps : BitVec 7) : Prop :=
  ∃ u, (k ≠ .acq → sc.code.toNat < 4 → ReleasedIn (sourced s [] 8) sc ps u) ∧
    (k = .acq ∨ 4 ≤ sc.code.toNat → u = sourced s [] 8) ∧ ActsIn i s u (fun c c' => c' = c)

/-- The addresses of a WLD in a lane: the data block, and under SP the metadata block (R190, R191). -/
def wldAddr (s : State) (a : XSrc) (b : XOp) (l : Nat) : Word := xv s a + BitVec.ofNat 64 l * ov s b
def wldMeta (s : State) (a : XSrc) (b : XOp) (l : Nat) : Word := xv s a + 64 * ov s b + 16 * BitVec.ofNat 64 l

/-- A local block lies aligned in the band's allotment. -/
def InAllotment (v : Band) (a : Word) (n : Nat) : Prop :=
  a.toNat % n = 0 ∧ 65536 * v.chunk0 ≤ a.toNat ∧ a.toNat + n ≤ 65536 * v.chunk0 + 65536 * v.chunks

end Sys2Proof.Claims

/-- R252, R253: FENCE and FENCEX complete, changing nothing of their slot but the PC, once what they wait for is done; until
then they stay at their word and nothing changes. With a fault of a RED to report they trap ASYNCFAULT with FAULTLOG in
TRAPINFO and clear its mark. R254: PREF at a page whose translation the TLB holds writes no register, changes no port, opens no
access and raises no trap; where the page is not migrating no byte outside the line it names changes; at another page it walks,
keeps the leaf it finds in the TLB, and parks nowhere. Completes: fence, fencex, pref. Readings: log entries 8, 53 (a prefetch
is taken), 92. -/
def Obligations.FencesAndPrefetch : Prop :=
  (∀ (i : Instr) (sc : Scope) (k : FenceKind) (ps : BitVec 7) (s : State), fenceForm i = some (sc, k, ps) →
     ((here s).asyncfault = false → CanIssue s →
       (FenceOpen s sc k ps → FenceDone i s sc k ps) ∧ (¬ FenceOpen s sc k ps → exec i s = .next s)) ∧
     ∀ v, s.bandOf s.cur = some v → InRow s .asyncfault → (∀ p ∈ s.pend, p.slot = s.cur → isRed p.op = false) →
       (here s).asyncfault = true → ∃ t, exec i s = .next t ∧
         t.slot s.cur = { took s with
           trapcause := Cause.asyncfault.code.setWidth 64, trappc := (here s).pc
           trapinfo := BitVec.ofNat 64 (s.faultLog v.region), handler := true, asyncfault := false, pc := (here s).tvec
           wait := .none, high := 0, late := [], refills := false } ∧
         (∀ j, j ≠ s.cur → t.slot j = s.slot j) ∧ ∀ loc, t.byte loc = s.byte loc) ∧
  (∀ (a : XSrc) (b : XOp) (v : Band) (l : TlbLeaf) (s : State), CanIssue s → s.bandOf s.cur = some v →
     Ready s (xUse 0 a ++ opUse b) [] → served s v .read (xv s a + ov s b) = some l →
     ∃ t, exec (.pref a b) s = .next t ∧ (∀ k, t.slot k = (sourced s (xUse 0 a ++ opUse b) (opSize b)).slot k) ∧
       t.pend = s.pend ∧ t.cmds = s.cmds ∧ t.msgs = s.msgs ∧ t.fb = s.fb ∧ t.tlb = s.tlb ∧
       (leafMig l.leaf = false → ∀ loc, loc / 256 ≠ leafLoc l (xv s a + ov s b) / 256 → t.byte loc = s.byte loc)) ∧
  (∀ (a : XSrc) (b : XOp) (v : Band) (s : State), CanIssue s → s.bandOf s.cur = some v → Ready s (xUse 0 a ++ opUse b) [] →
     let va := xv s a + ov s b
     served s v .read va = none → s.bankUntil = [] →
     ∃ t, exec (.pref a b) s = .next t ∧ (∀ k, t.slot k = (sourced s (xUse 0 a ++ opUse b) (opSize b)).slot k) ∧
       t.pend = s.pend ∧ t.cmds = s.cmds ∧ t.msgs = s.msgs ∧ t.fb = s.fb ∧
       ∀ e lv, (s.walk v.asid va).1 = .leaf e lv → t.tlbLook (slotField s.cur) v.asid (va.toNat / 65536) = some ⟨e, lv⟩)

/-- R190 to R192, R162: WLD with its blocks aligned and in the allotment opens one access on the WEIGHT path, with one request
for each distinct block, which its register awaits (a sparse one holds the slot at its word, and takes its sources at its end);
XBLD reads its pattern's 64 bytes at issue (log entry 22) and opens the access that will write the pattern. Completes: wld,
xbld. Readings: log entries 22, 60, 89. -/
def Obligations.StationaryAndPatternLoads : Prop :=
  (∀ (g : Option Guard) (d : Fin 4) (a : XSrc) (b : XOp) (fmt : Fmt) (kind : WKind) (v : Band) (s : State), CanIssue s →
    s.bandOf s.cur = some v →
    let us := xUse 0 a ++ opUse b
    let m := lanesOn s g
    let blocks (n base : Nat) (addr : Nat → Word) : List Req := (leaders m addr).zipIdx.map (fun p =>
      request s v ⟨false, .read, false, false, n⟩ (base + p.2) (sharers m addr p.1) (addr p.1) [] [] [])
    Ready s us [codeW d] → (fmt = .raw → m ≠ 0 → BitVec.ofNat 7 (codeW d) ∉ (here s).softErr) →
    (fmt = .raw → ∀ l ∈ actives m, let t := ((here s).wr d l).tag
      match kind with
      | .lat => t = .pl16
      | .dense => t ≠ .pl16
      | .sp => t ≠ .mxe2m1 ∧ t ≠ .pl16) →
    (∀ l ∈ actives m, InAllotment v (wldAddr s a b l) 64 ∧ (kind = .sp → InAllotment v (wldMeta s a b l) 16)) →
    (m = 0 → Acts (.wld g d a b fmt kind) s us (opSize b) (fun c c' => c' = { c with wEmpty := c'.wEmpty } ∧
      ∀ j, j < 0x78 → c'.isEmpty j = (c.isEmpty j && decide (j ≠ codeW d)))) ∧
    let p := { opened s false .row false false (.wld d (if fmt = .raw then none else some fmt) kind m) m
      (blocks 64 0 (wldAddr s a b) ++ if kind = .sp then blocks 16 64 (wldMeta s a b) else []) with path := 1 }
    (m ≠ 0 → kind ≠ .sp → ActsIn (.wld g d a b fmt kind) s (withAccess (sourced s us (opSize b)) p) (Awaits (codeW d))) ∧
    (m ≠ 0 → kind = .sp → ActsIn (.wld g d a b fmt kind) s (withAccess { sourced s [] (opSize b) with evc := s.evc } p)
      (fun c c' => ∃ c1 c2, Awaits (codeW d) c c1 ∧ Waiting s .wldSparse c1 c2 ∧ c' = { c2 with late := tookCodes us }))) ∧
  ∀ (a : XSrc) (i : Fin 16) (v : Band) (s : State), CanIssue s → s.bandOf s.cur = some v →
    let loc := sideLoc (slotField s.cur) (xv s a).toNat
    let bytes := (List.range 64).map (fun j => s.byte (loc + j))
    let p := { opened s false .row false false (.xbld (slotField s.cur) i) 0
      [request s v ⟨false, .read, false, false, 64⟩ 0 [0] (xv s a) bytes [] []] with granted := true }
    Ready s (xUse 0 a) [] → InAllotment v (xv s a) 64 →
    Unblocked s p p.reqs → s.denied loc 0 (slotField s.cur) true false = false → s.poisonedAt loc 64 = false →
    (∀ b ∈ bytes, b.toNat < 64 ∨ b = 255) →
    ActsIn (.xbld a i) s (withAccess ((sourced s (xUse 0 a) 8).evField (slotField s.cur) 0x0A 0) p) (fun c c' => c' = c)

/-! ## Accesses performed (spec/10, spec/11, spec/16) -/

namespace Sys2Proof.Claims

/-- A request in plain memory: within one 256-byte line, its page not migrating, and, in HBM, its line held and stored in plaintext
(key slot 0), so that its bytes are those of memory (R210, R223, R230). -/
def PlainAt (s : State) (r : Req) : Prop :=
  r.mig = false ∧ r.loc % 256 + r.len ≤ 256 ∧
  (2 ^ 40 ≤ r.loc ∨ r.key = 0 ∧ Tab.get 0 s.lineKey (r.loc / 256) = 0 ∧ ∀ h, Tab.get none s.halo (r.loc / 256) = some h → h.slot = 0)

/-- The grant phase of an access finds no fault: it has ended, or no request is denied or reads poison (R240). -/
def GrantsAll (s : State) (p : Pend) : Prop :=
  p.granted = true ∨ ∀ r ∈ p.reqs, s.denied r.loc r.key (slotField p.slot) (decide (p.op ≠ .store)) (writesTo p.op) = false ∧
    (p.op ≠ .store → r.mig = false ∧ s.poisonedAt r.loc r.len = false)

/-- No older request of a path of equal length that could be served has the bank of side memory first (R203), and no older urgent
read the quadrant of an urgent one (R226). -/
def NoOlder (s : State) (p : Pend) (rs : List Req) : Prop :=
  (p.urgent = true → ∀ q ∈ s.pend, q.order < p.order → q.urgent = false) ∧
  (p.path ≤ 1 → ∀ q ∈ s.pend, q.path ≤ 1 → q.order < p.order → (∀ f k, q.op ≠ .xbld f k) → (∀ a ∈ q.reqs, a.parked = false) →
    Unblocked s q q.reqs → ∀ a ∈ q.reqs, ∀ r ∈ rs, ∀ f g, spaceOf a.loc = .side f → spaceOf r.loc = .side g →
    f ≠ g ∨ a.loc / 64 % 32 ≠ r.loc / 64 % 32)

/-- The requests `rs` of an outstanding access may be performed: no earlier access of its slot stands before them (R277, R278), its
grants find no fault (R240), no older one is served first, and its band is not being killed (R391). -/
def Clear (s : State) (p : Pend) (rs : List Req) : Prop :=
  Live s ∧ Unblocked s p rs ∧ GrantsAll s p ∧ NoOlder s p rs ∧ ∃ v, s.band? p.band = some v ∧ v.status ≠ .killing

/-- No request meets an unavailable bank or a bank that others wait for (R228). -/
def NoBackOff (s : State) (p : Pend) (rs : List Req) : Prop :=
  ∀ r ∈ rs, 2 ^ 40 ≤ r.loc ∨ (s.bankBusy r.loc = false ∧ ∀ b ∈ s.backoff, b.1 = bankKey r.loc → b.2 = .req p.id r.k)

/-- The registers that the slot's waiting word takes are empty. -/
def TookLate (c c1 : Slot) : Prop :=
  c1 = { c with
    late := [], xEmpty := c1.xEmpty, vEmpty := c1.vEmpty, aEmpty := c1.aEmpty, wEmpty := c1.wEmpty, dEmpty := c1.dEmpty } ∧
  ∀ code, code < 0x78 → c1.isEmpty code = (c.isEmpty code || (hasBit code && decide (code ∈ c.late)))

/-- The slot's waiting word takes its sources and the slot goes on behind it (R70). -/
def GoesOn (c c' : Slot) : Prop := ∃ c1, TookLate c c1 ∧ c' = { goesTo c1 c.npc with wait := .none }

/-- The same, with the word's result in an x register. -/
def GoesOnWith (d : Nat) (w : Word) (c c' : Slot) : Prop :=
  ∃ c1 c2, TookLate c c1 ∧ WroteX (Fin.ofNat 32 d) w c1 c2 ∧ c' = { goesTo c2 c.npc with wait := .none }

/-- Only the slot `k` changes, as `P` says, and no byte of memory. -/
def OnlySlot (s t : State) (k : Nat) (P : Slot → Slot → Prop) : Prop :=
  (∀ j, j ≠ k → t.slot j = s.slot j) ∧ t.bands = s.bands ∧ (∀ loc, t.byte loc = s.byte loc) ∧ P (s.slot k) (t.slot k)

/-- A register takes its long-latency result: full, nothing pending; other registers keep their bits. -/
def Filled (code : Nat) (c c' : Slot) : Prop :=
  ∀ i, i < 0x78 → c'.isEmpty i = (c.isEmpty i && decide (i ≠ code)) ∧ c'.isPend i = (c.isPend i && decide (i ≠ code))

/-- A v register takes values in the lanes of a mask. -/
def FilledV (d : Nat) (m : Mask) (val : Nat → LaneReg) (c c' : Slot) : Prop :=
  c' = { c with v := c'.v, vEmpty := c'.vEmpty, vPend := c'.vPend, softErr := c'.softErr } ∧ Filled (codeV d) c c' ∧
  ∀ i l, i < 64 → l < 64 → c'.vr i l = if i = d ∧ m.getLsbD l = true then val l else c.vr i l

/-- An x register takes a value; x0 discards it. -/
def FilledX (d : Nat) (w : Word) (c c' : Slot) : Prop :=
  c' = { c with x := c'.x, xEmpty := c'.xEmpty, xPend := c'.xPend, softErr := c'.softErr } ∧ Filled (codeX d) c c' ∧
  ∀ i, i < 32 → c'.xr i = if i = d ∧ d ≠ 0 then w else c.xr i

/-- A d register takes a value. -/
def FilledD (d : Nat) (w : Desc) (c c' : Slot) : Prop :=
  c' = { c with d := c'.d, dEmpty := c'.dEmpty, dPend := c'.dPend, softErr := c'.softErr } ∧ Filled (codeD d) c c' ∧
  ∀ i, i < 8 → c'.dr i = if i = d then w else c.dr i

/-- A reserved entry of the south port takes its value (R184). -/
def FilledPort (id : Nat) (m : Mask) (val : Nat → LaneReg) (c c' : Slot) : Prop :=
  ∃ w : PortVal, w.rel = false ∧ w.bad = false ∧ w.body.kind = .vv ∧
    (∀ l, l < 64 → w.lane l = if m.getLsbD l then val l else LaneReg.zero) ∧
    c' = { c with reserved := c.reserved.map (fun r => if r.await = some id then ⟨none, 0, w⟩ else r) }

/-- A v destination of an access: a register below 64, the south port at 64. -/
def FilledTo (d id : Nat) (m : Mask) (val : BitVec 8 → Nat → LaneReg) (c c' : Slot) : Prop :=
  if d < 64 then FilledV d m (fun l => val (c.vr d l).scale l) c c' else FilledPort id m (val 127) c c'

/-- The request of an access that serves a lane. -/
def serving (rs : List Req) (l : Nat) : Option Req := rs.find? (fun r => r.lanes.contains l)

/-- What a load reads for a lane. -/
def laneNumber (s : State) (rs : List Req) (l : Nat) : Nat := ((serving rs l).map (fun r => numberAt s r.loc r.len)).getD 0

/-- What the first request of a scalar read reads. -/
def firstNumber (s : State) (rs : List Req) : Nat := (rs.head?.map (fun r => numberAt s r.loc r.len)).getD 0

/-- Two lists of accesses are the same but for the marks that an ordering in a scope narrower than the package sets on earlier
ones, and altogether where no access has such an ordering (R275; log entry 92). -/
def SameAccesses (s : State) (xs ys : List Pend) : Prop :=
  xs.map (fun q => { q with marks := [] }) = ys.map (fun q => { q with marks := [] }) ∧
  ((∀ q ∈ s.pend, 4 ≤ q.scope.code.toNat ∨ q.rel = false ∧ q.acq = false) → xs = ys)

/-- The access is gone from the outstanding ones. -/
def Gone (s t : State) (id : Nat) : Prop := SameAccesses s t.pend (s.pend.filter (fun q => q.id ≠ id))

/-! ### Values of atomics (R250) -/

/-- The reading of an operand as signed or unsigned. -/
def asInt (w : Nat) (un : Bool) (n : Nat) : Int :=
  if un ∨ n % 2 ^ w < 2 ^ (w - 1) then (n % 2 ^ w : Nat) else ((n % 2 ^ w : Nat) : Int) - 2 ^ w

/-- One integer operation of an atomic on `w` bits. -/
def atomOp (op : AtomOp) (un : Bool) (w a b : Nat) : Nat :=
  match op with
  | .add => (a + b) % 2 ^ w
  | .min => if asInt w un b < asInt w un a then b else a
  | .max => if asInt w un a < asInt w un b then b else a
  | .and => a &&& b
  | .or => a ||| b
  | .xor => a ^^^ b
  | .xchg | .cas => b

/-- The value of memory after the operands of some lanes, in lane order. -/
def folded (op : AtomOp) (f un wide : Bool) (m : Nat) (ops : List Nat) : Nat :=
  if f then atomFloatFold op m ops else ops.foldl (atomOp op un (if wide then 64 else 32)) m

/-- CAS after some lanes: the new value where the compare value was met. -/
def swapped (m : Nat) (ps : List (Nat × Nat)) : Nat := ps.foldl (fun m p => if m = p.1 then p.2 else m) m

/-- Memory after the first `n` lanes of a request: the value the next lane sees. -/
def seenBy (op : AtomOp) (f un wide : Bool) (m : Nat) (ops news : List Nat) (n : Nat) : Nat :=
  if op = .cas then swapped m ((ops.zip news).take n) else if n = 0 then m else folded op f un wide m (ops.take n)

/-- The fault that the grant phase of an access finds first, and the request of its lowest offending lane: a denial before poison
(R240, R385). -/
def Offends (s : State) (p : Pend) (c : Cause) (r : Req) : Prop :=
  let den (q : Req) : Bool := s.denied q.loc q.key (slotField p.slot) (decide (p.op ≠ .store)) (writesTo p.op)
  let poi (q : Req) : Bool := decide (p.op ≠ .store) && s.poisonedAt q.loc q.len
  let first (f : Req → Bool) : Prop := r ∈ p.reqs ∧ f r = true ∧ ∀ q ∈ p.reqs, q ≠ r → f q = true → r.lanes.headD 0 < q.lanes.headD 0
  p.granted = false ∧ (∀ q ∈ p.reqs, q.mig = false) ∧
    (c = .denied ∧ first den ∨ c = .poison ∧ (∀ q ∈ p.reqs, den q = false) ∧ first poi)

/-- An agent's place in its die's fault buffer (R221, Table 13.8): it joins the entry of its page, address space and kind; without
one it takes the lowest free entry, if it is its turn; else it waits behind the others. -/
def InBuffer (s t : State) (turn : Prop) (waiting : List FbWaiter) (w : FbWaiter) : Prop :=
  let entry (i : Nat) := Tab.get none s.fb (256 * w.die + i)
  let same (e : FbEntry) : Prop := e.asid = w.asid ∧ e.va.toNat / 65536 = w.va.toNat / 65536 ∧ e.kind = w.kind
  let holds (i : Nat) (e : FbEntry) : Prop := ∀ x, Tab.get none t.fb x = if x = 256 * w.die + i then some e else Tab.get none s.fb x
  let code := match w.agent with
    | .slot _ => 0 | .copy _ => 1 | .stream _ _ => 2 | .red _ _ => 3 | .coll _ => 4
  let alone : Prop := ∀ i e, i < 256 → entry i = some e → ¬ same e
  (∀ i e, i < 256 → entry i = some e → same e → (∀ j e', j < 256 → entry j = some e' → same e' → j = i) →
    holds i { e with joined := min (e.joined + 1) 65535, joiners := e.joiners ++ [w.agent] } ∧ t.fbWait = waiting) ∧
  (∀ i, i < 256 → alone → turn → entry i = none → (∀ j, j < i → entry j ≠ none) →
    holds i ⟨w.va, w.asid, w.kind, w.reason, code, 1, w.field, s.time, [w.agent]⟩ ∧ t.fbWait = waiting) ∧
  (alone → (¬ turn ∨ ∀ i, i < 256 → entry i ≠ none) → t.fb = s.fb ∧ t.fbWait = waiting ++ [w])

/-- The register that a scalar load or atomic fills, as a word of its own or as half H1 of a pair (R76, R120). -/
def fills : Instr → Option Nat
  | .lds d .. | .atoms d .. | .pairWord _ (.lds d ..) => if d = 0 then none else some (codeX d)
  | .ldd d .. => some (codeD d)
  | _ => none

/-- The operation of an atomic or reduction. -/
def atomicOf : PendOp → Option (AtomOp × Bool × Bool × Bool)
  | .atomV _ o f un wide _ | .atomX _ o f un wide | .red o f un wide _ => some (o, f, un, wide)
  | _ => none

/-- The old values a request collects, by lane, after those of earlier requests. -/
def oldValues (s : State) (p : Pend) (r : Req) (o : AtomOp) (f un wide : Bool) : List (Nat × Word) :=
  p.old ++ r.lanes.zipIdx.map (fun q =>
    (q.1, BitVec.ofNat 64 (seenBy o f un wide (numberAt s r.loc r.len) (r.ops.map BitVec.toNat) (r.news.map BitVec.toNat) q.2)))

/-- The bytes at a request hold a number; every other byte is as before. -/
def Stored (s t : State) (r : Req) (bytes : List Byte) : Prop :=
  ∀ loc, t.byte loc = if r.loc ≤ loc ∧ loc < r.loc + bytes.length then bytes.getD (loc - r.loc) 0 else s.byte loc

/-- What the last request of an atomic delivers (R249). -/
def AtomicDelivers (p : Pend) (old : List (Nat × Word)) (c c' : Slot) : Prop :=
  match p.op with
  | .atomV d _ f _ wide _ =>
    FilledTo d p.id p.mask (fun sc l => ⟨(Tab.find old l).getD 0, if f then .fp32 else if wide then .i64 else .i32, sc⟩) c c'
  | .atomX d _ _ _ _ => FilledX d ((old.head?.map Prod.snd).getD 0) c c'
  | _ => c' = c

end Sys2Proof.Claims

/-- R239, R242, R246, R259, R162: a load that may be performed completes with the bytes of its requests, least significant
first, under its tag and with the block scale it places; LDS extends its value, LDD fills a descriptor, XBLD writes the pattern
it read. No byte of memory changes. R191, R192: a WLD completes in its lanes with their data blocks, their metadata blocks
under SP (none reserved), the new tag, or the old one where it keeps it, and the old scales; a slot that a sparse WLD held goes
on. Completes: loadComplete, lddComplete, wldComplete, xbldComplete. Readings: log entries 8, 9 (all requests in one step), 52,
86 (the unused bits of an ACC48 register), 92. -/
def Obligations.LoadsComplete : Prop :=
  ((∀ (id : Nat) (p : Pend) (s : State), s.findPend id = some p → Clear s p p.reqs →
     (∀ r ∈ p.reqs, PlainAt s r) →
     (∀ d fmt scale dram, p.op = .loadV d fmt scale dram → NoBackOff s p p.reqs →
       ∃ t, exec (.loadComplete id) s = .next t ∧ Gone s t id ∧ OnlySlot s t p.slot (FilledTo d id p.mask (fun sc l =>
         ⟨heldAs fmt (BitVec.ofNat 64 (laneNumber s p.reqs l)), fmt, (Tab.find scale l).getD sc⟩))) ∧
     (∀ d sx w, p.op = .loadX d sx w → d < 32 → NoBackOff s p p.reqs →
       ∃ t, exec (.loadComplete id) s = .next t ∧ Gone s t id ∧ OnlySlot s t p.slot (FilledX d
         (if sx then BitVec.ofInt 64 (asInt (8 * w.bytes) false (firstNumber s p.reqs)) else BitVec.ofNat 64 (firstNumber s p.reqs)))) ∧
     ∀ d, p.op = .ldd d → d < 8 → NoBackOff s p p.reqs →
       ∃ t, exec (.lddComplete id) s = .next t ∧ Gone s t id ∧
         OnlySlot s t p.slot (FilledD d (BitVec.ofNat 512 (firstNumber s p.reqs)))) ∧
   ∀ (id f k : Nat) (p : Pend) (r : Req) (rs : List Req) (s : State), s.findPend id = some p → Live s → p.op = .xbld f k →
     p.reqs = r :: rs → k < 16 → (∀ q ∈ s.pend, q.op = p.op → p.id ≤ q.id) →
     ∃ t, exec (.xbldComplete id) s = .next t ∧ Gone s t id ∧ t.slots = s.slots ∧ t.mem = s.mem ∧
       ∀ g j, j < 16 → t.pattern g j = if g = f ∧ j = k then BitVec.ofNat 512 (ofBytes r.data) else s.pattern g j) ∧
  (∀ (id d : Nat) (fmt : Option Fmt) (kind : WKind) (m : Mask) (p : Pend) (s : State), s.findPend id = some p →
     p.op = .wld d fmt kind m → d < 4 → Clear s p p.reqs → (∀ r ∈ p.reqs, PlainAt s r) → NoBackOff s p p.reqs →
     let block (isMeta : Bool) (l : Nat) := laneNumber s (p.reqs.filter (fun r => decide (64 ≤ r.k) == isMeta)) l
     let tag (l : Nat) := fmt.getD ((s.slot p.slot).wr d l).tag
     (kind = .sp → ∀ l ∈ actives m, metaBad (tag l) (BitVec.ofNat 128 (block true l)) = false) →
     ∃ t, exec (.wldComplete id) s = .next t ∧ Gone s t id ∧ OnlySlot s t p.slot (fun c c' =>
       ∃ c1, (if c.wait = .wldSparse then GoesOn c1 c' else c' = c1) ∧
       c1 = { c with w := c1.w, wEmpty := c1.wEmpty, wPend := c1.wPend, softErr := c1.softErr } ∧ Filled (codeW d) c c1 ∧
       ∀ i l, i < 4 → l < 64 → c1.wr i l = if i = d ∧ m.getLsbD l = true then
         ⟨BitVec.ofNat 512 (block false l), if kind = .sp then BitVec.ofNat 128 (block true l) else 0, decide (kind = .sp), tag l,
           (c.wr d l).scales⟩ else c.wr i l))

/-- R243, R244: a store's request that may be performed, with no lower lane's before it, writes its bytes and no other; it
changes no row slot, and the access is done with its last request. Completes: storePerform. Readings: log entries 8, 92. -/
def Obligations.StoresPerform : Prop :=
  ∀ (id k : Nat) (p : Pend) (r : Req) (s : State), s.findPend id = some p → p.op = .store →
    p.reqs.find? (fun q => q.k = k) = some r → r.data.length = r.len → Clear s p [r] → PlainAt s r → NoBackOff s p [r] →
    (∀ q ∈ p.reqs, q.k < k → q.loc + q.len ≤ r.loc ∨ r.loc + r.len ≤ q.loc) →
    ∃ t, exec (.storePerform id k) s = .next t ∧ Stored s t r r.data ∧ t.slots = s.slots ∧ t.bands = s.bands ∧
      ((∀ q ∈ p.reqs, q.k = k) → Gone s t id) ∧
      ((∃ q ∈ p.reqs, q.k ≠ k) →
        SameAccesses s t.pend
          (s.pend.map (fun q => if q.id = id then { q with reqs := p.reqs.filter (fun q => q.k ≠ k), granted := true } else q)))

/-- R248 to R251: a request of an atomic reads its location, writes there the value after all its lanes' operands, and gives
each lane the value that it saw; with the last request the old values go to the destination. A reduction's request does the
same and delivers nothing. An atomic that has held its slot through its grant phase lets it go on (log entry 77). Completes:
atomicComplete, redRequestPerform. Readings: log entries 8, 77, 92. -/
def Obligations.AtomicsPerform : Prop :=
  (∀ (id k : Nat) (p : Pend) (r : Req) (o : AtomOp) (f un wide : Bool) (s : State), s.findPend id = some p →
    atomicOf p.op = some (o, f, un, wide) → p.reqs.find? (fun q => q.k = k) = some r → r.len = (if wide then 8 else 4) →
    r.lanes.length = r.ops.length → r.ops.length = r.news.length ∨ o ≠ .cas → r.ops ≠ [] → (isRed p.op = true → o ≠ .cas) →
    PlainAt s r → NoBackOff s p [r] →
    (∀ d x1 x2 x3 x4, p.op = .atomX d x1 x2 x3 x4 → d < 32) →
    let old := oldValues s p r o f un wide
    let new := seenBy o f un wide (numberAt s r.loc r.len) (r.ops.map BitVec.toNat) (r.news.map BitVec.toNat) r.ops.length
    let last := ∀ q ∈ p.reqs, q.k = k
    let event := if isRed p.op then Instr.redRequestPerform id k else .atomicComplete id k
    Live s → Unblocked s p [r] →
    (if isRed p.op then (∀ q ∈ p.reqs, q.parked = false) ∧ r.bad = none ∧
        s.denied r.loc r.key (slotField p.slot) true true = false ∧ s.poisonedAt r.loc r.len = false
      else p.granted = true ∧ ∃ v, s.band? p.band = some v ∧ v.status ≠ .killing) → NoOlder s p [r] →
    ∃ t, exec event s = .next t ∧ Stored s t r (lowBytes r.len new) ∧ t.bands = s.bands ∧
      (last → Gone s t id ∧ (∀ j, j ≠ p.slot → t.slot j = s.slot j) ∧ AtomicDelivers p old (s.slot p.slot) (t.slot p.slot)) ∧
      (¬ last → t.slots = s.slots ∧ SameAccesses s t.pend (s.pend.map (fun q => if q.id = id then
        { q with
          reqs := p.reqs.filter (fun q => q.k ≠ k), granted := true
          old := if isRed p.op then q.old else old } else q)))) ∧
  ∀ (id k : Nat) (p : Pend) (r : Req) (o : AtomOp) (f un wide : Bool) (s : State), s.findPend id = some p →
    atomicOf p.op = some (o, f, un, wide) → isRed p.op = false → p.reqs = [r] → r.k = k → r.len = (if wide then 8 else 4) →
    r.lanes.length = r.ops.length → (r.ops.length = r.news.length ∨ o ≠ .cas) → r.ops ≠ [] → p.granted = false → p.old = [] →
    (s.slot p.slot).wait = .atomic → PlainAt s r → NoBackOff s p [r] → Clear s p [r] →
    (∀ d x1 x2 x3 x4, p.op = .atomX d x1 x2 x3 x4 → d < 32) →
    let new := seenBy o f un wide (numberAt s r.loc r.len) (r.ops.map BitVec.toNat) (r.news.map BitVec.toNat) r.ops.length
    ∃ t c1, exec (.atomicComplete id k) s = .next t ∧ Stored s t r (lowBytes r.len new) ∧ t.bands = s.bands ∧ Gone s t id ∧
      (∀ j, j ≠ p.slot → t.slot j = s.slot j) ∧ GoesOn (s.slot p.slot) c1 ∧
      AtomicDelivers p (oldValues s p r o f un wide) c1 (t.slot p.slot)

/-- R240, R251, R339, R385, R391: a fault in a load's or store's grant phase abandons it, fills its destination with its prior
contents and is deferred in its slot; an atomic that has held its slot traps at its instruction; a request of a RED that faults
is logged, the log's counts move on, and the slot is marked; a killed band whose work has ended leaves its rows empty.
Completes: deferredFaultFound, killComplete. Readings: log entries 30, 52 (no value for a deferred fault), 53, 58, 66, 71. -/
def Obligations.FaultsFound : Prop :=
  (∀ (id : Nat) (p : Pend) (c : Cause) (r : Req) (v : Band) (s : State), s.findPend id = some p → Offends s p c r → Live s →
    atomicOf p.op = none → (s.slot p.slot).wait ≠ .wldSparse → Unblocked s p p.reqs → s.band? p.band = some v → v.status ≠ .killing →
    (s.slot p.slot).exited = false → (s.slot p.slot).deferred = none →
    ∃ t, exec (.deferredFaultFound id) s = .next t ∧ Gone s t id ∧ (∀ j, j ≠ p.slot → t.slot j = s.slot j) ∧
      (∀ loc, t.byte loc = s.byte loc) ∧ (t.slot p.slot).deferred = some (c, r.va) ∧
      (∀ code, pendDst p.op = some code → Filled code (s.slot p.slot) (t.slot p.slot)) ∧
      (t.slot p.slot).x = (s.slot p.slot).x ∧ (t.slot p.slot).v = (s.slot p.slot).v ∧ (t.slot p.slot).d = (s.slot p.slot).d ∧
      (t.slot p.slot).w = (s.slot p.slot).w) ∧
  (∀ (id : Nat) (p : Pend) (c : Cause) (r : Req) (s : State), s.findPend id = some p → Offends s p c r → Live s →
    (atomicOf p.op).isSome = true → isRed p.op = false → Unblocked s p p.reqs → InRow { s with cur := p.slot } c →
    ∃ t, exec (.deferredFaultFound id) s = .next t ∧ Gone s t id ∧ (∀ j, j ≠ p.slot → t.slot j = s.slot j) ∧
      (∀ loc, t.byte loc = s.byte loc) ∧ t.slot p.slot = { s.slot p.slot with
        trapcause := c.code.setWidth 64, trappc := (s.slot p.slot).pc, trapinfo := r.va, handler := true
        pc := (s.slot p.slot).tvec, high := 0, wait := .none, late := [], refills := false
        reserved := (s.slot p.slot).reserved.filter (fun e => e.await ≠ some id) }) ∧
  (∀ (id k : Nat) (p : Pend) (r : Req) (c : Cause) (o : AtomOp) (f un wide : Bool) (bits : BitVec 6) (v : Band) (s : State),
    s.findPend id = some p → p.op = .red o f un wide bits → Live s → p.reqs.find? (fun q => q.k = k) = some r →
    (∀ q ∈ p.reqs, q.parked = false) → Unblocked s p [r] → s.band? p.band = some v → r.mig = false →
    (let no := s.denied r.loc r.key (slotField p.slot) true true
     r.bad = some c ∨ r.bad = none ∧ (no = true ∧ c = .denied ∨ no = false ∧ s.poisonedAt r.loc r.len = true ∧ c = .poison)) →
    let owner := s.logOwner v.region
    let n := s.logOf owner
    let operand := match r.ops with
      | [] => 0
      | [w] => w.toNat
      | w :: ws => folded o f un wide w.toNat (ws.map BitVec.toNat)
    let record := lowBytes 8 r.va.toNat ++ lowBytes 8 (bits.toNat + c.code.toNat * 2 ^ 8 + r.len * 2 ^ 16 + r.lanes.headD 0 * 2 ^ 24 +
      slotRow p.slot * 2 ^ 32 + slotAB p.slot * 2 ^ 48) ++ lowBytes 8 operand ++ lowBytes 8 p.band
    let left := p.reqs.filter (fun q => q.k ≠ k)
    let rest := if left = [] then s.pend.filter (fun q => q.id ≠ id)
      else s.pend.map (fun q => if q.id = id then { q with reqs := left, granted := true } else q)
    let u := { s with pend := rest }
    ∃ t, exec (.redRequestPerform id k) s = .next t ∧ t.mem = (u.logFault v.region record).mem ∧
      (∀ x, t.logOf x = if x = owner then (if n.written - n.drained < regLogCap (s.region owner) then { n with written := n.written + 1 }
        else { n with lost := n.lost + 1 }) else s.logOf x) ∧ t.slot p.slot = { s.slot p.slot with asyncfault := true } ∧
      (∀ j, j ≠ p.slot → t.slot j = s.slot j) ∧ ∀ q ∈ t.pend, q.id = id → ∀ x ∈ q.reqs, x.k ≠ k) ∧
  ∀ (b : Nat) (v : Band) (s : State), Live s → s.band? b = some v → v.status = .killing → WorkEnded s b →
    ∃ t, exec (.killComplete b) s = .next t ∧ t.band? b = none ∧ (∀ k ∈ v.slotKeys, t.slot k = Slot.empty) ∧
      (∀ k, k ∉ v.slotKeys → t.slot k = s.slot k) ∧ ∀ c, c ≠ b → t.band? c = s.band? c

/-- R220, R221, R15, R19, R137, Table 13.8: a walk that finds a leaf that permits the access fills the TLB and lets the slot go
on, without a second issue; one that faults parks the slot, which joins an entry of its page, or takes the lowest free one with
its address, ASID, kind, reason, agent and time, or waits for one; an agent that waits takes one in its turn. A port value
arrives; of the entries reserved in a port the first is written once its value is there and its latency has ended, and the
others wait behind it (R16, R184, R201); a WAITC that is met, or whose deadline has passed, completes with its status.
Completes: pageWalkComplete, faultBufferEntryTaken, portValueArrive, portResultWrite, waitcMet, waitcTimeout. Readings: log
entries 49, 50, 52, 60, 87 (a fault on a literal word). -/
def Obligations.SlotEvents : Prop :=
  (∀ (k : Nat) (v : Band) (va : Word) (acc : AccKind) (e : Word) (lv : Nat) (u : State) (s : State), Live s → s.bandOf k = some v →
    s.bankUntil = [] → (s.slot k).wait = .walk [va] acc → s.walk v.asid va = (.leaf e lv, u) → leafRefuses e acc = none →
    ∃ t, exec (.pageWalkComplete k) s = .next t ∧ t.slot k = { s.slot k with wait := .none, selected := true } ∧
      (∀ j, j ≠ k → t.slot j = s.slot j) ∧
      t.tlbLook (slotField k) v.asid (va.toNat / 65536) = some ⟨e, lv⟩) ∧
  (∀ (k : Nat) (v : Band) (va : Word) (acc : AccKind) (why : Nat) (u : State) (s : State), Live s → s.bandOf k = some v →
    s.bankUntil = [] → (s.slot k).wait = .walk [va] acc → s.walk v.asid va = (.fault why, u) → Tab.wf none s.fb = true →
    ∃ t, exec (.pageWalkComplete k) s = .next t ∧ (∀ j, j ≠ k → t.slot j = s.slot j) ∧
      InBuffer s t (∀ q ∈ s.fbWait, q.die ≠ slotRow k / 512) s.fbWait ⟨slotRow k / 512, .slot k, va, v.asid, acc, why, slotField k⟩ ∧
      t.slot k = { s.slot k with wait := .parked va acc, selected := false, heldDst := (t.slot k).heldDst } ∧
      ∀ i code, WordAt s k i → fills i = some code →
        (t.slot k).heldDst = if (s.slot k).isEmpty code then none else some code) ∧
  (∀ (die : Nat) (w : FbWaiter) (rest : List FbWaiter) (s : State), Live s → s.fbWait = w :: rest → w.die = die →
    Tab.wf none s.fb = true → (∃ i, i < 256 ∧ Tab.get none s.fb (256 * die + i) = none) →
    ∃ t, exec (.faultBufferEntryTaken die) s = .next t ∧ t.slots = s.slots ∧ t.mem = s.mem ∧ InBuffer s t True rest w) ∧
  (∀ (k : Nat) (pre post : List PortEntry) (e : PortEntry) (s : State), Live s → (s.slot k).south = pre ++ e :: post →
    (∀ q ∈ pre, q.arrived = true) → e.arrived = false →
    ∃ t, exec (.portValueArrive k) s = .next t ∧ t = { s with slots := t.slots } ∧ (∀ j, j ≠ k → t.slot j = s.slot j) ∧
      t.slot k = { s.slot k with south := pre ++ ⟨e.val, true⟩ :: post }) ∧
  (∀ (k : Nat) (v : Band) (post : List Reserved) (r : Reserved) (s : State), Live s → s.bandOf k = some v →
    (s.slot k).reserved = r :: post →
    (r.await = none ∧ r.left ≤ 0 → ∃ t, exec (.portResultWrite k) s = .next t ∧ (∀ j, j ≠ k → t.slot j = s.slot j) ∧
      if v.rowIndex (slotRow k) + 1 = v.height then
        t.slot k = { s.slot k with reserved := post } ∧ t.bandOf k = some { v with nad := v.nad.accept r.val }
      else t.bands = s.bands ∧ t.slot k = { s.slot k with
        reserved := post, south := (s.slot k).south ++ [⟨r.val, false⟩] }) ∧
    (¬ (r.await = none ∧ r.left ≤ 0) → exec (.portResultWrite k) s = .next s)) ∧
  ∀ (k d : Nat) (v : Band) (cond : Desc) (deadline : Option Nat) (met : Word) (s : State), Live s → d < 32 →
    s.bandOf k = some v → v.status = .running → (s.slot k).wait = .waitc d cond deadline →
    isStatus { s with cur := k } cond met →
    (vectorMet cond met → ∃ t, exec (.waitcMet k) s = .next t ∧ OnlySlot s t k (GoesOnWith d met)) ∧
    (¬ vectorMet cond met → noPoison s cond → (∃ at_, deadline = some at_ ∧ at_ ≤ s.time.toNat) →
      ∃ t, exec (.waitcTimeout k) s = .next t ∧ OnlySlot s t k (GoesOnWith d (met ||| 0x8000000000000000)))

/-! ## Descriptors, copies, side memory and edges (spec/08, spec/10, spec/13) -/

namespace Sys2Proof.Claims

/-- The field of the executing slot. -/
def fieldHere (s : State) : Nat := slotRow s.cur / 64

/-- A command of the executing slot as it enters its field's queue (R264, R320). -/
def queuedCmd (s : State) (kind : CopyKind) (dst : Fin 32) (a b c : Desc) (ctrl : Word) (count : Nat) : CopyCmd :=
  { id := s.nextId, field := fieldHere s, slot := s.cur, band := ((here s).band).getD 0, kind := kind, dst := dst, a := a, b := b
    c := c, ctrl := ctrl, count := count, phase := .queued, granules := 0, flags := 0, arr := 0, cancel := false, poison := false
    err := none }

/-- The first word that breaks a rule. -/
def FirstBad (bad : Nat → Prop) (w : Nat) : Prop := w < 8 ∧ bad w ∧ ∀ u, u < w → ¬ bad u

/-- Bits of a descriptor. -/
def cut (d : Desc) (hi lo : Nat) : Nat := d.toNat / 2 ^ lo % 2 ^ (hi + 1 - lo)

/-- An extent out of range: 1 to 65,535 below the rank, 0 above (R260). -/
def badExtent (rank i v : Nat) : Prop := (i < rank ∧ v = 0) ∨ (rank ≤ i ∧ v ≠ 0)

/-- The start bit is neither 0 nor, for 4-bit elements, 4. -/
def badStart (f : Fmt) (o : Nat) : Prop := o ≠ 0 ∧ (f ≠ .mxe2m1 ∨ o ≠ 4)

/-- Word `w` of a tensor descriptor breaks Table 10.6 (R265). -/
def badTensor (d : Desc) (w : Nat) : Prop :=
  match w with
  | 0 => cut d 63 60 ≠ 1 ∨ cut d 48 48 ≠ 0 ∨ cut d 39 32 ≠ 0 ∨ badStart (tdFmt d) (cut d 52 50)
  | 1 => cut d 127 121 ≠ 0
  | 2 => ∃ i, i < 4 ∧ badExtent (tdRank d) i (cut d (143 + 16 * i) (128 + 16 * i))
  | 3 => ∃ i, 4 ≤ i ∧ i < 8 ∧ badExtent (tdRank d) i (cut d (143 + 16 * i) (128 + 16 * i))
  | 7 => cut d 511 480 ≠ 0
  | _ => False

/-- A control word with a reserved bit, or a scope above 8 (Table 10.9). -/
def badControl (n : Nat) : Prop := n / 2 ^ 60 % 16 ≠ 0 ∨ n % 2 ^ 44 ≠ 0 ∨ 8 < n / 2 ^ 56 % 16

/-- PL16 tensors that move unconverted move in whole words (R266); this part of it is laid to the tensor's word 2. -/
def badWhole (a b : Desc) (w : Nat) : Prop := w = 2 ∧ tdFmt a = .pl16 ∧ cut b 59 56 = 0 ∧ tdExtent a 0 % 8 ≠ 0

/-- The format a box writes: its own, or the tensor's (R261). -/
def boxFormat (a b : Desc) : Fmt := if cut b 59 56 = 0 then tdFmt a else Fmt.ofCode (BitVec.ofNat 4 (cut b 59 56))

/-- Entry `k` of a box's permutation, its extent of dimension `d`, and the bits of a dense destination row (R261). -/
def permOf (b : Desc) (k : Nat) : Nat := cut b (450 + 3 * k) (448 + 3 * k)
def extentOf (b : Desc) (d : Nat) : Nat := cut b (335 + 16 * d) (320 + 16 * d)
def rowBits (a b : Desc) : Nat := extentOf b (permOf b 0) * elemBits (boxFormat a b)

/-- Word `w` of a box descriptor breaks Table 10.7, R265 or R266 against its tensor. -/
def badBox (a b : Desc) (w : Nat) : Prop :=
  let rank := cut b 55 53 + 1
  let f := Fmt.ofCode (BitVec.ofNat 4 (cut b 59 56))
  let pl := tdFmt a = .pl16
  match w with
  | 0 => cut b 63 60 ≠ 2 ∨ cut b 36 0 ≠ 0 ∨ rank ≠ tdRank a ∨ 5 ≤ cut b 47 45 ∨ badStart (boxFormat a b) (cut b 52 50) ∨
      (f ≠ .raw ∧ (f ∉ ([.i8, .i16, .i32, .i64, .fp16, .bf16, .fp32, .e4m3, .e5m2, .mxe2m1] : List Fmt) ∨ tdFmt a = .raw ∨ pl))
  | 1 => cut b 127 121 ≠ 0
  | 2 => pl ∧ cut b 151 128 % 8 ≠ 0
  | 5 => (∃ i, i < 4 ∧ badExtent rank i (extentOf b i)) ∨ (pl ∧ extentOf b 0 % 8 ≠ 0)
  | 6 => ∃ i, 4 ≤ i ∧ i < 8 ∧ badExtent rank i (extentOf b i)
  | 7 => cut b 511 504 ≠ 0 ∨ (∃ k, k < rank ∧ rank ≤ permOf b k) ∨ (∃ j k, j < k ∧ k < rank ∧ permOf b j = permOf b k) ∨
      (∃ k, rank ≤ k ∧ k < 8 ∧ permOf b k ≠ 0) ∨ (pl ∧ permOf b 0 ≠ 0) ∨ rowBits a b % 8 ≠ 0 ∨
      (cut b 503 472 ≠ 0 ∧ cut b 503 472 < rowBits a b / 8)
  | _ => False

/-- Word `w` of a residue or span descriptor breaks Table 10.8. -/
def badResidue (c : Desc) (w : Nat) : Prop :=
  match w with
  | 0 => cut c 63 60 ≠ 3 ∨ cut c 55 50 ≠ 0 ∨ cut c 48 0 ≠ 0 ∨ Fmt.ofCode (BitVec.ofNat 4 (cut c 59 56)) ∉ ([.fp32, .bf16, .fp16] : List Fmt)
  | 1 => cut c 127 121 ≠ 0
  | 2 => badControl (condWord c 2).toNat
  | k => condWord c k ≠ 0
def badSpan (d : Desc) (w : Nat) : Prop :=
  match w with
  | 0 => cut d 63 60 ≠ 4 ∨ cut d 59 50 ≠ 0 ∨ cut d 47 0 ≠ 0
  | 1 => cut d 127 121 ≠ 0
  | 2 => cut d 191 185 ≠ 0
  | 3 => badControl (condWord d 3).toNat
  | k => condWord d k ≠ 0

/-- A copy instruction: its token register, sources, command, and the checks of R265 in their order: an operand, and the words of it
that break them. -/
structure CopyForm where
  d      : Fin 32
  us     : List Use
  cmd    : State → CopyCmd
  checks : State → List (Nat × (Nat → Prop))

def copyForm : Instr → Option CopyForm
  | .copy d a b c => some ⟨d, dUse 0 a ++ dUse 1 b ++ xUse 2 c,
      fun s => queuedCmd s .copy d ((here s).dr a.reg) ((here s).dr b.reg) 0 (xv s c) 0,
      fun s => [(1, badTensor ((here s).dr a.reg)), (1, badWhole ((here s).dr a.reg) ((here s).dr b.reg)),
        (2, badBox ((here s).dr a.reg) ((here s).dr b.reg)), (3, fun w => w = 0 ∧ badControl (xv s c).toNat)]⟩
  | .copyef d a b c => some ⟨d, dUse 0 a ++ dUse 1 b ++ dUse 2 c,
      fun s => queuedCmd s .copyef d ((here s).dr a.reg) ((here s).dr b.reg) ((here s).dr c.reg) 0 0,
      fun s => [(1, badTensor ((here s).dr a.reg)), (1, badWhole ((here s).dr a.reg) ((here s).dr b.reg)),
        (2, badBox ((here s).dr a.reg) ((here s).dr b.reg)), (3, badResidue ((here s).dr c.reg))]⟩
  | .copys d a b => some ⟨d, dUse 0 a ++ xUse 1 b,
      fun s => queuedCmd s .copys d ((here s).dr a.reg) 0 0 0 (xv s b).toNat,
      fun s => [(1, badSpan ((here s).dr a.reg)), (2, fun w => w = 0 ∧ ((xv s b).toNat = 0 ∨ 2 ^ 32 < (xv s b).toNat))]⟩
  | _ => none

/-- No word of the checked operands breaks a rule. -/
def Sound (cs : List (Nat × (Nat → Prop))) : Prop := ∀ q ∈ cs, ∀ w, w < 8 → ¬ q.2 w

/-- The first check that fails, and its first word: BADDESC's operand and word (R265). -/
def FirstFault (cs : List (Nat × (Nat → Prop))) (op w : Nat) : Prop :=
  ∃ pre bad post, cs = pre ++ (op, bad) :: post ∧ Sound pre ∧ FirstBad bad w

/-- The trap of R265's checks. -/
def badDesc (op w : Nat) : Word := BitVec.ofNat 64 (256 * op + w)

/-- A span of an allotment. -/
def SpanIn (v : Band) (f : Nat × Nat) : Prop := 65536 * v.chunk0 ≤ f.1 ∧ f.1 + f.2 ≤ 65536 * v.chunk0 + 65536 * v.chunks

/-- A command's token register is its slot's register `i` (R270). -/
def Names (s : State) (a : XName) (c : CopyCmd) : Prop :=
  c.slot = s.cur ∧ ∃ i : Fin 32, a = .x i ∧ i ≠ 0 ∧ c.dst = i

/-- A band as a PBIND's or PFLUSH's row owns an edge of it (R197). -/
def Owns (s : State) (v : Band) (nad : Bool) : Prop :=
  v.linked = true ∧ if nad then v.rowIndex (slotRow s.cur) + 1 = v.height else v.rowIndex (slotRow s.cur) = 0

/-- Nothing else of its slot comes before a copy command: earlier ones have ended, no value that an earlier binding has accepted
is still to be written, and none is still to be read for one (R269, R280). -/
def NoneEarlier (s : State) (k n : Nat) : Prop :=
  (∀ q ∈ s.cmds, q.slot = k → q.id < n → q.ended = true) ∧ ∀ p ∈ s.bandList, (∀ q ∈ p.2.nad.buf, q.slot = k → n ≤ q.since) ∧
  ∀ q, p.2.zen.cur = some q ∨ p.2.zen.queued = some q → q.slot = k → n ≤ q.since ∨ q.total ≤ q.moved

/-- No urgent read waits (R226), and no access counts as performed in a narrow scope only (R275). -/
def NothingFirst (s : State) : Prop := ∀ p ∈ s.pend, p.urgent = false ∧ p.marks = []

/-- The checks of a PBIND's descriptor in their order, all of operand A (R197): a tensor descriptor; at the zenith a format of the
kind; a byte count of whole values, which is laid to the word of the extents (log entry 55). -/
def bindChecks (nad : Bool) (kind : PortKind) (d : Desc) : List (Nat × (Nat → Prop)) :=
  let f := tdFmt d
  let bits := ((List.range (tdRank d)).map (tdExtent d)).foldl (· * ·) 1 * elemBits f
  let weights : List Fmt := [.i8, .fp16, .bf16, .e4m3, .e5m2, .mxe4m3, .mxe5m2, .mxe2m1, .mxi8, .pl16]
  let fits := (kind = .vv ∧ f ≠ .raw) ∨ (kind = .acc ∧ f = .acc48) ∨ (kind = .wc ∧ f ∈ weights)
  [(1, badTensor d), (1, fun w => w = 0 ∧ nad = false ∧ ¬ fits),
    (1, fun w => w = 2 ∧ (bits = 0 ∨ bits % (if kind = .vv then 4096 else 32768) ≠ 0))]

/-- No access that the slot issued before its PBIND is outstanding, but parked ones, and no copy of it (R198, R269, R280). -/
def Behind (s : State) (k n : Nat) : Prop :=
  (∀ p ∈ s.pend, p.slot = k → n ≤ p.order ∨ ∃ r ∈ p.reqs, r.parked = true) ∧ NoneEarlier s k n

def edgeOf (v : Band) (nad : Bool) : Edge := if nad then v.nad else v.zen
def withEdge (v : Band) (nad : Bool) (e : Edge) : Band := if nad then { v with nad := e } else { v with zen := e }

/-- An edge without bindings and values; its position stays (R199). -/
def unbound (e : Edge) : Edge := { e with cur := none, queued := none, buf := [], parked := false }

/-- One band changes, as told, and no other. -/
def BandIs (s t : State) (b : Nat) (v : Band) : Prop := t.band? b = some v ∧ ∀ c, c ≠ b → t.band? c = s.band? c

/-- Every region on the path that limits chunks, the root and those whose override bit 2 is set, has room for `n` more (R346). -/
abbrev ChunksFit (s : State) (i n : Nat) : Prop :=
  ∀ r ∈ s.regionPath i, r = 0 ∨ regOvr (s.region r) 2 = true → s.chunksUsed r + n ≤ regSideBud (s.region r)

/-- Status of an SGROW or SFREE that does not wait (Table 10.5): B = 0; past 8 MiB or 128 chunks, or more than are held; a budget; the
record window. -/
def growStatus (s : State) (v : Band) (n : Nat) : Option Nat :=
  if n = 0 then some 0 else if 128 < v.chunk0 + v.chunks + n then some 3
  else if ¬ ChunksFit s v.region (n * v.fieldCount) then some 2 else none
/-- No other SGROW or SFREE of the band arrived before this slot's (R256); an SGROW of a band that stops is to issue again (R257). -/
def FirstToGrow (s : State) (v : Band) (k : Nat) : Prop :=
  ∀ j ∈ v.slotKeys, ((v.status = .running ∧ ∃ d n q, (s.slot j).wait = .sgrow d n q) ∨ ∃ d n, (s.slot j).wait = .sfree d n) →
    (s.slot k).lastIssue ≤ (s.slot j).lastIssue
def freeStatus (v : Band) (n : Nat) : Option Nat :=
  if n = 0 then some 0 else if v.chunks < n then some 3
  else if v.windowHeld = true ∧ 0 < v.winChunks ∧ v.chunk0 + v.chunks - n < v.winChunk + v.winChunks then some 4 else none

end Sys2Proof.Claims

/-- R259, R270: DSET writes one word of its descriptor register and keeps the others; CCANCEL marks every command of its slot
whose token its register awaits, and no other. R264, R265, R320: COPY, COPYEF and COPYS with descriptors that pass and local
footprints in the allotment join their field's queue where an entry is free for them, and their token register awaits the
token; else the slot waits in the field's line at its word (that it has taken its row's issue by then is a reading, log entry
85). R265: one whose descriptors, control word or count break a rule traps BADDESC with the operand and word in TRAPINFO, of
which the word and the order are readings (log entries 54 and 55), and one with a local footprint outside the allotment DENIED
with its first address (log entry 56). Completes: copy, copyef, copys, dset, ccancel. Readings: log entries 54, 55, 56, 85. -/
def Obligations.CopyWords : Prop :=
  ((∀ (d : Fin 8) (a : XSrc) (k : Fin 8) (s : State), CanIssue s →
     let us := xUse 0 a ++ impliedUse (codeD d)
     Ready s us [] →
     Acts (.dset d a k) s us 8 (fun c c' =>
       c' = { c with d := c'.d, dEmpty := c'.dEmpty, softErr := c.softErr.filter (· ≠ BitVec.ofNat 7 (codeD d)) } ∧
       (∀ i : Fin 8, condWord (c'.dr d) i = if i = k then xv s a else condWord ((here s).dr d) i) ∧
       (∀ e : Fin 8, e ≠ d → c'.dr e = c.dr e) ∧
       ∀ e : Fin 8, c'.isEmpty (codeD e) = if e = d then false else c.isEmpty (codeD e))) ∧
   ∀ (a : XName) (s : State), CanIssue s →
     ∃ t, exec (.ccancel a) s = .next t ∧ (∀ k, t.slot k = (sourced s [] 8).slot k) ∧ t.bands = s.bands ∧ t.mem = s.mem ∧
       t.cmds.length = s.cmds.length ∧
       ∀ (i : Nat) (c : CopyCmd), s.cmds[i]? = some c → ∃ c', t.cmds[i]? = some c' ∧
         ((Names s a c → c' = { c with cancel := true }) ∧ (¬ Names s a c → c' = c))) ∧
  (∀ (i : Instr) (f : CopyForm) (v : Band) (s : State), copyForm i = some f → CanIssue s → s.bandOf s.cur = some v →
     Ready s f.us [codeX f.d] → Sound (f.checks s) → (∀ q ∈ copyFootprints (f.cmd s), SpanIn v q) →
     ((s.cur ∈ s.copyGrant ∨ s.copyFree (fieldHere s) = true) →
       let u := sourced s f.us 8
       ActsIn i s { u with
         cmds := s.cmds ++ [f.cmd s], nextId := s.nextId + 1, copyGrant := s.copyGrant.filter (fun k => k ≠ s.cur) }
         (Awaits (codeX f.d))) ∧
     (¬ (s.cur ∈ s.copyGrant ∨ s.copyFree (fieldHere s) = true) →
       ∃ t, exec i s = .next t ∧ t.slot s.cur = { took s with wait := .copyQ } ∧
         (∀ k, k ≠ s.cur → t.slot k = s.slot k) ∧ t.copyLine = (leftLines s).copyLine ++ [.slot s.cur] ∧ t.cmds = s.cmds ∧
         ∀ loc, t.byte loc = s.byte loc)) ∧
  (∀ (i : Instr) (f : CopyForm) (op w : Nat) (s : State), copyForm i = some f → InRow s .baddesc → Ready s f.us [codeX f.d] →
     FirstFault (f.checks s) op w → Traps i s .baddesc (badDesc op w) (here s).pc) ∧
  (∀ (i : Instr) (f : CopyForm) (v : Band) (pre post : List (Nat × Nat)) (q : Nat × Nat) (s : State), copyForm i = some f →
     InRow s .denied → s.bandOf s.cur = some v → Ready s f.us [codeX f.d] → Sound (f.checks s) →
     copyFootprints (f.cmd s) = pre ++ q :: post → (∀ r ∈ pre, SpanIn v r) → ¬ SpanIn v q →
     Traps i s .denied (BitVec.ofNat 64 q.1) (here s).pc) ∧
  ∀ (d : Fin 32) (a : DSrc) (b : XSrc) (s : State), let D := (here s).dr a.reg
     copyFootprints (queuedCmd s .copys d D 0 0 0 (xv s b).toNat) =
       (if cut D 48 48 = 1 then [(cut D 120 64, (xv s b).toNat)] else []) ++ if cut D 49 49 = 1 then [(cut D 184 128, (xv s b).toNat)] else []

namespace Sys2Proof.Claims

/-- A byte that engine `e` of a field reaches at an address, in side memory or through its TLB in a page that is not migrating and
holds no key, on a line whose bank is available; it is granted and, to read, not poisoned; to write, not of a lattice chunk or page
(R204, R220, R230, R232, R267). -/
def EngineSees (s : State) (f e asid : Nat) (loc write : Bool) (a p : Nat) : Prop :=
  s.denied p 0 (64 + 2 * f + e) (!write) write = false ∧ (write = false → s.poisonedAt p 1 = false) ∧
  (loc = true → a < 2 ^ 23 ∧ p = sideLoc f a ∧ (write = true → s.chunkAt f a ≠ 2)) ∧
  (loc = false → ∃ l, s.tlbLook (64 + 2 * f + e) asid (a / 65536) = some l ∧ BitVec.ofNat 64 a ≠ exitAt ∧ a < 2 ^ 57 ∧
    leafRefuses l.leaf (if write then .write else .read) = none ∧ leafMig l.leaf = false ∧ leafKey l.leaf = 0 ∧
    p = leafLoc l (BitVec.ofNat 64 a) ∧ (write = true → s.kindAt l p ≠ 2) ∧
    (p < 2 ^ 40 → Tab.get 0 s.lineKey (p / 256) = 0 ∧ ∀ h, Tab.get none s.halo (p / 256) = some h → h.slot = 0))

/-- A save under way stops the command at its granule boundary (Table 16.5). -/
def StopsFor (s : State) (c : CopyCmd) : Prop :=
  ∃ v, s.band? c.band = some v ∧ ((v.status = .stopping ∧ v.linked = false) ∨ v.status = .saving) ∧ (copySplit c = true ∨ v.suspend = true)

/-- A command that can go on. -/
def Going (s : State) (f : Nat) (c : CopyCmd) : Prop :=
  c ∈ s.cmds ∧ c.field = f ∧ c.ended = false ∧ ¬ StopsFor s c ∧ NoneEarlier s c.slot c.id

/-- Engine `e` of a field works on command `c`: its own; else one whose translation fault has been resolved; else the oldest queued
(R321). -/
def WorksOn (s : State) (f e : Nat) (c : CopyCmd) : Prop :=
  Going s f c ∧ (∀ q ∈ s.cmds, q.id = c.id → q = c) ∧
  ∃ pre post, s.cmds = pre ++ c :: post ∧ (∀ q ∈ pre, q.field = f → q.phase ≠ c.phase) ∧
    (c.phase = .running e ∨ ((∀ q ∈ s.cmds, q.field = f → q.phase ≠ .running e) ∧
      (c.phase = .resolved ∨ c.phase = .queued ∧ ∀ q ∈ s.cmds, q.field = f → q.phase ≠ .resolved)))

/-- Destination index `k` of the element at destination row `row` and index `j0` of a box (R261, R263). -/
def destIndex (b : Desc) (row j0 k : Nat) : Nat :=
  if k = 0 then j0
  else row / ((List.range (k - 1)).map (fun m => extentOf b (permOf b (m + 1)))).foldl (· * ·) 1 % extentOf b (permOf b k)

/-- The tensor index that element reads in dimension `d`. -/
def tensorIndex (b : Desc) (row j0 d : Nat) : Int :=
  let o := cut b (151 + 24 * d) (128 + 24 * d)
  (if o < 2 ^ 23 then (o : Int) else (o : Int) - 2 ^ 24) +
    ((List.range (cut b 55 53 + 1)).map (fun k => if permOf b k = d then destIndex b row j0 k else 0)).sum

/-- It lies in the tensor. -/
def inTensor (a b : Desc) (row j0 : Nat) : Prop := ∀ d, d < tdRank a → 0 ≤ tensorIndex b row j0 d ∧ tensorIndex b row j0 d < tdExtent a d

/-- The bit addresses of its source, destination and residue, and the byte address of its block scale (R260 to R262). -/
def sourceBit (a b : Desc) (row j0 : Nat) : Nat :=
  let i (d : Nat) := (tensorIndex b row j0 d).toNat
  8 * tdBase a + cut a 52 50 + i 0 * elemBits (tdFmt a) +
    8 * ((List.range (tdRank a - 1)).map (fun d => i (d + 1) * cut a (287 + 32 * d) (256 + 32 * d))).sum
def scaleAddr (a b : Desc) (row j0 : Nat) : Nat :=
  let i (d : Nat) := (tensorIndex b row j0 d).toNat
  let pitch (d : Nat) := ((List.range d).map (fun m => tdExtent a (m + 1))).foldl (· * ·) ((tdExtent a 0 + 31) / 32)
  (((tdBase a : Int) + tdSoff a + (i 0 / 32 + ((List.range (tdRank a - 1)).map (fun d => i (d + 1) * pitch d)).sum : Nat)) % 2 ^ 64).toNat
def destBit (a b : Desc) (row j0 : Nat) : Nat :=
  let pitch := if cut b 503 472 = 0 then rowBits a b / 8 else cut b 503 472
  8 * cut b 120 64 + cut b 52 50 + j0 * elemBits (boxFormat a b) + 8 * ((List.range (cut b 55 53)).map (fun k =>
    destIndex b row j0 (k + 1) * ((List.range k).map (fun m => extentOf b (permOf b (m + 1)))).foldl (· * ·) pitch)).sum
def residueBit (b c : Desc) (row j0 : Nat) : Nat :=
  8 * cut c 120 64 + (row * extentOf b (permOf b 0) + j0) * elemBits (Fmt.ofCode (BitVec.ofNat 4 (cut c 59 56)))

/-- Bits of memory through an address map. -/
def bitAt (s : State) (at_ : Nat → Nat) (n : Nat) : Bool := (s.byte (at_ (n / 8))).getLsbD (n % 8)
def bitsAt (s : State) (at_ : Nat → Nat) (n w : Nat) : Nat := ((List.range w).map (fun i => if bitAt s at_ (n + i) then 2 ^ i else 0)).sum

/-- An exact value times a power of two that an E8M0 byte gives; 0xFF makes it NaN (R36). -/
def scaledBy (x : BitVec 8) (inverse : Bool) (v : Val) : Val :=
  if x = 0xFF then .nan else v.scale (if inverse then 127 - (x.toNat : Int) else (x.toNat : Int) - 127)

/-- An element's value (R260), its code in the destination with its flags, and its residue (R266); without conversion its bits move.
Of a residue where no conversion takes place nothing is lost (log entry 24). -/
def elementValue (a : Desc) (code : Nat) (block : Option Nat) : Val :=
  let v := (tdFmt a).value false false code
  scaledBy (tdScale a) false (match block with
    | some x => scaledBy (BitVec.ofNat 8 x) false v
    | none => v)
def elementCode (a b : Desc) (source : Option (Nat × Option Nat)) : Nat × Flags :=
  let g := Fmt.ofCode (BitVec.ofNat 4 (cut b 59 56))
  match source with
  | none => (0, 0)
  | some (code, block) =>
    if cut b 59 56 = 0 then (code, 0)
    else
      let v := scaledBy (BitVec.ofNat 8 (cut b 44 37)) true (elementValue a code block)
      if v = .nan ∧ hasNan g = true then (g.nanCode, 0)
      else
        let r := roundTo g v ((RMode.ofCode (BitVec.ofNat 3 (cut b 47 45))).getD .rne) (b.getLsbD 48) false false 0
        (r.code, r.fl)
def elementResidue (a b c : Desc) (source : Option (Nat × Option Nat)) : Nat × Flags :=
  let f := Fmt.ofCode (BitVec.ofNat 4 (cut c 59 56))
  let g := Fmt.ofCode (BitVec.ofNat 4 (cut b 59 56))
  match source with
  | none => (0, 0)
  | some (code, block) =>
    if cut b 59 56 = 0 then (0, 0)
    else
      let out := scaledBy (BitVec.ofNat 8 (cut b 44 37)) false (g.value false false (elementCode a b source).1)
      let d := (sumVals [elementValue a code block, out.negate] .rne).1
      if d = .nan then (f.nanCode, 0) else
        let r := roundTo f d .rne false false false 0
        (r.code, r.fl)

end Sys2Proof.Claims

/-- R320, R321, R260 to R263, R266 to R268, R270: the first of a field's line takes a free entry; an engine performs the next
granule of the command it works on: every destination bit of a COPY or COPYEF granule is that of its element's code, converted
with one rounding from the source element's bits, or zero outside the tensor, every residue bit that of the element's residue,
and every byte of a COPYS granule that of its source; no other byte and no other bit changes, the flags are collected and the
bytes written are counted. A granule waits behind an earlier command of its slot that has still to write what it reads (R280).
A command that has ended delivers its token, counts its bytes as arrived and leaves its queue. Which of two waiting commands an
engine takes when one is held is a reading (log entry 80), as is the engine a stream uses (log entry 23). Completes:
copyQueueEntryGrant, copyGranule, copyComplete. Readings: log entries 18, 23, 24, 78, 80. -/
def Obligations.CopyEngines : Prop :=
  (∀ (f k : Nat) (pre post : List Agent) (s : State), Live s → s.copyHeld f < 16 → s.copyLine = pre ++ .slot k :: post →
    (∀ a ∈ pre, s.lineField a ≠ f) → slotField k = f →
    ∃ t, exec (.copyQueueEntryGrant f) s = .next t ∧ t = { s with
        slots := t.slots, copyLine := pre ++ post, copyGrant := s.copyGrant ++ [k] } ∧
      t.slot k = { s.slot k with wait := .none } ∧ ∀ j, j ≠ k → t.slot j = s.slot j) ∧
  (∀ (f e n : Nat) (c : CopyCmd) (src dst : Nat → Nat) (s : State), s.power = .running → e < 2 → f < 64 → WorksOn s f e c → c.kind = .copys →
    s.bankUntil = [] → s.backoff = [] → NothingFirst s →
    let g := 256 * 2 ^ (copyControl c / 2 ^ 44 % 16)
    let asid := s.asidOf c.band
    n = min c.count (c.granules * g + g) - c.granules * g →
    let src (i : Nat) := src (cut c.a 120 64 + c.granules * g + i)
    let dst (i : Nat) := dst (cut c.a 184 128 + c.granules * g + i)
    (∀ i, i < n → EngineSees s f e asid (c.a.getLsbD 48) false (cut c.a 120 64 + c.granules * g + i) (src i) ∧
      EngineSees s f e asid (c.a.getLsbD 49) true (cut c.a 184 128 + c.granules * g + i) (dst i)) →
    (∀ i j, i < n → j < n → dst i = dst j → i = j) →
    ∃ t, exec (.copyGranule f e) s = .next t ∧ (∀ i, i < n → t.byte (dst i) = s.byte (src i)) ∧
      (∀ loc, (∀ i, i < n → loc ≠ dst i) → t.byte loc = s.byte loc) ∧ t.slots = s.slots ∧ t.bands = s.bands ∧
      t.cmds = s.cmds.map (fun q => if q.id = c.id then
        { c with phase := .running e, granules := c.granules + 1, arr := c.arr + n } else q)) ∧
  (∀ (f e : Nat) (c : CopyCmd) (src dst res : Nat → Nat) (s : State), s.power = .running → e < 2 → f < 64 → WorksOn s f e c → c.kind ≠ .copys →
    s.bankUntil = [] → s.backoff = [] → NothingFirst s →
    Sound [(1, badTensor c.a), (1, badWhole c.a c.b), (2, badBox c.a c.b)] → (c.kind = .copyef → Sound [(3, badResidue c.c)]) →
    let ef := c.kind = .copyef
    let rows := ((List.range (cut c.b 55 53)).map (fun k => extentOf c.b (permOf c.b (k + 1)))).foldl (· * ·) 1
    let g := 2 ^ (copyControl c / 2 ^ 44 % 16)
    let asid := s.asidOf c.band
    let wd := elemBits (boxFormat c.a c.b)
    let wr := elemBits (Fmt.ofCode (BitVec.ofNat 4 (cut c.c 59 56)))
    let mine (row j0 : Nat) : Prop := c.granules * g ≤ row ∧ row < min rows (c.granules * g + g) ∧ j0 < extentOf c.b (permOf c.b 0)
    let scaled : Prop := cut c.b 59 56 ≠ 0 ∧ (tdFmt c.a).isMx = true
    (∀ row j0, mine row j0 →
      (inTensor c.a c.b row j0 → ∀ i, i < elemBits (tdFmt c.a) →
        let a := (sourceBit c.a c.b row j0 + i) / 8
        EngineSees s f e asid (c.a.getLsbD 49) false a (src a)) ∧
      (inTensor c.a c.b row j0 → scaled → let a := scaleAddr c.a c.b row j0
        EngineSees s f e asid (c.a.getLsbD 49) false a (src a)) ∧
      (∀ i, i < wd → let a := (destBit c.a c.b row j0 + i) / 8
        EngineSees s f e asid (c.b.getLsbD 49) true a (dst a)) ∧
      (ef → ∀ i, i < wr → let a := (residueBit c.b c.c row j0 + i) / 8
        EngineSees s f e asid (c.c.getLsbD 49) true a (res a))) →
    let isDst (a : Nat) : Prop := ∃ row j0 i, mine row j0 ∧ i < wd ∧ a = (destBit c.a c.b row j0 + i) / 8
    let isRes (a : Nat) : Prop := ef ∧ ∃ row j0 i, mine row j0 ∧ i < wr ∧ a = (residueBit c.b c.c row j0 + i) / 8
    (∀ a a', isDst a → isDst a' → dst a = dst a' → a = a') → (∀ a a', isRes a → isRes a' → res a = res a' → a = a') →
    (∀ a a', isDst a → isRes a' → dst a ≠ res a') →
    let source (row j0 : Nat) : Nat × Option Nat := (bitsAt s src (sourceBit c.a c.b row j0) (elemBits (tdFmt c.a)),
      if cut c.b 59 56 ≠ 0 ∧ (tdFmt c.a).isMx = true then some (bitsAt s src (8 * scaleAddr c.a c.b row j0) 8) else none)
    ∃ t q, exec (.copyGranule f e) s = .next t ∧ t.slots = s.slots ∧ t.bands = s.bands ∧
      (∀ row j0, mine row j0 → ∀ x, (inTensor c.a c.b row j0 → x = some (source row j0)) → (¬ inTensor c.a c.b row j0 → x = none) →
        bitsAt t dst (destBit c.a c.b row j0) wd = (elementCode c.a c.b x).1 % 2 ^ wd ∧
        (ef → bitsAt t res (residueBit c.b c.c row j0) wr = (elementResidue c.a c.b c.c x).1 % 2 ^ wr)) ∧
      (∀ b, q.flags.getLsbD b = true ↔ c.flags.getLsbD b = true ∨ ∃ row j0 x, mine row j0 ∧
        ((inTensor c.a c.b row j0 ∧ x = some (source row j0)) ∨ (¬ inTensor c.a c.b row j0 ∧ x = none)) ∧
        ((elementCode c.a c.b x).2.getLsbD b = true ∨ (ef ∧ (elementResidue c.a c.b c.c x).2.getLsbD b = true))) ∧
      (∀ loc, (∀ a, isDst a → loc ≠ dst a) → (∀ a, isRes a → loc ≠ res a) → t.byte loc = s.byte loc) ∧
      (∀ a b, isDst a → b < 8 → (∀ row j0 i, mine row j0 → i < wd → 8 * a + b ≠ destBit c.a c.b row j0 + i) →
        bitAt t dst (8 * a + b) = bitAt s dst (8 * a + b)) ∧
      t.cmds = s.cmds.map (fun p => if p.id = c.id then q else p) ∧
      q = { c with phase := .running e, granules := c.granules + 1, flags := q.flags, arr := q.arr } ∧
      ∃ written : List Nat, written.Nodup ∧ (∀ loc, loc ∈ written ↔ (∃ a, isDst a ∧ loc = dst a) ∨ ∃ a, isRes a ∧ loc = res a) ∧
        q.arr = c.arr + written.length) ∧
  (∀ (f e e' i j : Nat) (p c : CopyCmd) (s : State), e ≠ e' → s.cmds = [p, c] → p.field = f → c.field = f → p.slot = c.slot → p.id < c.id →
    p.phase = .running e' → c.phase = .queued → p.ended = false → p.kind = .copys → c.kind = .copys → p.granules = 0 → c.granules = 0 →
    p.a.getLsbD 49 = true → c.a.getLsbD 48 = true → i < p.count → j < c.count → j < 256 → cut p.a 184 128 + i = cut c.a 120 64 + j →
    exec (.copyGranule f e) s = .next s) ∧
  (∀ (f e : Nat) (c : CopyCmd) (s : State), s.cmds = [c] → StopsFor s c → exec (.copyGranule f e) s = .next s) ∧
  ∀ (f : Nat) (c : CopyCmd) (s : State), Live s → s.cmds.find? (fun q => q.id == c.id && q.field == f) = some c → c.ended = true →
    s.takesResults c.band = true → c.dst < 32 →
    let status := match c.err with
      | some st => st
      | none => if copyGranules c ≤ c.granules then (if c.poison then 5 else 1) else 2
    ∃ t, exec (.copyComplete f c.id) s = .next t ∧ t.cmds = s.cmds.filter (fun q => q.id ≠ c.id) ∧
      OnlySlot s t c.slot (FilledX c.dst (BitVec.ofNat 64 (c.granules * 2 ^ 32 + (c.flags.toNat % 32) * 2 ^ 8 + status))) ∧
      ∀ g j, j < 64 → t.arrivalCtr g j = s.arrivalCtr g j +
        if copyArrive c = some j ∧ g = c.field then BitVec.ofNat 48 c.arr else 0

/-- R255 to R257, R346, Table 10.5: SGROW and SFREE end at once with their status or wait at their word; a request is served in
its turn among its band's, with LIMIT past the field, BUDGET where a region has no room, or the chunks above the allotment with
their kind; a refusal and a release end the wait with status 1 and 0. That a waiting request which has come to exceed a limit
or a budget ends with that status, and takes its sources with its results, are readings (log entries 83 and 60). Completes:
sgrow, sfree, sgrowGrant, sgrowRefuse, sfreeComplete. Readings: log entries 57 (LIMIT before BUDGET), 60, 83. -/
def Obligations.SideMemory : Prop :=
  (∀ (d : Fin 32) (b : XOp) (kind : ChunkKind) (v : Band) (s : State), CanIssue s → s.bandOf s.cur = some v →
    Ready s (opUse b) [codeX d] →
    match growStatus s v (ov s b).toNat with
      | some st => Acts (.sgrow d b kind) s (opUse b) (opSize b) (WroteX d (BitVec.ofNat 64 st))
      | none => WaitsLate (.sgrow d b kind) s (opUse b) (opSize b) (.sgrow d (ov s b).toNat kind)) ∧
  (∀ (d : Fin 32) (b : XOp) (v : Band) (s : State), CanIssue s → s.bandOf s.cur = some v → Ready s (opUse b) [codeX d] →
    match freeStatus v (ov s b).toNat with
      | some st => Acts (.sfree d b) s (opUse b) (opSize b) (WroteX d (BitVec.ofNat 64 st))
      | none => WaitsLate (.sfree d b) s (opUse b) (opSize b) (.sfree d (ov s b).toNat)) ∧
  (∀ (k b d n : Nat) (kind : ChunkKind) (v : Band) (s : State), Live s → d < 32 → (s.slot k).band = some b →
    s.band? b = some v → v.status = .running → (s.slot k).wait = .sgrow d n kind → FirstToGrow s v k →
    (128 < v.chunk0 + v.chunks + n ∨ ¬ ChunksFit s v.region (n * v.fieldCount)) →
    ∃ t, exec (.sgrowGrant k) s = .next t ∧
      OnlySlot s t k (GoesOnWith d (if 128 < v.chunk0 + v.chunks + n then 3 else 2))) ∧
  (∀ (k b d n : Nat) (kind : ChunkKind) (v : Band) (s : State), Live s → d < 32 → (s.slot k).band = some b →
    s.band? b = some v → v.status = .running → (s.slot k).wait = .sgrow d n kind → FirstToGrow s v k → v.chunk0 + v.chunks + n ≤ 128 →
    ChunksFit s v.region (n * v.fieldCount) →
    (∀ f ∈ v.fields, ∀ i, i < n → ∀ p ∈ s.bandList, ¬ (f ∈ p.2.fields ∧ p.2.chunk0 ≤ v.chunk0 + v.chunks + i ∧
      v.chunk0 + v.chunks + i < p.2.chunk0 + p.2.chunks)) →
    ∃ t, exec (.sgrowGrant k) s = .next t ∧ BandIs s t b { v with chunks := v.chunks + n } ∧ t.mem = s.mem ∧
      (∀ f c, c < 128 → Tab.get 0 t.chunkKind (128 * f + c) =
        if f ∈ v.fields ∧ v.chunk0 + v.chunks ≤ c ∧ c < v.chunk0 + v.chunks + n then kind.code
        else Tab.get 0 s.chunkKind (128 * f + c)) ∧
      (∀ j, j ≠ k → t.slot j = s.slot j) ∧ GoesOnWith d 0 (s.slot k) (t.slot k)) ∧
  (∀ (f k d n : Nat) (kind : ChunkKind) (v : Band) (s : State), Live s → d < 32 → v.status = .running → s.growStuck f = true →
    s.youngest f = some v → s.growers v = [k] → (s.slot k).wait = .sgrow d n kind →
    ∃ t, exec (.sgrowRefuse f) s = .next t ∧ OnlySlot s t k (GoesOnWith d 1)) ∧
  ∀ (k b d n : Nat) (v : Band) (s : State), Live s → d < 32 → (s.slot k).band = some b → s.band? b = some v →
    (v.status = .running ∨ v.status = .stopping) → (s.slot k).wait = .sfree d n → FirstToGrow s v k → s.chunksBusy b v (v.chunk0 + v.chunks - n) n = false → 0 < n →
    freeStatus v n = none → v.chunk0 + v.chunks ≤ 128 →
    ∃ t, exec (.sfreeComplete k) s = .next t ∧ BandIs s t b { v with chunks := v.chunks - n } ∧ t.mem = s.mem ∧
      (∀ f c, c < 128 → Tab.get 0 t.chunkKind (128 * f + c) =
        if f ∈ v.fields ∧ v.chunk0 + v.chunks - n ≤ c ∧ c < v.chunk0 + v.chunks then 0 else Tab.get 0 s.chunkKind (128 * f + c)) ∧
      (∀ j, j ≠ k → t.slot j = s.slot j) ∧ GoesOnWith d 0 (s.slot k) (t.slot k)

/-- R197, R199: PBIND in the row that owns its edge binds a good descriptor from position 0, or queues it behind the current
one, or waits while one is queued; in another row it traps PORTUNBOUND, and on a descriptor that breaks a check BADDESC with
its word. PFLUSH drops the bindings of the edges its row owns, and waits at its word for a drain that still holds values or has
results on their way. R197 to R199: a queued binding starts when the current one has ended; the zenith reads, and the nadir
writes, the VV, ACC and weight values of a tensor of one dimension in order, in side or global memory, and neither before the
accesses that the slot issued ahead of its PBIND; a drained PFLUSH ends. The order of a tensor's elements in a stream and the
engine that serves it are readings (log entries 23 and 25). Completes: pbind, pflush, bindingStart, zenithRead, nadirWrite,
pflushComplete. Readings: log entries 3 (one value is one act), 23, 25, 26. -/
def Obligations.EdgesOfLinkedBands : Prop :=
  ((∀ (a : DSrc) (kind : PortKind) (nad : Bool) (b : Nat) (v : Band) (s : State), CanIssue s → (here s).band = some b → s.band? b = some v →
     Owns s v nad → Ready s (dUse 0 a) [] → Sound (bindChecks nad kind ((here s).dr a.reg)) → (edgeOf v nad).queued = none →
     let e := edgeOf v nad
     let free := s.copyFree (fieldHere s)
     let n : Binding := ⟨(here s).dr a.reg, kind, s.cur, s.nextId, 0, 0, free⟩
     ∃ t, exec (.pbind a kind nad) s = .next t ∧ t.slots = (sourced s (dUse 0 a) 8).slots ∧ t.mem = s.mem ∧ t.pend = s.pend ∧
       (e.cur = none → BandIs s t b (withEdge v nad ⟨some n, none, 0, e.buf, e.parked⟩) ∧
         t.copyLine = if free then s.copyLine else s.copyLine ++ [.stream b nad]) ∧
       (e.cur ≠ none → BandIs s t b (withEdge v nad { e with queued := some { n with entry := false } }) ∧
         t.copyLine = s.copyLine)) ∧
   (∀ (a : DSrc) (kind : PortKind) (nad : Bool) (op w : Nat) (v : Band) (s : State), s.bandOf s.cur = some v → InRow s .baddesc →
     Owns s v nad → Ready s (dUse 0 a) [] → FirstFault (bindChecks nad kind ((here s).dr a.reg)) op w →
     Traps (.pbind a kind nad) s .baddesc (badDesc op w) (here s).pc) ∧
   (∀ (a : DSrc) (kind : PortKind) (nad : Bool) (v : Band) (s : State), s.bandOf s.cur = some v → InRow s .portunbound → ¬ Owns s v nad →
     Traps (.pbind a kind nad) s .portunbound 2 (here s).pc) ∧
   (∀ (a : DSrc) (kind : PortKind) (nad : Bool) (v : Band) (s : State), s.bandOf s.cur = some v → CanIssue s → Owns s v nad →
     Ready s (dUse 0 a) [] → Sound (bindChecks nad kind ((here s).dr a.reg)) → (edgeOf v nad).queued ≠ none →
     exec (.pbind a kind nad) s = .next s) ∧
   ∀ (b : Nat) (v : Band) (s : State), CanIssue s → (here s).band = some b → s.band? b = some v →
     let done := v.nad.buf = [] ∧ (here s).reserved = []
     ∃ t, exec .pflush s = .next t ∧ (∀ k, k ≠ s.cur → t.slot k = s.slot k) ∧ (∀ loc, t.byte loc = s.byte loc) ∧
       (let c := (sourced s [] 8).slot s.cur
        (Owns s v true ∧ ¬ done → Waiting s .pflush c (t.slot s.cur)) ∧ (¬ (Owns s v true ∧ ¬ done) → t.slot s.cur = c)) ∧
       ∃ w, BandIs s t b w ∧ w = { v with zen := w.zen, nad := w.nad } ∧
         (Owns s v false → w.zen = unbound v.zen) ∧ (¬ Owns s v false → w.zen = v.zen) ∧
         (Owns s v true ∧ done → w.nad = unbound v.nad) ∧ (¬ (Owns s v true ∧ done) → w.nad = v.nad)) ∧
  ((∀ (b : Nat) (nad : Bool) (n : Binding) (v : Band) (s : State), Live s → s.band? b = some v → v.status = .running →
     (edgeOf v nad).cur = none → (edgeOf v nad).queued = some n →
     let free := s.copyFree (slotField n.slot)
     let e := edgeOf v nad
     ∃ t, exec (.bindingStart b nad) s = .next t ∧
       BandIs s t b (withEdge v nad ⟨some { n with entry := free }, none, 0, e.buf, e.parked⟩) ∧ t.slots = s.slots ∧ t.mem = s.mem ∧
       t.copyLine = if free then s.copyLine else s.copyLine ++ [.stream b nad]) ∧
   (∀ (b : Nat) (n : Binding) (v : Band) (at_ : Nat → Nat) (s : State), Live s → s.band? b = some v → v.status = .running →
     v.zen.cur = some n → n.entry = true → v.zen.parked = false → n.moved < n.total → v.zen.buf.length < 8 → slotField n.slot < 64 →
     s.bankUntil = [] → s.backoff = [] → NothingFirst s → tdRank n.desc = 1 → tdBitoff n.desc = 0 →
     let f := slotField n.slot
     let w := if n.kind = .vv then 8 else 64
     let base := tdBase n.desc + 64 * w * n.moved
     let number (l o len : Nat) := ((List.range len).map (fun i => (s.byte (at_ (base + w * l + o + i))).toNat * 256 ^ i)).sum
     (∀ i, i < 64 * w → EngineSees s f 0 v.asid (tdLocal n.desc) false (base + i) (at_ (base + i))) →
     (Behind s n.slot n.since → ∃ t q, exec (.zenithRead b) s = .next t ∧ t.slots = s.slots ∧ (∀ loc, t.byte loc = s.byte loc) ∧
       BandIs s t b { v with zen := { v.zen with
         buf := v.zen.buf ++ [⟨n.desc, n.slot, n.since, n.moved, q⟩], cur := some { n with moved := n.moved + 1 } } } ∧
       q.rel = false ∧ q.bad = false ∧ q.body.kind = n.kind ∧
       (n.kind = .vv → ∀ l, l < 64 →
         q.lane l = ⟨heldAs (tdFmt n.desc) (BitVec.ofNat 64 (number l 0 8)), tdFmt n.desc, tdScale n.desc⟩) ∧
       (n.kind = .acc → ∀ l e, l < 64 → e < 8 → element (q.acc l) e = number l (8 * e) 8 % 2 ^ 48) ∧
       (n.kind = .wc → ∀ l, l < 64 → (q.chunk l).data = BitVec.ofNat 512 (number l 0 64) ∧ (q.chunk l).mdata = 0 ∧
         (q.chunk l).sparse = false ∧ (q.chunk l).tag = tdFmt n.desc ∧
         ∀ c, c < 8 → (q.chunk l).scales.toNat / 256 ^ c % 256 = (tdScale n.desc).toNat)) ∧
     ((∃ p ∈ s.pend, p.slot = n.slot ∧ p.order < n.since ∧ ∀ r ∈ p.reqs, r.parked = false) → exec (.zenithRead b) s = .next s)) ∧
   (∀ (b : Nat) (q : StreamVal) (rest : List StreamVal) (v : Band) (at_ : Nat → Nat) (s : State), Live s → s.band? b = some v →
     v.status = .running → v.nad.buf = q :: rest → v.nad.parked = false → slotField q.slot < 64 → s.bankUntil = [] → s.backoff = [] →
     NothingFirst s → tdRank q.desc = 1 → tdBitoff q.desc = 0 →
     let f := slotField q.slot
     let w := if q.val.body.kind = .vv then 8 else 64
     64 * w * (q.p + 1) ≤ tdBytes q.desc →
     let base := tdBase q.desc + 64 * w * q.p
     let place (l i : Nat) := at_ (base + w * l + i)
     (∀ i, i < 64 * w → EngineSees s f 1 v.asid (tdLocal q.desc) true (base + i) (at_ (base + i))) →
     (∀ i j, i < 64 * w → j < 64 * w → at_ (base + i) = at_ (base + j) → i = j) →
     (Behind s q.slot q.since → ∃ t, exec (.nadirWrite b) s = .next t ∧ t.slots = s.slots ∧
       BandIs s t b { v with nad := { v.nad with buf := rest } } ∧
       (q.val.body.kind = .vv → ∀ l i, l < 64 → i < 8 → t.byte (place l i) = BitVec.ofNat 8 ((q.val.lane l).bits.toNat / 256 ^ i)) ∧
       (q.val.body.kind = .acc → ∀ l e i, l < 64 → e < 8 → i < 8 →
         t.byte (place l (8 * e + i)) = BitVec.ofNat 8 (element (q.val.acc l) e / 256 ^ i)) ∧
       (q.val.body.kind = .wc → ∀ l i, l < 64 → i < 64 → t.byte (place l i) = BitVec.ofNat 8 ((q.val.chunk l).data.toNat / 256 ^ i)) ∧
       ∀ loc, (∀ i, i < 64 * w → loc ≠ at_ (base + i)) → t.byte loc = s.byte loc) ∧
     ((∃ p ∈ s.pend, p.slot = q.slot ∧ p.order < q.since ∧ ∀ r ∈ p.reqs, r.parked = false) → exec (.nadirWrite b) s = .next s)) ∧
   ∀ (k b : Nat) (v : Band) (s : State), Live s → (s.slot k).band = some b → s.band? b = some v → v.status = .running →
     (s.slot k).wait = .pflush →
     (v.nad.buf = [] → (s.slot k).reserved = [] → ∃ t, exec (.pflushComplete k) s = .next t ∧
       BandIs s t b { v with nad := unbound v.nad } ∧ OnlySlot { s with bands := t.bands } t k GoesOn) ∧
     (v.nad.buf ≠ [] ∨ (s.slot k).reserved ≠ [] → exec (.pflushComplete k) s = .next s))

/-! ## Record queues and counters (spec/12, spec/15) -/

namespace Sys2Proof.Claims

/-- A byte that a word may read now: its address resolves, its target grants it, it is not poisoned, its page is not migrating, and
in HBM it lies in a plaintext line whose bank is available (R240, R223, R228, R230). -/
def Readable (s : State) (v : Band) (q : Manner) (va : Word) : Prop :=
  let r := request s v { q with n := 1 } 0 [] va [] [] []
  Lands s v { q with n := 1 } va ∧ s.denied r.loc r.key (slotField s.cur) true false = false ∧ s.poisonedAt r.loc 1 = false ∧
  PlainAt s r ∧ (r.loc < 2 ^ 40 → s.bankBusy r.loc = false)

/-- No access of another slot counts as performed in a narrow scope only, so that a read need come behind it (R275). -/
def NoMarks (s : State) : Prop := ∀ p ∈ s.pend, p.slot ≠ s.cur → p.marks = []

/-- The bytes from an address up. -/
def bytesAt (s : State) (v : Band) (q : Manner) (a : Word) (len : Nat) : List Byte :=
  (List.range len).map (fun j => s.byte (locOf s v { q with n := 1 } (a + BitVec.ofNat 64 j)))

/-- A word sends one message to a home die, as its slot's latest; its slot changes as `P` says, and nothing else of the rows and no
byte of memory. -/
def Sends (i : Instr) (s : State) (us : List Use) (size die : Nat) (op : MsgOp) (region : Nat) (P : Slot → Slot → Prop) : Prop :=
  ∃ t, exec i s = .next t ∧ t.msgs = s.msgs ++ [⟨s.nextId, s.cur, ((here s).band).getD 0, die, op, region, 0, 0, false⟩] ∧
    t.nextId = s.nextId + 1 ∧ (∀ k, k ≠ s.cur → t.slot k = (sourced s us size).slot k) ∧ t.bands = (sourced s us size).bands ∧
    (∀ loc, t.byte loc = s.byte loc) ∧ P ((sourced s us size).slot s.cur) (t.slot s.cur)

/-- The same for a word that waits in its slot for the answer and takes its sources with it (R70; log entry 60). -/
def SendsAndWaits (i : Instr) (s : State) (us : List Use) (size die : Nat) (op : MsgOp) (region : Nat) (w : Wait)
    (P : Slot → Slot → Prop) : Prop :=
  Sends i s [] size die op region (fun c c' => ∃ c1 c2, P c c1 ∧ Waiting s w c1 c2 ∧ c' = { c2 with late := tookCodes us })

/-- The die that judges for a node index: the node's home, the row's own die past the table (R299). -/
def dieFor (s : State) (node : Word) : Nat := if node.toNat < 4096 then nodeHome (s.node node.toNat) else slotRow s.cur / 512

/-- A payload operand: its manner, address, length; the time-out of ENQB (R298, R301). -/
structure EnqForm where
  b   : Bool
  d   : Fin 32
  n   : XSrc
  p   : XSrc
  c   : XSrc
  t   : Bool
  loc : Bool

def enqForm : Instr → Option EnqForm
  | .enq d a b c t loc => some ⟨false, d, a, b, c, t, loc⟩
  | .enqb d a b c t loc => some ⟨true, d, a, b, c, t, loc⟩
  | _ => none

/-- A word that only asks a home die about one number: sources, destination register, die, message, and how its slot goes on. -/
structure AskForm where
  us   : List Use
  dsts : List Nat
  die  : State → Nat
  op   : State → MsgOp
  wait : Option Wait

def askForm : Instr → Option AskForm
  | .qflush a => some ⟨xUse 0 a, [], fun s => dieFor s (xv s a), fun s => .qflush (xv s a), none⟩
  | .qstat d a => some ⟨xUse 0 a, [codeX d], fun s => dieFor s (xv s a), fun s => .qstat (xv s a) d, some .reply⟩
  | .jread d a => some ⟨xUse 0 a, [codeX d], fun s => (xv s a).toNat % 65536 / 8192,
      fun s => .jread ((xv s a).toNat % 65536) d, some .reply⟩
  | _ => none

/-- A message that may arrive at its home die: behind its slot's earlier ones to that die (R234), an ENQ behind the retries of the
ENQBs held there (R301), an ENQ or JDEC behind every earlier access, enqueue and collective of its slot and every value its streams
have accepted, but those to peer memory alone and those a translation fault holds (R284, R286, R302, R367). -/
def MayArrive (s : State) (id : Nat) (m : Msg) : Prop :=
  Live s ∧ m ∈ s.msgs ∧ m.id = id ∧ (∀ q ∈ s.msgs, q.id = id → q = m) ∧
  (∀ q ∈ s.msgs, q.slot = m.slot → q.id < id → q.die ≠ m.die) ∧
  ((∃ n p l e d t b w, m.op = .enq n p l e d t b w) → ∀ q ∈ s.heldEnq, q.die = m.die → q.due = false) ∧
  ((∃ n p l e d t b w, m.op = .enq n p l e d t b w) ∨ (∃ i d, m.op = .jdec i d) →
    (∀ q ∈ s.msgs, q.slot = m.slot → id ≤ q.id) ∧ (∀ q ∈ s.heldEnq, q.slot = m.slot → id ≤ q.id) ∧
    (∀ c ∈ s.colls, c.slot = m.slot → c.id < id →
      c.err ≠ none ∨ c.parked = true ∨ (c.started = true ∧ 0 < c.total ∧ c.total ≤ c.steps)) ∧
    (∀ p ∈ s.bandList, p.2.nad.parked = true ∨ ∀ q ∈ p.2.nad.buf, q.slot = m.slot → id ≤ q.since) ∧
    ∀ p ∈ s.pend, p.slot = m.slot → p.order < id → (∀ r ∈ p.reqs, spaceOf r.loc = .peer) ∨ ∃ r ∈ p.reqs, r.parked = true)

/-- The same of a message whose band takes its results. -/
def Arrives (s : State) (id : Nat) (m : Msg) : Prop := MayArrive s id m ∧ s.takesResults m.band = true

/-- A waiting word takes its sources, its register its long-latency result, and the slot goes on. -/
def EndsWith (d : Nat) (w : Word) (c c' : Slot) : Prop :=
  ∃ c1 c2, TookLate c c1 ∧ FilledX d w c1 c2 ∧ c' = { goesTo c2 c.npc with wait := .none }

/-- The slot of an ENQ: its register takes the status; under `.t` it goes on (R300). -/
def EnqEnded (d : Nat) (t : Bool) (w : Word) (c c' : Slot) : Prop := if t then EndsWith d w c c' else FilledX d w c c'

/-- The release of a record is one that a held ENQB is retried for: of an entry at its die, or of its node's region (R301). -/
def Helps (s : State) (r : RecRef) (m : Msg) : Bool :=
  match m.op with
  | .enq node _ _ _ _ _ _ _ => decide (m.die = r.die) || decide (r.charge = some (nodeRegion (s.node node.toNat)))
  | _ => false

/-- Records with inline payloads in the plain areas of dies that spill nothing are released: their entries are free, and the ENQBs
they may help are to be retried. -/
def Released (s t : State) (rs : List RecRef) : Prop :=
  t.heldEnq = s.heldEnq.map (fun m => if rs.any (fun r => Helps s r m) then { m with due := true } else m) ∧
  ∀ die i, i < 2 ^ 20 → Tab.get false t.recUsed (die * 2 ^ 20 + i) =
    (Tab.get false s.recUsed (die * 2 ^ 20 + i) && !rs.any (fun r => decide (r.die = die) && decide (r.idx = i)))

/-- Records that `Released` speaks of. -/
def PlainRecs (s : State) (rs : List RecRef) : Prop :=
  ∀ r ∈ rs, r.block = none ∧ r.spill = false ∧ r.idx < 507904 ∧ s.spilledOf r.die = []

/-- Every region on the path that limits record slots, the root and those whose override bit 4 is set, has room for one (R346). -/
abbrev SlotsFit (s : State) (i : Nat) : Prop :=
  ∀ r ∈ s.regionPath i, r = 0 ∨ regOvr (s.region r) 4 = true → s.slotsUsed r + 1 ≤ regQBud (s.region r)

/-- The refusal of a record with an inline payload (Table 12.4): 4 REJECTED, 3 DEPTH, 2 FULL. -/
def refusal (s : State) (region : Nat) (node : Word) (len depth : Nat) : Option Nat :=
  let e := s.node node.toNat
  if ¬ (node.toNat < 4096 ∧ nodeValid e = true ∧ s.descends (nodeRegion e) region = true) ∨ nodePsize e < len then some 4
  else if nodeDepth e < depth then some 3
  else if ¬ SlotsFit s (nodeRegion e) ∨ s.recPlace (nodeHome e) false = none then some 2
  else none

/-- A condition of R304 holds for a node: a full batch; a head that has waited its time, with a count of records; a flush. -/
def LaunchDue (s : State) (n : Nat) : Prop :=
  let e := s.node n
  let c := (s.queue n).length
  nodeValid e = true ∧ (nodeBatch e ≤ c ∨
    (1 ≤ c ∧ nodeTimer e ≠ 0 ∧ nodeTimer e ≠ 0xFFFFFFFF ∧
      ∃ r ∈ (s.queue n).head?, nodeTimer e ≤ s.time.toNat - numberAt s (entryAt r.die r.idx + 8) 8) ∨
    (1 ≤ c ∧ nodeTimer e ≠ 0 ∧ Tab.get false s.nodeFlush n = true))

/-- The 32 bytes of a join counter (Table 15.1). -/
def ctrAt (i : Nat) : Nat := 2 ^ 41 + i / 8192 * 2 ^ 24 + 32 * (i % 8192)

/-- A message's field may read and write the counter's die (R365). -/
def CtrOpen (s : State) (m : Msg) (i : Nat) : Prop :=
  s.grants (0x80 + i / 8192) (slotField m.slot) false = true ∧ s.grants (0x80 + i / 8192) (slotField m.slot) true = true

end Sys2Proof.Claims

/-- R298 to R302: ENQ and ENQB read their payload and send it to the die that judges it; their status register awaits the
answer, and `.t` holds the slot at its word. R306, R307, R315, R316, R366, R367, R369: QFLUSH, QSTAT, JREAD, JDEC, JINIT and
DEQ send one message each, and all but QFLUSH hold their slot for the answer; RECDONE waits for its window's release; DEQ of 0
and DEQ or RECDONE without a window end at once. Completes: enq, enqb, qflush, qstat, jread, jdec, jinit, deq, recdone.
Readings: log entries 60, 61, 85. -/
def Obligations.QueueAndEnqueueWords : Prop :=
  (∀ (i : Instr) (f : EnqForm) (v : Band) (s : State), enqForm i = some f → CanIssue s → s.bandOf s.cur = some v →
     let us := xUse 0 f.n ++ xUse 1 f.p ++ xUse 2 f.c
     let C := (xv s f.c).toNat
     let L := C % 2 ^ 13
     let q : Manner := ⟨!f.loc, .read, false, false, 1⟩
     let limit : Option Nat := if f.b = false then some 0 else if C / 2 ^ 32 = 0xFFFFFFFF then none else some (C / 2 ^ 32)
     Ready s us [codeX f.d] → (∀ j, j < L → Readable s v q (xv s f.p + BitVec.ofNat 64 j)) → NoMarks s →
     let op := MsgOp.enq (xv s f.n) (bytesAt s v q (xv s f.p) L) L (v.depth + 1) f.d f.t f.b limit
     if f.t then SendsAndWaits i s us 8 (dieFor s (xv s f.n)) op v.region .enqT (Awaits (codeX f.d))
     else Sends i s us 8 (dieFor s (xv s f.n)) op v.region (Awaits (codeX f.d))) ∧
  ((∀ (i : Instr) (f : AskForm) (v : Band) (s : State), askForm i = some f → CanIssue s → s.bandOf s.cur = some v → Ready s f.us f.dsts →
     match f.wait with
       | some w => SendsAndWaits i s f.us 8 (f.die s) (f.op s) v.region w (fun c c1 => c1 = c)
       | none => Sends i s f.us 8 (f.die s) (f.op s) v.region (fun c c' => c' = c)) ∧
   (∀ (d : Fin 32) (a : XSrc) (v : Band) (s : State), CanIssue s → s.bandOf s.cur = some v → Ready s (xUse 0 a) [codeX d] →
     let n := (xv s a).toNat % 65536
     SendsAndWaits (.jdec d a) s (xUse 0 a) 8 (n / 8192) (.jdec n d) v.region .jdec (Awaits (codeX d))) ∧
   (∀ (a b : XSrc) (loc : Bool) (v : Band) (s : State), CanIssue s → s.bandOf s.cur = some v →
     let us := xUse 0 a ++ xUse 1 b
     let q : Manner := ⟨!loc, .read, false, false, 1⟩
     let bs := bytesAt s v q (xv s b) 32
     let n := (xv s a).toNat % 65536
     Ready s us [] → (xv s b).toNat % 32 = 0 → (∀ j, j < 32 → Readable s v q (xv s b + BitVec.ofNat 64 j)) → NoMarks s →
     ofBytes (bs.take 4) ≠ 0 → ofBytes ((bs.drop 4).take 2) ≤ 4095 → ofBytes ((bs.drop 6).take 2) = 0 → ofBytes (bs.drop 24) = 0 →
     v.depth ≠ 31 →
     SendsAndWaits (.jinit a b loc) s us 8 (n / 8192) (.jinit n bs (v.depth + 1)) v.region .jinit (fun c c1 => c1 = c)) ∧
   (∀ (d : Fin 32) (b : XOp) (v : Band) (s : State), CanIssue s → s.bandOf s.cur = some v → Ready s (opUse b) [codeX d] →
     (ov s b = 0 → Acts (.deq d b) s (opUse b) (opSize b) (WroteX d 0)) ∧
     (ov s b ≠ 0 → v.windowHeld = false → Acts (.deq d b) s (opUse b) (opSize b) (WroteX d 0x8000000000000000)) ∧
     (ov s b ≠ 0 → v.windowHeld = true → SendsAndWaits (.deq d b) s (opUse b) (opSize b) (nodeHome (s.node v.node))
       (.deq (min (ov s b).toNat v.batch) d) v.region (.deq d) (fun c c1 => c1 = c))) ∧
   ∀ (v : Band) (s : State), CanIssue s → s.bandOf s.cur = some v →
     Acts .recdone s [] 8 (fun c c' => if v.windowHeld then Waiting s .recdone c c' else c' = c))

/-- R299 to R301, Table 12.4: an ENQ with an inline payload is refused with its code, or accepted at its queue's tail with its
sequence number; an ENQB that meets a full queue is held, retried at its die, and ends with its last status when its time-out
has passed. Completes: enqArrival, enqbRetry, enqbTimeout. Readings: log entries 59, 61, 63, 82. -/
def Obligations.EnqueueEvents : Prop :=
  ∀ (id : Nat) (m : Msg) (node : Word) (payload : List Byte) (len depth d : Nat) (t b : Bool) (timeout : Option Nat) (s : State),
    m.op = .enq node payload len depth d t b timeout → len ≤ 16 → d < 32 →
    let ref := refusal s m.region node len depth
    let e := s.node node.toNat
    let seq := (Tab.get 0#32 s.nodeSeq node.toNat).toNat
    (Arrives s id m →
      (∀ code, ref = some code → b = false → (t = true → code ≠ 3) →
        ∃ u, exec (.enqArrival id) s = .next u ∧ u.msgs = s.msgs.filter (fun q => q.id ≠ id) ∧ (∀ n, u.queue n = s.queue n) ∧
          OnlySlot s u m.slot (EnqEnded d t (BitVec.ofNat 64 code))) ∧
      (∀ i, ref = none → s.recPlace (nodeHome e) false = some (false, i) →
        ∃ u, exec (.enqArrival id) s = .next u ∧ u.msgs = s.msgs.filter (fun q => q.id ≠ id) ∧
          Accepted s u (nodeHome e) i node.toNat 0 depth len payload (some (nodeRegion e)) ∧
          (∀ k, k ≠ m.slot → u.slot k = s.slot k) ∧ EnqEnded d t (BitVec.ofNat 64 (seq * 2 ^ 32)) (s.slot m.slot) (u.slot m.slot)) ∧
      (ref = some 2 → b = true → timeout ≠ some 0 → s.bandRuns m.band = true →
        ∃ u, exec (.enqArrival id) s = .next u ∧ u.slots = s.slots ∧ u.heldEnq = s.heldEnq ++ [{ m with
          die := if node.toNat < 4096 then nodeHome e else slotRow m.slot / 512, since := s.time, status := 2 }])) ∧
    (Live s → s.takesResults m.band = true → s.heldEnq.filter (fun q => q.die == m.die && q.due) = [m] → m.id = id →
      (∀ q ∈ s.heldEnq, q.id = id → q = m) →
      (∀ i, ref = none → s.recPlace (nodeHome e) false = some (false, i) →
        ∃ u, exec (.enqbRetry m.die) s = .next u ∧ u.heldEnq = s.heldEnq.filter (fun q => q.id ≠ id) ∧
          Accepted s u (nodeHome e) i node.toNat 0 depth len payload (some (nodeRegion e)) ∧
          (∀ k, k ≠ m.slot → u.slot k = s.slot k) ∧ EnqEnded d t (BitVec.ofNat 64 (seq * 2 ^ 32)) (s.slot m.slot) (u.slot m.slot)) ∧
      (ref = some 2 → exec (.enqbRetry m.die) s = .next { s with
        heldEnq := s.heldEnq.map (fun q => if q.id = id then { q with status := 2, due := false } else q) })) ∧
    ∀ lim, Live s → s.takesResults m.band = true → s.heldEnq.find? (fun q => q.id == id) = some m → timeout = some lim →
      lim ≤ (s.time - m.since).toNat → m.status ≠ 0 → (t = true → m.status ≠ 3) →
      ∃ u, exec (.enqbTimeout id) s = .next u ∧ u.heldEnq = s.heldEnq.filter (fun q => q.id ≠ id) ∧
        OnlySlot s u m.slot (EnqEnded d t (BitVec.ofNat 64 m.status))

/-- R303 to R307, R315, R316, R294, R392: what QFLUSH, QSTAT and DEQ do at the home die, the release of a window, a launch
request raised when its condition holds, and a poisoned record's removal. Completes: recdoneRelease, qflushArrival,
qstatArrival, deqRefill, launchAgeExpiry, poisonedRecordRemove. Readings: log entries 20, 28 (the depth of an empty launch),
62, 66, 71, 82. -/
def Obligations.QueueEvents : Prop :=
  (∀ (id : Nat) (m : Msg) (node : Word) (s : State), MayArrive s id m → m.op = .qflush node →
    s.mayEnqueue m.region node = true → nodeTimer (s.node node.toNat) ≠ 0 →
    ∃ t, exec (.qflushArrival id) s = .next t ∧ (∀ n, Tab.get false t.nodeFlush n = if n = node.toNat then true else Tab.get false s.nodeFlush n) ∧
      t.slots = s.slots ∧ t.mem = s.mem ∧ t.msgs = s.msgs.filter (fun q => q.id ≠ id)) ∧
  (∀ (id d : Nat) (m : Msg) (node : Word) (s : State), Arrives s id m → m.op = .qstat node d → d < 32 →
    ∃ t, exec (.qstatArrival id) s = .next t ∧ t.msgs = s.msgs.filter (fun q => q.id ≠ id) ∧ OnlySlot s t m.slot (GoesOnWith d
      (if s.mayEnqueue m.region node then BitVec.ofNat 64 ((if (Tab.get none s.nodeReq node.toNat).isSome then 2 ^ 62 else 0) +
        (if Tab.get false s.nodeFlush node.toNat then 2 ^ 61 else 0) + s.bandsOf node.toNat * 2 ^ 32 + (s.queue node.toNat).length)
       else 0x8000000000000000))) ∧
  (∀ (id d f : Nat) (m : Msg) (v : Band) (r : RecRef) (rest : List RecRef) (s : State), Arrives s id m → m.op = .deq 1 d → d < 32 →
    s.band? m.band = some v → v.windowHeld = true → v.records = [] → s.queue v.node = r :: rest → r.spill = false →
    s.recPoisoned r = false →
    let w := numberAt s (2 ^ 41 + r.die * 2 ^ 24 + (0x80000 + 32 * r.idx) % 2 ^ 24) 32
    let field (hi lo : Nat) := w / 2 ^ lo % 2 ^ (hi + 1 - lo)
    let len := min (field 12 0) v.psize
    field 19 15 ≤ v.depth → field 12 0 ≤ 16 → v.fields = [f] → f < 64 → s.grants (0x40 + f) 0xD0 true = true → 32 ≤ v.stride →
    65536 * v.winChunk + v.stride ≤ 2 ^ 23 →
    let entry := lowBytes v.stride (field 12 0 + field 19 15 * 2 ^ 16 + field 14 13 * 2 ^ 24 + field 63 32 * 2 ^ 32 +
      field 127 64 * 2 ^ 64 + field 255 128 % 2 ^ (8 * len) * 2 ^ 128)
    ∃ t, exec (.deqRefill id) s = .next t ∧ t.queue v.node = rest ∧ BandIs s t m.band { v with records := [r], reccount := 1 } ∧
      (∀ loc, t.byte loc = if sideLoc f (65536 * v.winChunk) ≤ loc ∧ loc < sideLoc f (65536 * v.winChunk) + v.stride then
        entry.getD (loc - sideLoc f (65536 * v.winChunk)) 0 else s.byte loc) ∧
      (∀ k, k ≠ m.slot → t.slot k = s.slot k) ∧ GoesOnWith d 1 (s.slot m.slot) (t.slot m.slot)) ∧
  (∀ (k b : Nat) (v : Band) (s : State), Live s → (s.slot k).band = some b → s.band? b = some v → (s.slot k).wait = .recdone →
    v.status = .running ∨ v.status = .stopping →
    let top := v.winChunk + v.winChunks = v.chunk0 + v.chunks
    v.windowHeld = true → PlainRecs s v.records → v.chunk0 + v.chunks ≤ 128 → (top → s.chunksBusy b v v.winChunk v.winChunks = false) →
    ∃ t, exec (.recdoneRelease k) s = .next t ∧ BandIs s t b { v with
        reccount := 0, windowHeld := false, records := [], chunks := if top then v.chunks - v.winChunks else v.chunks } ∧
      t.mem = s.mem ∧ Released s t v.records ∧
      (∀ f c, c < 128 → Tab.get 0 t.chunkKind (128 * f + c) =
        if top ∧ f ∈ v.fields ∧ v.winChunk ≤ c ∧ c < v.winChunk + v.winChunks then 0 else Tab.get 0 s.chunkKind (128 * f + c)) ∧
      OnlySlot { s with bands := t.bands } t k GoesOn) ∧
  (∀ (k b : Nat) (v : Band) (s : State), Live s → (s.slot k).band = some b → s.band? b = some v → (s.slot k).wait = .recdone →
    (v.status = .running ∨ v.status = .stopping) → v.windowHeld = false → ∃ t, exec (.recdoneRelease k) s = .next t ∧ OnlySlot s t k GoesOn) ∧
  (∀ (n : Nat) (s : State), Live s → (∀ r ∈ (s.queue n).head?, r.spill = false) → Tab.get none s.nodeReq n = none →
    (LaunchDue s n → exec (.launchAgeExpiry n) s = .next { s with nodeReq := Tab.set none s.nodeReq n (some (s.time, s.steps)) }) ∧
    (¬ LaunchDue s n → exec (.launchAgeExpiry n) s = .next s)) ∧
  ∀ (n : Nat) (r : RecRef) (rest : List RecRef) (s : State), Live s → s.queue n = r :: rest → s.poisonedAt (entryAt r.die r.idx) 32 = true →
    PlainRecs s [r] →
    ∃ t u : State, exec (.poisonedRecordRemove n) s = .next t ∧ u.queue n = rest ∧ (∀ j, j ≠ n → u.queue j = s.queue j) ∧ Released s u [r] ∧
      u = { s with queues := u.queues, heldEnq := u.heldEnq, recUsed := u.recUsed } ∧
      let w := u.postFault (nodeRegion (s.node n)) 0x10 2 0xFFFF 0xFF 0 n 0 0 (BitVec.ofNat 64 r.seq)
      t = { w with nodeReq := t.nodeReq }

/-- R363 to R369, Tables 15.1 to 15.3: arming writes the counter's 32 bytes; a decrement lowers the count, the one to 0 fires
and enqueues the counter's record, or waits for an entry for it, and one at 0 answers 2; a read answers state, node and count.
Completes: jinitArrival, jdecArrival, joinRecordAccept, jreadArrival. Readings: log entries 20, 59, 61, 82. -/
def Obligations.JoinCounters : Prop :=
  (∀ (id i depth : Nat) (m : Msg) (bs : List Byte) (s : State), Arrives s id m → m.op = .jinit i bs depth → i < 65536 → CtrOpen s m i →
    ∃ t, exec (.jinitArrival id) s = .next t ∧ t.msgs = s.msgs.filter (fun q => q.id ≠ id) ∧ t.bands = s.bands ∧
      (∀ loc, t.byte loc = if ctrAt i ≤ loc ∧ loc < ctrAt i + 32 then
        (lowBytes 32 (ofBytes (bs.take 4) + ofBytes ((bs.drop 4).take 2) * 2 ^ 32 + 2 ^ 48 + depth * 2 ^ 56 +
          ofBytes ((bs.drop 8).take 16) * 2 ^ 64)).getD (loc - ctrAt i) 0 else s.byte loc) ∧
      (∀ k, k ≠ m.slot → t.slot k = s.slot k) ∧ GoesOn (s.slot m.slot) (t.slot m.slot)) ∧
  (∀ (id i d : Nat) (m : Msg) (s : State), Arrives s id m → m.op = .jdec i d → d < 32 → i < 65536 → CtrOpen s m i → s.ctrBad i = false →
    let w := numberAt s (ctrAt i) 32
    let n := w % 2 ^ 32
    let node := w / 2 ^ 32 % 2 ^ 12
    (n = 0 → ∃ t, exec (.jdecArrival id) s = .next t ∧ OnlySlot s t m.slot (EndsWith d 2)) ∧
    (2 ≤ n → ∃ t, exec (.jdecArrival id) s = .next t ∧ numberAt t (ctrAt i) 32 = w - 1 ∧
      (∀ loc, ¬ (ctrAt i ≤ loc ∧ loc < ctrAt i + 32) → t.byte loc = s.byte loc) ∧ (∀ k, k ≠ m.slot → t.slot k = s.slot k) ∧
      EndsWith d 0 (s.slot m.slot) (t.slot m.slot)) ∧
    (n = 1 → ∀ e, s.recPlace (nodeHome (s.node node)) true = some (false, e) → e < 507904 →
      ∃ t, exec (.jdecArrival id) s = .next t ∧ numberAt t (ctrAt i) 4 = 0 ∧
        numberAt t (ctrAt i + 6) 1 % 4 = 2 ∧ t.queue node = s.queue node ++ [⟨nodeHome (s.node node), false, e,
          (Tab.get 0#32 s.nodeSeq node).toNat, none, 16, none⟩] ∧ (∀ k, k ≠ m.slot → t.slot k = s.slot k) ∧
        EndsWith d 1 (s.slot m.slot) (t.slot m.slot)) ∧
    (n = 1 → s.recPlace (nodeHome (s.node node)) true = none →
      ∃ t h, exec (.jdecArrival id) s = .next t ∧ t.heldRec = s.heldRec ++ [h] ∧ h.node = node ∧ h.jdec = some m ∧ t.slots = s.slots)) ∧
  (∀ (die e i d : Nat) (h : HeldRec) (m : Msg) (rest : List HeldRec) (s : State), Live s → s.heldRec = h :: rest → h.die = die →
    h.payload.length ≤ 16 → s.recPlace die true = some (false, e) → h.jdec = some m → m.op = .jdec i d → d < 32 →
    s.takesResults m.band = true →
    ∃ t, exec (.joinRecordAccept die) s = .next t ∧ t.heldRec = rest ∧
      Accepted s t die e h.node h.origin h.depth h.payload.length h.payload none ∧ (∀ k, k ≠ m.slot → t.slot k = s.slot k) ∧
      EndsWith d 1 (s.slot m.slot) (t.slot m.slot)) ∧
  ∀ (id i d : Nat) (m : Msg) (s : State), Arrives s id m → m.op = .jread i d → d < 32 → i < 65536 → CtrOpen s m i → s.ctrBad i = false →
    let w := numberAt s (ctrAt i) 32
    ∃ t, exec (.jreadArrival id) s = .next t ∧ t.msgs = s.msgs.filter (fun q => q.id ≠ id) ∧ OnlySlot s t m.slot (GoesOnWith d
      (BitVec.ofNat 64 (w / 2 ^ 48 % 4 * 2 ^ 61 + w / 2 ^ 32 % 2 ^ 12 * 2 ^ 32 + w % 2 ^ 32)))

/-! ### Barriers, arrival counters, event counters, CSRs (R111-R116, R370-R380) -/

namespace Sys2Proof.Claims

/-- A barrier arrival that is no mismatch (R374). -/
def GoodArrival (v : Band) (i n : Nat) : Prop :=
  n ≠ 0 ∧ n ≤ v.height ∧ ((v.barrier i).expect = 0 ∨ (v.barrier i).expect = n)

/-- The accesses that a release at a scope narrower than the package covers count as performed there, and nothing else of the
outstanding work changes. -/
def Orders (s t : State) (scope : Scope) : Prop := ∃ u, ReleasedIn s scope 0x7F u ∧ t.pend = u.pend ∧ t.nextId = u.nextId

/-- The slot has arrived at barrier `i` in phase `ph`. -/
def Arrived (i : Nat) (ph : BitVec 16) (owes : Bool) (c c' : Slot) : Prop :=
  c' = { c with owed := c'.owed, lastPhase := c'.lastPhase } ∧
  (∀ j, j < 16 → c'.owed.getLsbD j = if j = i then owes else c.owed.getLsbD j) ∧
  ∀ j, c'.lastOf j = if j = i then ph else c.lastOf j

/-- The writable bits of a CSR; none for one that is read-only (Table 5.3). -/
def writable (n : Nat) : Word :=
  match n with
  | 0 => 0x77
  | 1 => 0x3F
  | 2 => 0xFF
  | 3 | 5 => 0x01FFFFFFFFFFFFF8
  | 4 => BitVec.allOnes 64
  | _ => 0

/-- The slot's CSRs 0 to 5. -/
def slotCsrs (c : Slot) : List Word := [c.fpmode, c.lanestat, c.trapcause, c.trappc, c.trapinfo, c.tvec]

/-- A CSR write: its source, number, and the value that old value and source give (R116). -/
def csrForm : Instr → Option (XSrc × BitVec 12 × (Word → Word → Word))
  | .csrw a n => some (a, n, fun _ v => v)
  | .csrs a n => some (a, n, fun old v => old ||| v)
  | .csrc a n => some (a, n, fun old v => old &&& ~~~v)
  | _ => none

end Sys2Proof.Claims

/-- R373 to R375: an arrival, which is a release at band scope, waits for the work of its slot that is left, and the accesses
before it count as performed in the band from there on; one that does not complete its phase is counted, and BARR waits for it;
the last one starts the next phase and lets every slot that waits at the barrier go on; BARW waits while the phase it arrived
in is open; a mismatch traps BARMISMATCH. Completes: barr, bara, barw. Readings: log entries 62 (the arrival waits at its
word), 92 (releases in a scope narrower than the package). -/
def Obligations.NamedBarriers : Prop :=
  ∀ (a : XSrc) (b : XOp) (wait : Bool) (bn : Nat) (v : Band) (s : State), (here s).band = some bn → s.band? bn = some v →
    let us := xUse 0 a ++ opUse b
    let n := (xv s a).toNat
    let i := (ov s b).toNat % 16
    let o := v.barrier i
    let word := if wait then Instr.barr a b else .bara a b
    let barriers (w : Band) : Prop := w = { v with barriers := w.barriers } ∧ ∀ j, j ≠ i → w.barrier j = v.barrier j
    Ready s us [] →
    (¬ GoodArrival v i n → InRow s .barmismatch →
      Traps word s .barmismatch (BitVec.ofNat 64 (o.expect % 65536 * 2 ^ 32 + n % 65536)) (here s).pc) ∧
    (CanIssue s → GoodArrival v i n → WorkLeft s 0x7F → exec word s = .next s) ∧
    (CanIssue s → GoodArrival v i n → ¬ WorkLeft s 0x7F →
      (o.arrivals + 1 ≠ n → ∃ t w, exec word s = .next t ∧ Orders s t .band ∧ BandIs s t bn w ∧ barriers w ∧ w.barrier i = ⟨o.phase, n, o.arrivals + 1⟩ ∧
        (∀ k, k ≠ s.cur → t.slot k = s.slot k) ∧ (∀ loc, t.byte loc = s.byte loc) ∧
        ∃ c1, Arrived i o.phase true ((sourced s us (opSize b)).slot s.cur) c1 ∧
          (wait = true → Waiting s (.barrier i) c1 (t.slot s.cur)) ∧ (wait = false → t.slot s.cur = c1)) ∧
      (o.arrivals + 1 = n → (here s).wait = .none → ∃ t w, exec word s = .next t ∧ Orders s t .band ∧ BandIs s t bn w ∧ barriers w ∧
        w.barrier i = ⟨o.phase + 1, 0, 0⟩ ∧ (∀ loc, t.byte loc = s.byte loc) ∧
        Arrived i o.phase (!wait) ((sourced s us (opSize b)).slot s.cur) (t.slot s.cur) ∧
        ∀ k, k ≠ s.cur → ((k ∉ v.slotKeys ∨ (s.slot k).wait ≠ .barrier i) → t.slot k = s.slot k) ∧
          (k ∈ v.slotKeys → v.height ≤ 4096 → (s.slot k).wait = .barrier i →
            GoesOn { s.slot k with owed := (t.slot k).owed } (t.slot k) ∧
            ∀ j, j < 16 → (t.slot k).owed.getLsbD j = if j = i then false else (s.slot k).owed.getLsbD j))) ∧
    (CanIssue s → Acts (.barw b) s (opUse b) (opSize b) (fun c c' =>
      if c.owed.getLsbD i = false then c' = c
      else if o.phase = c.lastOf i then Waiting s (.barrier i) c c'
      else Arrived i (c.lastOf i) false c c'))

/-- R370 to R372, R377, R378: ACNT adds its operand to an arrival counter, under .rel as a release at field scope, ASET sets
one; EVSEL selects an event for a counter and clears it, which counts from the next step or, in a die counter, from 24 steps
on, and of the EVSELs that reach one counter in one step that of the highest slot lands last. Nothing else changes; a selector
that names no event of its level or no qualifier of the event traps BADDESC with B. R111 to R116: CSRW, CSRS and CSRC write the
writable bits of their CSR and keep its other bits and every other CSR; a rounding mode that is none traps RESFIELD with field
33. Completes: acnt, aset, evsel, csrw, csrs, csrc. Readings: log entries 30, 62, 92 (releases in a scope narrower than the
package). -/
def Obligations.CountersAndCsrWrites : Prop :=
  ((∀ (a : XSrc) (b : XOp) (rel : Bool) (s : State), CanIssue s → Ready s (xUse 0 a ++ opUse b) [] → (rel = true → ¬ WorkLeft s 0x7F) →
     let us := xUse 0 a ++ opUse b
     let i := (xv s a).toNat % 64
     (∃ t, exec (.acnt a b rel) s = .next t ∧ t = { sourced s us (opSize b) with
         arrival := t.arrival, pend := t.pend, nextId := t.nextId } ∧
       (rel = true → Orders s t .field) ∧ (rel = false → t.pend = s.pend ∧ t.nextId = s.nextId) ∧
       ∀ f j, j < 64 → t.arrivalCtr f j =
         if f = slotField s.cur ∧ j = i then s.arrivalCtr f j + BitVec.ofNat 48 (ov s b).toNat else s.arrivalCtr f j) ∧
     ∃ t, exec (.aset a b) s = .next t ∧ t = { sourced s us (opSize b) with arrival := t.arrival } ∧
       ∀ f j, j < 64 → t.arrivalCtr f j = if f = slotField s.cur ∧ j = i then (ov s b).setWidth 48 else s.arrivalCtr f j) ∧
   ∀ (a : XSrc) (b : XOp) (s : State), Ready s (xUse 0 a ++ opUse b) [] →
     let us := xUse 0 a ++ opUse b
     let n := (xv s a).toNat % 32
     let B := (ov s b).toNat
     let good := n < 24 ∧ evLevel (B % 256) = some (decide (n < 8)) ∧ evQualOk (B % 256) (B / 256 % 256) = true
     (CanIssue s → good → ∃ t, exec (.evsel a b) s = .next t ∧ t = { sourced s us (opSize b) with evc := t.evc } ∧
       (let old := (sourced s us (opSize b)).evCtr (evNumber s n)
        let start := s.steps + if n < 8 then 1 else 24
        t.evCtr (evNumber s n) =
          if old.first = start ∧ s.cur < old.by_ then old else ⟨BitVec.ofNat 16 B, 0, old.prev, start, s.cur⟩) ∧ ∀ k, k ≠ evNumber s n → t.evCtr k = (sourced s us (opSize b)).evCtr k) ∧
     (InRow s .baddesc → ¬ good → Traps (.evsel a b) s .baddesc (ov s b) (here s).pc)) ∧
  (∀ (i : Instr) (a : XSrc) (n : BitVec 12) (f : Word → Word → Word) (s : State), csrForm i = some (a, n, f) → Ready s (xUse 0 a) [] →
     let new := f (csrOf s n.toNat) (xv s a)
     let bad := n = 0 ∧ 6 ≤ new.toNat % 8
     (CanIssue s → ¬ bad → Acts i s (xUse 0 a) 8 (fun c c' =>
       c' = { c with
         fpmode := c'.fpmode, lanestat := c'.lanestat, trapcause := c'.trapcause, trappc := c'.trappc, trapinfo := c'.trapinfo
         tvec := c'.tvec } ∧
       ∀ j, j < 6 → (slotCsrs c').getD j 0 = if n = j then ((slotCsrs c).getD j 0 &&& ~~~writable j) ||| (new &&& writable j)
         else (slotCsrs c).getD j 0)) ∧
     (InRow s .resfield → bad → Traps i s .resfield 33 (here s).pc))

/-! ## Collectives (spec/13) -/

namespace Sys2Proof.Claims

/-- The operation that a COLL of the executing slot queues (R322). -/
def queuedColl (s : State) (d : Fin 32) (a : DSrc) (b : XOp) : CollOp :=
  let v := (here s).dr a.reg
  { id := s.nextId, slot := s.cur, band := ((here s).band).getD 0, dst := d, desc := v, inst := (ov s b).setWidth 32
    engine := clGroup v % 8, started := false, steps := 0, total := 0, flags := 0, err := none, parked := false, sendPos := 0
    recvPos := 0, got := [], stopAt := none }

/-- Word `w` of a collective descriptor breaks R325 or Table 13.2; a value outside its field's range is laid to its word. -/
def BadWord (s : State) (v : Desc) (w : Nat) : Prop :=
  let field (hi lo : Nat) := v.toNat / 2 ^ lo % 2 ^ (hi + 1 - lo)
  let op := field 59 57
  match w with
  | 0 => field 63 60 ≠ 5 ∨ field 46 12 ≠ 0 ∨ 6 ≤ op ∨ field 56 55 = 3 ∨ (2 ≤ op ∧ field 56 55 ≠ 0) ∨ 8 < field 50 47 ∨
      ¬ (clFmt v ∈ [.i32, .fp16, .bf16, .fp32] ∨ 2 ≤ op ∧ clFmt v ∈ [.i8, .e4m3, .raw])
  | 1 => field 127 121 ≠ 0
  | 2 => field 191 185 ≠ 0
  | 3 => field 255 192 = 0 ∨ 2 ^ 40 < field 255 192
  | 4 => field 319 270 ≠ 0 ∨ ((op = 4 ∨ op = 5) ∧ grpSize (s.group (field 11 0)) ≤ field 269 256)
  | _ => field (64 * w + 63) (64 * w) ≠ 0

/-- The operations an engine holds or has granted an entry. -/
def heldBy (s : State) (e : Nat) : Nat :=
  (s.colls.countP (fun c => c.engine = e)) + s.collGrant.countP (fun p => p.1 = e)

/-- A COLL has an entry: one was granted, or one is free and nobody waits (R322). -/
def hasEntry (s : State) (e : Nat) : Prop := (e, s.cur) ∈ s.collGrant ∨ (heldBy s e < 64 ∧ ∀ p ∈ s.collLine, p.1 ≠ e)

/-- The operation that CSTAT's word names: its group in bits 11 to 0, its number in bits 63 to 32 (R328). -/
def askedColl (s : State) (q : Word) : Option CollOp :=
  s.colls.find? (fun c => c.started && decide (clGroup c.desc = q.toNat % 4096) && decide (c.inst.toNat = q.toNat / 2 ^ 32))

/-- An operation that an engine may take: it has not started, and its slot's earlier accesses, messages, collectives and stream
values are performed, but those a translation fault holds (R286, R325). -/
def mayStart (s : State) (e : Nat) (c : CollOp) : Prop :=
  c.engine = e ∧ c.started = false ∧ c.err = none ∧
  (∀ p ∈ s.pend, p.slot = c.slot → p.order < c.id → ∃ r ∈ p.reqs, r.parked = true) ∧ (∀ m ∈ s.msgs, m.slot = c.slot → c.id ≤ m.id) ∧
  (∀ m ∈ s.heldEnq, m.slot = c.slot → c.id ≤ m.id) ∧
  (∀ q ∈ s.colls, q.slot = c.slot → q.id < c.id →
    q.err ≠ none ∨ q.parked = true ∨ (q.started = true ∧ 0 < q.total ∧ q.total ≤ q.steps)) ∧
  ∀ p ∈ s.bandList, p.2.nad.parked = true ∨ ∀ q ∈ p.2.nad.buf, q.slot = c.slot → c.id ≤ q.since

/-- GROUP: the group's entry is not valid or does not name this device, an active operation of the group has the number, or the peer
is the device itself (R325, R361). -/
def badGroup (s : State) (c : CollOp) : Prop :=
  let e := s.group (clGroup c.desc)
  grpValid e = false ∨ s.isMember (clGroup c.desc) = false ∨
  (∃ q ∈ s.colls, q.started = true ∧ clGroup q.desc = clGroup c.desc ∧ q.inst = c.inst) ∨
  ((clOp c.desc = 4 ∨ clOp c.desc = 5) ∧ clPeer c.desc = grpRank e)

/-- The steps of an operation among `n` members (R326). -/
def ringSteps (op n : Nat) : Nat := if op = 0 then 2 * (n - 1) else if op ≤ 3 then n - 1 else 1

/-- The ports of an operation's ring are up and trained (R333, R408). -/
def RingUp (s : State) (c : CollOp) : Prop := ∀ p ∈ s.collPorts c.desc, (s.link p).up = true ∧ (s.link p).training = false

/-- What one step of a ring does (R326; the places of the blocks are log entry 31): bytes copied within the device first (from, into,
length), the bytes sent and to whom, where the bytes received go, and the operand they combine with. -/
structure RingStep where
  own  : Option (Nat × Nat × Nat)
  send : Nat × Nat × Nat
  recv : Nat × Nat
  with_ : Option Nat

/-- Step `i` of rank `r` among `G`: block numbers fall by one a step and go round. -/
def ringStep (d : Desc) (G r i : Nat) : RingStep :=
  let b := clCount d * clWidth d
  let (src, dst) := (clSrc d, clDst d)
  let back (j : Nat) := (r + 2 * G - i - j) % G
  let first (f t n : Nat) := if i = 0 ∧ f ≠ t then some (f, t, n) else none
  match clOp d with
  | 0 => ⟨first src dst b, (dst + b / G * back 0, b / G, (r + 1) % G), (dst + b / G * back 1, b / G),
      if i + 1 < G then some (dst + b / G * back 1) else none⟩
  | 1 => ⟨none, (if i = 0 then src + b * back 1 else dst, b, (r + 1) % G), (dst, b), some (src + b * back 2)⟩
  | 2 => ⟨first src (dst + b * r) b, (dst + b * back 0, b, (r + 1) % G), (dst + b * back 1, b), none⟩
  | _ => ⟨first (src + b * r) (dst + b * r) b, (src + b * ((r + i + 1) % G), b, (r + i + 1) % G), (dst + b * back 1, b), none⟩

/-- An address that a step reads or writes. -/
def RingStep.has (p : RingStep) (a : Nat) : Prop :=
  (∃ f i n, p.own = some (f, i, n) ∧ (f ≤ a ∧ a < f + n ∨ i ≤ a ∧ a < i + n)) ∨ (p.send.1 ≤ a ∧ a < p.send.1 + p.send.2.1) ∨
  (p.recv.1 ≤ a ∧ a < p.recv.1 + p.recv.2) ∨ ∃ o, p.with_ = some o ∧ o ≤ a ∧ a < o + p.recv.2

/-- An engine reaches a byte of side memory at an address: its translation permits reads and writes, its target grants them, and it
is not poisoned. -/
def EngineAt (s : State) (asid engine a loc : Nat) : Prop :=
  ∃ e lv f, s.walk asid (BitVec.ofNat 64 a) = (.leaf e lv, s) ∧ leafRefuses e .read = none ∧ leafRefuses e .write = none ∧
    leafMig e = false ∧ leafLoc ⟨e, lv⟩ (BitVec.ofNat 64 a) = loc ∧ spaceOf loc = .side f ∧
    s.denied loc (leafKey e) (0xC0 + engine) true false = false ∧ s.denied loc (leafKey e) (0xC0 + engine) false true = false ∧
    s.poisonedAt loc 1 = false

/-- The order of element codes that are no NaN: by sign and magnitude, −0 below +0. -/
def orderKey (f : Fmt) (c : Nat) : Int :=
  if f.isInt then asInt f.bits false c
  else if c < 2 ^ (f.bits - 1) then c else 2 ^ (f.bits - 1) - (c : Int) - 1

/-- A local and a received element combined (R326): the sum rounded to nearest, or the lesser or greater; a NaN gives the canonical
one. -/
def combined (f : Fmt) (rop x y : Nat) : Nat × Flags :=
  let (u, v) := (f.value false false x, f.value false false y)
  if rop = 0 then
    let s := sumVals [u, v] .rne
    let r := roundTo f s.1 .rne false false false 0
    (r.code, s.2 ||| r.fl)
  else if u.isNan || v.isNan then (f.nanCode, 0)
  else (if decide (rop = 1) = decide (orderKey f x ≤ orderKey f y) then x else y, 0)

/-- The operations after one of them has changed. -/
def withColl (s : State) (id : Nat) (f : CollOp → CollOp) : List CollOp := s.colls.map (fun c => if c.id = id then f c else c)

end Sys2Proof.Claims

/-- R322, R325 to R327, R361, R405, Table 13.3: COLL queues its operation and its register awaits the token, or it waits for an
entry; a descriptor that breaks a rule traps BADDESC; an engine grants entries in order, starts the oldest operation that may
start or marks it with GROUP or LINKDOWN, writes the bytes a RECEIVE takes, delivers the token, and takes the latest stop
proposed until the suspending member has resumed. Completes: coll, collQueueEntryGrant, collStart, collStepEnd, collComplete,
collStopProposal. Readings: log entries 31 (blocks, steps and partners; an engine runs several operations), 80, 85, 92
(accesses of other slots that a narrow release covers come first), 95 (the sign that a member has resumed). -/
def Obligations.Collectives : Prop :=
  (∀ (d : Fin 32) (a : DSrc) (b : XOp) (s : State), CanIssue s → Ready s (dUse 0 a ++ opUse b) [codeX d] →
    (∀ w, w < 8 → ¬ BadWord s ((here s).dr a.reg) w) →
    let us := dUse 0 a ++ opUse b
    let e := clGroup ((here s).dr a.reg) % 8
    (hasEntry s e → ActsIn (.coll d a b) s { sourced s us (opSize b) with
        colls := s.colls ++ [queuedColl s d a b], nextId := s.nextId + 1, collGrant := s.collGrant.filter (fun p => p.2 ≠ s.cur) }
      (Awaits (codeX d))) ∧
    (¬ hasEntry s e → ∃ t, exec (.coll d a b) s = .next t ∧
      t.slot s.cur = { took s with wait := .collQ e } ∧
      (∀ k, k ≠ s.cur → t.slot k = s.slot k) ∧ t.collLine = (leftLines s).collLine ++ [(e, s.cur)] ∧ t.colls = s.colls ∧
      ∀ loc, t.byte loc = s.byte loc)) ∧
  (∀ (d : Fin 32) (a : DSrc) (b : XOp) (w : Nat) (s : State), InRow s .baddesc → Ready s (dUse 0 a ++ opUse b) [codeX d] →
    FirstBad (BadWord s ((here s).dr a.reg)) w → Traps (.coll d a b) s .baddesc (BitVec.ofNat 64 w) (here s).pc) ∧
  (∀ (e k : Nat) (pre post : List (Nat × Nat)) (s : State), Live s → heldBy s e < 64 → s.collLine = pre ++ (e, k) :: post →
    (∀ p ∈ pre, p.1 ≠ e) →
    ∃ t, exec (.collQueueEntryGrant e) s = .next t ∧ t = { s with
        slots := t.slots, collLine := pre ++ post, collGrant := s.collGrant ++ [(e, k)] } ∧
      t.slot k = { s.slot k with wait := .none } ∧ ∀ j, j ≠ k → t.slot j = s.slot j) ∧
  (∀ (e : Nat) (c : CollOp) (pre post : List CollOp) (s : State), s.power = .running → s.colls = pre ++ c :: post → mayStart s e c →
    (∀ q ∈ pre, ¬ mayStart s e q) →
    let up : Prop := ∀ p ∈ s.collPorts c.desc, (s.link p).up = true
    let n := grpSize (s.group (clGroup c.desc))
    (badGroup s c → exec (.collStart e) s = .next { s with colls := withColl s c.id (fun q => { q with err := some 7 }) }) ∧
    (¬ badGroup s c → ¬ up →
      exec (.collStart e) s = .next { s with colls := withColl s c.id (fun q => { q with started := true, err := some 8 }) }) ∧
    (¬ badGroup s c → up → exec (.collStart e) s = .next { s with
      colls := withColl s c.id (fun q => { q with started := true, total := ringSteps (clOp c.desc) n }) })) ∧
  (∀ (id : Nat) (c : CollOp) (bs : List Byte) (e : Word) (lv : Nat) (u s : State), Live s →
    s.colls.find? (fun q => q.id == id) = some c → c.started = true → c.err = none → c.parked = false → c.stopAt = none →
    c.sendPos = 0 → c.recvPos = 0 → s.bankUntil = [] → RingUp s c → (∀ p ∈ s.pend, p.slot ≠ c.slot → p.marks = []) →
    c.steps < c.total → (∀ q ∈ s.colls, q.id = id → q = c) → clOp c.desc = 5 → bs.length = clCount c.desc * clWidth c.desc → bs ≠ [] →
    clDst c.desc % 65536 + bs.length ≤ 65536 → s.walk (s.collAsid c.band) (BitVec.ofNat 64 (clDst c.desc)) = (.leaf e lv, u) →
    leafRefuses e .write = none → leafMig e = false →
    let loc := leafLoc ⟨e, lv⟩ (BitVec.ofNat 64 (clDst c.desc))
    2 ^ 40 ≤ loc → (∀ i, i < bs.length → u.denied (loc + i) (leafKey e) (0xC0 + c.engine) false true = false) →
    ∃ t, exec (.collStepEnd id bs) s = .next t ∧
      (∀ a, t.byte a = if loc ≤ a ∧ a < loc + bs.length then bs.getD (a - loc) 0 else u.byte a) ∧
      t.slots = u.slots ∧ t.bands = u.bands ∧ t.colls = withColl u id (fun q => { q with steps := q.steps + 1, got := [] })) ∧
  (∀ (id : Nat) (c : CollOp) (bs : List Byte) (at_ : Nat → Nat) (s : State), Live s → s.bankUntil = [] → RingUp s c →
    (∀ p ∈ s.pend, p.slot ≠ c.slot → p.marks = []) →
    s.colls.find? (fun q => q.id == id) = some c → c.started = true → c.err = none → c.parked = false → c.stopAt = none →
    c.sendPos = 0 → c.recvPos = 0 → c.steps < c.total → (∀ q ∈ s.colls, q.id = id → q = c) → clOp c.desc ≤ 3 → (∀ w, w < 8 → ¬ BadWord s c.desc w) →
    let e := s.group (clGroup c.desc)
    let G := grpSize e
    let p := ringStep c.desc G (grpRank e) c.steps
    let f := clFmt c.desc
    let w := clWidth c.desc
    grpRank e < G → (clOp c.desc = 0 → clCount c.desc % G = 0) → c.total = ringSteps (clOp c.desc) G → 0 < w →
    bs.length = p.recv.2 → bs ≠ [] → (∀ a, p.has a → EngineAt s (s.collAsid c.band) c.engine a (at_ a)) →
    (∀ a b, p.has a → p.has b → at_ a = at_ b → a = b) →
    let copied (a : Nat) : Byte := match p.own with
      | some (x, i, n) => if i ≤ a ∧ a < i + n then s.byte (at_ (x + (a - i))) else s.byte (at_ a)
      | none => s.byte (at_ a)
    let elem (o k : Nat) := combined f (clRop c.desc) (ofBytes ((List.range w).map (fun j => copied (o + w * k + j))))
      (ofBytes ((bs.drop (w * k)).take w))
    ∃ t, exec (.collStepEnd id bs) s = .next t ∧ t.slots = s.slots ∧ t.bands = s.bands ∧
      t.outbox = s.outbox ++ [.collSend (clGroup c.desc) c.inst c.steps p.send.2.2
        ((List.range p.send.2.1).map (fun i => copied (p.send.1 + i)))] ∧
      (∀ i, i < bs.length → t.byte (at_ (p.recv.1 + i)) = match p.with_ with
        | some o => BitVec.ofNat 8 ((elem o (i / w)).1 / 256 ^ (i % w))
        | none => bs.getD i 0) ∧
      (∀ a, p.has a → ¬ (p.recv.1 ≤ a ∧ a < p.recv.1 + p.recv.2) → t.byte (at_ a) = copied a) ∧
      (∀ loc, (∀ a, p.has a → loc ≠ at_ a) → t.byte loc = s.byte loc) ∧
      t.colls = withColl s id (fun q => { q with
        steps := q.steps + 1, got := []
        flags := match p.with_ with
          | some o => (List.range (bs.length / w)).foldl (fun fl k => fl ||| (elem o k).2) q.flags
          | none => q.flags })) ∧
  (∀ (id : Nat) (c : CollOp) (v : Band) (s : State), Live s → s.colls.find? (fun q => q.id == id) = some c →
    s.band? c.band = some v → v.status ≠ .placed → v.status ≠ .killing → c.dst < 32 →
    let token (st : Nat) := FilledX c.dst (BitVec.ofNat 64 (c.steps % 2 ^ 32 * 2 ^ 32 + c.flags.toNat % 32 * 2 ^ 8 + st))
    (c.err = none → c.started = true → c.parked = false → 0 < c.total → c.total ≤ c.steps →
      ∃ t, exec (.collComplete id false) s = .next t ∧ OnlySlot s t c.slot (token 1) ∧
        t.colls = s.colls.filter (fun q => q.id ≠ id) ∧ t.outbox = s.outbox) ∧
    (c.err = none → c.started = true →
      ∃ t, exec (.collComplete id true) s = .next t ∧ OnlySlot s t c.slot (token 8) ∧
        t.colls = s.colls.filter (fun q => q.id ≠ id) ∧ t.outbox = s.outbox) ∧
    ∀ st p, c.err = some st →
      ∃ t, exec (.collComplete id p) s = .next t ∧ OnlySlot s t c.slot (token st) ∧
        t.colls = s.colls.filter (fun q => q.id ≠ id) ∧
        t.outbox = s.outbox ++ if c.started = true then [.collAbort (clGroup c.desc) c.inst] else []) ∧
  ∀ (id i : Nat) (s : State),
    (Live s → i ≠ 0 → exec (.collStopProposal id i) s = .next { s with
      colls := withColl s id (fun q => if q.started = true ∧ q.err = none then { q with stopAt := some (max i (q.stopAt.getD 0)) } else q) }) ∧
    (s.power = .running → exec (.collStopProposal id 0) s = .next { s with colls := withColl s id (fun q => { q with stopAt := none }) })

/-- R328, Table 13.4: CSTAT writes 0 when no operation of the group and number is active; otherwise bit 63, whether it is
parked, its steps and those completed; it changes nothing else. Completes: cstat. -/
def Obligations.CollectiveStatus : Prop :=
  ∀ (d : Fin 32) (a : XSrc) (s : State), CanIssue s → Ready s (xUse 0 a) [codeX d] →
    Acts (.cstat d a) s (xUse 0 a) 8 (WroteX d (match askedColl s (xv s a) with
      | some c => BitVec.ofNat 64 (2 ^ 63 + (if c.parked then 2 ^ 62 else 0) + c.total % 2 ^ 30 * 2 ^ 32 + c.steps % 2 ^ 32)
      | none => 0))

/-! ## Links (spec/13) -/

namespace Sys2Proof.Claims

/-- A port that moves flits (R331, R332). -/
def Moves (s : State) (p : Nat) (l : Link) : Prop := Live s ∧ p < 18 ∧ s.link p = l ∧ l.up = true ∧ l.training = false

/-- Only the port `p`, the device's outputs, and event counts and the free values drawn change. -/
def OnlyPort (s t : State) (p : Nat) (l : Link) (out : List Out) : Prop :=
  t = { s with links := t.links, outbox := s.outbox ++ out, evc := t.evc, draws := t.draws } ∧ t.link p = l ∧
  ∀ q, q ≠ p → t.link q = s.link q

/-- A flit with its CRC over bytes 0 to 247 (Table 13.5). -/
def flitOut (p : Nat) (seq ack : BitVec 16) (type : BitVec 8) (payload : List Byte) : Out :=
  .flit p seq ack type payload (crc64 (lowBytes 2 seq.toNat ++ lowBytes 2 ack.toNat ++ [type, 0, 0, 0] ++ payload))

/-- A flit whose CRC holds. -/
def Good (f : Flit) : Prop :=
  f.payload.length = 240 ∧ crc64 (lowBytes 2 f.seq.toNat ++ lowBytes 2 f.ack.toNat ++ [f.type, 0, 0, 0] ++ f.payload) = f.crc

/-- A port after an acknowledgement: flits up to it leave the replay buffer (R331). -/
def ackedTo (l : Link) (ack : BitVec 16) : Link :=
  { l with
    replay := l.replay.filter (fun x => decide (32768 ≤ (ack - x.1).toNat))
    resend := l.resend.filter (fun q => decide (32768 ≤ (ack - q).toNat)) }

/-- Where an outside access begins: in HBM, a field's side memory, or a die's queue SRAM (R335, Table 9.6). -/
def outsideAt (r : ExtAccess) : Nat :=
  match r.target with
  | .hbm => r.addr.toNat
  | .side f => 2 ^ 40 + f * 2 ^ 23 + r.addr.toNat % 2 ^ 23
  | .queue d => 2 ^ 41 + d * 2 ^ 24 + r.addr.toNat % 2 ^ 24
  | .csr => 0

/-- It lies in its memory, one that its agent reaches, and carries what it writes. -/
def OutsideFits (r : ExtAccess) : Prop :=
  (match r.target with
    | .hbm => r.addr.toNat + r.len ≤ 2 ^ 40
    | .side _ => r.addr.toNat + r.len ≤ 2 ^ 23
    | .queue _ => r.mgmt = true ∧ r.addr.toNat + r.len ≤ 2 ^ 24
    | .csr => False) ∧ (r.write = true → r.data.length = r.len)

/-- Bytes within one line, of plain memory whose bank is available (R228, R230). -/
def PlainLine (s : State) (a len : Nat) : Prop :=
  0 < len ∧ a % 256 + len ≤ 256 ∧ (a < 2 ^ 40 → s.bankBusy a = false ∧ Tab.get 0 s.lineKey (a / 256) = 0 ∧
    ∀ h, Tab.get none s.halo (a / 256) = some h → h.slot = 0)

/-- An outside access to such bytes. -/
def PlainSpan (s : State) (r : ExtAccess) : Prop := OutsideFits r ∧ PlainLine s (outsideAt r) r.len

/-- An event serves an outside access as a master: denied, poisoned, read, or written (R230, R284, R334). -/
def Serves (ev : Instr) (s : State) (r : ExtAccess) (master : Nat) : Prop :=
  let a := outsideAt r
  (s.denied a 0 master (!r.write) r.write = true → exec ev s = .next { s with outbox := s.outbox ++ [.denied] }) ∧
  (s.denied a 0 master (!r.write) r.write = false →
    (r.write = true → ∃ t, exec ev s = .next t ∧ t.outbox = s.outbox ++ [.done] ∧ t.slots = s.slots ∧ t.bands = s.bands ∧
      ∀ b, t.byte b = if a ≤ b ∧ b < a + r.len then r.data.getD (b - a) 0 else s.byte b) ∧
    (r.write = false → s.poisonedAt a r.len = true → exec ev s = .next { s with outbox := s.outbox ++ [.poisoned] }) ∧
    (r.write = false → s.poisonedAt a r.len = false → ∃ t, exec ev s = .next t ∧ t.slots = s.slots ∧ t.bands = s.bands ∧
      t.outbox = s.outbox ++ [.readData ((List.range r.len).map (fun i => s.byte (a + i)))] ∧ ∀ b, t.byte b = s.byte b))

end Sys2Proof.Claims

/-- R330 to R333: a port sends a NAK that is due, then flits to resend, then new ones while its replay buffer has room; a good
flit's ack empties the buffer, and the flit expected moves the expected number; a gap or a bad CRC makes a NAK due, a NAK makes
everything kept be sent again; the eighth bad CRC within 1,000 ticks makes a lane repair due, which holds the port until it
retrains on seven lanes; a port lost there goes down. Completes: peerRequest, flitSend, flitReceive, laneRepair,
retrainComplete, portDown. Readings: log entries 14 (the CRC), 19 (ports), 32 (flits without a payload), 68, 70, 93, 96 (the
acks of flits discarded). -/
def Obligations.Links : Prop :=
  (∀ (p : Nat) (l : Link) (type : BitVec 8) (payload : List Byte) (s : State), Moves s p l →
    (l.nakDue = false → l.repair = false → l.resend = [] → type ∈ [1#8, 2#8, 3#8] → payload.length = 240 → l.replay.length < 512 →
      ∃ t, exec (.flitSend p type payload) s = .next t ∧
        OnlyPort s t p { l with txSeq := l.txSeq + 1, replay := l.replay ++ [(l.txSeq, type, payload)], told := l.expect - 1 }
          [flitOut p l.txSeq (l.expect - 1) type payload]) ∧
    (l.nakDue = false → l.repair = false → l.resend = [] → 512 ≤ l.replay.length → ∃ t free, exec (.flitSend p type payload) s = .next t ∧
      OnlyPort s t p { l with told := l.expect - 1 } [flitOut p l.txSeq (l.expect - 1) 0 free]) ∧
    (∀ seq rest old, l.nakDue = false → l.repair = false → l.resend = seq :: rest → l.replay.find? (fun x => x.1 = seq) = some old →
      ∃ t, exec (.flitSend p type payload) s = .next t ∧
        OnlyPort s t p { l with resend := rest, told := l.expect - 1 } [flitOut p seq (l.expect - 1) old.2.1 old.2.2]) ∧
    (l.nakDue = true → ∃ t seq free, exec (.flitSend p type payload) s = .next t ∧
      OnlyPort s t p { l with nakDue := false, told := l.expect - 1 } [flitOut p seq (l.expect - 1) 4 free]) ∧
    (l.nakDue = false → l.repair = true → exec (.flitSend p type payload) s = .next s)) ∧
  (∀ (p : Nat) (l : Link) (f : Flit) (s : State), Moves s p l →
    let k := ackedTo l f.ack
    let behind := (l.expect - f.seq).toNat
    let gap : Link := { k with naked := true, nakDue := l.nakDue || !l.naked }
    let goes (l' : Link) : Prop := ∃ t, exec (.flitReceive p f) s = .next t ∧ OnlyPort s t p l' []
    (Good f → f.type ∈ [1#8, 2#8, 3#8] → f.seq = l.expect → goes { k with expect := l.expect + 1, naked := false }) ∧
    (Good f → f.type ∈ [0#8, 1#8, 2#8, 3#8] → f.seq ≠ l.expect → behind ≤ 32768 → goes k) ∧
    (Good f → f.type ∈ [0#8, 1#8, 2#8, 3#8] → 32768 < behind → goes gap) ∧
    (Good f → f.type = 4 → goes { k with resend := k.replay.map Prod.fst }) ∧
    (¬ Good f →
      let ts := l.crcTimes.filter (fun t => decide ((s.time - t).toNat ≤ 1000)) ++ [s.time]
      goes { l with crcTimes := ts, repair := l.repair || decide (8 ≤ ts.length), naked := true, nakDue := true })) ∧
  (∀ (p : Nat) (l : Link) (s : State), Moves s p l → l.lanes = 8 → ∃ t, exec (.laneRepair p) s = .next t ∧
    OnlyPort s t p { l with training := true, lanes := 7, crcTimes := [], repair := false } []) ∧
  (∀ (p : Nat) (l : Link) (s : State), Live s → s.waking = false → p < 18 → s.link p = l → l.up = true →
    (l.training = true → ∃ t, exec (.retrainComplete p) s = .next t ∧
      OnlyPort s t p { l with training := false, resend := l.replay.map Prod.fst } []) ∧
    (l.training = true ∨ l.lanes = 7 → ∃ t, exec (.portDown p) s = .next t ∧
      t = { s with links := t.links, pend := t.pend, colls := t.colls } ∧ t.link p = { l with up := false, training := false } ∧
      (∀ q, q ≠ p → t.link q = s.link q) ∧
      t.colls = s.colls.map (fun c => if c.started && c.err.isNone && (s.collPorts c.desc).contains p then { c with err := some 8 } else c) ∧
      t.pend = s.pend.map (fun q => if q.reqs.any (fun r => decide (spaceOf r.loc = .peer) && decide (peerPort r.loc = p))
        then { q with granted := false } else q))) ∧
  (∀ (r : ExtAccess) (s : State), Live s → r.target = .hbm → PlainSpan s r → Serves (.peerRequest r none) s r 0xE8) ∧
  ∀ (r : ExtAccess) (a : ExtAtom) (s : State), Live s → r.target = .hbm → r.write = false → r.len = (if a.wide then 8 else 4) → r.addr.toNat % r.len = 0 →
    PlainSpan s r → s.denied r.addr.toNat 0 0xE8 true true = false →
    s.poisonedAt r.addr.toNat r.len = false → a.ops ≠ [] → (a.op = .cas → a.news.length = a.ops.length) →
    let m := numberAt s r.addr.toNat r.len
    let seen (n : Nat) := seenBy a.op a.f a.un a.wide m (a.ops.map BitVec.toNat) (a.news.map BitVec.toNat) n
    ∃ t, exec (.peerRequest r (some a)) s = .next t ∧ t.slots = s.slots ∧ t.bands = s.bands ∧
      (∀ b, t.byte b = if r.addr.toNat ≤ b ∧ b < r.addr.toNat + r.len then
        (lowBytes r.len (seen a.ops.length)).getD (b - r.addr.toNat) 0 else s.byte b) ∧
      t.outbox = s.outbox ++ [.readData ((List.range a.ops.length).flatMap (fun n => lowBytes r.len (seen n)))]

/-! ## The host (spec/13, spec/14) -/

namespace Sys2Proof.Claims

/-- What the registers of Table 13.6 that no other statement reads hold: SUBTAIL, SUBHEAD, the ring, MBSTAT, MBDATA. -/
def registerOf (s : State) (off : Nat) : Option Word :=
  if off = 0 then some (s.subtail.setWidth 64)
  else if off = 8 then some (s.subhead.setWidth 64)
  else if 0x20000 ≤ off ∧ off < 0x24000 then some (BitVec.ofNat 64 (numberAt s (2 ^ 42 + (off - 0x20000)) 8))
  else if off = 0x30008 then
    some (BitVec.ofNat 64 ((if s.mbCmd.isSome then 2 ^ 63 else 0) + (if s.mbLost then 2 ^ 62 else 0) + s.mbResult.toNat))
  else if 0x30040 ≤ off ∧ off < 0x30080 then some (condWord s.mbData ((off - 0x30040) / 8))
  else none

/-- The state after a mailbox command has completed with a result (R341). -/
def completes (s : State) (result : Nat) : State :=
  { s with mbCmd := none, mbResult := BitVec.ofNat 8 result, outbox := s.outbox ++ [.msix 8] }

/-- The access tables let the host write the registers (R353). -/
def HostWrites (s : State) : Prop := s.grants 0x88 0xE0 true = true

/-- What a host write of MBCMD leaves (R341). -/
def givenCmd (s : State) (w : Word) : State :=
  if s.mbCmd.isSome then { s with mbLost := true }
  else if 1 ≤ w.toNat / 2 ^ 56 ∧ w.toNat / 2 ^ 56 ≤ 20 ∨ 32 ≤ w.toNat / 2 ^ 56 ∧ w.toNat / 2 ^ 56 ≤ 36 then { s with mbCmd := some w }
  else completes s 3

/-- The submission entry at an index, as one number (Table 13.7). -/
def submitted (s : State) (i : Nat) : Nat := numberAt s (2 ^ 42 + 64 * i) 64

/-- An entry that may become a record (R299, R337). -/
def Submittable (s : State) (v : Nat) : Prop :=
  nodeValid (s.node (v % 4096)) = true ∧ v / 2 ^ 12 % 2 ^ 4 = 0 ∧ v / 2 ^ 32 % 2 ^ 16 < 2 ∧ v / 2 ^ 48 % 2 ^ 16 = 0 ∧ v / 2 ^ 320 = 0 ∧
  (v / 2 ^ 32 % 2 = 1 → v / 2 ^ 64 % 16 = 0)

end Sys2Proof.Claims

/-- R222, R334 to R339, R341, R407, Tables 13.6 and 13.7: what the host's accesses to memory do, to SUBTAIL, to the mailbox and
to the submission ring; the consumption of an entry, accepted or refused with its completion; the answer to a parked slot; a
log's drain. Completes: hostMemAccess, subtailWrite, submissionConsume, fbrespWrite, logdrainWrite, registerWrite. Readings:
log entries 33 (the completion), 59, 67, 71, 79. -/
def Obligations.HostAccesses : Prop :=
  (∀ (r : ExtAccess) (s : State), OutsideFits r →
    (s.power = .eclipse → exec (.hostMemAccess r) s = .next { s with outbox := s.outbox ++ [.poisoned] }) ∧
    (Live s → PlainSpan s r → Serves (.hostMemAccess r) s r (if r.mgmt then 0xF0 else 0xE0))) ∧
  (∀ (r : ExtAccess) (s : State), s.power ≠ .off → r.target = .csr → r.write = false → r.mgmt = false → r.len = 8 →
    let off := r.addr.toNat
    let answer (o : Out) := exec (.hostMemAccess r) s = .next { s with outbox := s.outbox ++ [o] }
    off % 8 = 0 → off < 2 ^ 18 →
    (s.grants 0x88 0xE0 false = false → answer .denied) ∧
    (s.grants 0x88 0xE0 false = true → s.power = .eclipse → off < 0x30000 → answer .poisoned) ∧
    (s.grants 0x88 0xE0 false = true → Live s ∨ 0x30000 ≤ off → ∀ v, registerOf s off = some v → answer (.regData v))) ∧
  (∀ (v : Word) (s : State), HostWrites s → Live s → exec (.subtailWrite v) s = .next { s with subtail := v.setWidth 9 }) ∧
  (∀ (v : Word) (s : State), HostWrites s → s.power ≠ .off →
    exec (.registerWrite 0x30000 v) s = .next (givenCmd s v) ∧
    exec (.registerWrite 0x30008 v) s = .next (if v.getLsbD 62 then { s with mbLost := false } else s) ∧
    (∀ i, i < 8 → ∃ t, exec (.registerWrite (0x30040 + 8 * i) v) s = .next t ∧ t = { s with mbData := t.mbData } ∧
      ∀ j, j < 8 → condWord t.mbData j = if j = i then v else condWord s.mbData j) ∧
    (∀ i, i < 2048 → Live s → ∃ t, exec (.registerWrite (0x20000 + 8 * i) v) s = .next t ∧ t.slots = s.slots ∧
      (∀ a, t.byte a = if 2 ^ 42 + 8 * i ≤ a ∧ a < 2 ^ 42 + 8 * i + 8 then (lowBytes 8 v.toNat).getD (a - (2 ^ 42 + 8 * i)) 0
        else s.byte a)) ∧
    exec (.registerWrite 0 v) s = exec (.subtailWrite v) s ∧ exec (.registerWrite 0x200 v) s = exec (.fbrespWrite v) s ∧
    exec (.registerWrite 0x300 v) s = exec (.logdrainWrite v) s ∧
    ∀ off, ¬ (0x20000 ≤ off ∧ off < 0x24000) → off ∉ [0, 0x200, 0x300, 0x30000, 0x30008] → ¬ (0x30040 ≤ off ∧ off < 0x30080) →
      exec (.registerWrite off v) s = .next s) ∧
  (∀ s : State, s.power = .running → s.subhead ≠ s.subtail →
    let i := s.subhead.toNat % 256
    let v := submitted s i
    let node := v % 4096
    let e := s.node node
    let len := v / 2 ^ 16 % 2 ^ 16
    let caddr := v / 2 ^ 64 % 2 ^ 64
    let wants : Prop := v / 2 ^ 32 % 2 = 1 ∧ s.grants 0x89 0xD0 true = true
    (¬ Submittable s v ∨ nodePsize e < len →
      ∃ t, exec .submissionConsume s = .next t ∧ t.subhead = s.subhead + 1 ∧ t.slots = s.slots ∧ (∀ n, t.queue n = s.queue n) ∧
        (¬ wants → ∀ a, t.byte a = s.byte a) ∧
        (wants → numberAt t (2 ^ 52 + caddr % 2 ^ 52) 8 = 4 ∧ numberAt t (2 ^ 52 + caddr % 2 ^ 52 + 8) 2 = i ∧
          ∀ a, ¬ (2 ^ 52 + caddr % 2 ^ 52 ≤ a ∧ a < 2 ^ 52 + caddr % 2 ^ 52 + 16) → t.byte a = s.byte a)) ∧
    ∀ j, Submittable s v → len ≤ nodePsize e → len ≤ 16 → SlotsFit s (nodeRegion e) →
      s.recPlace (nodeHome e) false = some (false, j) → v / 2 ^ 32 % 2 = 0 →
      ∃ t, exec .submissionConsume s = .next t ∧ t.subhead = s.subhead + 1 ∧ t.slots = s.slots ∧
        Accepted s t (nodeHome e) j node 1 0 len (lowBytes len (v / 2 ^ 128 % 2 ^ (8 * len))) (some (nodeRegion e))) ∧
  (∀ (w : Word) (k : Nat) (e : FbEntry) (va : Word) (acc : AccKind) (s : State), Live s → HostWrites s →
    Tab.get none s.fb (256 * (w.toNat / 256 % 8) + w.toNat % 256) = some e → e.joiners = [.slot k] → (s.slot k).wait = .parked va acc →
    (w.toNat / 2 ^ 62 = 1 → ∃ t, exec (.fbrespWrite w) s = .next t ∧ OnlySlot s t k (fun c c' => c' = { c with wait := .none, heldDst := none }) ∧
      ∀ n, Tab.get none t.fb n = if n = 256 * (w.toNat / 256 % 8) + w.toNat % 256 then none else Tab.get none s.fb n) ∧
    (w.toNat / 2 ^ 62 = 2 → InRow { s with cur := k } .xlate →
      ∃ t, exec (.fbrespWrite w) s = .next t ∧ OnlySlot s t k (fun c c' => c' = { c with
        wait := .none, heldDst := none, trapcause := Cause.xlate.code.setWidth 64, trappc := c.pc, trapinfo := va, handler := true
        pc := c.tvec, high := 0, late := [], refills := false }) ∧
      ∀ n, Tab.get none t.fb n = if n = 256 * (w.toNat / 256 % 8) + w.toNat % 256 then none else Tab.get none s.fb n)) ∧
  (∀ (w : Word) (s : State), w.toNat / 2 ^ 62 = 0 ∨ w.toNat / 2 ^ 62 = 3 → exec (.fbrespWrite w) s = .next s) ∧
  ∀ (w : Word) (s : State), Live s → HostWrites s →
    let o := s.logOwner (w.toNat % 2 ^ 16)
    let c := s.logOf o
    ∃ t, exec (.logdrainWrite w) s = .next t ∧ t.slots = s.slots ∧ t.bands = s.bands ∧
      ∀ r, t.logOf r = if r = o then ⟨c.written, c.drained + min (w.toNat / 2 ^ 32 % 2 ^ 16) (c.written - c.drained), c.lost⟩ else s.logOf r

/-! ## The mailbox (spec/14, spec/17) -/

namespace Sys2Proof.Claims

/-- A command waits in the mailbox with no argument bit beyond those of its mask (R341, R342). -/
def Given (s : State) (w : Word) (code mask : Nat) : Prop :=
  s.mbCmd = some w ∧ w.toNat / 2 ^ 56 = code ∧ ∀ i, i < 56 → w.getLsbD i = true → mask.testBit i = true

/-- A word of MBDATA. -/
def mb (s : State) (i : Nat) : Nat := (condWord s.mbData i).toNat

/-- MBDATA with its low half replaced. -/
def lowHalf (s : State) (e : BitVec 256) : BitVec 512 := s.mbData.extractLsb' 256 256 ++ e

/-- How a command ends: refused, busy, an unknown argument, or done with the state it leaves. -/
inductive Ends where
  | refused | busy | bad
  | done (t : State)

/-- A command's code, argument bits, and how it ends. -/
structure CmdForm where
  code : Nat
  mask : Nat
  ends : State → Word → Ends

/-- Which of the slots are loaded, as a key command reports them (R356). -/
def reported (s : State) : State := { s with mbData := s.loadedBits }

/-- Aligned, and within the device's HBM. -/
def inHbm (base align len : Nat) : Prop := base % align = 0 ∧ base + len ≤ 2 ^ 40

/-- A node is valid. -/
def someNode (s : State) : Prop := ∃ p ∈ s.nodes, nodeValid p.2 = true

/-- A bit of an entry outside the fields of its layout is set. -/
def Reserved {n : Nat} (e : BitVec n) (fields : List (Nat × Nat)) : Prop :=
  ∃ i, e.getLsbD i = true ∧ ∀ f ∈ fields, ¬ (f.2 ≤ i ∧ i ≤ f.1)

/-- A region of the constellation whose block is valid (R344). -/
def ValidRegion (s : State) (i : Nat) : Prop := regValid (s.region i) = true ∧ ∃ base n, s.conBase = some (base, n) ∧ i < n

/-- A node declares values outside Table 1.4 or R308, or a footprint that a budget on its region's path can never cover (R344). -/
def OverLimits (s : State) (e : BitVec 512) : Prop :=
  let H := nodeHeight e
  nodeBatch e < 1 ∨ 4096 < nodeBatch e ∨ H < 1 ∨ 4096 < H ∨ (64 < H ∧ H % 64 ≠ 0) ∨ nodeVregs e < 8 ∨ 64 < nodeVregs e ∨
  nodeVregs e % 8 ≠ 0 ∨ 4 < nodeWregs e ∨ 4 < nodeAregs e ∨ 8 < nodeDregs e ∨ 128 < nodeSide e ∨ 4096 < nodePsize e ∨
  128 < nodeSide e + (nodeBatch e * (16 + 16 * ((nodePsize e + 15) / 16)) + 65535) / 65536 ∨
  ∃ r ∈ s.regionPath (nodeRegion e),
    ((r = 0 ∨ regOvr (s.region r) 1 = true) ∧ regRowBud (s.region r) < H) ∨
    ((r = 0 ∨ regOvr (s.region r) 2 = true) ∧ regSideBud (s.region r) <
      (nodeSide e + (nodeBatch e * (16 + 16 * ((nodePsize e + 15) / 16)) + 65535) / 65536) * max 1 (H / 64))

/-- The entries NODEWR refuses (R344, Table 14.3). -/
def BadNode (s : State) (e : BitVec 512) : Prop :=
  Reserved e [(255, 196), (191, 160), (156, 144), (140, 60), (56, 0)] ∨ (nodeEntry e).toNat % 8 ≠ 0 ∨ ¬ ValidRegion s (nodeRegion e) ∨
  (nodeValid e = true ∧ OverLimits s e)

/-- The lines a migration entry's new page covers, and its old frame. -/
def migBytes (e : BitVec 256) : Nat := if e.getLsbD 61 then 2 ^ 21 else 2 ^ 16
def migFrame (e : BitVec 256) : Nat := e.toNat / 2 ^ 16 % 2 ^ 24 * 2 ^ 16
def migOldFrame (e : BitVec 256) : Nat := e.toNat / 2 ^ 80 % 2 ^ 36 * 2 ^ 16

/-- The entries MIGWR refuses (R352, Tables 9.3 and 14.6); the old frame lies in its type's space. -/
def BadMig (s : State) (key : Nat) (e : BitVec 256) : Prop :=
  let otype := e.toNat / 2 ^ 59 % 4
  Reserved e [(205, 192), (133, 128), (115, 80), (63, 59), (39, 16)] ∨ otype = 3 ∨ (otype = 0 ∧ 2 ^ 40 ≤ migOldFrame e) ∨
  frameOk otype (migOldFrame e) = false ∨ migFrame e / 2 ^ 34 ≠ key / 16 ∨
  migFrame e % migBytes e ≠ 0 ∨ migOldFrame e % migBytes e ≠ 0 ∨ (e.toNat / 2 ^ 128 % 64 ≠ 0 ∧ otype ≠ 0) ∨
  ∃ p ∈ s.migs, p.1 / 16 = key / 16 ∧ p.1 ≠ key ∧ p.2.raw.getLsbD 63 = true ∧
    migFrame e < migFrame p.2.raw + migBytes p.2.raw ∧ migFrame p.2.raw < migFrame e + migBytes e

/-- What SHOOT refuses (R350, Table 14.5). -/
def BadShoot (s : State) : Prop :=
  let pages := mb s 1 / 2 ^ 8 % 2 ^ 24
  mb s 0 % 2 ^ 16 ≠ 0 ∨ mb s 1 / 2 ^ 40 ≠ 0 ∨ mb s 1 / 2 ^ 32 % 2 ^ 7 ≠ 0 ∨ (pages ≠ 0 ∧ 2 ^ 57 < mb s 0 + pages * 2 ^ 16)

/-- What RBSYNC refuses of block `i` (R345, R347, Table 14.4). -/
def BadBlock (s : State) (i : Nat) (r : BitVec 512) : Prop :=
  let l := regArenaLog r
  Reserved r [(431, 386), (351, 314), (312, 248), (243, 186), (184, 96), (93, 80), (77, 63), (47, 32), (24, 16), (2, 0)] ∨
  8192 < regRowBud r ∨ 8192 < regSideBud r ∨ regLogBase r % 64 ≠ 0 ∨ (1 ≤ l ∧ l ≤ 5) ∨ 40 < l ∨
  (l ≠ 0 ∧ regArenaBase r % 2 ^ l ≠ 0) ∨ (i ≠ 0 ∧ (i ≤ regParent r ∨ regValid (s.region (regParent r)) = false))

/-- A region has unretired bands, held records or undrained log records, in the log its faults go to (R346, R347). -/
def RegionUsed (s : State) (j : Nat) : Prop :=
  (∃ p ∈ s.bands, ∃ v, p.2 = some v ∧ v.region = j) ∨ (∃ r ∈ s.restores, r.band.region = j) ∨
  (∃ p ∈ s.queues, p.2 ≠ [] ∧ nodeRegion (s.node p.1) = j) ∨ (s.logOf (s.logOwner j)).drained < (s.logOf (s.logOwner j)).written

/-- The change of a block leaves a region's effective asid, arena and fault log (R346, R347). -/
def KeepsItems (s t : State) (j : Nat) : Prop :=
  let arena (u : State) := if regArenaLog (u.region (u.arenaOwner j)) = 0 then none
    else some (u.arenaOwner j, regArenaLog (u.region (u.arenaOwner j)), regArenaBase (u.region (u.arenaOwner j)))
  let log (u : State) := (u.logOwner j, regLogBase (u.region (u.logOwner j)), regLogCap (u.region (u.logOwner j)))
  s.regAsidOf j = t.regAsidOf j ∧ arena s = arena t ∧ log s = log t

/-- A valid node or block names the region. -/
def Named (s : State) (i : Nat) : Prop :=
  (∃ p ∈ s.nodes, nodeValid p.2 = true ∧ nodeRegion p.2 = i) ∨
  ∃ p ∈ s.regions, p.1 ≠ 0 ∧ p.1 ≠ i ∧ regValid p.2 = true ∧ regParent p.2 = i

/-- A group's entry as it is stored: bits outside the fields of Table 14.8 are ignored and read as 0 (R6, R361). -/
def groupEntry (e : BitVec 256) : BitVec 256 := e &&& BitVec.ofNat 256 ((2 ^ 104 - 2 ^ 63) + (2 ^ 52 - 2 ^ 32) + (2 ^ 14 - 1))

/-- What GRPWR refuses of an entry before it reads its members (R361, Table 14.8). -/
def BadGroupEntry (e : BitVec 256) : Prop :=
  let size := e.toNat / 2 ^ 32 % 2 ^ 16
  let at_ := e.toNat / 2 ^ 64 % 2 ^ 40
  grpScope e < 6 ∨ 7 < grpScope e ∨ size < 1 ∨ 16384 < size ∨ size ≤ e.toNat % 2 ^ 14 ∨
  ¬ inHbm at_ 4 (4 * size)

/-- A row stopped at its YIELD goes on behind it (R394). -/
def goesOn (c : Slot) : Slot :=
  { c with wait := match c.wait with
    | .yield _ => .none
    | w => w }

/-- The last steps of RESUME: replay-marked rows go on at their words, frozen bands run on in place, their rows behind the
YIELDs they stopped at (log entry 37); the device runs and the command is complete unless an image of twilight waits for its
place (R408). -/
def Wakes (s t : State) : Prop :=
  t.waking = false ∧
  (∀ b v, s.band? b = some v → ∃ u, t.band? b = some u ∧ u.due = false ∧ u.suspend = false ∧
    u.status = if v.status = .frozen then .running else v.status) ∧
  (∀ k, (∃ b v, s.band? b = some v ∧ k ∈ v.slotKeys) → t.slot k = { goesOn (s.slot k) with replay := false }) ∧
  (∀ k, (∀ b v, s.band? b = some v → k ∉ v.slotKeys) → t.slot k = { s.slot k with replay := false }) ∧
  let image := ∃ r ∈ s.restores, r.how = 2 ∧ s.band? r.seq = none
  (image → t.power = .resuming ∧ t.mbCmd = s.mbCmd ∧ t.outbox = s.outbox) ∧
  (¬ image → t.power = .running ∧ t.mbCmd = none ∧ t.mbResult = 0 ∧ t.outbox = s.outbox ++ [.msix 8])

/-- The commands over the package's tables (R343, R345, R348, R351 to R360, Tables 14.2 and 17.1). -/
def cmdForm : Instr → Option CmdForm
  | .noderd => some ⟨2, 0xFFF, fun s w => .done { s with mbData := s.node (w.toNat % 4096) }⟩
  | .migrd => some ⟨8, 0xF3F, fun s w =>
      let m := Tab.get Mig.idle s.migs (16 * (w.toNat % 64) + w.toNat / 256 % 16)
      .done { s with mbData := lowHalf s (m.raw ||| BitVec.ofNat 256 (m.lines.length * 2 ^ 192 + if m.retired then 2 ^ 62 else 0)) }⟩
  | .aclwr => some ⟨9, 0xFF, fun s w =>
      let t := w.toNat % 256
      let both (m : Nat) : Bool := s.mbData.getLsbD (2 * m) && s.mbData.getLsbD (2 * m + 1)
      if 0x89 < t then .bad else if both 0xF0 = false ∨ t = 0x88 ∧ both 0xE0 = false then .refused
      else .done { s with acl := Tab.set (aclReset t) s.acl t (s.mbData &&& aclMask) }⟩
  | .aclrd => some ⟨10, 0xFF, fun s w =>
      if 0x89 < w.toNat % 256 then .bad else .done { s with mbData := s.aclTable (w.toNat % 256) }⟩
  | .keyload => some ⟨11, 0x3F, fun s w =>
      if w.toNat % 64 = 0 ∨ s.mbData.extractLsb' 0 256 = s.mbData.extractLsb' 256 256 then .refused
      else .done (reported { s with keys := Tab.set none s.keys (w.toNat % 64) (some s.mbData) })⟩
  | .keyclr => some ⟨12, 0x3F, fun s w => .done (reported { s with keys := Tab.set none s.keys (w.toNat % 64) none })⟩
  | .keywb => some ⟨13, 0x3F, fun s w => .done (reported ((s.linesOf (w.toNat % 64)).foldl State.evictLine s))⟩
  | .patwr => some ⟨14, 0xF3F, fun s w =>
      if ∃ i : Fin 64, 0x40 ≤ s.mbData.toNat / 256 ^ i.val % 256 ∧ s.mbData.toNat / 256 ^ i.val % 256 ≤ 0xFE then .refused
      else .done (s.setPattern (w.toNat % 64) (w.toNat / 256 % 16) s.mbData)⟩
  | .grprd => some ⟨16, 0xFFF, fun s w => .done { s with mbData := lowHalf s (s.group (w.toNat % 4096)) }⟩
  | .thresh => some ⟨18, 0x3FFF, fun s w =>
      if w.toNat % 2 ^ 14 < 64 ∨ 8192 < w.toNat % 2 ^ 14 then .refused else .done { s with thresh := w.toNat % 2 ^ 14 }⟩
  | .pkgset => some ⟨19, 0xFFFFFF, fun s w => .done { s with pkgid := w.setWidth 24 }⟩
  | .portrst => some ⟨20, 0x1F, fun s w =>
      if 17 < w.toNat % 32 then .bad else .done (s.setLink (w.toNat % 32) { Link.reset with training := true })⟩
  | _ => none

end Sys2Proof.Claims

/-- R341 to R361, R381, R402, R404, R408, R410, Tables 14.2 and 17.1: every mailbox command ends as its rules say, with a
result code and MSI-X vector 8, or begins twilight or a shootdown that waits. Completes: noderd, migrd, aclwr, aclrd, keyload,
keyclr, keywb, patwr, grprd, thresh, pkgset, portrst, nodewr, regbase, rbsync, asidroot, shoot, migwr, grpwr, spillset,
suspend, resume, reset, parkans, pwrstat. Readings: log entries 35, 36 (the area of a suspend without a command), 37, 46, 67,
69 (data words), 73 (SHOOT), 97 (what a resume brings back). -/
def Obligations.Mailbox : Prop :=
  (∀ (i : Instr) (f : CmdForm) (w : Word) (s : State), cmdForm i = some f → Given s w f.code f.mask →
    exec i s = .next (match f.ends s w with
      | .refused => completes s 1
      | .busy => completes s 2
      | .bad => completes s 3
      | .done t => completes t 0)) ∧
  (∀ (w : Word) (s : State), Given s w 1 0xFFF →
    let n := w.toNat % 4096
    let e := s.mbData
    let moved := (nodeHome e ≠ nodeHome (s.node n) ∨ nodeRegion e ≠ nodeRegion (s.node n)) ∧ (s.queue n ≠ [] ∨ s.bandsOf n ≠ 0)
    let u := { s with nodes := Tab.set 0#512 s.nodes n e }
    (BadNode s e → exec .nodewr s = .next (completes s 1)) ∧
    (¬ BadNode s e → moved → exec .nodewr s = .next (completes s 2)) ∧
    (¬ BadNode s e → ¬ moved → nodeValid e = false → exec .nodewr s = .next (completes { u with
      nodeReq := Tab.set none s.nodeReq n none, nodeFlush := Tab.set false s.nodeFlush n false, barred := Tab.set [] s.barred n [] } 0)) ∧
    (¬ BadNode s e → ¬ moved → nodeValid e = true → (∀ r ∈ (s.queue n).head?, r.spill = false) →
      (Tab.get none s.nodeReq n = none → LaunchDue u n →
        exec .nodewr s = .next (completes { u with nodeReq := Tab.set none s.nodeReq n (some (s.time, s.steps)) } 0)) ∧
      (Tab.get none s.nodeReq n ≠ none ∨ ¬ LaunchDue u n → exec .nodewr s = .next (completes u 0)))) ∧
  (∀ (w : Word) (s : State), Given s w 7 0xF3F →
    let key := 16 * (w.toNat % 64) + w.toNat / 256 % 16
    let e := s.mbData.setWidth 256
    let old := Tab.get Mig.idle s.migs key
    let busy := old.raw.getLsbD 63 = true ∧ (e.getLsbD 63 = true ∨ old.retired = false)
    let m : Mig := ⟨e &&& ~~~(BitVec.ofNat 256 (2 ^ 206 - 2 ^ 192 + 2 ^ 62)), false, []⟩
    (BadMig s key e → exec .migwr s = .next (completes s 1)) ∧ (¬ BadMig s key e → busy → exec .migwr s = .next (completes s 2)) ∧
    (¬ BadMig s key e → ¬ busy → exec .migwr s = .next (completes { s with migs := Tab.set Mig.idle s.migs key m } 0))) ∧
  (∀ (w : Word) (s : State), Given s w 3 0 →
    let n := mb s 1 % 2 ^ 17
    (n = 0 ∨ 65536 < n ∨ ¬ inHbm (mb s 0) 64 (64 * n) → exec .regbase s = .next (completes s 1)) ∧
    (1 ≤ n → n ≤ 65536 → inHbm (mb s 0) 64 (64 * n) → someNode s → exec .regbase s = .next (completes s 2)) ∧
    (1 ≤ n → n ≤ 65536 → inHbm (mb s 0) 64 (64 * n) → ¬ someNode s →
      exec .regbase s = .next (completes { s with conBase := some (mb s 0, n) } 0))) ∧
  (∀ (w : Word) (base n : Nat) (s : State), Given s w 4 0xFFFF →
    let i := w.toNat % 65536
    let at_ := base + 64 * i
    let r := BitVec.ofNat 512 (numberAt s at_ 64)
    (s.conBase = none → exec .rbsync s = .next (completes s 1)) ∧
    (s.conBase = some (base, n) → n ≤ i → exec .rbsync s = .next (completes s 1)) ∧
    (s.conBase = some (base, n) → i < n → at_ + 64 ≤ 2 ^ 40 → at_ % 64 = 0 → Tab.get 0 s.lineKey (at_ / 256) = 0 →
      (∀ h, Tab.get none s.halo (at_ / 256) = some h → h.slot = 0) →
      let touched := ∃ j, (j = 0 ∨ ∃ p ∈ s.regions, p.1 = j) ∧ RegionUsed s j ∧ ¬ KeepsItems s (s.withRegion i r) j
      let busy := touched ∨ (regValid r = false ∧ regValid (s.region i) = true ∧ Named s i)
      (BadBlock s i r → exec .rbsync s = .next (completes s 1)) ∧
      (¬ BadBlock s i r → busy → exec .rbsync s = .next (completes s 2)) ∧
      (¬ BadBlock s i r → ¬ busy → ∃ t, exec .rbsync s = .next t ∧ t.mbCmd = none ∧ t.mbResult = 0 ∧
          t.outbox = s.outbox ++ [.msix 8] ∧ ∀ j, t.region j = if j = i then r else s.region j))) ∧
  (∀ (w : Word) (s : State), Given s w 5 0 →
    (¬ inHbm (mb s 0) 4096 2048 → exec .asidroot s = .next (completes s 1)) ∧
    (inHbm (mb s 0) 4096 2048 → someNode s → exec .asidroot s = .next (completes s 2)) ∧
    (inHbm (mb s 0) 4096 2048 → ¬ someNode s → exec .asidroot s = .next (completes { s with asidRoot := some (mb s 0) } 0))) ∧
  (∀ (w : Word) (s : State), Given s w 6 0 → BadShoot s → exec .shoot s = .next (completes s 1)) ∧
  (∀ (w : Word) (s : State), Given s w 6 0 → ¬ BadShoot s →
    let page := mb s 0 / 2 ^ 16
    let pages := mb s 1 / 2 ^ 8 % 2 ^ 24
    let named (a p : Nat) : Prop := a = mb s 1 % 256 ∧ (pages = 0 ∨ page ≤ p ∧ p < page + pages)
    ∃ t, exec .shoot s = .next t ∧ t.slots = s.slots ∧ (∀ a, t.byte a = s.byte a) ∧
      (∀ u a p, a < 256 → p < 2 ^ 48 → (named a p → t.tlbLook u a p = none) ∧ (¬ named a p → t.tlbLook u a p = s.tlbLook u a p)) ∧
      (∀ f a va, a < 256 → Tab.get none t.icache (icKey f a va) =
        if mb s 1 / 2 ^ 39 % 2 = 1 ∧ named a (va.toNat / 2 ^ 16) then none else Tab.get none s.icache (icKey f a va)) ∧
      let waits := ∃ p ∈ s.pend, p.path = pathGather ∧ (∀ r ∈ p.reqs, r.parked = false) ∧ ∃ r ∈ p.reqs, named (s.asidOf p.band) (r.va.toNat / 2 ^ 16)
      (waits → t.mbCmd = s.mbCmd ∧ t.outbox = s.outbox) ∧
      (¬ waits → t.mbCmd = none ∧ t.mbResult = 0 ∧ t.outbox = s.outbox ++ [.msix 8])) ∧
  (∀ (w : Word) (s : State), Given s w 15 0xFFF →
    let g := w.toNat % 4096
    let e := s.mbData.setWidth 256
    let at_ := e.toNat / 2 ^ 64 % 2 ^ 40
    let size := e.toNat / 2 ^ 32 % 2 ^ 16
    let member (i : Nat) := BitVec.ofNat 32 (numberAt s (at_ + 4 * i) 4)
    let self := (member (e.toNat % 2 ^ 14)).toNat % 2 ^ 24 = s.pkgid.toNat
    (BadGroupEntry e → exec .grpwr s = .next (completes s 1)) ∧
    (¬ BadGroupEntry e → at_ % 256 + 4 * size ≤ 256 → Tab.get 0 s.lineKey (at_ / 256) = 0 →
      (∀ h, Tab.get none s.halo (at_ / 256) = some h → h.slot = 0) →
      (¬ self → exec .grpwr s = .next (completes s 1)) ∧
      (self → (∃ c ∈ s.colls, clGroup c.desc = g) → exec .grpwr s = .next (completes s 2)) ∧
      (self → (∀ c ∈ s.colls, clGroup c.desc ≠ g) → ∃ t, exec .grpwr s = .next t ∧ t.mbCmd = none ∧ t.mbResult = 0 ∧ t.outbox = s.outbox ++ [.msix 8] ∧
        (∀ j, t.group j = if j = g then groupEntry e else s.group j) ∧ t.membersOf g = (List.range size).map member))) ∧
  (∀ (w : Word) (s : State), Given s w 17 7 →
    let size := mb s 1 % 2 ^ 25
    let ok : Prop := size % 4096 = 0 ∧ size ≤ 2 ^ 24 ∧ inHbm (mb s 0) 64 (32 * size)
    (¬ ok → exec .spillset s = .next (completes s 1)) ∧
    (ok → s.spilledOf (w.toNat % 8) ≠ [] → exec .spillset s = .next (completes s 2)) ∧
    (ok → s.spilledOf (w.toNat % 8) = [] →
      exec .spillset s = .next (completes { s with spill := Tab.set (0, 0) s.spill (w.toNat % 8) (mb s 0, size) } 0))) ∧
  (∀ (w : Word) (s : State), Given s w 32 0xFFFFFFF →
    let d := w.toNat % 2 ^ 28
    let base := mb s 0
    let bad : Prop := 200000000 < d ∨ base % 2 ^ 30 ≠ 0 ∨ 0xFF80000000 < base ∨ s.power ≠ .running
    (s.power = .twilight → exec .suspend s = .next s) ∧
    (s.power ≠ .twilight → bad → exec .suspend s = .next (completes s 1)) ∧
    (¬ bad → s.heldEnq = [] → (s.bands.map Prod.fst).Nodup → ∃ t, exec .suspend s = .next t ∧ t.power = .twilight ∧ t.mbCmd = s.mbCmd ∧ t.eclipseAt = some base ∧
      t.yieldBy = some (s.time.toNat + if d = 0 then 50000000 else d) ∧ (∀ a, t.byte a = s.byte a) ∧
      (∀ b v, s.band? b = some v → v.status = .running → v.linked = true →
        t.band? b = some { v with due := true, suspend := true, victimOf := none }) ∧
      (∀ b v, s.band? b = some v → v.status = .running → v.linked = false → ∃ st, (st = .stopping ∨ st = .frozen) ∧
        t.band? b = some { v with due := true, suspend := true, victimOf := none, status := st }))) ∧
  (∀ s : State, s.mbCmd = none → s.power = .running → s.heldEnq = [] → ∃ t, exec .suspend s = .next t ∧ t.power = .twilight ∧
    t.mbCmd.isSome = true ∧ t.yieldBy = some (s.time.toNat + 50000000)) ∧
  (∀ (w : Word) (s : State), Given s w 33 0 →
    (s.power ≠ .eclipse → exec .resume s = .next (if s.power = .resuming then s else completes s 1)) ∧
    (s.power = .eclipse →
      let u := (s.eclipsed.map s.bringBack).getD s
      (∀ k, s.eclipsed = some k → u.kept = k) ∧
      ∃ t, exec .resume s = .next t ∧ t.eclipseAt = none ∧ t.eclipsed = none ∧ (∀ a, t.byte a = s.byte a) ∧
      (∀ p, p < 18 → (t.link p) = { u.link p with training := (u.link p).training || (u.link p).up }) ∧
      t.colls.map CollOp.id = u.colls.map CollOp.id ∧ (∀ c ∈ t.colls, c.stopAt = none) ∧
      ((∃ p, p < 18 ∧ (u.link p).up = true) → t.power = .resuming ∧ t.waking = true ∧ t.mbCmd = s.mbCmd ∧ t.slots = u.slots ∧
        t.bands = u.bands ∧ t.outbox = s.outbox) ∧
      ((∀ p, p < 18 → (u.link p).up = false) → (∀ q ∈ s.pend, ∀ r ∈ q.reqs, r.parked = false) → Wakes u t))) ∧
  (∀ (p : Nat) (s : State), s.power = .resuming → s.waking = true → p < 18 → (s.link p).up = true → (s.link p).training = true →
    (∀ q, q < 18 → q ≠ p → (s.link q).up = true → (s.link q).training = false) → (∀ q ∈ s.pend, ∀ r ∈ q.reqs, r.parked = false) →
    ∃ t, exec (.retrainComplete p) s = .next t ∧ Wakes s t ∧
      t.link p = { s.link p with training := false, resend := (s.link p).replay.map Prod.fst }) ∧
  (∀ (w : Word) (s : State), Given s w 34 0 → ∃ t, exec .reset s = .next t ∧ t.power = .running ∧ t.time = s.time ∧ t.mbCmd = none ∧
    t.mbResult = 0 ∧ t.launchSeq = 0 ∧ t.nodes = [] ∧ t.colls = [] ∧ t.cmds = [] ∧ t.pend = [] ∧ t.tlb = [] ∧ t.icache = [] ∧ t.halo = [] ∧
    (∀ k, t.slot k = Slot.empty ∧ t.bandOf k = none) ∧ (∀ b, t.band? b = none) ∧
    ((∀ x ∈ s.mem.fills, x.base + x.len ≤ 2 ^ 40) → ∀ f a, t.byte (sideLoc f a) = 0) ∧
    ∀ a, a < 2 ^ 40 → Tab.get none s.halo (a / 256) = none → t.byte a = s.byte a) ∧
  (∀ (w : Word) (s : State), Given s w 35 0 →
    let answer := mb s 1 / 2 ^ 24 % 4
    (∀ b v, s.band? b = some v → mb s 0 = b → mb s 1 % 4096 < v.height → v.slotAB = mb s 1 / 2 ^ 16 % 2 →
      let k := v.slotOf (mb s 1 % 4096)
      let c := if mb s 1 / 2 ^ 32 % 2 = 1 then { s.slot k with trappc := BitVec.ofNat 64 (mb s 2 / 8 % 2 ^ 54 * 8) } else s.slot k
      (s.slot k).policyPark = true →
      (answer = 3 → exec .parkans s = .next (completes s 1)) ∧
      (answer = 0 → ∃ t, exec .parkans s = .next t ∧ t = completes { s with slots := t.slots } 0 ∧ (∀ j, j ≠ k → t.slot j = s.slot j) ∧
        t.slot k = if c.trappc = exitAt then { c with policyPark := false, exited := true, exitPc := c.pc, wait := .none }
          else { c with policyPark := false, pc := c.trappc, high := 0 }) ∧
      (answer = 1 → (s.slot k).band = some b → ∃ t u, exec .parkans s = .next t ∧ t.band? b = some u ∧ u.status = .killing ∧
        t.mbResult = 0 ∧ t.mbCmd = none) ∧
      (answer = 2 → exec .parkans s = .next (completes s 0))) ∧
    ((∀ v, s.band? (mb s 0) = some v → v.height ≤ mb s 1 % 4096 ∨ v.slotAB ≠ mb s 1 / 2 ^ 16 % 2 ∨
        (s.slot (v.slotOf (mb s 1 % 4096))).policyPark = false) →
      exec .parkans s = .next (completes s 1))) ∧
  ∀ (w : Word) (s : State), Given s w 36 0 → ∃ t, exec .pwrstat s = .next t ∧ t = completes { s with mbData := t.mbData } 0 ∧
    mb t 0 = (match s.power with
      | .running => 0
      | .twilight => 1
      | .resuming => 3
      | _ => 2) ∧
    mb t 1 = s.bandList.countP (fun p => p.2.status = .frozen) % 2 ^ 64 ∧ ∀ j, 2 ≤ j → j < 8 → mb t j = mb s j

/-! ## The lives of bands, twilight and power (spec/12, spec/16, spec/17) -/

namespace Sys2Proof.Claims

/-- The row waits at a YIELD, or has exited. -/
def AtYield (c : Slot) : Prop := c.exited = true ∨ ∃ m, c.wait = .yield m

/-- The rows of a band hold no row context and the band is gone; other slots and bands stay (R317, R391, R395). -/
def Vacates (s t : State) (b : Nat) (v : Band) : Prop :=
  t.band? b = none ∧ (∀ c, c ≠ b → t.band? c = s.band? c) ∧ (∀ k ∈ v.slotKeys, t.slot k = Slot.empty) ∧
  ∀ k, k ∉ v.slotKeys → t.slot k = s.slot k

/-- An edge whose feed has stopped: what was read and not taken is read again (R396). -/
def feedStopped (e : Edge) : Edge :=
  { e with buf := [], parked := false, cur := e.cur.map (fun n => { n with moved := n.passed, entry := false }) }

/-- Every access of the band has been performed, its messages answered; its copy commands stand where the save takes them, and no
slot waits for what does not outlast a save (Table 16.5). -/
def Settled (s : State) (b : Nat) (v : Band) (how : Nat) : Prop :=
  (∀ p ∈ s.pend, p.band ≠ b) ∧ (∀ m ∈ s.msgs, m.band ≠ b) ∧ (∀ m ∈ s.heldEnq, m.band ≠ b) ∧
  (∀ h ∈ s.heldRec, ∀ m, h.jdec = some m → m.band ≠ b) ∧
  (∀ c ∈ s.cmds, c.band = b → (copySplit c = true ∨ how = 2) ∧ c.ended = false) ∧
  ∀ k ∈ v.slotKeys, (s.slot k).policyPark = false ∧ ((s.slot k).wait = .none ∨ (s.slot k).wait = .copyQ ∨
    (∃ vas acc, (s.slot k).wait = .walk vas acc) ∨ (∃ va acc, (s.slot k).wait = .parked va acc) ∨
    (∃ d w l, (s.slot k).wait = .waitc d w l) ∨ (∃ d n c, (s.slot k).wait = .sgrow d n c) ∨ (∃ e, (s.slot k).wait = .collQ e) ∨
    (∃ i, (s.slot k).wait = .barrier i) ∨ ∃ m, (s.slot k).wait = .yield m)

/-- How a band is saved (Table 16.7). -/
def howOf (v : Band) : Nat := if v.suspend then 2 else if v.linked then 1 else 0

/-- A linked band that yields now (R396). -/
def Yields (s : State) (v : Band) : Prop :=
  v.linked = true ∧ v.due = true ∧ (∀ k ∈ v.slotKeys, AtYield (s.slot k) ∧ (s.slot k).south = [] ∧ (s.slot k).reserved = []) ∧ v.nad.buf = []

/-- The band's save waits for what no step of twilight brings: the answer to a parked RED, or room for a JDEC's record. -/
def SaveStuck (s : State) (b : Nat) : Prop :=
  (∃ p ∈ s.pend, p.band = b ∧ ∃ r ∈ p.reqs, r.parked = true) ∨ ∃ h ∈ s.heldRec, ∃ m, h.jdec = some m ∧ m.band = b

/-- Twilight's work is over: every band saved or frozen; only parked reductions outstanding; no message and no copy command that has
ended; collective operations not started, parked, stopped at their agreed step, or ended with a band that holds their token; every
port that is up has acknowledged and drained (R403 to R406). -/
def Quiet (s : State) : Prop :=
  (∀ p ∈ s.bandList, p.2.status = .frozen) ∧
  (∀ p ∈ s.pend, (∃ op f un wide o, p.op = .red op f un wide o) ∧ ∃ r ∈ p.reqs, r.parked = true) ∧ s.msgs = [] ∧ s.heldEnq = [] ∧
  (∀ c ∈ s.cmds, c.ended = false) ∧
  (∀ c ∈ s.colls, ((∃ r ∈ s.restores, r.seq = c.band) ∧ s.band? c.band = none ∧
      (c.err.isSome = true ∨ c.started = true ∧ c.total ≤ c.steps)) ∨
    c.err = none ∧ (c.started = false ∨ c.parked = true ∨ ∃ i, c.stopAt = some i ∧ i < c.steps ∧ c.steps < c.total)) ∧
  ∀ p, p < 18 → (s.link p).up = true → (s.link p).replay = [] ∧ (s.link p).training = false ∧ (s.link p).told = (s.link p).ack

/-- Two runs of rows on the chain share a row. -/
def ShareRow (r h q g : Nat) : Prop := ∃ i j, i < h ∧ j < g ∧ (r + i) % 4096 = (q + j) % 4096

/-- The fields of a run of rows. -/
def fieldsFrom (row0 h : Nat) : List Nat := (List.range (max 1 (h / 64))).map (fun i => (row0 / 64 + i) % 64)

/-- A band of height `H`, with `vn`, `wn` and `an` registers and `S` chunks a field, fits slot `ab` of the rows from `row0` with its
chunks from `c`, beside every band but those in `gone` (R309). -/
def Fits (s : State) (gone : Nat → Band → Prop) (H vn wn an S row0 ab c : Nat) : Prop :=
  c + S ≤ 128 ∧ ∀ p ∈ s.bandList, ¬ gone p.1 p.2 →
    (ShareRow row0 H p.2.row0 p.2.height → p.2.slotAB ≠ ab ∧ vn + p.2.vregs ≤ 64 ∧ wn + p.2.wregs ≤ 4 ∧ an + p.2.aregs ≤ 4) ∧
    (∀ f ∈ fieldsFrom row0 H, f ∈ p.2.fields → 0 < S → c + S ≤ p.2.chunk0 ∨ p.2.chunk0 + p.2.chunks ≤ c)

/-- The same of a node's footprint. -/
def NodeFits (s : State) (gone : Nat → Band → Prop) (e : BitVec 512) (row0 ab c : Nat) : Prop :=
  Fits s gone (nodeHeight e) (nodeVregs e) (nodeWregs e) (nodeAregs e) (nodeChunks e) row0 ab c

/-- Place `(d, j, ab, r)` of R310: row `r` of slot `ab` of field `j` of the die `d` along the chain from the home die; a tall band
starts at row 0. -/
def IsPlace (H d j ab r : Nat) : Prop := d < 8 ∧ j < 8 ∧ ab < 2 ∧ (H ≤ 64 → r + H ≤ 64) ∧ (64 < H → r = 0)
def rowAt (home d j r : Nat) : Nat := 64 * ((home + d) % 8 * 8 + j) + r

/-- The first place of R310 at which a node's footprint fits: no earlier place, and no lower chunk. -/
def FirstPlace (s : State) (gone : Nat → Band → Prop) (e : BitVec 512) (row0 ab c : Nat) : Prop :=
  ∃ d j r, IsPlace (nodeHeight e) d j ab r ∧ row0 = rowAt (nodeHome e) d j r ∧ NodeFits s gone e row0 ab c ∧
    (∀ c', c' < c → ¬ NodeFits s gone e row0 ab c') ∧
    ∀ d' j' ab' r' c', IsPlace (nodeHeight e) d' j' ab' r' → ((d' * 8 + j') * 2 + ab') * 64 + r' < ((d * 8 + j) * 2 + ab) * 64 + r →
      ¬ NodeFits s gone e (rowAt (nodeHome e) d' j' r') ab' c'

/-- It fits nowhere. -/
def NoPlace (s : State) (gone : Nat → Band → Prop) (e : BitVec 512) : Prop :=
  ∀ d j ab r c, IsPlace (nodeHeight e) d j ab r → ¬ NodeFits s gone e (rowAt (nodeHome e) d j r) ab c

/-- The row and side-memory budgets on its region's path cover a node's footprint (R309, R346). -/
def Covered (s : State) (e : BitVec 512) : Prop :=
  (∀ r ∈ s.regionPath (nodeRegion e), r = 0 ∨ regOvr (s.region r) 1 = true → s.rowsUsed r + nodeHeight e ≤ regRowBud (s.region r)) ∧
  ChunksFit s (nodeRegion e) (nodeChunks e * max 1 (nodeHeight e / 64))

/-- The bands' rows lie on the chain, each band has one number, and saved bands have numbers already given. -/
def RowsSane (s : State) : Prop :=
  (∀ p ∈ s.bandList, p.2.row0 < 4096 ∧ 1 ≤ p.2.height ∧ p.2.height ≤ 4096) ∧ (s.bands.map Prod.fst).Nodup ∧
  ∀ r ∈ s.restores, r.seq ≤ s.launchSeq

/-- Ticks since a request, and its effective priority (R311). -/
def waitedFor (s : State) (since : Word) : Nat := (s.time - since).toNat
def priorityOf (s : State) (region : Nat) (since : Word) : Nat := min 7 (s.regPriority region + waitedFor s since / 1000000)

/-- Of two requests, each raised in a tick and a step of it, the first is the older (R311). -/
def Older (s : State) (a b : Word × Nat) : Prop :=
  waitedFor s b.1 < waitedFor s a.1 ∨ (waitedFor s b.1 = waitedFor s a.1 ∧ a.2 < b.2)

/-- Of two pending launches, the first comes earlier (R311). -/
def Earlier (s : State) (n : Nat) (a : Word × Nat) (m : Nat) (b : Word × Nat) : Prop :=
  let p := priorityOf s (nodeRegion (s.node n)) a.1
  let q := priorityOf s (nodeRegion (s.node m)) b.1
  q < p ∨ (q = p ∧ (Older s a b ∨ (waitedFor s b.1 = waitedFor s a.1 ∧ a.2 = b.2 ∧ n < m)))

/-- A launch comes before a pending restore (R397): of one priority and age it does not. -/
def BeforeRestore (s : State) (n : Nat) (a : Word × Nat) (r : Restore) : Prop :=
  let p := priorityOf s (nodeRegion (s.node n)) a.1
  let q := priorityOf s r.band.region r.saved
  r.how ≠ 2 ∧ (q < p ∨ (q = p ∧ Older s a (r.saved, r.step)))

/-- The launch of node `n`, requested in a tick and a step, is the first of R311's order that its budgets do not hold. -/
def FirstLaunch (s : State) (n : Nat) (since : Word × Nat) : Prop :=
  (n, some since) ∈ s.nodeReq ∧ 1 ≤ nodeHeight (s.node n) ∧ nodeHeight (s.node n) ≤ 4096 ∧ Covered s (s.node n) ∧
  (∀ q ∈ s.nodeReq, q.1 = n → q.2 = some since) ∧
  (∀ q ∈ s.nodeReq, ∀ b, q.2 = some b → q.1 ≠ n → Covered s (s.node q.1) → Earlier s n since q.1 b) ∧
  ∀ r ∈ s.restores, s.band? r.seq = none → BeforeRestore s n since r

/-- A band that may yield to node `n`'s launch (R394, R396). -/
def MayBeVictim (s : State) (n b : Nat) (v : Band) : Prop :=
  (v.status = .running ∨ v.status = .placed) ∧ (∀ r ∈ s.restores, r.seq ≠ b) ∧ v.due = false ∧
  (∀ k ∈ v.slotKeys, (s.slot k).policyPark = false) ∧ (s.imageBlock v).isSome = true ∧ b ∉ Tab.get [] s.barred n

/-- A band holds what a node's footprint needs at a place: its slot, registers beside it, or a chunk. -/
def InTheWay (e : BitVec 512) (row0 ab c : Nat) (v : Band) : Prop :=
  (ShareRow row0 (nodeHeight e) v.row0 v.height ∧
    (v.slotAB = ab ∨ 64 < nodeVregs e + v.vregs ∨ 4 < nodeWregs e + v.wregs ∨ 4 < nodeAregs e + v.aregs)) ∨
  ∃ f, f ∈ fieldsFrom row0 (nodeHeight e) ∧ f ∈ v.fields ∧ 0 < nodeChunks e ∧ c < v.chunk0 + v.chunks ∧ v.chunk0 < c + nodeChunks e

/-- Number `o`, `n` bytes long, of an image. -/
def numAt (bs : List Byte) (o n : Nat) : Nat := ofBytes ((bs.drop o).take n)
def Holds (bs : List Byte) (o n x : Nat) : Prop := numAt bs o n = x % 256 ^ n

/-- The offsets of the row and cell sections, and of the side chunks (Table 16.6). -/
def rowSection (v : Band) (j : Nat) : Nat := 0x400 + 4096 * max 1 (v.height / 64) + 1024 * j
def cellSection (v : Band) (j l : Nat) : Nat := rowSection v v.height + 1280 * (64 * j + l)
def sideSection (v : Band) (i : Nat) : Nat := rowSection v v.height + 81920 * v.height + 65536 * v.chunks * i

/-- A register that a row's live mask names, within the footprint (Table 6.10). -/
def live (m : Nat) (count i per bit : Nat) : Prop := i < count ∧ m / 2 ^ (bit + i / per) % 2 = 1

/-- The header, barriers and edges of a band's image (Tables 16.6 to 16.8). -/
def HeaderHolds (s : State) (b : Nat) (v : Band) (bs : List Byte) : Prop :=
  Holds bs 0 8 b ∧ Holds bs 8 8 s.time.toNat ∧ Holds bs 16 2 v.node ∧ Holds bs 18 2 v.region ∧ Holds bs 20 2 v.height ∧
  Holds bs 22 1 (v.row0 / 64) ∧ Holds bs 23 1 (v.row0 % 64) ∧ Holds bs 24 1 v.slotAB ∧ Holds bs 25 1 (howOf v) ∧ Holds bs 26 1 v.vregs ∧
  Holds bs 27 1 v.wregs ∧ Holds bs 28 1 v.aregs ∧ Holds bs 29 1 v.dregs ∧ Holds bs 30 1 v.chunks ∧
  Holds bs 31 1 ((if v.linked then 1 else 0) + if v.windowHeld then 2 else 0) ∧ Holds bs 32 4 (65536 * v.winChunk) ∧
  Holds bs 36 2 v.reccount ∧ Holds bs 38 1 v.depth ∧ Holds bs 39 1 0 ∧ Holds bs 40 4 (65536 * v.chunk0) ∧
  Holds bs 44 4 (65536 * v.chunks) ∧ Holds bs 48 4 ((v.records.head?.map RecRef.seq).getD 0) ∧ Holds bs 52 4 v.records.length ∧
  Holds bs 56 4 1 ∧ Holds bs 60 4 (max 1 (v.height / 64)) ∧ Holds bs 64 192 0 ∧
  (∀ i, i < 16 → Holds bs (0x300 + 8 * i) 2 (v.barrier i).phase.toNat ∧ Holds bs (0x302 + 8 * i) 2 (v.barrier i).expect ∧
    Holds bs (0x304 + 8 * i) 2 (v.barrier i).arrivals ∧ Holds bs (0x306 + 8 * i) 2 0) ∧ Holds bs 0x380 128 0 ∧
  (v.linked = false → Holds bs 0x100 512 0) ∧
  (v.linked = true →
    let desc (x : Option Binding) : Nat := (x.map (fun n => n.desc.toNat)).getD 0
    let kind (x : Option Binding) : Nat := (x.map (fun n => n.kind.code.toNat)).getD 0
    let word (e : Edge) : Nat := (if e.cur.isSome then 1 else 0) + 2 * kind e.cur + (if e.queued.isSome then 8 else 0) +
      16 * kind e.queued + 2 ^ 16 * e.position.toNat
    Holds bs 0x100 64 (desc v.zen.cur) ∧ Holds bs 0x140 64 (desc v.zen.queued) ∧ Holds bs 0x180 64 (desc v.nad.cur) ∧
    Holds bs 0x1C0 64 (desc v.nad.queued) ∧ Holds bs 0x200 8 (word v.zen) ∧ Holds bs 0x208 8 (word v.nad) ∧ Holds bs 0x210 240 0)

/-- Entry `i` of a field's copy section holds a command (Table 16.9). -/
def EntryHolds (v : Band) (c : CopyCmd) (bs : List Byte) (o : Nat) : Prop :=
  let op := match c.kind with
    | .copy => 0x80
    | .copyef => 0x81
    | .copys => 0x82
  Holds bs o 1 1 ∧ Holds bs (o + 1) 1 op ∧ Holds bs (o + 2) 1 c.dst ∧ Holds bs (o + 3) 1 0 ∧
  Holds bs (o + 4) 2 (v.rowIndex (slotRow c.slot)) ∧ Holds bs (o + 6) 2 0 ∧ Holds bs (o + 8) 8 (copyControl c) ∧
  Holds bs (o + 16) 8 c.granules ∧ Holds bs (o + 24) 8 (c.flags.toNat % 32 * 2 ^ 8 + c.arr % 2 ^ 48 * 2 ^ 16) ∧ Holds bs (o + 32) 8 c.count ∧
  Holds bs (o + 40) 24 0 ∧ Holds bs (o + 64) 64 c.a.toNat ∧ Holds bs (o + 128) 64 c.b.toNat ∧ Holds bs (o + 192) 64 c.c.toNat

/-- The copy section holds the band's commands, field by field in their order. -/
def CopiesHold (s : State) (b : Nat) (v : Band) (bs : List Byte) : Prop :=
  ∀ i f, i < max 1 (v.height / 64) → f = (v.row0 / 64 + i) % 64 →
    let cs := s.cmds.filter (fun c => decide (c.band = b) && decide (c.field = f))
    cs.length ≤ 16 ∧ ∀ e, e < 16 → match cs[e]? with
      | some c => EntryHolds v c bs (0x400 + 4096 * i + 256 * e)
      | none => Holds bs (0x400 + 4096 * i + 256 * e) 256 0

/-- The section of band row `j` holds its slot under live mask `m` (Table 16.10). -/
def RowHolds (v : Band) (c : Slot) (m : Nat) (bs : List Byte) (o : Nat) : Prop :=
  let pick (p : Prop) [Decidable p] (x : Nat) : Nat := if p then x else 0
  let empty (code : Nat) : Prop := c.isEmpty code = true ∨ c.heldDst = some code
  (∀ i, i < 32 → Holds bs (o + 8 * i) 8 (c.xr i).toNat) ∧
  (∀ i, i < 8 → (live m v.dregs i 1 16 → Holds bs (o + 0x100 + 64 * i) 64 (c.dr i).toNat) ∧
    (¬ live m v.dregs i 1 16 → Holds bs (o + 0x100 + 64 * i) 64 0)) ∧
  (∀ i, i < 8 → (live m 8 i 1 24 → Holds bs (o + 0x300 + 8 * i) 8 (c.pr i).toNat) ∧ (¬ live m 8 i 1 24 → Holds bs (o + 0x300 + 8 * i) 8 0)) ∧
  Holds bs (o + 0x340) 8 c.pc.toNat ∧ Holds bs (o + 0x348) 8 c.fpmode.toNat ∧ Holds bs (o + 0x350) 8 c.lanestat.toNat ∧
  Holds bs (o + 0x358) 8 c.trapcause.toNat ∧ Holds bs (o + 0x360) 8 c.trappc.toNat ∧ Holds bs (o + 0x368) 8 c.trapinfo.toNat ∧
  Holds bs (o + 0x370) 8 c.tvec.toNat ∧
  (∀ i, 0 < i → i < 32 → ((numAt bs (o + 0x378) 8).testBit i = false ↔ empty i)) ∧
  (∀ i, i < 64 → ((numAt bs (o + 0x380) 8).testBit i = false ↔ c.isEmpty (codeV i) = true)) ∧
  (numAt bs (o + 0x388) 8 % 2 = pick (c.exited = true) 1) ∧ (numAt bs (o + 0x388) 8 / 2 % 2 = pick (c.handler = true) 1) ∧
  (numAt bs (o + 0x388) 8 / 4 % 2 = pick (c.asyncfault = true) 1) ∧
  (numAt bs (o + 0x388) 8 / 8 % 2 = 1 ↔ c.replay = true ∨ c.refills = true ∨ ∃ va acc, c.wait = .parked va acc) ∧
  (∀ i, i < 16 → c.wait = .barrier i → numAt bs (o + 0x388) 8 / 16 = 1 + 16 * i) ∧
  ((∀ i, c.wait ≠ .barrier i) → numAt bs (o + 0x388) 8 / 16 = 0) ∧ Holds bs (o + 0x390) 8 m ∧
  Holds bs (o + 0x398) 8 c.owed.toNat ∧ (∀ i, i < 16 → Holds bs (o + 0x3A0 + 2 * i) 2 (c.lastOf i).toNat) ∧
  (c.deferred = none → Holds bs (o + 0x3C0) 16 0) ∧
  (∀ k a, c.deferred = some (k, a) → Holds bs (o + 0x3C0) 8 k.code.toNat ∧ Holds bs (o + 0x3C8) 8 a.toNat) ∧ Holds bs (o + 0x3D0) 48 0

/-- The section of lane `l` of a row (Table 16.11). -/
def CellHolds (v : Band) (c : Slot) (l m : Nat) (bs : List Byte) (o : Nat) : Prop :=
  (∀ i, i < 64 →
    (live m v.vregs i 8 0 → Holds bs (o + 8 * i) 8 (c.vr i l).bits.toNat ∧ Holds bs (o + 0x200 + i) 1 (c.vr i l).tag.code.toNat ∧
      Holds bs (o + 0x240 + i) 1 (c.vr i l).scale.toNat) ∧
    (¬ live m v.vregs i 8 0 → Holds bs (o + 8 * i) 8 0 ∧ Holds bs (o + 0x200 + i) 1 0 ∧ Holds bs (o + 0x240 + i) 1 0)) ∧
  (∀ i, i < 4 →
    (live m v.wregs i 1 8 → let w := c.wr i l
      Holds bs (o + 0x280 + 96 * i) 64 w.data.toNat ∧ Holds bs (o + 0x2C0 + 96 * i) 16 w.mdata.toNat ∧
      Holds bs (o + 0x2D0 + 96 * i) 10 ((if w.sparse then 1 else 0) + w.tag.code.toNat * 2 ^ 12 + w.scales.toNat * 2 ^ 16)) ∧
    (¬ live m v.wregs i 1 8 → Holds bs (o + 0x280 + 96 * i) 96 0)) ∧
  (∀ i, i < 4 → (live m v.aregs i 1 12 → Holds bs (o + 0x400 + 48 * i) 48 (c.ar i l).toNat) ∧
    (¬ live m v.aregs i 1 12 → Holds bs (o + 0x400 + 48 * i) 48 0)) ∧
  Holds bs (o + 0x4C0) 8 (c.rngOf l).toNat ∧ Holds bs (o + 0x4C8) 1 (c.nestOf l).toNat ∧ Holds bs (o + 0x4C9) 55 0

/-- A band's image (Tables 16.6 to 16.11): a row's live mask is its YIELD's, else all ones. -/
def ImageOf (s : State) (b : Nat) (v : Band) (bs : List Byte) : Prop :=
  bs.length = sideSection v (max 1 (v.height / 64)) ∧ HeaderHolds s b v bs ∧ CopiesHold s b v bs ∧
  (∀ j m, j < v.height → m = (match (s.slot (v.slotOf j)).wait with
      | .yield k => k.toNat
      | _ => 2 ^ 64 - 1) →
    RowHolds v (s.slot (v.slotOf j)) m bs (rowSection v j) ∧
    ∀ l, l < 64 → CellHolds v (s.slot (v.slotOf j)) l m bs (cellSection v j l)) ∧
  ∀ i f o, i < max 1 (v.height / 64) → f = (v.row0 / 64 + i) % 64 → o < 65536 * v.chunks →
    65536 * (v.chunk0 + v.chunks) ≤ 2 ^ 23 → numAt bs (sideSection v i + o) 1 = (s.byte (sideLoc f (65536 * v.chunk0 + o))).toNat

/-- A row's slot as its section gives it back (R120, R139, R202, R397): registers outside the live mask are zero and full, and bits
that always read 0 stay so (R35, R104, R112). -/
def RowFrom (v : Band) (bs : List Byte) (o : Nat) (cell : Nat → Nat) (c : Slot) : Prop :=
  let m := numAt bs (o + 0x390) 8
  let word (k : Nat) : Word := BitVec.ofNat 64 (numAt bs (o + k) 8)
  let state := numAt bs (o + 0x388) 8
  c.pc = word 0x340 &&& pcMask ∧ c.fpmode = word 0x348 &&& fpmodeMask ∧ c.lanestat = word 0x350 &&& lanestatMask ∧
  c.trapcause = word 0x358 &&& causeMask ∧ c.trappc = word 0x360 &&& pcMask ∧ c.trapinfo = word 0x368 ∧ c.tvec = word 0x370 &&& pcMask ∧
  (∀ i, 0 < i → i < 32 → c.xr i = word (8 * i) ∧ c.isEmpty i = !(numAt bs (o + 0x378) 8).testBit i) ∧
  (∀ i, i < 8 → (live m v.dregs i 1 16 → c.dr i = BitVec.ofNat 512 (numAt bs (o + 0x100 + 64 * i) 64)) ∧ (¬ live m v.dregs i 1 16 → c.dr i = 0)) ∧
  (∀ i, i < 8 → (live m 8 i 1 24 → c.pr i = word (0x300 + 8 * i)) ∧ (¬ live m 8 i 1 24 → c.pr i = 0)) ∧
  (∀ i l, i < 64 → l < 64 →
    (live m v.vregs i 8 0 → (c.vr i l).bits = heldAs (c.vr i l).tag (BitVec.ofNat 64 (numAt bs (cell l + 8 * i) 8)) ∧
      (c.vr i l).tag = Fmt.ofCode (BitVec.ofNat 4 (numAt bs (cell l + 0x200 + i) 1)) ∧
      (c.vr i l).scale = BitVec.ofNat 8 (numAt bs (cell l + 0x240 + i) 1) ∧
      c.isEmpty (codeV i) = !(numAt bs (o + 0x380) 8).testBit i) ∧
    (¬ live m v.vregs i 8 0 → c.vr i l = LaneReg.zero ∧ c.isEmpty (codeV i) = false)) ∧
  (∀ i l, i < 4 → l < 64 → live m v.aregs i 1 12 → c.ar i l = BitVec.ofNat 384 (numAt bs (cell l + 0x400 + 48 * i) 48)) ∧
  (∀ l, l < 64 → c.rngOf l = BitVec.ofNat 64 (numAt bs (cell l + 0x4C0) 8) ∧ c.nestOf l = BitVec.ofNat 6 (numAt bs (cell l + 0x4C8) 1)) ∧
  c.exited = state.testBit 0 ∧ c.handler = state.testBit 1 ∧ c.asyncfault = state.testBit 2 ∧ c.refills = state.testBit 3 ∧
  c.owed = BitVec.ofNat 16 (numAt bs (o + 0x398) 2) ∧
  (∀ i, i < 16 → c.lastOf i = BitVec.ofNat 16 (numAt bs (o + 0x3A0 + 2 * i) 2)) ∧
  c.wait = if state.testBit 4 then .barrier (state / 2 ^ 8 % 16) else .none

end Sys2Proof.Claims

/-- R308 to R317, R394 to R397, R399, R400, R404 to R410, Tables 5.9, 5.10, 16.5 to 16.11 and 17.3: the first launch of the
order that its budgets do not hold takes the first place it fits, one that fits nowhere and has waited long holds back every
other, one held by its budgets waits alone, an image of twilight goes to its own place when the device resumes; the release of
a band's rows and their start state; retirement; the request for victims at the first place, its withdrawal, the yield, the
save with every byte of its image, the restore; twilight's deadline; eclipse; power. That a restore takes only its own place,
that a resuming device places twilight's images alone, and what a row stopped at its YIELD does on a withdrawal are readings
(log entries 27, 35, 37), as is the order by step within a tick (log entry 98). Completes: placement, bandRelease, bandRetire,
yieldDeadlineExpiry, eclipseEnter, powerOn, powerLoss, preemptionRequest, bandSave, bandYield, yieldWithdraw, bandRestore.
Readings: log entries 12 (free bytes), 27, 35, 37, 64, 65 (victims), 66, 97 (what eclipse keeps), 98 (ties within a tick). -/
def Obligations.PowerAndBands : Prop :=
  (∀ (n row0 ab c : Nat) (since : Word × Nat) (s : State), s.power = .running → RowsSane s → FirstLaunch s n since →
    FirstPlace s (fun _ _ => False) (s.node n) row0 ab c →
    let e := s.node n
    ∃ t v, exec .placement s = .next t ∧ t.band? (s.launchSeq + 1) = some v ∧ v.node = n ∧
      v.row0 = row0 ∧ v.slotAB = ab ∧ v.chunk0 = c ∧ v.chunks = nodeChunks e ∧ v.height = nodeHeight e ∧
      v.status = .placed ∧ v.region = nodeRegion e ∧ v.asid = s.regAsidOf (nodeRegion e) ∧ v.linked = nodeLinked e ∧
      v.entry = nodeEntry e ∧ v.reccount = v.records.length ∧ v.records.length ≤ min (s.queue n).length (nodeBatch e) ∧
      (s.nodeReq = [(n, some since)] → s.restores = [] → t.launchSeq = s.launchSeq + 1 ∧ Tab.get false t.nodeFlush n = false)) ∧
  (∀ (n : Nat) (since : Word × Nat) (s : State), s.power = .running → RowsSane s → FirstLaunch s n since → NoPlace s (fun _ _ => False) (s.node n) →
    (1000000 ≤ waitedFor s since.1 ∨ s.nodeReq = [(n, some since)] ∧ s.restores = []) → exec .placement s = .next s) ∧
  (∀ s : State, s.power = .running → (∀ q ∈ s.nodeReq, q.2 ≠ none → ¬ Covered s (s.node q.1)) → (∀ r ∈ s.restores, s.band? r.seq ≠ none) →
    exec .placement s = .next s) ∧
  (∀ (r : Restore) (s : State), s.power = .running → RowsSane s → (∀ q ∈ s.nodeReq, q.2 = none) → s.restores = [r] → s.band? r.seq = none →
    r.band.row0 < 4096 → 1 ≤ r.band.height → r.band.height ≤ 4096 →
    let fits := Fits s (fun _ _ => False) r.band.height r.band.vregs r.band.wregs r.band.aregs r.band.chunks r.band.row0 r.band.slotAB r.band.chunk0
    (fits → ∃ t, exec .placement s = .next t ∧ BandIs s t r.seq { r.band with status := .placed } ∧ t.slots = s.slots ∧ t.mem = s.mem) ∧
    (¬ fits → r.band.chunk0 + r.band.chunks ≤ 128 → exec .placement s = .next s)) ∧
  (∀ (s : State), (s.power ≠ .running → s.power ≠ .resuming → exec .placement s = .next s) ∧
    (s.power = .resuming → s.waking = true → exec .placement s = .next s) ∧
    (s.power = .resuming → s.waking = false → (∀ r ∈ s.restores, r.how = 2 → s.band? r.seq ≠ none) →
      exec .placement s = .next (completes { s with power := .running } 0))) ∧
  (∀ (r : Restore) (s : State), s.power = .resuming → s.waking = false → RowsSane s → r ∈ s.restores → r.how = 2 → s.band? r.seq = none →
    (∀ q ∈ s.restores, q.how = 2 → s.band? q.seq = none → q = r) → r.band.row0 < 4096 → 1 ≤ r.band.height → r.band.height ≤ 4096 →
    (s.restores.filter (fun q => q.seq = r.seq)).length = 1 →
    Fits s (fun _ _ => False) r.band.height r.band.vregs r.band.wregs r.band.aregs r.band.chunks r.band.row0 r.band.slotAB r.band.chunk0 →
    ∃ t, exec .placement s = .next t ∧ BandIs s t r.seq { r.band with status := .placed } ∧ t.power = .running ∧ t.mbCmd = none ∧
      t.mbResult = 0 ∧ t.outbox = s.outbox ++ [.msix 8] ∧ t.nodeReq = s.nodeReq) ∧
  (∀ (b : Nat) (v : Band) (s : State), Live s → s.band? b = some v → v.status = .placed → (∀ r ∈ s.restores, r.seq ≠ b) →
    v.records = [] → v.due = false → v.suspend = false → v.height ≤ 4096 →
    ∃ t, exec (.bandRelease b) s = .next t ∧ BandIs s t b { v with status := .running } ∧
      (∀ k, k ∉ v.slotKeys → t.slot k = s.slot k) ∧
      ∀ j, j < v.height → ∃ c, t.slot (v.slotOf j) = c ∧ c.band = some b ∧ c.pc = v.entry ∧ c.xEmpty = 0 ∧ c.vEmpty = 0 ∧
        c.aEmpty = 0 ∧ c.wEmpty = 0 ∧ c.dEmpty = 0 ∧ c.fpmode = 0 ∧ c.lanestat = 0 ∧ c.tvec = 0 ∧ c.exited = false ∧ c.wait = .none ∧
        (∀ i, i < 32 → c.xr i = match i with
          | 1 => BitVec.ofNat 64 (65536 * v.winChunk) | 2 => BitVec.ofNat 64 v.reccount | 3 => BitVec.ofNat 64 v.stride
          | 4 => BitVec.ofNat 64 j | 5 => BitVec.ofNat 64 v.height | 6 => BitVec.ofNat 64 (65536 * v.chunk0)
          | 7 => BitVec.ofNat 64 (65536 * v.chunks) | 8 => v.arg | 30 => exitAt | _ => 0) ∧
        (∀ l, l < 64 → (c.nestOf l) = 0 ∧ c.rngOf l =
          let w := BitVec.ofNat 64 (b * 2 ^ 18) ^^^ BitVec.ofNat 64 ((v.row0 + j) % 4096 * 2 ^ 6) ^^^ BitVec.ofNat 64 l ^^^
            0x9E3779B97F4A7C15
          if w = 0 then 1 else w)) ∧
  (∀ (b f : Nat) (v : Band) (r : RecRef) (s : State), Live s → s.band? b = some v → v.status = .placed → (∀ q ∈ s.restores, q.seq ≠ b) →
    v.records = [r] → v.due = false → v.suspend = false → v.height ≤ 4096 → v.fields = [f] → f < 64 → s.grants (0x40 + f) 0xD0 true = true →
    r.block = none → r.spill = false → r.idx < 507904 → s.poisonedAt (entryAt r.die r.idx) 32 = false → s.recPoisoned r = false →
    let w := numberAt s (entryAt r.die r.idx) 32
    w % 2 ^ 13 ≤ 16 → 32 ≤ v.stride → 65536 * v.winChunk + v.stride ≤ 2 ^ 23 →
    let len := min (w % 2 ^ 13) v.psize
    let entry := lowBytes v.stride (w % 2 ^ 13 + w / 2 ^ 15 % 2 ^ 5 * 2 ^ 16 + w / 2 ^ 13 % 4 * 2 ^ 24 + w / 2 ^ 32 % 2 ^ 32 * 2 ^ 32 +
      w / 2 ^ 64 % 2 ^ 64 * 2 ^ 64 + w / 2 ^ 128 % 2 ^ (8 * len) * 2 ^ 128)
    let at_ := sideLoc f (65536 * v.winChunk)
    ∃ t, exec (.bandRelease b) s = .next t ∧ BandIs s t b { v with status := .running } ∧
      ∀ loc, t.byte loc = if at_ ≤ loc ∧ loc < at_ + v.stride then entry.getD (loc - at_) 0 else s.byte loc) ∧
  (∀ (b : Nat) (v : Band) (s : State), Live s → s.band? b = some v → v.status = .running ∨ v.status = .stopping →
    (∀ k ∈ v.slotKeys, (s.slot k).exited = true) → WorkEnded s b →
    (v.linked = true → v.nad.buf = [] ∧ (s.slot (v.slotOf (v.height - 1))).reserved = []) →
    ∃ t, exec (.bandRetire b) s = .next t ∧ Vacates s t b v) ∧
  (∀ (n row0 ab c : Nat) (since : Word × Nat) (s : State), s.power = .running → RowsSane s → FirstLaunch s n since →
    NoPlace s (fun _ _ => False) (s.node n) → 1000000 ≤ waitedFor s since.1 → s.heldEnq = [] →
    let low (_ : Nat) (v : Band) : Prop := s.regPriority v.region < priorityOf s (nodeRegion (s.node n)) since.1
    FirstPlace s low (s.node n) row0 ab c →
    ∃ t, exec .preemptionRequest s = .next t ∧ (∀ loc, t.byte loc = s.byte loc) ∧ t.slots = s.slots ∧
      ∀ b v, s.band? b = some v →
        (low b v ∧ MayBeVictim s n b v ∧ InTheWay (s.node n) row0 ab c v → t.band? b = some { v with
          due := true, victimOf := some n, status := if v.linked = false ∧ v.status = .running then .stopping else v.status }) ∧
        (¬ (low b v ∧ MayBeVictim s n b v ∧ InTheWay (s.node n) row0 ab c v) → t.band? b = some v)) ∧
  (∀ (b n : Nat) (v : Band) (s : State), Live s → RowsSane s → s.band? b = some v → v.victimOf = some n → v.suspend = false →
    v.status ≠ .saving → v.status ≠ .killing →
    let gone := (∀ q ∈ s.nodeReq, q.1 = n → q.2 = none) ∨ ∃ m since, m ≠ n ∧ FirstLaunch s m since
    let stuck := v.linked = true ∧ (∀ k ∈ v.slotKeys, AtYield (s.slot k)) ∧
      ((∃ k ∈ v.slotKeys, (s.slot k).south ≠ [] ∨ (s.slot k).reserved ≠ []) ∨ v.nad.buf ≠ [])
    gone ∨ stuck →
    ∃ t, exec (.yieldWithdraw b) s = .next t ∧ BandIs s t b { v with
        due := false, victimOf := none, status := if v.status = .stopping then .running else v.status } ∧
      (∀ k ∈ v.slotKeys, t.slot k = goesOn (s.slot k)) ∧ (∀ k, k ∉ v.slotKeys → t.slot k = s.slot k) ∧ t.mem = s.mem ∧
      (∀ since, FirstLaunch s n since → b ∈ Tab.get [] t.barred n)) ∧
  (∀ (b : Nat) (v : Band) (s : State), Live s → s.band? b = some v → v.status = .running → Yields s v → s.heldEnq = [] →
    ∃ t, exec (.bandYield b) s = .next t ∧ t.slots = s.slots ∧ t.mem = s.mem ∧
      BandIs s t b { v with status := .saving, zen := feedStopped v.zen, nad := feedStopped v.nad } ∧
      ∀ c ∈ t.cmds, c.band = b → copySplit c = true → c.phase ≠ .parked) ∧
  (∀ (b off : Nat) (v : Band) (s : State), Live s → s.band? b = some v → v.status = .stopping ∧ v.linked = false ∨ v.status = .saving →
    Settled s b v (howOf v) → s.imageBlock v = some off →
    (∀ f, (s.cmds.filter (fun c => decide (c.band = b) && decide (c.field = f))).length ≤ 16) →
    let blk := (s.arenaOwner v.region, off, blockLog (imageSize v))
    ∃ t r bs, exec (.bandSave b) s = .next t ∧ ImageOf s b v bs ∧ r.image = s.arenaVa blk.1 off ∧ r.block = blk ∧ blk ∈ t.blocks ∧
      (∀ loc, t.byte loc = ((s.allocBlock blk).regionWriteVia (s.imageVia v.region) r.image bs).byte loc) ∧
      t.band? b = none ∧ (∀ k ∈ v.slotKeys, t.slot k = Slot.empty) ∧
      (∀ k, k ∉ v.slotKeys → t.slot k = s.slot k) ∧ t.restores = s.restores ++ [r] ∧ r.seq = b ∧ r.saved = s.time ∧ r.step = s.steps ∧
      r.band = { v with status := .placed, due := false, suspend := false, victimOf := none } ∧
      r.how = howOf v ∧ (∀ c ∈ t.cmds, c.band ≠ b) ∧ ∀ c, c ≠ b → t.band? c = s.band? c) ∧
  (∀ (b : Nat) (v : Band) (r : Restore) (s : State), Live s → s.band? b = some v → v.status = .placed → v.due = false → v.suspend = false →
    s.restores.find? (fun q => q.seq == b) = some r → r.band = { v with records := [] } → 1 ≤ v.height → v.height ≤ 4096 →
    let bs := (s.regionReadVia (s.imageVia v.region) r.image (imageSize v)).1
    s.roomFor r = true →
    (∀ j, j < v.height → (numAt bs (rowSection v j + 0x388) 8).testBit 4 = true → let i := numAt bs (rowSection v j + 0x388) 8 / 2 ^ 8 % 16
      numAt bs (0x300 + 8 * i) 2 = numAt bs (rowSection v j + 0x3A0 + 2 * i) 2) →
    ∃ t u new, exec (.bandRestore b) s = .next t ∧ t.restores = s.restores.filter (fun q => q.seq ≠ b) ∧ (∀ x ∈ t.blocks, x ≠ r.block) ∧
      t.band? b = some u ∧ u.status = .running ∧ u.node = v.node ∧ u.region = v.region ∧ u.height = v.height ∧ u.reccount = numAt bs 36 2 ∧
      u.linked = (numAt bs 31 1).testBit 0 ∧ u.vregs = numAt bs 26 1 ∧ u.wregs = numAt bs 27 1 ∧ u.aregs = numAt bs 28 1 ∧
      u.dregs = numAt bs 29 1 ∧ u.winChunk = numAt bs 32 4 / 65536 ∧ u.chunk0 = numAt bs 40 4 / 65536 ∧ u.chunks = numAt bs 44 4 / 65536 ∧
      u.depth = numAt bs 38 1 % 32 ∧ u.windowHeld = (numAt bs 31 1).testBit 1 ∧ t.cmds = s.cmds ++ new ∧
      (∀ i e, i < max 1 (v.height / 64) → e < 16 → let o := 0x400 + 4096 * i + 256 * e
        numAt bs o 1 = 1 → 0x80 ≤ numAt bs (o + 1) 1 → numAt bs (o + 1) 1 ≤ 0x82 →
        ∃ c ∈ new, c.band = b ∧ c.slot = v.slotOf (numAt bs (o + 4) 2) ∧ c.field = (v.row0 / 64 + i) % 64 ∧
          (c.kind = .copy ↔ numAt bs (o + 1) 1 = 0x80) ∧ (c.kind = .copyef ↔ numAt bs (o + 1) 1 = 0x81) ∧
          c.dst = numAt bs (o + 2) 1 % 32 ∧ c.ctrl = BitVec.ofNat 64 (numAt bs (o + 8) 8) ∧ c.granules = numAt bs (o + 16) 8 ∧
          c.arr = numAt bs (o + 24) 8 / 2 ^ 16 ∧ c.count = numAt bs (o + 32) 8 ∧ c.a = BitVec.ofNat 512 (numAt bs (o + 64) 64) ∧
          c.b = BitVec.ofNat 512 (numAt bs (o + 128) 64) ∧ c.c = BitVec.ofNat 512 (numAt bs (o + 192) 64) ∧ c.phase = .queued) ∧
      (∀ j, j < v.height → RowFrom u bs (rowSection v j) (cellSection v j) (t.slot (v.slotOf j)) ∧ (t.slot (v.slotOf j)).band = some b) ∧
      ∀ i f o, i < max 1 (v.height / 64) → f = (v.row0 / 64 + i) % 64 → o < 65536 * v.chunks → 65536 * (v.chunk0 + v.chunks) ≤ 2 ^ 23 →
        (t.byte (sideLoc f (65536 * v.chunk0 + o))).toNat = numAt bs (sideSection v i + o) 1) ∧
  (∀ (at_ : Nat) (s : State), s.yieldBy = some at_ → s.power = .twilight → at_ ≤ s.time.toNat → s.heldEnq = [] →
    ∃ t, exec .yieldDeadlineExpiry s = .next t ∧ t.yieldBy = none ∧ t.power = .twilight ∧ t.slots = s.slots ∧ t.mem = s.mem ∧
      ∀ b v, s.band? b = some v →
        let settled := (∀ k ∈ v.slotKeys, (s.slot k).policyPark = false) ∧ Settled s b v (howOf v)
        let yields := Yields s v ∧ ¬ SaveStuck s b
        let freezes := v.status = .running ∧ ¬ yields ∨ v.status = .saving ∧ SaveStuck s b ∨ v.status = .stopping ∧ ¬ settled
        (v.status = .running → yields → t.band? b = some { v with status := .saving, zen := feedStopped v.zen, nad := feedStopped v.nad }) ∧
        (freezes → t.band? b = some { v with status := .frozen }) ∧
        (¬ freezes → v.status ≠ .running → t.band? b = some v)) ∧
  (∀ s : State, s.power = .twilight → Quiet s → ∃ t, exec .eclipseEnter s = .next t ∧ t.power = .eclipse ∧ t.yieldBy = none ∧
    t.mbCmd = none ∧ t.mbResult = 0 ∧ t.bands = s.bands ∧ t.tlb = [] ∧ t.icache = [] ∧ t.acts = [] ∧ t.alerts = [] ∧ t.bankUntil = [] ∧
    t.fbWait = [] ∧ t.outbox = s.outbox ++ [.msix 8] ∧ t.restores = s.restores ∧ t.colls = s.colls ∧ t.eclipsed = some t.kept ∧
    (∀ base a, s.halo = [] → s.eclipseAt = some base → a < base ∨ base + 2 ^ 31 ≤ a → t.byte a = s.byte a) ∧
    ∀ k, t.slot k = (match (s.slot k).wait with
      | .parked _ _ => { s.slot k with wait := .none, replay := true, heldDst := none }
      | _ => s.slot k)) ∧
  (∀ s : State, s.power = .eclipse → ∃ t, exec .powerLoss s = .next t ∧ t.power = .off ∧ t.bands = [] ∧ t.slots = [] ∧ t.tlb = [] ∧
    t.nodes = [] ∧ t.pend = [] ∧ t.keys = []) ∧
  ∀ s : State, ∃ t, exec .powerOn s = .next t ∧ t = { State.reset with
      agenda := s.agenda, cur := s.cur, issueClk := s.issueClk, nextId := s.nextId, draws := t.draws, outbox := s.outbox
      steps := s.steps, stepsIn := s.stepsIn, clkPhase := s.clkPhase, mem := t.mem } ∧
    ∀ a, a < 2 ^ 40 → t.byte a = Config.freeByte s.draws a

/-! ## Memory controllers and the clock (spec/09, spec/15, spec/16) -/

namespace Sys2Proof.Claims

/-- `n` steps pass: what issued may issue again, results come nearer, waiters at banks keep or lose their places, gather reads may
become urgent, each counter keeps the count it has reached, and one of steps (event 0x01) rises by `n` (R19, R184, R226, R377). -/
def Passed (s t : State) (n : Nat) : Prop :=
  t = { s with
    time := t.time, clkPhase := t.clkPhase, stepsIn := t.stepsIn, steps := s.steps + n, rowsDone := [], killStep := []
    slots := t.slots, pend := t.pend, backoff := t.backoff, evc := t.evc } ∧
  t.pend.map (fun p => { p with urgent := false }) = s.pend.map (fun p => { p with urgent := false }) ∧
  (∀ b ∈ t.backoff, b ∈ s.backoff) ∧
  (∀ k, t.slot k = { s.slot k with
    blocked := (t.slot k).blocked
    busy := ((s.slot k).busy.map (fun b => { b with left := b.left - n })).filter (fun b => decide (0 < b.left))
    reserved := (s.slot k).reserved.map (fun r => { r with left := r.left - n }) }) ∧
  (∀ x, (t.evCtr x).prev = (t.evCtr x).value) ∧
  ∀ f i, f < 64 → i < 8 → (s.evCtr (8 * f + i)).sel = 1 → (s.evCtr (8 * f + i)).first ≤ s.steps →
    (t.evCtr (8 * f + i)).value = (s.evCtr (8 * f + i)).value + BitVec.ofNat 64 n

end Sys2Proof.Claims

/-- R214, R225, R228, R229, R233, R381, R386: the background fill copies a page's first line not held into its new frame;
refresh management clears a row's count and takes its bank for 30 ticks; a bank comes back; a refresh is postponed, performed,
or performed within a burst; the steps left of a tick pass and TIME counts; an uncorrectable error marks a word, a register or
a port value; a fill puts a word in the instruction cache. Completes: migrationBackgroundFill, refreshManagement,
bankAvailable, midBurstRefresh, tick, uncorrectableError, instructionCacheFill, periodicRefresh. Readings: log entries 15
(TIME), 34, 38 (postponed refreshes), 47, 72 (the open row), 75 (filled lines), 87. -/
def Obligations.MemoryEvents : Prop :=
  (∀ (q e i : Nat) (m : Mig) (s : State), Live s → e < 16 → Tab.get Mig.idle s.migs (16 * q + e) = m → migActive m = true →
    (∀ j, j < i → Tab.get false m.lines j = true) → i < migSize m / 256 → Tab.get false m.lines i = false → 2 ^ 40 ≤ migOld m →
    NothingFirst s → (∀ b ∈ s.backoff, b.1 / 512 = q → ∃ x y, b.2 = .act (.event (.migrationBackgroundFill x y))) →
    let src := migOld m + 256 * i
    let dst := migNew m + 256 * i
    dst + 256 ≤ 2 ^ 40 →
    ∃ t, exec (.migrationBackgroundFill q e) s = .next t ∧ t.slots = s.slots ∧ t.bands = s.bands ∧
      (∀ j, j < 256 → t.byte (dst + j) = s.byte (src + j)) ∧
      (∀ w, w < 32 → Tab.get false t.poison (dst / 8 + w) =
        ((decide (spaceOf src = .peer) && !(s.link (peerPort src)).up) || s.poisonedAt src 256)) ∧
      (Tab.wf false m.lines = true → (∀ x ∈ m.lines, x.1 < migSize m / 256) →
        (Tab.get Mig.idle t.migs (16 * q + e)).retired = decide (m.lines.length + 1 = migSize m / 256)) ∧
      Tab.get false (Tab.get Mig.idle t.migs (16 * q + e)).lines i = true) ∧
  (∀ (q r : Nat) (pre post : List Nat) (s : State), Live s → s.alerts = pre ++ r :: post → (∀ x ∈ pre, x / 32768 / 512 ≠ q) →
    r / 32768 / 512 = q →
    ∃ t, exec (.refreshManagement q) s = .next t ∧ t = { s with
        acts := t.acts, alerts := pre ++ post, bankUntil := t.bankUntil, evc := t.evc } ∧
      (∀ x, Tab.get 0 t.acts x = if x = r then 0 else Tab.get 0 s.acts x) ∧
      ∀ x, Tab.get none t.bankUntil x = if x = r / 32768 then some (s.time.toNat + 30) else Tab.get none s.bankUntil x) ∧
  (∀ (q : Nat) (s : State), Live s → exec (.bankAvailable q) s = .next { s with
    bankUntil := s.bankUntil.filter (fun p => !(p.1 / 512 == q && (match p.2 with
      | some at_ => decide (at_ ≤ s.time.toNat)
      | none => true))) }) ∧
  (∀ (q b row id : Nat) (s : State), Live s → b < 512 → Tab.get none s.openRow (512 * q + b) = some (row, id) →
    (∃ c ∈ s.cmds, c.id = id ∧ ∃ e, c.phase = .running e) → 8 ≤ Tab.get 0 s.refresh (512 * q + b) → row < 32768 → q < 64 →
    ∃ t, exec (.midBurstRefresh q b) s = .next t ∧
      t = { s with refresh := t.refresh, acts := t.acts, alerts := t.alerts, openRow := t.openRow, clash := t.clash, evc := t.evc } ∧
      (∀ x, Tab.get 0 t.refresh x = if x = 512 * q + b then Tab.get 0 s.refresh x - 1 else Tab.get 0 s.refresh x) ∧
      ∀ x, Tab.get none t.openRow x = Tab.get none s.openRow x) ∧
  (∀ (q b : Nat) (s : State), Live s → q < 64 → b < 512 →
    (Tab.get 0 s.refresh (512 * q + b) < 8 → exec (.periodicRefresh q b true) s = .next { s with
      refresh := Tab.set 0 s.refresh (512 * q + b) (Tab.get 0 s.refresh (512 * q + b) + 1) }) ∧
    exec (.periodicRefresh q b false) s = .next { s with
      refresh := Tab.set 0 s.refresh (512 * q + b) 0, openRow := Tab.set none s.openRow (512 * q + b) none }) ∧
  (∀ s : State,
    (s.power = .eclipse → exec .tick s = .next { s with time := s.time + 1, clkPhase := !s.clkPhase }) ∧
    (s.power = .off → exec .tick s = .next s) ∧
    (Live s → ∀ n, s.stepsIn + n = (if s.clkPhase then 7 else 8) →
      (0 < n → ∃ t, exec .tick s = .next t ∧ Passed s t n ∧ t.time = s.time + 1 ∧ t.clkPhase = !s.clkPhase ∧ t.stepsIn = 0) ∧
      (1 < n → ∃ t, s.passStep = t ∧ Passed s t 1 ∧ t.time = s.time ∧ t.clkPhase = s.clkPhase ∧ t.stepsIn = s.stepsIn + 1))) ∧
  (∀ (loc : Nat) (s : State), ∃ t, exec (.uncorrectableError (.memWord loc)) s = .next t ∧ t = { s with poison := t.poison } ∧
    ∀ a, s.poisonedAt a 1 = true → t.poisonedAt a 1 = true) ∧
  (∀ (loc : Nat) (s : State), loc < 2 ^ 40 → ∃ t, exec (.uncorrectableError (.memWord loc)) s = .next t ∧
    t.poisonedAt (loc / 8 * 8) 8 = true) ∧
  (∀ (k : Nat) (i : Fin 31) (s : State), (s.bandOf k).isSome = true → BitVec.ofNat 7 (i.val + 1) ∉ (s.slot k).softErr →
    ∃ t, exec (.uncorrectableError (.register k (BitVec.ofNat 7 (i.val + 1)))) s = .next t ∧ OnlySlot s t k (fun c c' =>
      c' = { c with softErr := c.softErr ++ [BitVec.ofNat 7 (i.val + 1)] })) ∧
  (∀ (k : Nat) (e : PortEntry) (rest : List PortEntry) (s : State), (s.slot k).south = e :: rest →
    ∃ t, exec (.uncorrectableError (.portValue k)) s = .next t ∧ OnlySlot s t k (fun c c' =>
      c' = { c with south := ⟨{ e.val with bad := true }, e.arrived⟩ :: rest })) ∧
  ∀ (k : Nat) (v : Band) (l : TlbLeaf) (pc : Word) (s : State), s.bandOf k = some v → MayIssue s k →
    let f := slotField k
    let held (a : Word) := Tab.get none s.icache (icKey f v.asid a)
    (pc = (s.slot k).pc ∧ held pc = none) ∨ (pc = (s.slot k).pc + 8 ∧ held pc = none ∧
      ∃ w, held (s.slot k).pc = some w ∧ wordIsExtended w = true) →
    (s.slot k).high = 0 → pc ≠ exitAt → s.bankUntil = [] → s.icache.length < 32768 →
    s.tlbLook f v.asid (pc.toNat / 65536) = some l → leafRefuses l.leaf .fetch = none → leafMig l.leaf = false →
    let loc := leafLoc l pc
    s.denied loc (leafKey l.leaf) f true false = false → s.poisonedAt loc 8 = false →
    (2 ^ 40 ≤ loc ∨ loc % 256 ≤ 248 ∧ leafKey l.leaf = 0 ∧ Tab.get 0 s.lineKey (loc / 256) = 0 ∧
      ∀ h, Tab.get none s.halo (loc / 256) = some h → h.slot = 0) →
    ∃ t, exec (.instructionCacheFill k) s = .next t ∧ t.slots = s.slots ∧ t.bands = s.bands ∧ (∀ a, t.byte a = s.byte a) ∧
      ∀ x, Tab.get none t.icache x = if x = icKey f v.asid pc then some (BitVec.ofNat 64 (numberAt s loc 8)) else Tab.get none s.icache x

/-! ## Pair words (spec/04) -/

namespace Sys2Proof.Claims

/-- The word has had its effect: the slot is past it, in no handler it was not in. -/
def Performed (s t : State) : Prop :=
  (t.slot s.cur).pc = (here s).pc + 8 ∧ (t.slot s.cur).handler = (here s).handler

/-- The word goes on waiting: its slot's registers, PC and stamp stay as they are. -/
def Holding (i : Instr) (s : State) : Prop :=
  ∃ t, exec i s = .next t ∧ t.slot s.cur = { here s with blocked := (t.slot s.cur).blocked } ∧
    (∀ k, k ≠ s.cur → t.slot k = s.slot k) ∧ ∀ loc, t.byte loc = s.byte loc

/-- The sources and the accumulator of a tensor half are there; of another half this asks nothing. -/
def StepReady (h : Instr) (s : State) : Prop :=
  ∀ f, stepForm h = some f → (∀ u ∈ f.us, u.empty s s.cur = false) ∧ ∀ n, f.d = .a n → (here s).isPend (codeA n) = false

/-- A bit that one of two effects changed: the first's where it changed it, else the second's. -/
def either (old a b : Bool) : Bool := if a ≠ old then a else b

end Sys2Proof.Claims

/-- R75 to R77: a pair word whose halves could each perform their effect performs both at once, each reading the state the word
issues in, and counts as a pair (event 0x03); a word a half of which waits waits, whatever the other half would do, a tensor
half for its own sources before its mask is checked; one whose half H0 traps takes that trap, whether H1 traps or not, and one
whose half H1 alone traps takes H1's, with no other effect. A lane half beside a scalar half writes its results and the scalar
its value. Completes: pairWord. -/
def Obligations.PairWords : Prop :=
  (∀ (h0 h1 : Instr) (f : LaneForm) (g : ScalarForm) (s : State), (Instr.pairWord h0 h1).wf = true → laneForm h0 = some f →
    (binaryForm h1 = some g ∨ otherForm h1 = some g) → CanIssue s → alsoReady s h0 → otherOk s h1 → Ready s f.us (dstCodes f.d) → Ready s g.us [codeX g.d] →
    (∀ l, l < 64 → (lanesOn s f.g).getLsbD l = true → (f.val s l).isSome = true) →
    ActsIn (.pairWord h0 h1) s ((sourced s [] 8).evField (slotField s.cur) 0x03 (slotQual s.cur)) (fun c c' =>
      ∃ c1, LanesTo f.d f.lat (lanesOn s f.g) (f.val s) c c1 ∧ WroteX g.d (g.val s) c1 c')) ∧
  (∀ (h0 h1 : Instr) (t0 t1 s : State), (Instr.pairWord h0 h1).wf = true → CanIssue s → exec h0 s = .next t0 → exec h1 s = .next t1 →
    Performed s t0 → Performed s t1 →
    let c0 := t0.slot s.cur
    let c1 := t1.slot s.cur
    StepReady h0 s →
    let counted := if (stepForm h0).isSome then t1.evField (slotField s.cur) 0x04 (slotQual s.cur) else t1
    ∃ t, exec (.pairWord h0 h1) s = .next t ∧ t.evc = (counted.evField (slotField s.cur) 0x03 (slotQual s.cur)).evc ∧ t.bands = s.bands ∧ t.pend = t1.pend ∧ (∀ loc, t.byte loc = s.byte loc) ∧
      (∀ k, k ≠ s.cur → t.slot k = s.slot k) ∧
      ∃ c, t.slot s.cur = c ∧ c = { c0 with
          x := c1.x, xEmpty := c1.xEmpty, vEmpty := c.vEmpty, xPend := c1.xPend, vPend := c1.vPend, softErr := c.softErr } ∧
        (∀ r, r ∈ c.softErr ↔ r ∈ c0.softErr ∧ r ∈ c1.softErr) ∧
        ∀ i, i < 64 → c.isEmpty (codeV i) =
          either ((here s).isEmpty (codeV i)) (c0.isEmpty (codeV i)) (c1.isEmpty (codeV i))) ∧
  (∀ (h0 h1 : Instr) (cause : Cause) (info pc : Word) (u s : State), (Instr.pairWord h0 h1).wf = true → CanIssue s → InRow s cause →
    StepReady h0 s →
    (exec h1 s = .next u → Performed s u → Traps h0 s cause info pc → Traps (.pairWord h0 h1) s cause info pc) ∧
    (exec h0 s = .next u → Performed s u → Traps h1 s cause info pc → Traps (.pairWord h0 h1) s cause info pc) ∧
    (∀ other w a, InRow s other → Traps h0 s cause info pc → Traps h1 s other w a → Traps (.pairWord h0 h1) s cause info pc) ∧
    (Traps h0 s cause info pc → Holding h1 s → exec (.pairWord h0 h1) s = exec h1 s) ∧
    (Holding h0 s → Traps h1 s cause info pc → exec (.pairWord h0 h1) s = exec h0 s)) ∧
  (∀ (h0 h1 : Instr) (u s : State), (Instr.pairWord h0 h1).wf = true → CanIssue s →
    (Holding h0 s → exec h1 s = .next u → Performed s u → exec (.pairWord h0 h1) s = exec h0 s) ∧
    (exec h0 s = .next u → Performed s u → Holding h1 s → exec (.pairWord h0 h1) s = exec h1 s) ∧
    (Holding h0 s → Holding h1 s → Holding (.pairWord h0 h1) s)) ∧
  ∀ (h0 h1 : Instr) (f : StepForm) (u s : State), (Instr.pairWord h0 h1).wf = true → CanIssue s → stepForm h0 = some f →
    (∃ x ∈ f.us, x.empty s s.cur = true) → (∀ x ∈ f.us, x.bad s s.cur = false) →
    Holding h1 s ∨ (exec h1 s = .next u ∧ Performed s u) → Holding (.pairWord h0 h1) s
end

