-- ==== Sys2Proof/Laws/Tab.lean ====
section
/-!
SUPPORT. Sparse tables: what a write reads back as, at its key and elsewhere, and that it keeps the canonical form.
-/
namespace Sys2Proof

variable {α : Type}

theorem Tab.get_erase_same (d : α) (t : List (Nat × α)) (k : Nat) : Tab.get d (Tab.erase t k) k = d := by
  induction t with
  | nil => rfl
  | cons p t ih =>
    obtain ⟨j, v⟩ := p
    by_cases h : j = k <;> simp [Tab.erase, Tab.get, h, ih]

theorem Tab.get_erase_other (d : α) (t : List (Nat × α)) {k j : Nat} (h : j ≠ k) :
    Tab.get d (Tab.erase t k) j = Tab.get d t j := by
  induction t with
  | nil => rfl
  | cons p t ih =>
    obtain ⟨i, v⟩ := p
    by_cases hk : i = k
    · subst hk; simp [Tab.erase, Tab.get, ih, Ne.symm h]
    · by_cases hj : i = j <;> simp [Tab.erase, Tab.get, hk, hj, ih, h]

theorem Tab.get_insert_same (d : α) (t : List (Nat × α)) (k : Nat) (v : α) : Tab.get d (Tab.insert t k v) k = v := by
  induction t with
  | nil => simp [Tab.insert, Tab.get]
  | cons p t ih =>
    obtain ⟨j, w⟩ := p
    simp only [Tab.insert]
    split
    · simp [Tab.get]
    · split
      · simp [Tab.get]
      · simp [Tab.get, *]

theorem Tab.get_insert_other (d : α) (t : List (Nat × α)) {k j : Nat} (v : α) (h : j ≠ k) :
    Tab.get d (Tab.insert t k v) j = Tab.get d t j := by
  induction t with
  | nil => simp [Tab.insert, Tab.get, Ne.symm h]
  | cons p t ih =>
    obtain ⟨i, w⟩ := p
    simp only [Tab.insert]
    split
    · simp [Tab.get, Ne.symm h]
    · split
      · subst_vars; simp [Tab.get, Ne.symm h]
      · simp [Tab.get, ih]

variable [DecidableEq α]

/-- A write reads back as what it wrote. -/
@[simp] theorem Tab.get_set_same (d : α) (t : List (Nat × α)) (k : Nat) (v : α) : Tab.get d (Tab.set d t k v) k = v := by
  unfold Tab.set
  split
  · subst_vars; exact Tab.get_erase_same _ _ _
  · exact Tab.get_insert_same _ _ _ _

/-- A write leaves every other key alone. -/
theorem Tab.get_set_other (d : α) (t : List (Nat × α)) {k j : Nat} (v : α) (h : j ≠ k) :
    Tab.get d (Tab.set d t k v) j = Tab.get d t j := by
  unfold Tab.set
  split
  · exact Tab.get_erase_other d t h
  · exact Tab.get_insert_other d t v h

theorem Tab.get_set (d : α) (t : List (Nat × α)) (k j : Nat) (v : α) :
    Tab.get d (Tab.set d t k v) j = if j = k then v else Tab.get d t j := by
  split
  · subst_vars; simp
  · exact Tab.get_set_other d t v ‹_›

/-! ### The canonical form -/

theorem Tab.wfFrom_mono (d : α) {t : List (Nat × α)} {a b : Nat} (h : Tab.wfFrom d (some b) t = true) (hab : a ≤ b) :
    Tab.wfFrom d (some a) t = true := by
  cases t with
  | nil => rfl
  | cons p t => simp only [Tab.wfFrom, Bool.and_eq_true, decide_eq_true_eq] at h ⊢; exact ⟨⟨by omega, h.1.2⟩, h.2⟩

theorem Tab.wfFrom_none (d : α) {t : List (Nat × α)} {a : Nat} (h : Tab.wfFrom d (some a) t = true) :
    Tab.wfFrom d none t = true := by
  cases t with
  | nil => rfl
  | cons p t => simp only [Tab.wfFrom, Bool.and_eq_true, decide_eq_true_eq] at h ⊢; exact ⟨⟨trivial, h.1.2⟩, h.2⟩

theorem Tab.wfFrom_erase (d : α) (t : List (Nat × α)) (k : Nat) (lo : Option Nat) (h : Tab.wfFrom d lo t = true) :
    Tab.wfFrom d lo (Tab.erase t k) = true := by
  induction t generalizing lo with
  | nil => rfl
  | cons p t ih =>
    obtain ⟨j, v⟩ := p
    simp only [Tab.wfFrom, Bool.and_eq_true, decide_eq_true_eq] at h
    simp only [Tab.erase]
    split
    · refine ih lo ?_
      cases lo with
      | none => exact Tab.wfFrom_none d h.2
      | some l => exact Tab.wfFrom_mono d h.2 (by simpa using Nat.le_of_lt (by simpa using h.1.1))
    · simp only [Tab.wfFrom, Bool.and_eq_true, decide_eq_true_eq]
      exact ⟨h.1, ih _ h.2⟩

theorem Tab.wfFrom_insert (d : α) (t : List (Nat × α)) (k : Nat) (v : α) (lo : Option Nat) (hv : v ≠ d)
    (hk : ∀ l, lo = some l → l < k) (h : Tab.wfFrom d lo t = true) : Tab.wfFrom d lo (Tab.insert t k v) = true := by
  induction t generalizing lo with
  | nil => cases lo <;> simp [Tab.insert, Tab.wfFrom, hv]; exact hk _ rfl
  | cons p t ih =>
    obtain ⟨j, w⟩ := p
    simp only [Tab.wfFrom, Bool.and_eq_true, decide_eq_true_eq] at h
    simp only [Tab.insert]
    split
    · cases lo <;> simp_all [Tab.wfFrom]
    · split
      · subst_vars; cases lo <;> simp_all [Tab.wfFrom]
      · have := ih (some j) (by intro l hl; cases hl; omega) h.2
        cases lo <;> simp_all [Tab.wfFrom]

/-- A write keeps the canonical form. -/
theorem Tab.wf_set (d : α) {t : List (Nat × α)} (k : Nat) (v : α) (h : Tab.wf d t = true) :
    Tab.wf d (Tab.set d t k v) = true := by
  unfold Tab.wf Tab.set at *
  split
  · exact Tab.wfFrom_erase d t k none h
  · exact Tab.wfFrom_insert d t k v none ‹_› (by simp) h

end Sys2Proof
end

