-- ==== Sys2Proof/Laws/Memory.lean ====
section
/-!
SUPPORT. Memory: what a written byte reads as, that a write leaves every other byte alone, and that every memory operation
keeps the canonical form.
-/
namespace Sys2Proof.Machine

@[simp] theorem Mem.write_fills (m : Mem) (a : Nat) (b : Byte) : (m.write a b).fills = m.fills := rfl

@[simp] theorem Mem.read_write_same (m : Mem) (a : Nat) (b : Byte) : (m.write a b).read a = b := by
  simp [Mem.read, Mem.write]

theorem Mem.read_write_other (m : Mem) {a c : Nat} (b : Byte) (h : c ≠ a) : (m.write a b).read c = m.read c := by
  simp only [Mem.read, Mem.write]
  unfold Tab.set
  split
  · exact Tab.get_erase_other _ _ h
  · exact Tab.get_insert_other _ _ _ h

@[simp] theorem Mem.writeN_nil (m : Mem) (a : Nat) : m.writeN a [] = m := rfl

@[simp] theorem Mem.writeN_fills (m : Mem) (a : Nat) (bs : List Byte) : (m.writeN a bs).fills = m.fills := by
  induction bs generalizing m a with
  | nil => rfl
  | cons b t ih => simp [Mem.writeN, ih]

/-- A write of several bytes leaves every byte outside them alone. -/
theorem Mem.read_writeN_outside (m : Mem) (a c : Nat) (bs : List Byte) (h : c < a ∨ a + bs.length ≤ c) :
    (m.writeN a bs).read c = m.read c := by
  induction bs generalizing m a with
  | nil => rfl
  | cons b t ih =>
    simp only [List.length_cons] at h
    rw [Mem.writeN, ih _ _ (by omega), Mem.read_write_other _ _ (by omega)]

/-- A write of several bytes reads back as what it wrote. -/
theorem Mem.read_writeN_inside (m : Mem) (a i : Nat) (bs : List Byte) (h : i < bs.length) :
    (m.writeN a bs).read (a + i) = bs[i] := by
  induction bs generalizing m a i with
  | nil => simp at h
  | cons b t ih =>
    cases i with
    | zero => rw [Mem.writeN, Mem.read_writeN_outside _ _ _ _ (by omega)]; simp
    | succ i =>
      have := ih (m.write a b) (a + 1) i (by simpa using h)
      rw [Mem.writeN, show a + (i + 1) = a + 1 + i by omega, this]; simp

/-! ### The canonical form -/

theorem Mem.wfFrom_mono (fs : List Fill) {t : List Host.Cell} {a b : Nat} (h : Mem.wfFrom fs (some b) t = true) (hab : a ≤ b) :
    Mem.wfFrom fs (some a) t = true := by
  cases t with
  | nil => rfl
  | cons p t => simp only [Mem.wfFrom, Bool.and_eq_true, decide_eq_true_eq] at h ⊢; exact ⟨⟨by omega, h.1.2⟩, h.2⟩

theorem Mem.wfFrom_none (fs : List Fill) {t : List Host.Cell} {a : Nat} (h : Mem.wfFrom fs (some a) t = true) :
    Mem.wfFrom fs none t = true := by
  cases t with
  | nil => rfl
  | cons p t => simp only [Mem.wfFrom, Bool.and_eq_true, decide_eq_true_eq] at h ⊢; exact ⟨⟨trivial, h.1.2⟩, h.2⟩

/-- A tail of a canonical list is canonical above the same bound. -/
theorem Mem.wfFrom_tail (fs : List Fill) {j : Nat} {v : Byte} {t : List Host.Cell} {lo : Option Nat}
    (h : Mem.wfFrom fs lo ((j, v) :: t) = true) : Mem.wfFrom fs lo t = true := by
  simp only [Mem.wfFrom, Bool.and_eq_true, decide_eq_true_eq] at h
  cases lo with
  | none => exact Mem.wfFrom_none fs h.2
  | some l => exact Mem.wfFrom_mono fs h.2 (Nat.le_of_lt (by simpa using h.1.1))

theorem Mem.wfFrom_erase (fs : List Fill) (t : List Host.Cell) (k : Nat) (lo : Option Nat)
    (h : Mem.wfFrom fs lo t = true) : Mem.wfFrom fs lo (Tab.erase t k) = true := by
  induction t generalizing lo with
  | nil => rfl
  | cons p t ih =>
    obtain ⟨j, v⟩ := p
    simp only [Tab.erase]
    split
    · exact ih lo (Mem.wfFrom_tail fs h)
    · simp only [Mem.wfFrom, Bool.and_eq_true, decide_eq_true_eq] at h ⊢
      exact ⟨h.1, ih _ h.2⟩

theorem Mem.wfFrom_insert (fs : List Fill) (t : List Host.Cell) (k : Nat) (v : Byte) (lo : Option Nat)
    (hv : v ≠ Mem.bg fs k) (hk : ∀ l, lo = some l → l < k) (h : Mem.wfFrom fs lo t = true) :
    Mem.wfFrom fs lo (Tab.insert t k v) = true := by
  induction t generalizing lo with
  | nil => cases lo <;> simp [Tab.insert, Mem.wfFrom, hv]; exact hk _ rfl
  | cons p t ih =>
    obtain ⟨j, w⟩ := p
    simp only [Mem.wfFrom, Bool.and_eq_true, decide_eq_true_eq] at h
    simp only [Tab.insert]
    split
    · cases lo <;> simp_all [Mem.wfFrom]
    · split
      · subst_vars; cases lo <;> simp_all [Mem.wfFrom]
      · have := ih (some j) (by intro l hl; cases hl; omega) h.2
        cases lo <;> simp_all [Mem.wfFrom]

theorem Mem.wf_write {m : Mem} (a : Nat) (b : Byte) (h : m.wf = true) : (m.write a b).wf = true := by
  simp only [Mem.wf, Mem.write, Tab.set] at *
  split
  · exact Mem.wfFrom_erase _ _ _ _ h
  · exact Mem.wfFrom_insert _ _ _ _ _ ‹_› (by simp) h

theorem Mem.wf_writeN {m : Mem} (a : Nat) (bs : List Byte) (h : m.wf = true) : (m.writeN a bs).wf = true := by
  induction bs generalizing m a with
  | nil => exact h
  | cons b t ih => exact ih _ (Mem.wf_write a b h)

/-- A location outside a new range reads as before where nothing is listed. -/
theorem Mem.bg_outside (f : Fill) (fs : List Fill) {a : Nat} (h : ¬(f.base ≤ a ∧ a < f.base + f.len)) :
    Mem.bg (f :: fs) a = Mem.bg fs a := by
  simp only [Mem.bg, if_neg h]

theorem Mem.wfFrom_forget (f : Fill) (fs : List Fill) (t : List Host.Cell) (lo : Option Nat) (h : Mem.wfFrom fs lo t = true) :
    Mem.wfFrom (f :: fs) lo (t.filter (fun c => !(decide (f.base ≤ c.1) && decide (c.1 < f.base + f.len)))) = true := by
  induction t generalizing lo with
  | nil => rfl
  | cons p t ih =>
    obtain ⟨j, v⟩ := p
    by_cases hc : f.base ≤ j ∧ j < f.base + f.len
    · simpa [List.filter_cons, hc] using ih lo (Mem.wfFrom_tail fs h)
    · have hb : (!(decide (f.base ≤ j) && decide (j < f.base + f.len))) = true := by
        simp only [Bool.not_eq_true', ← Bool.not_eq_true, Bool.and_eq_true, decide_eq_true_eq]; exact hc
      rw [List.filter_cons_of_pos (by exact hb)]
      simp only [Mem.wfFrom, Bool.and_eq_true, decide_eq_true_eq] at h ⊢
      rw [Mem.bg_outside f fs hc]
      exact ⟨h.1, ih _ h.2⟩

theorem Mem.wf_forget {m : Mem} (f : Fill) (h : m.wf = true) : (m.forget f).wf = true := Mem.wfFrom_forget f _ _ _ h

/-- A byte outside a forgotten range reads as before. -/
theorem Mem.read_forget_outside (m : Mem) (f : Fill) {a : Nat} (h : ¬(f.base ≤ a ∧ a < f.base + f.len)) :
    (m.forget f).read a = m.read a := by
  simp only [Mem.read, Mem.forget, Mem.bg_outside f m.fills h]
  induction m.cells with
  | nil => rfl
  | cons p t ih =>
    obtain ⟨j, v⟩ := p
    by_cases hj : j = a
    · subst hj
      rw [List.filter_cons_of_pos (by simp only [Bool.not_eq_true', ← Bool.not_eq_true, Bool.and_eq_true, decide_eq_true_eq]; exact h)]
      simp [Tab.get]
    · rw [List.filter_cons]
      split
      · simp only [Tab.get, if_neg hj]; exact ih
      · simp only [Tab.get, if_neg hj]; exact ih

/-! ### Whole states -/

theorem State.wf_writeMem {s : State} (a : Nat) (bs : List Byte) (h : s.mem.wf = true) : (s.writeMem a bs).mem.wf = true :=
  Mem.wf_writeN a bs h

theorem State.byte_writeMem_outside (s : State) (a c : Nat) (bs : List Byte) (h : c < a ∨ a + bs.length ≤ c) :
    (s.writeMem a bs).byte c = s.byte c := Mem.read_writeN_outside _ _ _ _ h

end Sys2Proof.Machine
end

