-- ==== Sys2Proof/Laws/State.lean ====
section
/-!
SUPPORT. What the updates of State and Slot leave alone: one lemma for each field of each update.
-/
namespace Sys2Proof.Machine

/-! ### State.setSlot -/

@[simp] theorem State.setSlot_agenda (s : State) (k : Nat) (c : Slot) : (s.setSlot k c).agenda = s.agenda := rfl
@[simp] theorem State.setSlot_cur (s : State) (k : Nat) (c : Slot) : (s.setSlot k c).cur = s.cur := rfl
@[simp] theorem State.setSlot_issueClk (s : State) (k : Nat) (c : Slot) : (s.setSlot k c).issueClk = s.issueClk := rfl
@[simp] theorem State.setSlot_nextId (s : State) (k : Nat) (c : Slot) : (s.setSlot k c).nextId = s.nextId := rfl
@[simp] theorem State.setSlot_draws (s : State) (k : Nat) (c : Slot) : (s.setSlot k c).draws = s.draws := rfl
@[simp] theorem State.setSlot_outbox (s : State) (k : Nat) (c : Slot) : (s.setSlot k c).outbox = s.outbox := rfl
@[simp] theorem State.setSlot_killStep (s : State) (k : Nat) (c : Slot) : (s.setSlot k c).killStep = s.killStep := rfl
@[simp] theorem State.setSlot_steps (s : State) (k : Nat) (c : Slot) : (s.setSlot k c).steps = s.steps := rfl
@[simp] theorem State.setSlot_stepsIn (s : State) (k : Nat) (c : Slot) : (s.setSlot k c).stepsIn = s.stepsIn := rfl
@[simp] theorem State.setSlot_rowsDone (s : State) (k : Nat) (c : Slot) : (s.setSlot k c).rowsDone = s.rowsDone := rfl
@[simp] theorem State.setSlot_time (s : State) (k : Nat) (c : Slot) : (s.setSlot k c).time = s.time := rfl
@[simp] theorem State.setSlot_clkPhase (s : State) (k : Nat) (c : Slot) : (s.setSlot k c).clkPhase = s.clkPhase := rfl
@[simp] theorem State.setSlot_launchSeq (s : State) (k : Nat) (c : Slot) : (s.setSlot k c).launchSeq = s.launchSeq := rfl
@[simp] theorem State.setSlot_power (s : State) (k : Nat) (c : Slot) : (s.setSlot k c).power = s.power := rfl
@[simp] theorem State.setSlot_yieldBy (s : State) (k : Nat) (c : Slot) : (s.setSlot k c).yieldBy = s.yieldBy := rfl
@[simp] theorem State.setSlot_eclipseAt (s : State) (k : Nat) (c : Slot) : (s.setSlot k c).eclipseAt = s.eclipseAt := rfl
@[simp] theorem State.setSlot_waking (s : State) (k : Nat) (c : Slot) : (s.setSlot k c).waking = s.waking := rfl
@[simp] theorem State.setSlot_eclipsed (s : State) (k : Nat) (c : Slot) : (s.setSlot k c).eclipsed = s.eclipsed := rfl
@[simp] theorem State.setSlot_pkgid (s : State) (k : Nat) (c : Slot) : (s.setSlot k c).pkgid = s.pkgid := rfl
@[simp] theorem State.setSlot_thresh (s : State) (k : Nat) (c : Slot) : (s.setSlot k c).thresh = s.thresh := rfl
@[simp] theorem State.setSlot_asidRoot (s : State) (k : Nat) (c : Slot) : (s.setSlot k c).asidRoot = s.asidRoot := rfl
@[simp] theorem State.setSlot_conBase (s : State) (k : Nat) (c : Slot) : (s.setSlot k c).conBase = s.conBase := rfl
@[simp] theorem State.setSlot_acl (s : State) (k : Nat) (c : Slot) : (s.setSlot k c).acl = s.acl := rfl
@[simp] theorem State.setSlot_keys (s : State) (k : Nat) (c : Slot) : (s.setSlot k c).keys = s.keys := rfl
@[simp] theorem State.setSlot_groups (s : State) (k : Nat) (c : Slot) : (s.setSlot k c).groups = s.groups := rfl
@[simp] theorem State.setSlot_members (s : State) (k : Nat) (c : Slot) : (s.setSlot k c).members = s.members := rfl
@[simp] theorem State.setSlot_nodes (s : State) (k : Nat) (c : Slot) : (s.setSlot k c).nodes = s.nodes := rfl
@[simp] theorem State.setSlot_queues (s : State) (k : Nat) (c : Slot) : (s.setSlot k c).queues = s.queues := rfl
@[simp] theorem State.setSlot_nodeSeq (s : State) (k : Nat) (c : Slot) : (s.setSlot k c).nodeSeq = s.nodeSeq := rfl
@[simp] theorem State.setSlot_nodeReq (s : State) (k : Nat) (c : Slot) : (s.setSlot k c).nodeReq = s.nodeReq := rfl
@[simp] theorem State.setSlot_nodeFlush (s : State) (k : Nat) (c : Slot) : (s.setSlot k c).nodeFlush = s.nodeFlush := rfl
@[simp] theorem State.setSlot_barred (s : State) (k : Nat) (c : Slot) : (s.setSlot k c).barred = s.barred := rfl
@[simp] theorem State.setSlot_regions (s : State) (k : Nat) (c : Slot) : (s.setSlot k c).regions = s.regions := rfl
@[simp] theorem State.setSlot_blocks (s : State) (k : Nat) (c : Slot) : (s.setSlot k c).blocks = s.blocks := rfl
@[simp] theorem State.setSlot_logs (s : State) (k : Nat) (c : Slot) : (s.setSlot k c).logs = s.logs := rfl
@[simp] theorem State.setSlot_bands (s : State) (k : Nat) (c : Slot) : (s.setSlot k c).bands = s.bands := rfl
@[simp] theorem State.setSlot_restores (s : State) (k : Nat) (c : Slot) : (s.setSlot k c).restores = s.restores := rfl
@[simp] theorem State.setSlot_mem (s : State) (k : Nat) (c : Slot) : (s.setSlot k c).mem = s.mem := rfl
@[simp] theorem State.setSlot_poison (s : State) (k : Nat) (c : Slot) : (s.setSlot k c).poison = s.poison := rfl
@[simp] theorem State.setSlot_halo (s : State) (k : Nat) (c : Slot) : (s.setSlot k c).halo = s.halo := rfl
@[simp] theorem State.setSlot_lineKey (s : State) (k : Nat) (c : Slot) : (s.setSlot k c).lineKey = s.lineKey := rfl
@[simp] theorem State.setSlot_unkeyed (s : State) (k : Nat) (c : Slot) : (s.setSlot k c).unkeyed = s.unkeyed := rfl
@[simp] theorem State.setSlot_chunkKind (s : State) (k : Nat) (c : Slot) : (s.setSlot k c).chunkKind = s.chunkKind := rfl
@[simp] theorem State.setSlot_tlb (s : State) (k : Nat) (c : Slot) : (s.setSlot k c).tlb = s.tlb := rfl
@[simp] theorem State.setSlot_icache (s : State) (k : Nat) (c : Slot) : (s.setSlot k c).icache = s.icache := rfl
@[simp] theorem State.setSlot_acts (s : State) (k : Nat) (c : Slot) : (s.setSlot k c).acts = s.acts := rfl
@[simp] theorem State.setSlot_alerts (s : State) (k : Nat) (c : Slot) : (s.setSlot k c).alerts = s.alerts := rfl
@[simp] theorem State.setSlot_bankUntil (s : State) (k : Nat) (c : Slot) : (s.setSlot k c).bankUntil = s.bankUntil := rfl
@[simp] theorem State.setSlot_backoff (s : State) (k : Nat) (c : Slot) : (s.setSlot k c).backoff = s.backoff := rfl
@[simp] theorem State.setSlot_clash (s : State) (k : Nat) (c : Slot) : (s.setSlot k c).clash = s.clash := rfl
@[simp] theorem State.setSlot_refresh (s : State) (k : Nat) (c : Slot) : (s.setSlot k c).refresh = s.refresh := rfl
@[simp] theorem State.setSlot_openRow (s : State) (k : Nat) (c : Slot) : (s.setSlot k c).openRow = s.openRow := rfl
@[simp] theorem State.setSlot_migs (s : State) (k : Nat) (c : Slot) : (s.setSlot k c).migs = s.migs := rfl
@[simp] theorem State.setSlot_patterns (s : State) (k : Nat) (c : Slot) : (s.setSlot k c).patterns = s.patterns := rfl
@[simp] theorem State.setSlot_arrival (s : State) (k : Nat) (c : Slot) : (s.setSlot k c).arrival = s.arrival := rfl
@[simp] theorem State.setSlot_evc (s : State) (k : Nat) (c : Slot) : (s.setSlot k c).evc = s.evc := rfl
@[simp] theorem State.setSlot_spill (s : State) (k : Nat) (c : Slot) : (s.setSlot k c).spill = s.spill := rfl
@[simp] theorem State.setSlot_spilled (s : State) (k : Nat) (c : Slot) : (s.setSlot k c).spilled = s.spilled := rfl
@[simp] theorem State.setSlot_recUsed (s : State) (k : Nat) (c : Slot) : (s.setSlot k c).recUsed = s.recUsed := rfl
@[simp] theorem State.setSlot_ctrPoison (s : State) (k : Nat) (c : Slot) : (s.setSlot k c).ctrPoison = s.ctrPoison := rfl
@[simp] theorem State.setSlot_pend (s : State) (k : Nat) (c : Slot) : (s.setSlot k c).pend = s.pend := rfl
@[simp] theorem State.setSlot_msgs (s : State) (k : Nat) (c : Slot) : (s.setSlot k c).msgs = s.msgs := rfl
@[simp] theorem State.setSlot_heldEnq (s : State) (k : Nat) (c : Slot) : (s.setSlot k c).heldEnq = s.heldEnq := rfl
@[simp] theorem State.setSlot_heldRec (s : State) (k : Nat) (c : Slot) : (s.setSlot k c).heldRec = s.heldRec := rfl
@[simp] theorem State.setSlot_fb (s : State) (k : Nat) (c : Slot) : (s.setSlot k c).fb = s.fb := rfl
@[simp] theorem State.setSlot_fbWait (s : State) (k : Nat) (c : Slot) : (s.setSlot k c).fbWait = s.fbWait := rfl
@[simp] theorem State.setSlot_cmds (s : State) (k : Nat) (c : Slot) : (s.setSlot k c).cmds = s.cmds := rfl
@[simp] theorem State.setSlot_copyLine (s : State) (k : Nat) (c : Slot) : (s.setSlot k c).copyLine = s.copyLine := rfl
@[simp] theorem State.setSlot_copyGrant (s : State) (k : Nat) (c : Slot) : (s.setSlot k c).copyGrant = s.copyGrant := rfl
@[simp] theorem State.setSlot_colls (s : State) (k : Nat) (c : Slot) : (s.setSlot k c).colls = s.colls := rfl
@[simp] theorem State.setSlot_collLine (s : State) (k : Nat) (c : Slot) : (s.setSlot k c).collLine = s.collLine := rfl
@[simp] theorem State.setSlot_collGrant (s : State) (k : Nat) (c : Slot) : (s.setSlot k c).collGrant = s.collGrant := rfl
@[simp] theorem State.setSlot_links (s : State) (k : Nat) (c : Slot) : (s.setSlot k c).links = s.links := rfl
@[simp] theorem State.setSlot_subtail (s : State) (k : Nat) (c : Slot) : (s.setSlot k c).subtail = s.subtail := rfl
@[simp] theorem State.setSlot_subhead (s : State) (k : Nat) (c : Slot) : (s.setSlot k c).subhead = s.subhead := rfl
@[simp] theorem State.setSlot_mbCmd (s : State) (k : Nat) (c : Slot) : (s.setSlot k c).mbCmd = s.mbCmd := rfl
@[simp] theorem State.setSlot_mbLost (s : State) (k : Nat) (c : Slot) : (s.setSlot k c).mbLost = s.mbLost := rfl
@[simp] theorem State.setSlot_mbResult (s : State) (k : Nat) (c : Slot) : (s.setSlot k c).mbResult = s.mbResult := rfl
@[simp] theorem State.setSlot_mbData (s : State) (k : Nat) (c : Slot) : (s.setSlot k c).mbData = s.mbData := rfl

/-! ### State.modSlot -/

@[simp] theorem State.modSlot_agenda (s : State) (k : Nat) (f : Slot → Slot) : (s.modSlot k f).agenda = s.agenda := rfl
@[simp] theorem State.modSlot_cur (s : State) (k : Nat) (f : Slot → Slot) : (s.modSlot k f).cur = s.cur := rfl
@[simp] theorem State.modSlot_issueClk (s : State) (k : Nat) (f : Slot → Slot) : (s.modSlot k f).issueClk = s.issueClk := rfl
@[simp] theorem State.modSlot_nextId (s : State) (k : Nat) (f : Slot → Slot) : (s.modSlot k f).nextId = s.nextId := rfl
@[simp] theorem State.modSlot_draws (s : State) (k : Nat) (f : Slot → Slot) : (s.modSlot k f).draws = s.draws := rfl
@[simp] theorem State.modSlot_outbox (s : State) (k : Nat) (f : Slot → Slot) : (s.modSlot k f).outbox = s.outbox := rfl
@[simp] theorem State.modSlot_killStep (s : State) (k : Nat) (f : Slot → Slot) : (s.modSlot k f).killStep = s.killStep := rfl
@[simp] theorem State.modSlot_steps (s : State) (k : Nat) (f : Slot → Slot) : (s.modSlot k f).steps = s.steps := rfl
@[simp] theorem State.modSlot_stepsIn (s : State) (k : Nat) (f : Slot → Slot) : (s.modSlot k f).stepsIn = s.stepsIn := rfl
@[simp] theorem State.modSlot_rowsDone (s : State) (k : Nat) (f : Slot → Slot) : (s.modSlot k f).rowsDone = s.rowsDone := rfl
@[simp] theorem State.modSlot_time (s : State) (k : Nat) (f : Slot → Slot) : (s.modSlot k f).time = s.time := rfl
@[simp] theorem State.modSlot_clkPhase (s : State) (k : Nat) (f : Slot → Slot) : (s.modSlot k f).clkPhase = s.clkPhase := rfl
@[simp] theorem State.modSlot_launchSeq (s : State) (k : Nat) (f : Slot → Slot) : (s.modSlot k f).launchSeq = s.launchSeq := rfl
@[simp] theorem State.modSlot_power (s : State) (k : Nat) (f : Slot → Slot) : (s.modSlot k f).power = s.power := rfl
@[simp] theorem State.modSlot_yieldBy (s : State) (k : Nat) (f : Slot → Slot) : (s.modSlot k f).yieldBy = s.yieldBy := rfl
@[simp] theorem State.modSlot_eclipseAt (s : State) (k : Nat) (f : Slot → Slot) : (s.modSlot k f).eclipseAt = s.eclipseAt := rfl
@[simp] theorem State.modSlot_waking (s : State) (k : Nat) (f : Slot → Slot) : (s.modSlot k f).waking = s.waking := rfl
@[simp] theorem State.modSlot_eclipsed (s : State) (k : Nat) (f : Slot → Slot) : (s.modSlot k f).eclipsed = s.eclipsed := rfl
@[simp] theorem State.modSlot_pkgid (s : State) (k : Nat) (f : Slot → Slot) : (s.modSlot k f).pkgid = s.pkgid := rfl
@[simp] theorem State.modSlot_thresh (s : State) (k : Nat) (f : Slot → Slot) : (s.modSlot k f).thresh = s.thresh := rfl
@[simp] theorem State.modSlot_asidRoot (s : State) (k : Nat) (f : Slot → Slot) : (s.modSlot k f).asidRoot = s.asidRoot := rfl
@[simp] theorem State.modSlot_conBase (s : State) (k : Nat) (f : Slot → Slot) : (s.modSlot k f).conBase = s.conBase := rfl
@[simp] theorem State.modSlot_acl (s : State) (k : Nat) (f : Slot → Slot) : (s.modSlot k f).acl = s.acl := rfl
@[simp] theorem State.modSlot_keys (s : State) (k : Nat) (f : Slot → Slot) : (s.modSlot k f).keys = s.keys := rfl
@[simp] theorem State.modSlot_groups (s : State) (k : Nat) (f : Slot → Slot) : (s.modSlot k f).groups = s.groups := rfl
@[simp] theorem State.modSlot_members (s : State) (k : Nat) (f : Slot → Slot) : (s.modSlot k f).members = s.members := rfl
@[simp] theorem State.modSlot_nodes (s : State) (k : Nat) (f : Slot → Slot) : (s.modSlot k f).nodes = s.nodes := rfl
@[simp] theorem State.modSlot_queues (s : State) (k : Nat) (f : Slot → Slot) : (s.modSlot k f).queues = s.queues := rfl
@[simp] theorem State.modSlot_nodeSeq (s : State) (k : Nat) (f : Slot → Slot) : (s.modSlot k f).nodeSeq = s.nodeSeq := rfl
@[simp] theorem State.modSlot_nodeReq (s : State) (k : Nat) (f : Slot → Slot) : (s.modSlot k f).nodeReq = s.nodeReq := rfl
@[simp] theorem State.modSlot_nodeFlush (s : State) (k : Nat) (f : Slot → Slot) : (s.modSlot k f).nodeFlush = s.nodeFlush := rfl
@[simp] theorem State.modSlot_barred (s : State) (k : Nat) (f : Slot → Slot) : (s.modSlot k f).barred = s.barred := rfl
@[simp] theorem State.modSlot_regions (s : State) (k : Nat) (f : Slot → Slot) : (s.modSlot k f).regions = s.regions := rfl
@[simp] theorem State.modSlot_blocks (s : State) (k : Nat) (f : Slot → Slot) : (s.modSlot k f).blocks = s.blocks := rfl
@[simp] theorem State.modSlot_logs (s : State) (k : Nat) (f : Slot → Slot) : (s.modSlot k f).logs = s.logs := rfl
@[simp] theorem State.modSlot_bands (s : State) (k : Nat) (f : Slot → Slot) : (s.modSlot k f).bands = s.bands := rfl
@[simp] theorem State.modSlot_restores (s : State) (k : Nat) (f : Slot → Slot) : (s.modSlot k f).restores = s.restores := rfl
@[simp] theorem State.modSlot_mem (s : State) (k : Nat) (f : Slot → Slot) : (s.modSlot k f).mem = s.mem := rfl
@[simp] theorem State.modSlot_poison (s : State) (k : Nat) (f : Slot → Slot) : (s.modSlot k f).poison = s.poison := rfl
@[simp] theorem State.modSlot_halo (s : State) (k : Nat) (f : Slot → Slot) : (s.modSlot k f).halo = s.halo := rfl
@[simp] theorem State.modSlot_lineKey (s : State) (k : Nat) (f : Slot → Slot) : (s.modSlot k f).lineKey = s.lineKey := rfl
@[simp] theorem State.modSlot_unkeyed (s : State) (k : Nat) (f : Slot → Slot) : (s.modSlot k f).unkeyed = s.unkeyed := rfl
@[simp] theorem State.modSlot_chunkKind (s : State) (k : Nat) (f : Slot → Slot) : (s.modSlot k f).chunkKind = s.chunkKind := rfl
@[simp] theorem State.modSlot_tlb (s : State) (k : Nat) (f : Slot → Slot) : (s.modSlot k f).tlb = s.tlb := rfl
@[simp] theorem State.modSlot_icache (s : State) (k : Nat) (f : Slot → Slot) : (s.modSlot k f).icache = s.icache := rfl
@[simp] theorem State.modSlot_acts (s : State) (k : Nat) (f : Slot → Slot) : (s.modSlot k f).acts = s.acts := rfl
@[simp] theorem State.modSlot_alerts (s : State) (k : Nat) (f : Slot → Slot) : (s.modSlot k f).alerts = s.alerts := rfl
@[simp] theorem State.modSlot_bankUntil (s : State) (k : Nat) (f : Slot → Slot) : (s.modSlot k f).bankUntil = s.bankUntil := rfl
@[simp] theorem State.modSlot_backoff (s : State) (k : Nat) (f : Slot → Slot) : (s.modSlot k f).backoff = s.backoff := rfl
@[simp] theorem State.modSlot_clash (s : State) (k : Nat) (f : Slot → Slot) : (s.modSlot k f).clash = s.clash := rfl
@[simp] theorem State.modSlot_refresh (s : State) (k : Nat) (f : Slot → Slot) : (s.modSlot k f).refresh = s.refresh := rfl
@[simp] theorem State.modSlot_openRow (s : State) (k : Nat) (f : Slot → Slot) : (s.modSlot k f).openRow = s.openRow := rfl
@[simp] theorem State.modSlot_migs (s : State) (k : Nat) (f : Slot → Slot) : (s.modSlot k f).migs = s.migs := rfl
@[simp] theorem State.modSlot_patterns (s : State) (k : Nat) (f : Slot → Slot) : (s.modSlot k f).patterns = s.patterns := rfl
@[simp] theorem State.modSlot_arrival (s : State) (k : Nat) (f : Slot → Slot) : (s.modSlot k f).arrival = s.arrival := rfl
@[simp] theorem State.modSlot_evc (s : State) (k : Nat) (f : Slot → Slot) : (s.modSlot k f).evc = s.evc := rfl
@[simp] theorem State.modSlot_spill (s : State) (k : Nat) (f : Slot → Slot) : (s.modSlot k f).spill = s.spill := rfl
@[simp] theorem State.modSlot_spilled (s : State) (k : Nat) (f : Slot → Slot) : (s.modSlot k f).spilled = s.spilled := rfl
@[simp] theorem State.modSlot_recUsed (s : State) (k : Nat) (f : Slot → Slot) : (s.modSlot k f).recUsed = s.recUsed := rfl
@[simp] theorem State.modSlot_ctrPoison (s : State) (k : Nat) (f : Slot → Slot) : (s.modSlot k f).ctrPoison = s.ctrPoison := rfl
@[simp] theorem State.modSlot_pend (s : State) (k : Nat) (f : Slot → Slot) : (s.modSlot k f).pend = s.pend := rfl
@[simp] theorem State.modSlot_msgs (s : State) (k : Nat) (f : Slot → Slot) : (s.modSlot k f).msgs = s.msgs := rfl
@[simp] theorem State.modSlot_heldEnq (s : State) (k : Nat) (f : Slot → Slot) : (s.modSlot k f).heldEnq = s.heldEnq := rfl
@[simp] theorem State.modSlot_heldRec (s : State) (k : Nat) (f : Slot → Slot) : (s.modSlot k f).heldRec = s.heldRec := rfl
@[simp] theorem State.modSlot_fb (s : State) (k : Nat) (f : Slot → Slot) : (s.modSlot k f).fb = s.fb := rfl
@[simp] theorem State.modSlot_fbWait (s : State) (k : Nat) (f : Slot → Slot) : (s.modSlot k f).fbWait = s.fbWait := rfl
@[simp] theorem State.modSlot_cmds (s : State) (k : Nat) (f : Slot → Slot) : (s.modSlot k f).cmds = s.cmds := rfl
@[simp] theorem State.modSlot_copyLine (s : State) (k : Nat) (f : Slot → Slot) : (s.modSlot k f).copyLine = s.copyLine := rfl
@[simp] theorem State.modSlot_copyGrant (s : State) (k : Nat) (f : Slot → Slot) : (s.modSlot k f).copyGrant = s.copyGrant := rfl
@[simp] theorem State.modSlot_colls (s : State) (k : Nat) (f : Slot → Slot) : (s.modSlot k f).colls = s.colls := rfl
@[simp] theorem State.modSlot_collLine (s : State) (k : Nat) (f : Slot → Slot) : (s.modSlot k f).collLine = s.collLine := rfl
@[simp] theorem State.modSlot_collGrant (s : State) (k : Nat) (f : Slot → Slot) : (s.modSlot k f).collGrant = s.collGrant := rfl
@[simp] theorem State.modSlot_links (s : State) (k : Nat) (f : Slot → Slot) : (s.modSlot k f).links = s.links := rfl
@[simp] theorem State.modSlot_subtail (s : State) (k : Nat) (f : Slot → Slot) : (s.modSlot k f).subtail = s.subtail := rfl
@[simp] theorem State.modSlot_subhead (s : State) (k : Nat) (f : Slot → Slot) : (s.modSlot k f).subhead = s.subhead := rfl
@[simp] theorem State.modSlot_mbCmd (s : State) (k : Nat) (f : Slot → Slot) : (s.modSlot k f).mbCmd = s.mbCmd := rfl
@[simp] theorem State.modSlot_mbLost (s : State) (k : Nat) (f : Slot → Slot) : (s.modSlot k f).mbLost = s.mbLost := rfl
@[simp] theorem State.modSlot_mbResult (s : State) (k : Nat) (f : Slot → Slot) : (s.modSlot k f).mbResult = s.mbResult := rfl
@[simp] theorem State.modSlot_mbData (s : State) (k : Nat) (f : Slot → Slot) : (s.modSlot k f).mbData = s.mbData := rfl

/-! ### State.evField -/

@[simp] theorem State.evField_agenda (s : State) (f code q : Nat) : (s.evField f code q).agenda = s.agenda := rfl
@[simp] theorem State.evField_cur (s : State) (f code q : Nat) : (s.evField f code q).cur = s.cur := rfl
@[simp] theorem State.evField_issueClk (s : State) (f code q : Nat) : (s.evField f code q).issueClk = s.issueClk := rfl
@[simp] theorem State.evField_nextId (s : State) (f code q : Nat) : (s.evField f code q).nextId = s.nextId := rfl
@[simp] theorem State.evField_draws (s : State) (f code q : Nat) : (s.evField f code q).draws = s.draws := rfl
@[simp] theorem State.evField_outbox (s : State) (f code q : Nat) : (s.evField f code q).outbox = s.outbox := rfl
@[simp] theorem State.evField_killStep (s : State) (f code q : Nat) : (s.evField f code q).killStep = s.killStep := rfl
@[simp] theorem State.evField_steps (s : State) (f code q : Nat) : (s.evField f code q).steps = s.steps := rfl
@[simp] theorem State.evField_stepsIn (s : State) (f code q : Nat) : (s.evField f code q).stepsIn = s.stepsIn := rfl
@[simp] theorem State.evField_rowsDone (s : State) (f code q : Nat) : (s.evField f code q).rowsDone = s.rowsDone := rfl
@[simp] theorem State.evField_time (s : State) (f code q : Nat) : (s.evField f code q).time = s.time := rfl
@[simp] theorem State.evField_clkPhase (s : State) (f code q : Nat) : (s.evField f code q).clkPhase = s.clkPhase := rfl
@[simp] theorem State.evField_launchSeq (s : State) (f code q : Nat) : (s.evField f code q).launchSeq = s.launchSeq := rfl
@[simp] theorem State.evField_power (s : State) (f code q : Nat) : (s.evField f code q).power = s.power := rfl
@[simp] theorem State.evField_yieldBy (s : State) (f code q : Nat) : (s.evField f code q).yieldBy = s.yieldBy := rfl
@[simp] theorem State.evField_eclipseAt (s : State) (f code q : Nat) : (s.evField f code q).eclipseAt = s.eclipseAt := rfl
@[simp] theorem State.evField_waking (s : State) (f code q : Nat) : (s.evField f code q).waking = s.waking := rfl
@[simp] theorem State.evField_eclipsed (s : State) (f code q : Nat) : (s.evField f code q).eclipsed = s.eclipsed := rfl
@[simp] theorem State.evField_pkgid (s : State) (f code q : Nat) : (s.evField f code q).pkgid = s.pkgid := rfl
@[simp] theorem State.evField_thresh (s : State) (f code q : Nat) : (s.evField f code q).thresh = s.thresh := rfl
@[simp] theorem State.evField_asidRoot (s : State) (f code q : Nat) : (s.evField f code q).asidRoot = s.asidRoot := rfl
@[simp] theorem State.evField_conBase (s : State) (f code q : Nat) : (s.evField f code q).conBase = s.conBase := rfl
@[simp] theorem State.evField_acl (s : State) (f code q : Nat) : (s.evField f code q).acl = s.acl := rfl
@[simp] theorem State.evField_keys (s : State) (f code q : Nat) : (s.evField f code q).keys = s.keys := rfl
@[simp] theorem State.evField_groups (s : State) (f code q : Nat) : (s.evField f code q).groups = s.groups := rfl
@[simp] theorem State.evField_members (s : State) (f code q : Nat) : (s.evField f code q).members = s.members := rfl
@[simp] theorem State.evField_nodes (s : State) (f code q : Nat) : (s.evField f code q).nodes = s.nodes := rfl
@[simp] theorem State.evField_queues (s : State) (f code q : Nat) : (s.evField f code q).queues = s.queues := rfl
@[simp] theorem State.evField_nodeSeq (s : State) (f code q : Nat) : (s.evField f code q).nodeSeq = s.nodeSeq := rfl
@[simp] theorem State.evField_nodeReq (s : State) (f code q : Nat) : (s.evField f code q).nodeReq = s.nodeReq := rfl
@[simp] theorem State.evField_nodeFlush (s : State) (f code q : Nat) : (s.evField f code q).nodeFlush = s.nodeFlush := rfl
@[simp] theorem State.evField_barred (s : State) (f code q : Nat) : (s.evField f code q).barred = s.barred := rfl
@[simp] theorem State.evField_regions (s : State) (f code q : Nat) : (s.evField f code q).regions = s.regions := rfl
@[simp] theorem State.evField_blocks (s : State) (f code q : Nat) : (s.evField f code q).blocks = s.blocks := rfl
@[simp] theorem State.evField_logs (s : State) (f code q : Nat) : (s.evField f code q).logs = s.logs := rfl
@[simp] theorem State.evField_bands (s : State) (f code q : Nat) : (s.evField f code q).bands = s.bands := rfl
@[simp] theorem State.evField_slots (s : State) (f code q : Nat) : (s.evField f code q).slots = s.slots := rfl
@[simp] theorem State.evField_restores (s : State) (f code q : Nat) : (s.evField f code q).restores = s.restores := rfl
@[simp] theorem State.evField_mem (s : State) (f code q : Nat) : (s.evField f code q).mem = s.mem := rfl
@[simp] theorem State.evField_poison (s : State) (f code q : Nat) : (s.evField f code q).poison = s.poison := rfl
@[simp] theorem State.evField_halo (s : State) (f code q : Nat) : (s.evField f code q).halo = s.halo := rfl
@[simp] theorem State.evField_lineKey (s : State) (f code q : Nat) : (s.evField f code q).lineKey = s.lineKey := rfl
@[simp] theorem State.evField_unkeyed (s : State) (f code q : Nat) : (s.evField f code q).unkeyed = s.unkeyed := rfl
@[simp] theorem State.evField_chunkKind (s : State) (f code q : Nat) : (s.evField f code q).chunkKind = s.chunkKind := rfl
@[simp] theorem State.evField_tlb (s : State) (f code q : Nat) : (s.evField f code q).tlb = s.tlb := rfl
@[simp] theorem State.evField_icache (s : State) (f code q : Nat) : (s.evField f code q).icache = s.icache := rfl
@[simp] theorem State.evField_acts (s : State) (f code q : Nat) : (s.evField f code q).acts = s.acts := rfl
@[simp] theorem State.evField_alerts (s : State) (f code q : Nat) : (s.evField f code q).alerts = s.alerts := rfl
@[simp] theorem State.evField_bankUntil (s : State) (f code q : Nat) : (s.evField f code q).bankUntil = s.bankUntil := rfl
@[simp] theorem State.evField_backoff (s : State) (f code q : Nat) : (s.evField f code q).backoff = s.backoff := rfl
@[simp] theorem State.evField_clash (s : State) (f code q : Nat) : (s.evField f code q).clash = s.clash := rfl
@[simp] theorem State.evField_refresh (s : State) (f code q : Nat) : (s.evField f code q).refresh = s.refresh := rfl
@[simp] theorem State.evField_openRow (s : State) (f code q : Nat) : (s.evField f code q).openRow = s.openRow := rfl
@[simp] theorem State.evField_migs (s : State) (f code q : Nat) : (s.evField f code q).migs = s.migs := rfl
@[simp] theorem State.evField_patterns (s : State) (f code q : Nat) : (s.evField f code q).patterns = s.patterns := rfl
@[simp] theorem State.evField_arrival (s : State) (f code q : Nat) : (s.evField f code q).arrival = s.arrival := rfl
@[simp] theorem State.evField_spill (s : State) (f code q : Nat) : (s.evField f code q).spill = s.spill := rfl
@[simp] theorem State.evField_spilled (s : State) (f code q : Nat) : (s.evField f code q).spilled = s.spilled := rfl
@[simp] theorem State.evField_recUsed (s : State) (f code q : Nat) : (s.evField f code q).recUsed = s.recUsed := rfl
@[simp] theorem State.evField_ctrPoison (s : State) (f code q : Nat) : (s.evField f code q).ctrPoison = s.ctrPoison := rfl
@[simp] theorem State.evField_pend (s : State) (f code q : Nat) : (s.evField f code q).pend = s.pend := rfl
@[simp] theorem State.evField_msgs (s : State) (f code q : Nat) : (s.evField f code q).msgs = s.msgs := rfl
@[simp] theorem State.evField_heldEnq (s : State) (f code q : Nat) : (s.evField f code q).heldEnq = s.heldEnq := rfl
@[simp] theorem State.evField_heldRec (s : State) (f code q : Nat) : (s.evField f code q).heldRec = s.heldRec := rfl
@[simp] theorem State.evField_fb (s : State) (f code q : Nat) : (s.evField f code q).fb = s.fb := rfl
@[simp] theorem State.evField_fbWait (s : State) (f code q : Nat) : (s.evField f code q).fbWait = s.fbWait := rfl
@[simp] theorem State.evField_cmds (s : State) (f code q : Nat) : (s.evField f code q).cmds = s.cmds := rfl
@[simp] theorem State.evField_copyLine (s : State) (f code q : Nat) : (s.evField f code q).copyLine = s.copyLine := rfl
@[simp] theorem State.evField_copyGrant (s : State) (f code q : Nat) : (s.evField f code q).copyGrant = s.copyGrant := rfl
@[simp] theorem State.evField_colls (s : State) (f code q : Nat) : (s.evField f code q).colls = s.colls := rfl
@[simp] theorem State.evField_collLine (s : State) (f code q : Nat) : (s.evField f code q).collLine = s.collLine := rfl
@[simp] theorem State.evField_collGrant (s : State) (f code q : Nat) : (s.evField f code q).collGrant = s.collGrant := rfl
@[simp] theorem State.evField_links (s : State) (f code q : Nat) : (s.evField f code q).links = s.links := rfl
@[simp] theorem State.evField_subtail (s : State) (f code q : Nat) : (s.evField f code q).subtail = s.subtail := rfl
@[simp] theorem State.evField_subhead (s : State) (f code q : Nat) : (s.evField f code q).subhead = s.subhead := rfl
@[simp] theorem State.evField_mbCmd (s : State) (f code q : Nat) : (s.evField f code q).mbCmd = s.mbCmd := rfl
@[simp] theorem State.evField_mbLost (s : State) (f code q : Nat) : (s.evField f code q).mbLost = s.mbLost := rfl
@[simp] theorem State.evField_mbResult (s : State) (f code q : Nat) : (s.evField f code q).mbResult = s.mbResult := rfl
@[simp] theorem State.evField_mbData (s : State) (f code q : Nat) : (s.evField f code q).mbData = s.mbData := rfl

/-! ### State.setBand -/

@[simp] theorem State.setBand_agenda (s : State) (b : Nat) (v : Option Band) : (s.setBand b v).agenda = s.agenda := rfl
@[simp] theorem State.setBand_cur (s : State) (b : Nat) (v : Option Band) : (s.setBand b v).cur = s.cur := rfl
@[simp] theorem State.setBand_issueClk (s : State) (b : Nat) (v : Option Band) : (s.setBand b v).issueClk = s.issueClk := rfl
@[simp] theorem State.setBand_nextId (s : State) (b : Nat) (v : Option Band) : (s.setBand b v).nextId = s.nextId := rfl
@[simp] theorem State.setBand_draws (s : State) (b : Nat) (v : Option Band) : (s.setBand b v).draws = s.draws := rfl
@[simp] theorem State.setBand_outbox (s : State) (b : Nat) (v : Option Band) : (s.setBand b v).outbox = s.outbox := rfl
@[simp] theorem State.setBand_killStep (s : State) (b : Nat) (v : Option Band) : (s.setBand b v).killStep = s.killStep := rfl
@[simp] theorem State.setBand_steps (s : State) (b : Nat) (v : Option Band) : (s.setBand b v).steps = s.steps := rfl
@[simp] theorem State.setBand_stepsIn (s : State) (b : Nat) (v : Option Band) : (s.setBand b v).stepsIn = s.stepsIn := rfl
@[simp] theorem State.setBand_rowsDone (s : State) (b : Nat) (v : Option Band) : (s.setBand b v).rowsDone = s.rowsDone := rfl
@[simp] theorem State.setBand_time (s : State) (b : Nat) (v : Option Band) : (s.setBand b v).time = s.time := rfl
@[simp] theorem State.setBand_clkPhase (s : State) (b : Nat) (v : Option Band) : (s.setBand b v).clkPhase = s.clkPhase := rfl
@[simp] theorem State.setBand_launchSeq (s : State) (b : Nat) (v : Option Band) : (s.setBand b v).launchSeq = s.launchSeq := rfl
@[simp] theorem State.setBand_power (s : State) (b : Nat) (v : Option Band) : (s.setBand b v).power = s.power := rfl
@[simp] theorem State.setBand_yieldBy (s : State) (b : Nat) (v : Option Band) : (s.setBand b v).yieldBy = s.yieldBy := rfl
@[simp] theorem State.setBand_eclipseAt (s : State) (b : Nat) (v : Option Band) : (s.setBand b v).eclipseAt = s.eclipseAt := rfl
@[simp] theorem State.setBand_waking (s : State) (b : Nat) (v : Option Band) : (s.setBand b v).waking = s.waking := rfl
@[simp] theorem State.setBand_eclipsed (s : State) (b : Nat) (v : Option Band) : (s.setBand b v).eclipsed = s.eclipsed := rfl
@[simp] theorem State.setBand_pkgid (s : State) (b : Nat) (v : Option Band) : (s.setBand b v).pkgid = s.pkgid := rfl
@[simp] theorem State.setBand_thresh (s : State) (b : Nat) (v : Option Band) : (s.setBand b v).thresh = s.thresh := rfl
@[simp] theorem State.setBand_asidRoot (s : State) (b : Nat) (v : Option Band) : (s.setBand b v).asidRoot = s.asidRoot := rfl
@[simp] theorem State.setBand_conBase (s : State) (b : Nat) (v : Option Band) : (s.setBand b v).conBase = s.conBase := rfl
@[simp] theorem State.setBand_acl (s : State) (b : Nat) (v : Option Band) : (s.setBand b v).acl = s.acl := rfl
@[simp] theorem State.setBand_keys (s : State) (b : Nat) (v : Option Band) : (s.setBand b v).keys = s.keys := rfl
@[simp] theorem State.setBand_groups (s : State) (b : Nat) (v : Option Band) : (s.setBand b v).groups = s.groups := rfl
@[simp] theorem State.setBand_members (s : State) (b : Nat) (v : Option Band) : (s.setBand b v).members = s.members := rfl
@[simp] theorem State.setBand_nodes (s : State) (b : Nat) (v : Option Band) : (s.setBand b v).nodes = s.nodes := rfl
@[simp] theorem State.setBand_queues (s : State) (b : Nat) (v : Option Band) : (s.setBand b v).queues = s.queues := rfl
@[simp] theorem State.setBand_nodeSeq (s : State) (b : Nat) (v : Option Band) : (s.setBand b v).nodeSeq = s.nodeSeq := rfl
@[simp] theorem State.setBand_nodeReq (s : State) (b : Nat) (v : Option Band) : (s.setBand b v).nodeReq = s.nodeReq := rfl
@[simp] theorem State.setBand_nodeFlush (s : State) (b : Nat) (v : Option Band) : (s.setBand b v).nodeFlush = s.nodeFlush := rfl
@[simp] theorem State.setBand_barred (s : State) (b : Nat) (v : Option Band) : (s.setBand b v).barred = s.barred := rfl
@[simp] theorem State.setBand_regions (s : State) (b : Nat) (v : Option Band) : (s.setBand b v).regions = s.regions := rfl
@[simp] theorem State.setBand_blocks (s : State) (b : Nat) (v : Option Band) : (s.setBand b v).blocks = s.blocks := rfl
@[simp] theorem State.setBand_logs (s : State) (b : Nat) (v : Option Band) : (s.setBand b v).logs = s.logs := rfl
@[simp] theorem State.setBand_slots (s : State) (b : Nat) (v : Option Band) : (s.setBand b v).slots = s.slots := rfl
@[simp] theorem State.setBand_restores (s : State) (b : Nat) (v : Option Band) : (s.setBand b v).restores = s.restores := rfl
@[simp] theorem State.setBand_mem (s : State) (b : Nat) (v : Option Band) : (s.setBand b v).mem = s.mem := rfl
@[simp] theorem State.setBand_poison (s : State) (b : Nat) (v : Option Band) : (s.setBand b v).poison = s.poison := rfl
@[simp] theorem State.setBand_halo (s : State) (b : Nat) (v : Option Band) : (s.setBand b v).halo = s.halo := rfl
@[simp] theorem State.setBand_lineKey (s : State) (b : Nat) (v : Option Band) : (s.setBand b v).lineKey = s.lineKey := rfl
@[simp] theorem State.setBand_unkeyed (s : State) (b : Nat) (v : Option Band) : (s.setBand b v).unkeyed = s.unkeyed := rfl
@[simp] theorem State.setBand_chunkKind (s : State) (b : Nat) (v : Option Band) : (s.setBand b v).chunkKind = s.chunkKind := rfl
@[simp] theorem State.setBand_tlb (s : State) (b : Nat) (v : Option Band) : (s.setBand b v).tlb = s.tlb := rfl
@[simp] theorem State.setBand_icache (s : State) (b : Nat) (v : Option Band) : (s.setBand b v).icache = s.icache := rfl
@[simp] theorem State.setBand_acts (s : State) (b : Nat) (v : Option Band) : (s.setBand b v).acts = s.acts := rfl
@[simp] theorem State.setBand_alerts (s : State) (b : Nat) (v : Option Band) : (s.setBand b v).alerts = s.alerts := rfl
@[simp] theorem State.setBand_bankUntil (s : State) (b : Nat) (v : Option Band) : (s.setBand b v).bankUntil = s.bankUntil := rfl
@[simp] theorem State.setBand_backoff (s : State) (b : Nat) (v : Option Band) : (s.setBand b v).backoff = s.backoff := rfl
@[simp] theorem State.setBand_clash (s : State) (b : Nat) (v : Option Band) : (s.setBand b v).clash = s.clash := rfl
@[simp] theorem State.setBand_refresh (s : State) (b : Nat) (v : Option Band) : (s.setBand b v).refresh = s.refresh := rfl
@[simp] theorem State.setBand_openRow (s : State) (b : Nat) (v : Option Band) : (s.setBand b v).openRow = s.openRow := rfl
@[simp] theorem State.setBand_migs (s : State) (b : Nat) (v : Option Band) : (s.setBand b v).migs = s.migs := rfl
@[simp] theorem State.setBand_patterns (s : State) (b : Nat) (v : Option Band) : (s.setBand b v).patterns = s.patterns := rfl
@[simp] theorem State.setBand_arrival (s : State) (b : Nat) (v : Option Band) : (s.setBand b v).arrival = s.arrival := rfl
@[simp] theorem State.setBand_evc (s : State) (b : Nat) (v : Option Band) : (s.setBand b v).evc = s.evc := rfl
@[simp] theorem State.setBand_spill (s : State) (b : Nat) (v : Option Band) : (s.setBand b v).spill = s.spill := rfl
@[simp] theorem State.setBand_spilled (s : State) (b : Nat) (v : Option Band) : (s.setBand b v).spilled = s.spilled := rfl
@[simp] theorem State.setBand_recUsed (s : State) (b : Nat) (v : Option Band) : (s.setBand b v).recUsed = s.recUsed := rfl
@[simp] theorem State.setBand_ctrPoison (s : State) (b : Nat) (v : Option Band) : (s.setBand b v).ctrPoison = s.ctrPoison := rfl
@[simp] theorem State.setBand_pend (s : State) (b : Nat) (v : Option Band) : (s.setBand b v).pend = s.pend := rfl
@[simp] theorem State.setBand_msgs (s : State) (b : Nat) (v : Option Band) : (s.setBand b v).msgs = s.msgs := rfl
@[simp] theorem State.setBand_heldEnq (s : State) (b : Nat) (v : Option Band) : (s.setBand b v).heldEnq = s.heldEnq := rfl
@[simp] theorem State.setBand_heldRec (s : State) (b : Nat) (v : Option Band) : (s.setBand b v).heldRec = s.heldRec := rfl
@[simp] theorem State.setBand_fb (s : State) (b : Nat) (v : Option Band) : (s.setBand b v).fb = s.fb := rfl
@[simp] theorem State.setBand_fbWait (s : State) (b : Nat) (v : Option Band) : (s.setBand b v).fbWait = s.fbWait := rfl
@[simp] theorem State.setBand_cmds (s : State) (b : Nat) (v : Option Band) : (s.setBand b v).cmds = s.cmds := rfl
@[simp] theorem State.setBand_copyLine (s : State) (b : Nat) (v : Option Band) : (s.setBand b v).copyLine = s.copyLine := rfl
@[simp] theorem State.setBand_copyGrant (s : State) (b : Nat) (v : Option Band) : (s.setBand b v).copyGrant = s.copyGrant := rfl
@[simp] theorem State.setBand_colls (s : State) (b : Nat) (v : Option Band) : (s.setBand b v).colls = s.colls := rfl
@[simp] theorem State.setBand_collLine (s : State) (b : Nat) (v : Option Band) : (s.setBand b v).collLine = s.collLine := rfl
@[simp] theorem State.setBand_collGrant (s : State) (b : Nat) (v : Option Band) : (s.setBand b v).collGrant = s.collGrant := rfl
@[simp] theorem State.setBand_links (s : State) (b : Nat) (v : Option Band) : (s.setBand b v).links = s.links := rfl
@[simp] theorem State.setBand_subtail (s : State) (b : Nat) (v : Option Band) : (s.setBand b v).subtail = s.subtail := rfl
@[simp] theorem State.setBand_subhead (s : State) (b : Nat) (v : Option Band) : (s.setBand b v).subhead = s.subhead := rfl
@[simp] theorem State.setBand_mbCmd (s : State) (b : Nat) (v : Option Band) : (s.setBand b v).mbCmd = s.mbCmd := rfl
@[simp] theorem State.setBand_mbLost (s : State) (b : Nat) (v : Option Band) : (s.setBand b v).mbLost = s.mbLost := rfl
@[simp] theorem State.setBand_mbResult (s : State) (b : Nat) (v : Option Band) : (s.setBand b v).mbResult = s.mbResult := rfl
@[simp] theorem State.setBand_mbData (s : State) (b : Nat) (v : Option Band) : (s.setBand b v).mbData = s.mbData := rfl

/-! ### State.writeMem -/

@[simp] theorem State.writeMem_agenda (s : State) (a : Nat) (bs : List Byte) : (s.writeMem a bs).agenda = s.agenda := rfl
@[simp] theorem State.writeMem_cur (s : State) (a : Nat) (bs : List Byte) : (s.writeMem a bs).cur = s.cur := rfl
@[simp] theorem State.writeMem_issueClk (s : State) (a : Nat) (bs : List Byte) : (s.writeMem a bs).issueClk = s.issueClk := rfl
@[simp] theorem State.writeMem_nextId (s : State) (a : Nat) (bs : List Byte) : (s.writeMem a bs).nextId = s.nextId := rfl
@[simp] theorem State.writeMem_draws (s : State) (a : Nat) (bs : List Byte) : (s.writeMem a bs).draws = s.draws := rfl
@[simp] theorem State.writeMem_outbox (s : State) (a : Nat) (bs : List Byte) : (s.writeMem a bs).outbox = s.outbox := rfl
@[simp] theorem State.writeMem_killStep (s : State) (a : Nat) (bs : List Byte) : (s.writeMem a bs).killStep = s.killStep := rfl
@[simp] theorem State.writeMem_steps (s : State) (a : Nat) (bs : List Byte) : (s.writeMem a bs).steps = s.steps := rfl
@[simp] theorem State.writeMem_stepsIn (s : State) (a : Nat) (bs : List Byte) : (s.writeMem a bs).stepsIn = s.stepsIn := rfl
@[simp] theorem State.writeMem_rowsDone (s : State) (a : Nat) (bs : List Byte) : (s.writeMem a bs).rowsDone = s.rowsDone := rfl
@[simp] theorem State.writeMem_time (s : State) (a : Nat) (bs : List Byte) : (s.writeMem a bs).time = s.time := rfl
@[simp] theorem State.writeMem_clkPhase (s : State) (a : Nat) (bs : List Byte) : (s.writeMem a bs).clkPhase = s.clkPhase := rfl
@[simp] theorem State.writeMem_launchSeq (s : State) (a : Nat) (bs : List Byte) : (s.writeMem a bs).launchSeq = s.launchSeq := rfl
@[simp] theorem State.writeMem_power (s : State) (a : Nat) (bs : List Byte) : (s.writeMem a bs).power = s.power := rfl
@[simp] theorem State.writeMem_yieldBy (s : State) (a : Nat) (bs : List Byte) : (s.writeMem a bs).yieldBy = s.yieldBy := rfl
@[simp] theorem State.writeMem_eclipseAt (s : State) (a : Nat) (bs : List Byte) : (s.writeMem a bs).eclipseAt = s.eclipseAt := rfl
@[simp] theorem State.writeMem_waking (s : State) (a : Nat) (bs : List Byte) : (s.writeMem a bs).waking = s.waking := rfl
@[simp] theorem State.writeMem_eclipsed (s : State) (a : Nat) (bs : List Byte) : (s.writeMem a bs).eclipsed = s.eclipsed := rfl
@[simp] theorem State.writeMem_pkgid (s : State) (a : Nat) (bs : List Byte) : (s.writeMem a bs).pkgid = s.pkgid := rfl
@[simp] theorem State.writeMem_thresh (s : State) (a : Nat) (bs : List Byte) : (s.writeMem a bs).thresh = s.thresh := rfl
@[simp] theorem State.writeMem_asidRoot (s : State) (a : Nat) (bs : List Byte) : (s.writeMem a bs).asidRoot = s.asidRoot := rfl
@[simp] theorem State.writeMem_conBase (s : State) (a : Nat) (bs : List Byte) : (s.writeMem a bs).conBase = s.conBase := rfl
@[simp] theorem State.writeMem_acl (s : State) (a : Nat) (bs : List Byte) : (s.writeMem a bs).acl = s.acl := rfl
@[simp] theorem State.writeMem_keys (s : State) (a : Nat) (bs : List Byte) : (s.writeMem a bs).keys = s.keys := rfl
@[simp] theorem State.writeMem_groups (s : State) (a : Nat) (bs : List Byte) : (s.writeMem a bs).groups = s.groups := rfl
@[simp] theorem State.writeMem_members (s : State) (a : Nat) (bs : List Byte) : (s.writeMem a bs).members = s.members := rfl
@[simp] theorem State.writeMem_nodes (s : State) (a : Nat) (bs : List Byte) : (s.writeMem a bs).nodes = s.nodes := rfl
@[simp] theorem State.writeMem_queues (s : State) (a : Nat) (bs : List Byte) : (s.writeMem a bs).queues = s.queues := rfl
@[simp] theorem State.writeMem_nodeSeq (s : State) (a : Nat) (bs : List Byte) : (s.writeMem a bs).nodeSeq = s.nodeSeq := rfl
@[simp] theorem State.writeMem_nodeReq (s : State) (a : Nat) (bs : List Byte) : (s.writeMem a bs).nodeReq = s.nodeReq := rfl
@[simp] theorem State.writeMem_nodeFlush (s : State) (a : Nat) (bs : List Byte) : (s.writeMem a bs).nodeFlush = s.nodeFlush := rfl
@[simp] theorem State.writeMem_barred (s : State) (a : Nat) (bs : List Byte) : (s.writeMem a bs).barred = s.barred := rfl
@[simp] theorem State.writeMem_regions (s : State) (a : Nat) (bs : List Byte) : (s.writeMem a bs).regions = s.regions := rfl
@[simp] theorem State.writeMem_blocks (s : State) (a : Nat) (bs : List Byte) : (s.writeMem a bs).blocks = s.blocks := rfl
@[simp] theorem State.writeMem_logs (s : State) (a : Nat) (bs : List Byte) : (s.writeMem a bs).logs = s.logs := rfl
@[simp] theorem State.writeMem_bands (s : State) (a : Nat) (bs : List Byte) : (s.writeMem a bs).bands = s.bands := rfl
@[simp] theorem State.writeMem_slots (s : State) (a : Nat) (bs : List Byte) : (s.writeMem a bs).slots = s.slots := rfl
@[simp] theorem State.writeMem_restores (s : State) (a : Nat) (bs : List Byte) : (s.writeMem a bs).restores = s.restores := rfl
@[simp] theorem State.writeMem_poison (s : State) (a : Nat) (bs : List Byte) : (s.writeMem a bs).poison = s.poison := rfl
@[simp] theorem State.writeMem_halo (s : State) (a : Nat) (bs : List Byte) : (s.writeMem a bs).halo = s.halo := rfl
@[simp] theorem State.writeMem_lineKey (s : State) (a : Nat) (bs : List Byte) : (s.writeMem a bs).lineKey = s.lineKey := rfl
@[simp] theorem State.writeMem_unkeyed (s : State) (a : Nat) (bs : List Byte) : (s.writeMem a bs).unkeyed = s.unkeyed := rfl
@[simp] theorem State.writeMem_chunkKind (s : State) (a : Nat) (bs : List Byte) : (s.writeMem a bs).chunkKind = s.chunkKind := rfl
@[simp] theorem State.writeMem_tlb (s : State) (a : Nat) (bs : List Byte) : (s.writeMem a bs).tlb = s.tlb := rfl
@[simp] theorem State.writeMem_icache (s : State) (a : Nat) (bs : List Byte) : (s.writeMem a bs).icache = s.icache := rfl
@[simp] theorem State.writeMem_acts (s : State) (a : Nat) (bs : List Byte) : (s.writeMem a bs).acts = s.acts := rfl
@[simp] theorem State.writeMem_alerts (s : State) (a : Nat) (bs : List Byte) : (s.writeMem a bs).alerts = s.alerts := rfl
@[simp] theorem State.writeMem_bankUntil (s : State) (a : Nat) (bs : List Byte) : (s.writeMem a bs).bankUntil = s.bankUntil := rfl
@[simp] theorem State.writeMem_backoff (s : State) (a : Nat) (bs : List Byte) : (s.writeMem a bs).backoff = s.backoff := rfl
@[simp] theorem State.writeMem_clash (s : State) (a : Nat) (bs : List Byte) : (s.writeMem a bs).clash = s.clash := rfl
@[simp] theorem State.writeMem_refresh (s : State) (a : Nat) (bs : List Byte) : (s.writeMem a bs).refresh = s.refresh := rfl
@[simp] theorem State.writeMem_openRow (s : State) (a : Nat) (bs : List Byte) : (s.writeMem a bs).openRow = s.openRow := rfl
@[simp] theorem State.writeMem_migs (s : State) (a : Nat) (bs : List Byte) : (s.writeMem a bs).migs = s.migs := rfl
@[simp] theorem State.writeMem_patterns (s : State) (a : Nat) (bs : List Byte) : (s.writeMem a bs).patterns = s.patterns := rfl
@[simp] theorem State.writeMem_arrival (s : State) (a : Nat) (bs : List Byte) : (s.writeMem a bs).arrival = s.arrival := rfl
@[simp] theorem State.writeMem_evc (s : State) (a : Nat) (bs : List Byte) : (s.writeMem a bs).evc = s.evc := rfl
@[simp] theorem State.writeMem_spill (s : State) (a : Nat) (bs : List Byte) : (s.writeMem a bs).spill = s.spill := rfl
@[simp] theorem State.writeMem_spilled (s : State) (a : Nat) (bs : List Byte) : (s.writeMem a bs).spilled = s.spilled := rfl
@[simp] theorem State.writeMem_recUsed (s : State) (a : Nat) (bs : List Byte) : (s.writeMem a bs).recUsed = s.recUsed := rfl
@[simp] theorem State.writeMem_ctrPoison (s : State) (a : Nat) (bs : List Byte) : (s.writeMem a bs).ctrPoison = s.ctrPoison := rfl
@[simp] theorem State.writeMem_pend (s : State) (a : Nat) (bs : List Byte) : (s.writeMem a bs).pend = s.pend := rfl
@[simp] theorem State.writeMem_msgs (s : State) (a : Nat) (bs : List Byte) : (s.writeMem a bs).msgs = s.msgs := rfl
@[simp] theorem State.writeMem_heldEnq (s : State) (a : Nat) (bs : List Byte) : (s.writeMem a bs).heldEnq = s.heldEnq := rfl
@[simp] theorem State.writeMem_heldRec (s : State) (a : Nat) (bs : List Byte) : (s.writeMem a bs).heldRec = s.heldRec := rfl
@[simp] theorem State.writeMem_fb (s : State) (a : Nat) (bs : List Byte) : (s.writeMem a bs).fb = s.fb := rfl
@[simp] theorem State.writeMem_fbWait (s : State) (a : Nat) (bs : List Byte) : (s.writeMem a bs).fbWait = s.fbWait := rfl
@[simp] theorem State.writeMem_cmds (s : State) (a : Nat) (bs : List Byte) : (s.writeMem a bs).cmds = s.cmds := rfl
@[simp] theorem State.writeMem_copyLine (s : State) (a : Nat) (bs : List Byte) : (s.writeMem a bs).copyLine = s.copyLine := rfl
@[simp] theorem State.writeMem_copyGrant (s : State) (a : Nat) (bs : List Byte) : (s.writeMem a bs).copyGrant = s.copyGrant := rfl
@[simp] theorem State.writeMem_colls (s : State) (a : Nat) (bs : List Byte) : (s.writeMem a bs).colls = s.colls := rfl
@[simp] theorem State.writeMem_collLine (s : State) (a : Nat) (bs : List Byte) : (s.writeMem a bs).collLine = s.collLine := rfl
@[simp] theorem State.writeMem_collGrant (s : State) (a : Nat) (bs : List Byte) : (s.writeMem a bs).collGrant = s.collGrant := rfl
@[simp] theorem State.writeMem_links (s : State) (a : Nat) (bs : List Byte) : (s.writeMem a bs).links = s.links := rfl
@[simp] theorem State.writeMem_subtail (s : State) (a : Nat) (bs : List Byte) : (s.writeMem a bs).subtail = s.subtail := rfl
@[simp] theorem State.writeMem_subhead (s : State) (a : Nat) (bs : List Byte) : (s.writeMem a bs).subhead = s.subhead := rfl
@[simp] theorem State.writeMem_mbCmd (s : State) (a : Nat) (bs : List Byte) : (s.writeMem a bs).mbCmd = s.mbCmd := rfl
@[simp] theorem State.writeMem_mbLost (s : State) (a : Nat) (bs : List Byte) : (s.writeMem a bs).mbLost = s.mbLost := rfl
@[simp] theorem State.writeMem_mbResult (s : State) (a : Nat) (bs : List Byte) : (s.writeMem a bs).mbResult = s.mbResult := rfl
@[simp] theorem State.writeMem_mbData (s : State) (a : Nat) (bs : List Byte) : (s.writeMem a bs).mbData = s.mbData := rfl

/-! ### State.send -/

@[simp] theorem State.send_agenda (s : State) (o : Out) : (s.send o).agenda = s.agenda := rfl
@[simp] theorem State.send_cur (s : State) (o : Out) : (s.send o).cur = s.cur := rfl
@[simp] theorem State.send_issueClk (s : State) (o : Out) : (s.send o).issueClk = s.issueClk := rfl
@[simp] theorem State.send_nextId (s : State) (o : Out) : (s.send o).nextId = s.nextId := rfl
@[simp] theorem State.send_draws (s : State) (o : Out) : (s.send o).draws = s.draws := rfl
@[simp] theorem State.send_killStep (s : State) (o : Out) : (s.send o).killStep = s.killStep := rfl
@[simp] theorem State.send_steps (s : State) (o : Out) : (s.send o).steps = s.steps := rfl
@[simp] theorem State.send_stepsIn (s : State) (o : Out) : (s.send o).stepsIn = s.stepsIn := rfl
@[simp] theorem State.send_rowsDone (s : State) (o : Out) : (s.send o).rowsDone = s.rowsDone := rfl
@[simp] theorem State.send_time (s : State) (o : Out) : (s.send o).time = s.time := rfl
@[simp] theorem State.send_clkPhase (s : State) (o : Out) : (s.send o).clkPhase = s.clkPhase := rfl
@[simp] theorem State.send_launchSeq (s : State) (o : Out) : (s.send o).launchSeq = s.launchSeq := rfl
@[simp] theorem State.send_power (s : State) (o : Out) : (s.send o).power = s.power := rfl
@[simp] theorem State.send_yieldBy (s : State) (o : Out) : (s.send o).yieldBy = s.yieldBy := rfl
@[simp] theorem State.send_eclipseAt (s : State) (o : Out) : (s.send o).eclipseAt = s.eclipseAt := rfl
@[simp] theorem State.send_waking (s : State) (o : Out) : (s.send o).waking = s.waking := rfl
@[simp] theorem State.send_eclipsed (s : State) (o : Out) : (s.send o).eclipsed = s.eclipsed := rfl
@[simp] theorem State.send_pkgid (s : State) (o : Out) : (s.send o).pkgid = s.pkgid := rfl
@[simp] theorem State.send_thresh (s : State) (o : Out) : (s.send o).thresh = s.thresh := rfl
@[simp] theorem State.send_asidRoot (s : State) (o : Out) : (s.send o).asidRoot = s.asidRoot := rfl
@[simp] theorem State.send_conBase (s : State) (o : Out) : (s.send o).conBase = s.conBase := rfl
@[simp] theorem State.send_acl (s : State) (o : Out) : (s.send o).acl = s.acl := rfl
@[simp] theorem State.send_keys (s : State) (o : Out) : (s.send o).keys = s.keys := rfl
@[simp] theorem State.send_groups (s : State) (o : Out) : (s.send o).groups = s.groups := rfl
@[simp] theorem State.send_members (s : State) (o : Out) : (s.send o).members = s.members := rfl
@[simp] theorem State.send_nodes (s : State) (o : Out) : (s.send o).nodes = s.nodes := rfl
@[simp] theorem State.send_queues (s : State) (o : Out) : (s.send o).queues = s.queues := rfl
@[simp] theorem State.send_nodeSeq (s : State) (o : Out) : (s.send o).nodeSeq = s.nodeSeq := rfl
@[simp] theorem State.send_nodeReq (s : State) (o : Out) : (s.send o).nodeReq = s.nodeReq := rfl
@[simp] theorem State.send_nodeFlush (s : State) (o : Out) : (s.send o).nodeFlush = s.nodeFlush := rfl
@[simp] theorem State.send_barred (s : State) (o : Out) : (s.send o).barred = s.barred := rfl
@[simp] theorem State.send_regions (s : State) (o : Out) : (s.send o).regions = s.regions := rfl
@[simp] theorem State.send_blocks (s : State) (o : Out) : (s.send o).blocks = s.blocks := rfl
@[simp] theorem State.send_logs (s : State) (o : Out) : (s.send o).logs = s.logs := rfl
@[simp] theorem State.send_bands (s : State) (o : Out) : (s.send o).bands = s.bands := rfl
@[simp] theorem State.send_slots (s : State) (o : Out) : (s.send o).slots = s.slots := rfl
@[simp] theorem State.send_restores (s : State) (o : Out) : (s.send o).restores = s.restores := rfl
@[simp] theorem State.send_mem (s : State) (o : Out) : (s.send o).mem = s.mem := rfl
@[simp] theorem State.send_poison (s : State) (o : Out) : (s.send o).poison = s.poison := rfl
@[simp] theorem State.send_halo (s : State) (o : Out) : (s.send o).halo = s.halo := rfl
@[simp] theorem State.send_lineKey (s : State) (o : Out) : (s.send o).lineKey = s.lineKey := rfl
@[simp] theorem State.send_unkeyed (s : State) (o : Out) : (s.send o).unkeyed = s.unkeyed := rfl
@[simp] theorem State.send_chunkKind (s : State) (o : Out) : (s.send o).chunkKind = s.chunkKind := rfl
@[simp] theorem State.send_tlb (s : State) (o : Out) : (s.send o).tlb = s.tlb := rfl
@[simp] theorem State.send_icache (s : State) (o : Out) : (s.send o).icache = s.icache := rfl
@[simp] theorem State.send_acts (s : State) (o : Out) : (s.send o).acts = s.acts := rfl
@[simp] theorem State.send_alerts (s : State) (o : Out) : (s.send o).alerts = s.alerts := rfl
@[simp] theorem State.send_bankUntil (s : State) (o : Out) : (s.send o).bankUntil = s.bankUntil := rfl
@[simp] theorem State.send_backoff (s : State) (o : Out) : (s.send o).backoff = s.backoff := rfl
@[simp] theorem State.send_clash (s : State) (o : Out) : (s.send o).clash = s.clash := rfl
@[simp] theorem State.send_refresh (s : State) (o : Out) : (s.send o).refresh = s.refresh := rfl
@[simp] theorem State.send_openRow (s : State) (o : Out) : (s.send o).openRow = s.openRow := rfl
@[simp] theorem State.send_migs (s : State) (o : Out) : (s.send o).migs = s.migs := rfl
@[simp] theorem State.send_patterns (s : State) (o : Out) : (s.send o).patterns = s.patterns := rfl
@[simp] theorem State.send_arrival (s : State) (o : Out) : (s.send o).arrival = s.arrival := rfl
@[simp] theorem State.send_evc (s : State) (o : Out) : (s.send o).evc = s.evc := rfl
@[simp] theorem State.send_spill (s : State) (o : Out) : (s.send o).spill = s.spill := rfl
@[simp] theorem State.send_spilled (s : State) (o : Out) : (s.send o).spilled = s.spilled := rfl
@[simp] theorem State.send_recUsed (s : State) (o : Out) : (s.send o).recUsed = s.recUsed := rfl
@[simp] theorem State.send_ctrPoison (s : State) (o : Out) : (s.send o).ctrPoison = s.ctrPoison := rfl
@[simp] theorem State.send_pend (s : State) (o : Out) : (s.send o).pend = s.pend := rfl
@[simp] theorem State.send_msgs (s : State) (o : Out) : (s.send o).msgs = s.msgs := rfl
@[simp] theorem State.send_heldEnq (s : State) (o : Out) : (s.send o).heldEnq = s.heldEnq := rfl
@[simp] theorem State.send_heldRec (s : State) (o : Out) : (s.send o).heldRec = s.heldRec := rfl
@[simp] theorem State.send_fb (s : State) (o : Out) : (s.send o).fb = s.fb := rfl
@[simp] theorem State.send_fbWait (s : State) (o : Out) : (s.send o).fbWait = s.fbWait := rfl
@[simp] theorem State.send_cmds (s : State) (o : Out) : (s.send o).cmds = s.cmds := rfl
@[simp] theorem State.send_copyLine (s : State) (o : Out) : (s.send o).copyLine = s.copyLine := rfl
@[simp] theorem State.send_copyGrant (s : State) (o : Out) : (s.send o).copyGrant = s.copyGrant := rfl
@[simp] theorem State.send_colls (s : State) (o : Out) : (s.send o).colls = s.colls := rfl
@[simp] theorem State.send_collLine (s : State) (o : Out) : (s.send o).collLine = s.collLine := rfl
@[simp] theorem State.send_collGrant (s : State) (o : Out) : (s.send o).collGrant = s.collGrant := rfl
@[simp] theorem State.send_links (s : State) (o : Out) : (s.send o).links = s.links := rfl
@[simp] theorem State.send_subtail (s : State) (o : Out) : (s.send o).subtail = s.subtail := rfl
@[simp] theorem State.send_subhead (s : State) (o : Out) : (s.send o).subhead = s.subhead := rfl
@[simp] theorem State.send_mbCmd (s : State) (o : Out) : (s.send o).mbCmd = s.mbCmd := rfl
@[simp] theorem State.send_mbLost (s : State) (o : Out) : (s.send o).mbLost = s.mbLost := rfl
@[simp] theorem State.send_mbResult (s : State) (o : Out) : (s.send o).mbResult = s.mbResult := rfl
@[simp] theorem State.send_mbData (s : State) (o : Out) : (s.send o).mbData = s.mbData := rfl

/-! ### Slot.setEmpty, as a whole -/

/-- Setting or clearing an empty bit touches the five masks only. -/
theorem Slot.setEmpty_shape (c : Slot) (code : Nat) (b : Bool) : c.setEmpty code b =
    { c with xEmpty := (c.setEmpty code b).xEmpty, dEmpty := (c.setEmpty code b).dEmpty,
             vEmpty := (c.setEmpty code b).vEmpty, wEmpty := (c.setEmpty code b).wEmpty,
             aEmpty := (c.setEmpty code b).aEmpty } := by
  unfold Slot.setEmpty
  repeat' split
  all_goals rfl

/-! ### Slot.setEmpty -/

@[simp] theorem Slot.setEmpty_band (c : Slot) (code : Nat) (b : Bool) : (c.setEmpty code b).band = c.band := by rw [Slot.setEmpty_shape]
@[simp] theorem Slot.setEmpty_x (c : Slot) (code : Nat) (b : Bool) : (c.setEmpty code b).x = c.x := by rw [Slot.setEmpty_shape]
@[simp] theorem Slot.setEmpty_d (c : Slot) (code : Nat) (b : Bool) : (c.setEmpty code b).d = c.d := by rw [Slot.setEmpty_shape]
@[simp] theorem Slot.setEmpty_p (c : Slot) (code : Nat) (b : Bool) : (c.setEmpty code b).p = c.p := by rw [Slot.setEmpty_shape]
@[simp] theorem Slot.setEmpty_v (c : Slot) (code : Nat) (b : Bool) : (c.setEmpty code b).v = c.v := by rw [Slot.setEmpty_shape]
@[simp] theorem Slot.setEmpty_w (c : Slot) (code : Nat) (b : Bool) : (c.setEmpty code b).w = c.w := by rw [Slot.setEmpty_shape]
@[simp] theorem Slot.setEmpty_a (c : Slot) (code : Nat) (b : Bool) : (c.setEmpty code b).a = c.a := by rw [Slot.setEmpty_shape]
@[simp] theorem Slot.setEmpty_xPend (c : Slot) (code : Nat) (b : Bool) : (c.setEmpty code b).xPend = c.xPend := by rw [Slot.setEmpty_shape]
@[simp] theorem Slot.setEmpty_dPend (c : Slot) (code : Nat) (b : Bool) : (c.setEmpty code b).dPend = c.dPend := by rw [Slot.setEmpty_shape]
@[simp] theorem Slot.setEmpty_vPend (c : Slot) (code : Nat) (b : Bool) : (c.setEmpty code b).vPend = c.vPend := by rw [Slot.setEmpty_shape]
@[simp] theorem Slot.setEmpty_wPend (c : Slot) (code : Nat) (b : Bool) : (c.setEmpty code b).wPend = c.wPend := by rw [Slot.setEmpty_shape]
@[simp] theorem Slot.setEmpty_pc (c : Slot) (code : Nat) (b : Bool) : (c.setEmpty code b).pc = c.pc := by rw [Slot.setEmpty_shape]
@[simp] theorem Slot.setEmpty_high (c : Slot) (code : Nat) (b : Bool) : (c.setEmpty code b).high = c.high := by rw [Slot.setEmpty_shape]
@[simp] theorem Slot.setEmpty_npc (c : Slot) (code : Nat) (b : Bool) : (c.setEmpty code b).npc = c.npc := by rw [Slot.setEmpty_shape]
@[simp] theorem Slot.setEmpty_fpmode (c : Slot) (code : Nat) (b : Bool) : (c.setEmpty code b).fpmode = c.fpmode := by rw [Slot.setEmpty_shape]
@[simp] theorem Slot.setEmpty_lanestat (c : Slot) (code : Nat) (b : Bool) : (c.setEmpty code b).lanestat = c.lanestat := by rw [Slot.setEmpty_shape]
@[simp] theorem Slot.setEmpty_trapcause (c : Slot) (code : Nat) (b : Bool) : (c.setEmpty code b).trapcause = c.trapcause := by rw [Slot.setEmpty_shape]
@[simp] theorem Slot.setEmpty_trappc (c : Slot) (code : Nat) (b : Bool) : (c.setEmpty code b).trappc = c.trappc := by rw [Slot.setEmpty_shape]
@[simp] theorem Slot.setEmpty_trapinfo (c : Slot) (code : Nat) (b : Bool) : (c.setEmpty code b).trapinfo = c.trapinfo := by rw [Slot.setEmpty_shape]
@[simp] theorem Slot.setEmpty_tvec (c : Slot) (code : Nat) (b : Bool) : (c.setEmpty code b).tvec = c.tvec := by rw [Slot.setEmpty_shape]
@[simp] theorem Slot.setEmpty_nest (c : Slot) (code : Nat) (b : Bool) : (c.setEmpty code b).nest = c.nest := by rw [Slot.setEmpty_shape]
@[simp] theorem Slot.setEmpty_rng (c : Slot) (code : Nat) (b : Bool) : (c.setEmpty code b).rng = c.rng := by rw [Slot.setEmpty_shape]
@[simp] theorem Slot.setEmpty_handler (c : Slot) (code : Nat) (b : Bool) : (c.setEmpty code b).handler = c.handler := by rw [Slot.setEmpty_shape]
@[simp] theorem Slot.setEmpty_asyncfault (c : Slot) (code : Nat) (b : Bool) : (c.setEmpty code b).asyncfault = c.asyncfault := by rw [Slot.setEmpty_shape]
@[simp] theorem Slot.setEmpty_deferred (c : Slot) (code : Nat) (b : Bool) : (c.setEmpty code b).deferred = c.deferred := by rw [Slot.setEmpty_shape]
@[simp] theorem Slot.setEmpty_exited (c : Slot) (code : Nat) (b : Bool) : (c.setEmpty code b).exited = c.exited := by rw [Slot.setEmpty_shape]
@[simp] theorem Slot.setEmpty_exitPc (c : Slot) (code : Nat) (b : Bool) : (c.setEmpty code b).exitPc = c.exitPc := by rw [Slot.setEmpty_shape]
@[simp] theorem Slot.setEmpty_policyPark (c : Slot) (code : Nat) (b : Bool) : (c.setEmpty code b).policyPark = c.policyPark := by rw [Slot.setEmpty_shape]
@[simp] theorem Slot.setEmpty_replay (c : Slot) (code : Nat) (b : Bool) : (c.setEmpty code b).replay = c.replay := by rw [Slot.setEmpty_shape]
@[simp] theorem Slot.setEmpty_wait (c : Slot) (code : Nat) (b : Bool) : (c.setEmpty code b).wait = c.wait := by rw [Slot.setEmpty_shape]
@[simp] theorem Slot.setEmpty_owed (c : Slot) (code : Nat) (b : Bool) : (c.setEmpty code b).owed = c.owed := by rw [Slot.setEmpty_shape]
@[simp] theorem Slot.setEmpty_lastPhase (c : Slot) (code : Nat) (b : Bool) : (c.setEmpty code b).lastPhase = c.lastPhase := by rw [Slot.setEmpty_shape]
@[simp] theorem Slot.setEmpty_south (c : Slot) (code : Nat) (b : Bool) : (c.setEmpty code b).south = c.south := by rw [Slot.setEmpty_shape]
@[simp] theorem Slot.setEmpty_reserved (c : Slot) (code : Nat) (b : Bool) : (c.setEmpty code b).reserved = c.reserved := by rw [Slot.setEmpty_shape]
@[simp] theorem Slot.setEmpty_lastTaken (c : Slot) (code : Nat) (b : Bool) : (c.setEmpty code b).lastTaken = c.lastTaken := by rw [Slot.setEmpty_shape]
@[simp] theorem Slot.setEmpty_lastIssue (c : Slot) (code : Nat) (b : Bool) : (c.setEmpty code b).lastIssue = c.lastIssue := by rw [Slot.setEmpty_shape]
@[simp] theorem Slot.setEmpty_softErr (c : Slot) (code : Nat) (b : Bool) : (c.setEmpty code b).softErr = c.softErr := by rw [Slot.setEmpty_shape]
@[simp] theorem Slot.setEmpty_blocked (c : Slot) (code : Nat) (b : Bool) : (c.setEmpty code b).blocked = c.blocked := by rw [Slot.setEmpty_shape]
@[simp] theorem Slot.setEmpty_late (c : Slot) (code : Nat) (b : Bool) : (c.setEmpty code b).late = c.late := by rw [Slot.setEmpty_shape]
@[simp] theorem Slot.setEmpty_selected (c : Slot) (code : Nat) (b : Bool) : (c.setEmpty code b).selected = c.selected := by rw [Slot.setEmpty_shape]
@[simp] theorem Slot.setEmpty_heldDst (c : Slot) (code : Nat) (b : Bool) : (c.setEmpty code b).heldDst = c.heldDst := by rw [Slot.setEmpty_shape]
@[simp] theorem Slot.setEmpty_refills (c : Slot) (code : Nat) (b : Bool) : (c.setEmpty code b).refills = c.refills := by rw [Slot.setEmpty_shape]
@[simp] theorem Slot.setEmpty_busy (c : Slot) (code : Nat) (b : Bool) : (c.setEmpty code b).busy = c.busy := by rw [Slot.setEmpty_shape]

/-! ### Slot.takes, as a whole -/

/-- The takes of a word touch the five masks only. -/
theorem Slot.takes_shape (c : Slot) (us : List Use) : c.takes us =
    { c with xEmpty := (c.takes us).xEmpty, dEmpty := (c.takes us).dEmpty, vEmpty := (c.takes us).vEmpty,
             wEmpty := (c.takes us).wEmpty, aEmpty := (c.takes us).aEmpty } := by
  induction us generalizing c with
  | nil => rfl
  | cons u t ih =>
    have h : c.takes (u :: t) = (if u.mode = .take ∧ u.code ≠ codeN then c.setEmpty u.code true else c).takes t := rfl
    rw [h]
    split
    · rw [ih, Slot.setEmpty_shape c u.code true]
    · exact ih c

/-! ### Slot.takes -/

@[simp] theorem Slot.takes_band (c : Slot) (us : List Use) : (c.takes us).band = c.band := by rw [Slot.takes_shape]
@[simp] theorem Slot.takes_x (c : Slot) (us : List Use) : (c.takes us).x = c.x := by rw [Slot.takes_shape]
@[simp] theorem Slot.takes_d (c : Slot) (us : List Use) : (c.takes us).d = c.d := by rw [Slot.takes_shape]
@[simp] theorem Slot.takes_p (c : Slot) (us : List Use) : (c.takes us).p = c.p := by rw [Slot.takes_shape]
@[simp] theorem Slot.takes_v (c : Slot) (us : List Use) : (c.takes us).v = c.v := by rw [Slot.takes_shape]
@[simp] theorem Slot.takes_w (c : Slot) (us : List Use) : (c.takes us).w = c.w := by rw [Slot.takes_shape]
@[simp] theorem Slot.takes_a (c : Slot) (us : List Use) : (c.takes us).a = c.a := by rw [Slot.takes_shape]
@[simp] theorem Slot.takes_xPend (c : Slot) (us : List Use) : (c.takes us).xPend = c.xPend := by rw [Slot.takes_shape]
@[simp] theorem Slot.takes_dPend (c : Slot) (us : List Use) : (c.takes us).dPend = c.dPend := by rw [Slot.takes_shape]
@[simp] theorem Slot.takes_vPend (c : Slot) (us : List Use) : (c.takes us).vPend = c.vPend := by rw [Slot.takes_shape]
@[simp] theorem Slot.takes_wPend (c : Slot) (us : List Use) : (c.takes us).wPend = c.wPend := by rw [Slot.takes_shape]
@[simp] theorem Slot.takes_pc (c : Slot) (us : List Use) : (c.takes us).pc = c.pc := by rw [Slot.takes_shape]
@[simp] theorem Slot.takes_high (c : Slot) (us : List Use) : (c.takes us).high = c.high := by rw [Slot.takes_shape]
@[simp] theorem Slot.takes_npc (c : Slot) (us : List Use) : (c.takes us).npc = c.npc := by rw [Slot.takes_shape]
@[simp] theorem Slot.takes_fpmode (c : Slot) (us : List Use) : (c.takes us).fpmode = c.fpmode := by rw [Slot.takes_shape]
@[simp] theorem Slot.takes_lanestat (c : Slot) (us : List Use) : (c.takes us).lanestat = c.lanestat := by rw [Slot.takes_shape]
@[simp] theorem Slot.takes_trapcause (c : Slot) (us : List Use) : (c.takes us).trapcause = c.trapcause := by rw [Slot.takes_shape]
@[simp] theorem Slot.takes_trappc (c : Slot) (us : List Use) : (c.takes us).trappc = c.trappc := by rw [Slot.takes_shape]
@[simp] theorem Slot.takes_trapinfo (c : Slot) (us : List Use) : (c.takes us).trapinfo = c.trapinfo := by rw [Slot.takes_shape]
@[simp] theorem Slot.takes_tvec (c : Slot) (us : List Use) : (c.takes us).tvec = c.tvec := by rw [Slot.takes_shape]
@[simp] theorem Slot.takes_nest (c : Slot) (us : List Use) : (c.takes us).nest = c.nest := by rw [Slot.takes_shape]
@[simp] theorem Slot.takes_rng (c : Slot) (us : List Use) : (c.takes us).rng = c.rng := by rw [Slot.takes_shape]
@[simp] theorem Slot.takes_handler (c : Slot) (us : List Use) : (c.takes us).handler = c.handler := by rw [Slot.takes_shape]
@[simp] theorem Slot.takes_asyncfault (c : Slot) (us : List Use) : (c.takes us).asyncfault = c.asyncfault := by rw [Slot.takes_shape]
@[simp] theorem Slot.takes_deferred (c : Slot) (us : List Use) : (c.takes us).deferred = c.deferred := by rw [Slot.takes_shape]
@[simp] theorem Slot.takes_exited (c : Slot) (us : List Use) : (c.takes us).exited = c.exited := by rw [Slot.takes_shape]
@[simp] theorem Slot.takes_exitPc (c : Slot) (us : List Use) : (c.takes us).exitPc = c.exitPc := by rw [Slot.takes_shape]
@[simp] theorem Slot.takes_policyPark (c : Slot) (us : List Use) : (c.takes us).policyPark = c.policyPark := by rw [Slot.takes_shape]
@[simp] theorem Slot.takes_replay (c : Slot) (us : List Use) : (c.takes us).replay = c.replay := by rw [Slot.takes_shape]
@[simp] theorem Slot.takes_wait (c : Slot) (us : List Use) : (c.takes us).wait = c.wait := by rw [Slot.takes_shape]
@[simp] theorem Slot.takes_owed (c : Slot) (us : List Use) : (c.takes us).owed = c.owed := by rw [Slot.takes_shape]
@[simp] theorem Slot.takes_lastPhase (c : Slot) (us : List Use) : (c.takes us).lastPhase = c.lastPhase := by rw [Slot.takes_shape]
@[simp] theorem Slot.takes_south (c : Slot) (us : List Use) : (c.takes us).south = c.south := by rw [Slot.takes_shape]
@[simp] theorem Slot.takes_reserved (c : Slot) (us : List Use) : (c.takes us).reserved = c.reserved := by rw [Slot.takes_shape]
@[simp] theorem Slot.takes_lastTaken (c : Slot) (us : List Use) : (c.takes us).lastTaken = c.lastTaken := by rw [Slot.takes_shape]
@[simp] theorem Slot.takes_lastIssue (c : Slot) (us : List Use) : (c.takes us).lastIssue = c.lastIssue := by rw [Slot.takes_shape]
@[simp] theorem Slot.takes_softErr (c : Slot) (us : List Use) : (c.takes us).softErr = c.softErr := by rw [Slot.takes_shape]
@[simp] theorem Slot.takes_blocked (c : Slot) (us : List Use) : (c.takes us).blocked = c.blocked := by rw [Slot.takes_shape]
@[simp] theorem Slot.takes_late (c : Slot) (us : List Use) : (c.takes us).late = c.late := by rw [Slot.takes_shape]
@[simp] theorem Slot.takes_selected (c : Slot) (us : List Use) : (c.takes us).selected = c.selected := by rw [Slot.takes_shape]
@[simp] theorem Slot.takes_heldDst (c : Slot) (us : List Use) : (c.takes us).heldDst = c.heldDst := by rw [Slot.takes_shape]
@[simp] theorem Slot.takes_refills (c : Slot) (us : List Use) : (c.takes us).refills = c.refills := by rw [Slot.takes_shape]
@[simp] theorem Slot.takes_busy (c : Slot) (us : List Use) : (c.takes us).busy = c.busy := by rw [Slot.takes_shape]

/-! ### Slot.setX, as a whole -/

/-- A write of an x register touches its file, its empty bit and its soft error only. -/
theorem Slot.setX_shape (c : Slot) (i : Nat) (v : Word) : c.setX i v =
    { c with x := (c.setX i v).x, xEmpty := (c.setX i v).xEmpty, softErr := (c.setX i v).softErr } := by
  unfold Slot.setX Slot.clearErr
  repeat' split
  all_goals rfl

/-! ### Slot.setX -/

@[simp] theorem Slot.setX_band (c : Slot) (i : Nat) (v : Word) : (c.setX i v).band = c.band := by rw [Slot.setX_shape]
@[simp] theorem Slot.setX_d (c : Slot) (i : Nat) (v : Word) : (c.setX i v).d = c.d := by rw [Slot.setX_shape]
@[simp] theorem Slot.setX_p (c : Slot) (i : Nat) (v : Word) : (c.setX i v).p = c.p := by rw [Slot.setX_shape]
@[simp] theorem Slot.setX_v (c : Slot) (i : Nat) (v : Word) : (c.setX i v).v = c.v := by rw [Slot.setX_shape]
@[simp] theorem Slot.setX_w (c : Slot) (i : Nat) (v : Word) : (c.setX i v).w = c.w := by rw [Slot.setX_shape]
@[simp] theorem Slot.setX_a (c : Slot) (i : Nat) (v : Word) : (c.setX i v).a = c.a := by rw [Slot.setX_shape]
@[simp] theorem Slot.setX_dEmpty (c : Slot) (i : Nat) (v : Word) : (c.setX i v).dEmpty = c.dEmpty := by rw [Slot.setX_shape]
@[simp] theorem Slot.setX_vEmpty (c : Slot) (i : Nat) (v : Word) : (c.setX i v).vEmpty = c.vEmpty := by rw [Slot.setX_shape]
@[simp] theorem Slot.setX_wEmpty (c : Slot) (i : Nat) (v : Word) : (c.setX i v).wEmpty = c.wEmpty := by rw [Slot.setX_shape]
@[simp] theorem Slot.setX_aEmpty (c : Slot) (i : Nat) (v : Word) : (c.setX i v).aEmpty = c.aEmpty := by rw [Slot.setX_shape]
@[simp] theorem Slot.setX_xPend (c : Slot) (i : Nat) (v : Word) : (c.setX i v).xPend = c.xPend := by rw [Slot.setX_shape]
@[simp] theorem Slot.setX_dPend (c : Slot) (i : Nat) (v : Word) : (c.setX i v).dPend = c.dPend := by rw [Slot.setX_shape]
@[simp] theorem Slot.setX_vPend (c : Slot) (i : Nat) (v : Word) : (c.setX i v).vPend = c.vPend := by rw [Slot.setX_shape]
@[simp] theorem Slot.setX_wPend (c : Slot) (i : Nat) (v : Word) : (c.setX i v).wPend = c.wPend := by rw [Slot.setX_shape]
@[simp] theorem Slot.setX_pc (c : Slot) (i : Nat) (v : Word) : (c.setX i v).pc = c.pc := by rw [Slot.setX_shape]
@[simp] theorem Slot.setX_high (c : Slot) (i : Nat) (v : Word) : (c.setX i v).high = c.high := by rw [Slot.setX_shape]
@[simp] theorem Slot.setX_npc (c : Slot) (i : Nat) (v : Word) : (c.setX i v).npc = c.npc := by rw [Slot.setX_shape]
@[simp] theorem Slot.setX_fpmode (c : Slot) (i : Nat) (v : Word) : (c.setX i v).fpmode = c.fpmode := by rw [Slot.setX_shape]
@[simp] theorem Slot.setX_lanestat (c : Slot) (i : Nat) (v : Word) : (c.setX i v).lanestat = c.lanestat := by rw [Slot.setX_shape]
@[simp] theorem Slot.setX_trapcause (c : Slot) (i : Nat) (v : Word) : (c.setX i v).trapcause = c.trapcause := by rw [Slot.setX_shape]
@[simp] theorem Slot.setX_trappc (c : Slot) (i : Nat) (v : Word) : (c.setX i v).trappc = c.trappc := by rw [Slot.setX_shape]
@[simp] theorem Slot.setX_trapinfo (c : Slot) (i : Nat) (v : Word) : (c.setX i v).trapinfo = c.trapinfo := by rw [Slot.setX_shape]
@[simp] theorem Slot.setX_tvec (c : Slot) (i : Nat) (v : Word) : (c.setX i v).tvec = c.tvec := by rw [Slot.setX_shape]
@[simp] theorem Slot.setX_nest (c : Slot) (i : Nat) (v : Word) : (c.setX i v).nest = c.nest := by rw [Slot.setX_shape]
@[simp] theorem Slot.setX_rng (c : Slot) (i : Nat) (v : Word) : (c.setX i v).rng = c.rng := by rw [Slot.setX_shape]
@[simp] theorem Slot.setX_handler (c : Slot) (i : Nat) (v : Word) : (c.setX i v).handler = c.handler := by rw [Slot.setX_shape]
@[simp] theorem Slot.setX_asyncfault (c : Slot) (i : Nat) (v : Word) : (c.setX i v).asyncfault = c.asyncfault := by rw [Slot.setX_shape]
@[simp] theorem Slot.setX_deferred (c : Slot) (i : Nat) (v : Word) : (c.setX i v).deferred = c.deferred := by rw [Slot.setX_shape]
@[simp] theorem Slot.setX_exited (c : Slot) (i : Nat) (v : Word) : (c.setX i v).exited = c.exited := by rw [Slot.setX_shape]
@[simp] theorem Slot.setX_exitPc (c : Slot) (i : Nat) (v : Word) : (c.setX i v).exitPc = c.exitPc := by rw [Slot.setX_shape]
@[simp] theorem Slot.setX_policyPark (c : Slot) (i : Nat) (v : Word) : (c.setX i v).policyPark = c.policyPark := by rw [Slot.setX_shape]
@[simp] theorem Slot.setX_replay (c : Slot) (i : Nat) (v : Word) : (c.setX i v).replay = c.replay := by rw [Slot.setX_shape]
@[simp] theorem Slot.setX_wait (c : Slot) (i : Nat) (v : Word) : (c.setX i v).wait = c.wait := by rw [Slot.setX_shape]
@[simp] theorem Slot.setX_owed (c : Slot) (i : Nat) (v : Word) : (c.setX i v).owed = c.owed := by rw [Slot.setX_shape]
@[simp] theorem Slot.setX_lastPhase (c : Slot) (i : Nat) (v : Word) : (c.setX i v).lastPhase = c.lastPhase := by rw [Slot.setX_shape]
@[simp] theorem Slot.setX_south (c : Slot) (i : Nat) (v : Word) : (c.setX i v).south = c.south := by rw [Slot.setX_shape]
@[simp] theorem Slot.setX_reserved (c : Slot) (i : Nat) (v : Word) : (c.setX i v).reserved = c.reserved := by rw [Slot.setX_shape]
@[simp] theorem Slot.setX_lastTaken (c : Slot) (i : Nat) (v : Word) : (c.setX i v).lastTaken = c.lastTaken := by rw [Slot.setX_shape]
@[simp] theorem Slot.setX_lastIssue (c : Slot) (i : Nat) (v : Word) : (c.setX i v).lastIssue = c.lastIssue := by rw [Slot.setX_shape]
@[simp] theorem Slot.setX_blocked (c : Slot) (i : Nat) (v : Word) : (c.setX i v).blocked = c.blocked := by rw [Slot.setX_shape]
@[simp] theorem Slot.setX_late (c : Slot) (i : Nat) (v : Word) : (c.setX i v).late = c.late := by rw [Slot.setX_shape]
@[simp] theorem Slot.setX_selected (c : Slot) (i : Nat) (v : Word) : (c.setX i v).selected = c.selected := by rw [Slot.setX_shape]
@[simp] theorem Slot.setX_heldDst (c : Slot) (i : Nat) (v : Word) : (c.setX i v).heldDst = c.heldDst := by rw [Slot.setX_shape]
@[simp] theorem Slot.setX_refills (c : Slot) (i : Nat) (v : Word) : (c.setX i v).refills = c.refills := by rw [Slot.setX_shape]
@[simp] theorem Slot.setX_busy (c : Slot) (i : Nat) (v : Word) : (c.setX i v).busy = c.busy := by rw [Slot.setX_shape]

end Sys2Proof.Machine
end

