-- ==== Sys2Proof/Laws/Issue.lean ====
section
/-!
SUPPORT. What issuing a word does: slots after an update, the checks that pass, the next state of a word whose effect is
performed, and the full/empty bits.
-/
namespace Sys2Proof.Machine

/-! ### Slots -/

@[simp] theorem State.slot_setSlot_same (s : State) (k : Nat) (c : Slot) : (s.setSlot k c).slot k = c := by
  simp [State.slot, State.setSlot]

theorem State.slot_setSlot_other (s : State) {k j : Nat} (c : Slot) (h : j ≠ k) : (s.setSlot k c).slot j = s.slot j :=
  Tab.get_set_other _ _ _ h

@[simp] theorem State.slot_modSlot_same (s : State) (k : Nat) (f : Slot → Slot) : (s.modSlot k f).slot k = f (s.slot k) := by
  simp [State.modSlot]

theorem State.slot_modSlot_other (s : State) {k j : Nat} (f : Slot → Slot) (h : j ≠ k) : (s.modSlot k f).slot j = s.slot j :=
  State.slot_setSlot_other s _ h

@[simp] theorem State.slot_evField (s : State) (f c q k : Nat) : (s.evField f c q).slot k = s.slot k := rfl

@[simp] theorem State.byte_modSlot (s : State) (k : Nat) (f : Slot → Slot) (a : Nat) : (s.modSlot k f).byte a = s.byte a := rfl

@[simp] theorem State.byte_evField (s : State) (f c q a : Nat) : (s.evField f c q).byte a = s.byte a := rfl

/-! ### Full/empty bits -/

@[simp] theorem getLsbD_setBit {w : Nat} (m : BitVec w) (i : Nat) (b : Bool) (j : Nat) :
    (setBit m i b).getLsbD j = if i < w ∧ j = i then b else m.getLsbD j := by
  unfold setBit
  by_cases hj : j < w
  · by_cases hij : j = i
    · subst hij
      cases b <;> simp [hj]
    · have h1 : ¬ (i ≤ j ∧ j - i = 0) := by omega
      cases b <;> simp [hij] <;> omega
  · have : ¬ (i < w ∧ j = i) := by omega
    rw [if_neg this, BitVec.getLsbD_of_ge _ _ (by omega), BitVec.getLsbD_of_ge _ _ (by omega)]

/-- The operand codes of registers with an empty bit: x1 to x31, v, a, w and d registers (R107). -/
def hasEmpty (code : Nat) : Bool := (0 < code && code < 0x68) || (0x70 ≤ code && code < 0x78)

/-- Setting or clearing an empty bit changes that register's bit and no other. -/
theorem Slot.isEmpty_setEmpty (c : Slot) (code : Nat) (b : Bool) (x : Nat) :
    (c.setEmpty code b).isEmpty x = if hasEmpty code = true ∧ x = code then b else c.isEmpty x := by
  by_cases hx : x = code
  · subst hx
    by_cases h : hasEmpty x = true
    · have h' := h
      simp only [hasEmpty, Bool.or_eq_true, Bool.and_eq_true, decide_eq_true_eq] at h'
      simp only [h, and_self, if_true, Slot.setEmpty]
      repeat' split
      all_goals simp only [Slot.isEmpty, getLsbD_setBit]
      all_goals repeat' split
      all_goals first | rfl | omega | simp_all
      all_goals omega
    · have h' := h
      simp only [hasEmpty, Bool.or_eq_true, Bool.and_eq_true, decide_eq_true_eq, not_or, not_and] at h'
      rw [if_neg (by simp [h])]
      simp only [Slot.setEmpty]
      repeat' split
      all_goals first | rfl | (exfalso; omega)
  · simp only [hx, and_false, if_false]
    simp only [Slot.setEmpty]
    repeat' split
    all_goals simp only [Slot.isEmpty, getLsbD_setBit]
    all_goals repeat' split
    all_goals first | rfl | omega

/-- The empty bits after the takes of a word. -/
theorem Slot.isEmpty_takes (c : Slot) (us : List Use) (x : Nat) :
    (c.takes us).isEmpty x = (c.isEmpty x || (hasEmpty x && decide (x ∈ tookCodes us))) := by
  induction us generalizing c with
  | nil => simp [Slot.takes, tookCodes]
  | cons u t ih =>
    have h : c.takes (u :: t) = (if u.mode = .take ∧ u.code ≠ codeN then c.setEmpty u.code true else c).takes t := rfl
    rw [h, ih]
    by_cases hu : u.mode = .take ∧ u.code ≠ codeN
    · rw [if_pos hu, Slot.isEmpty_setEmpty]
      have : tookCodes (u :: t) = u.code :: tookCodes t := by simp [tookCodes, hu.1, hu.2]
      rw [this]
      by_cases hx : x = u.code
      · subst hx; cases hasEmpty u.code <;> simp
      · simp [hx]
    · rw [if_neg hu]
      have : tookCodes (u :: t) = tookCodes t := by
        simp only [tookCodes]
        rw [List.filter_cons_of_neg]
        simp only [Bool.and_eq_true, decide_eq_true_eq]; exact hu
      rw [this]

/-! ### The checks that pass -/

/-- A word whose sources are full and correct, and whose destinations await nothing, is ready. -/
theorem State.ready_ok {s : State} {k : Nat} {us : List Use} {ds : List Nat}
    (hu : ∀ u ∈ us, (u.mode = .peek ∨ u.empty s k = false) ∧ u.bad s k = false)
    (hd : ∀ d ∈ ds, (s.slot k).isPend d = false) : s.ready k us ds = .ok () := by
  unfold State.ready
  rw [if_neg, if_neg, if_neg]
  · have : us.find? (fun u => u.bad s k) = none := by simpa using fun u h => (hu u h).2
    rw [this]
  · simpa using hd
  · simp only [List.any_eq_true, not_exists, not_and, Bool.and_eq_true, Bool.or_eq_true, decide_eq_true_eq]
    intro u h hm he
    rcases (hu u h).1 with h1 | h1
    · simp_all
    · simp [h1] at he
  · simp only [List.any_eq_true, not_exists, not_and, Bool.and_eq_true, decide_eq_true_eq]
    rintro u h hm he
    rcases (hu u h).1 with h1 | h1
    · simp_all
    · simp [h1] at he

/-! ### The next state of a word -/

/-- A word of a slot with a row context and no deferred fault due ends as its effect says. -/
theorem State.issue_finish {s : State} {size : Nat} {e : Nat → State → Effect} (hb : (s.bandOf s.cur).isSome = true)
    (hd : (s.slot s.cur).deferred = none ∨ (s.slot s.cur).handler = true) :
    s.issue size e = .next (s.finish s.cur size (e s.cur s)) := by
  unfold State.issue
  cases h : s.bandOf s.cur with
  | none => simp [h] at hb
  | some b =>
    rcases hd with hd | hd
    · simp [hd]
    · simp only [hd]
      cases (s.slot s.cur).deferred <;> rfl

/-- A word whose effect is performed. -/
theorem State.issue_ok {s : State} {size : Nat} {e : Nat → State → Effect} {u : State → State}
    (hb : (s.bandOf s.cur).isSome = true) (hd : (s.slot s.cur).deferred = none ∨ (s.slot s.cur).handler = true)
    (he : e s.cur s = .ok u) : s.issue size e = .next (u (s.issued s.cur size)) := by
  rw [State.issue_finish hb hd, he]; rfl

/-- The state a word's effect is performed in. -/
theorem State.issued_shape (s : State) (k size : Nat) : s.issued k size =
    { s with slots := (s.issued k size).slots, issueClk := s.issueClk + 1,
             evc := (s.evField (slotField k) 2 (slotQual k)).evc } := rfl

@[simp] theorem State.slot_issued_same (s : State) (k size : Nat) : (s.issued k size).slot k =
    ((s.slot k).goto ((s.slot k).pc + BitVec.ofNat 64 size)).stamp (s.issueClk + 1) := by
  simp only [State.issued, State.slot_evField, State.slot_modSlot_same]; rfl

theorem State.slot_issued_other (s : State) {k j : Nat} (size : Nat) (h : j ≠ k) : (s.issued k size).slot j = s.slot j := by
  simp only [State.issued, State.slot_evField]; rw [State.slot_modSlot_other _ _ h]; rfl

@[simp] theorem State.mem_issued (s : State) (k size : Nat) : (s.issued k size).mem = s.mem := rfl

/-- The takes of a word that names no `n` touch its own slot only. -/
theorem State.takes_local {s : State} {k : Nat} {us : List Use} (h : ∀ u ∈ us, u.code ≠ codeN) :
    s.takes k us = s.modSlot k (fun c => c.takes us) := by
  unfold State.takes
  have : us.any (fun u => decide (u.code = codeN) && decide (u.mode ≠ .peek)) = false := by
    simp only [List.any_eq_false, Bool.and_eq_true, decide_eq_true_eq, not_and]
    exact fun u hu hc => absurd hc (h u hu)
  rw [this]; rfl

end Sys2Proof.Machine
end

