-- ==== Sys2Proof/Safety.lean ====
section
/-!
DEFINITION. What counts as a safe run: one that ends in no fault and no refusal.
-/
namespace Sys2Proof.Machine

/-- The outcome of `n` steps. -/
def State.runFor : Nat → State → Host.Outcome State Fault Refusal
  | 0, s => .next s
  | n + 1, s => match step s with
    | .next t => State.runFor n t
    | .fault f => .fault f
    | .refused r => .refused r

/-- The first `n` steps from a state all answer a next state. -/
def SafeFor (n : Nat) (s : State) : Prop := ∃ t, State.runFor n s = .next t

end Sys2Proof.Machine
end

