-- ==== Sys2Proof/Tests/Slice0.lean ====
section
/-!
SUPPORT. The model's own tests: a term that each well-formedness check refuses, words decoded as the spec's worked examples say,
results of single instructions worked out in the spec or by hand, and for every statement with hypotheses a state and operands
that meet them.
-/

namespace Sys2Proof.Tests
set_option Elab.async false
open Sys2Proof Sys2Proof.Machine Sys2Proof.Claims

/-! ## Well-formedness: for each check an ill-formed term that it refuses -/

theorem wf_smoke_immediates : (Instr.sel 1 ⟨.x 2, .wait⟩ (.imm 3) ⟨.x 4, .wait⟩).wf = false ∧
    (Instr.madd 1 ⟨.x 2, .wait⟩ (.imm 3) ⟨.x 4, .wait⟩).wf = false ∧ (Instr.lea 1 ⟨.x 2, .wait⟩ (.imm 3) 1).wf = false ∧
    (Instr.li 1 (.reg ⟨.x 2, .wait⟩)).wf = false ∧ (Instr.trap (.lit 5)).wf = false ∧ (Instr.barw (.lit 5)).wf = false ∧
    (Instr.vrot none (.v 1) ⟨.v 2, .wait⟩ (.imm 3)).wf = false ∧ (Instr.sfree 3 (.lit 1)).wf = false ∧
    (Instr.deq 3 (.lit 1)).wf = false ∧ (Instr.evsel ⟨.x 1, .wait⟩ (.lit 1)).wf = false ∧
    (Instr.std ⟨.x 1, .wait⟩ (.imm 8) ⟨0, .wait⟩ false).wf = false := by decide +kernel

theorem wf_smoke_modifier_beside_immediate : (Instr.vadd none (.v 1) ⟨.v 2, .wait⟩ (.imm 3) .rtz false false).wf = false ∧
    (Instr.vmin none (.v 1) ⟨.v 2, .wait⟩ (.imm 3) true).wf = false ∧
    (Instr.vshl none (.v 1) ⟨.v 2, .wait⟩ (.imm 3) true false).wf = false ∧
    (Instr.vcmp none 1 ⟨.v 2, .wait⟩ (.imm 3) .lt false false).wf = false ∧
    (Instr.sgrow 3 (.imm 4) .comp).wf = false ∧ (Instr.ldd 3 ⟨.x 1, .wait⟩ (.imm 8) true).wf = false ∧
    (Instr.acnt ⟨.x 1, .wait⟩ (.imm 8) true).wf = false ∧
    (Instr.wld none 1 ⟨.x 1, .wait⟩ (.imm 8) .e4m3 .dense).wf = false := by decide +kernel

theorem wf_smoke_one_north : (Instr.vadd none (.v 1) ⟨.n, .wait⟩ (.reg ⟨.n, .wait⟩) .rne false false).wf = false ∧
    (Instr.vfma none (.v 1) ⟨.n, .wait⟩ (.reg ⟨.v 0, .wait⟩) ⟨.n, .wait⟩ .rne false false).wf = false ∧
    (Instr.vsel none (.v 1) ⟨.n, .wait⟩ ⟨.n, .wait⟩ ⟨0, .wait⟩).wf = false ∧
    (Instr.vand none (.v 1) ⟨.n, .wait⟩ (.reg ⟨.n, .wait⟩)).wf = false := by decide +kernel

theorem wf_smoke_formats : (Instr.vcvt none (.v 1) ⟨.v 2, .wait⟩ .raw .rne false false).wf = false ∧
    (Instr.vpack none (.v 1) ⟨.v 2, .wait⟩ ⟨.v 3, .wait⟩ .pl16 .rne false false).wf = false ∧
    (Instr.vunpk none (.v 1) ⟨.v 2, .wait⟩ .raw .rne false false 0).wf = false ∧
    (Instr.vred none 1 ⟨.v 2, .wait⟩ .add .sr false false).wf = false ∧
    (Instr.accrd none (.v 1) ⟨0, .wait⟩ none .i8 .rne false false).wf = false ∧
    (Instr.accrd none .s ⟨0, .wait⟩ none .fp32 .rne false false).wf = false ∧
    (Instr.wld none 1 ⟨.x 1, .wait⟩ (.reg ⟨.x 2, .wait⟩) .i32 .dense).wf = false ∧
    (Instr.wld none 1 ⟨.x 1, .wait⟩ (.reg ⟨.x 2, .wait⟩) .pl16 .dense).wf = false ∧
    (Instr.vdeq none 1 ⟨1, .wait⟩ (.reg ⟨.x 2, .wait⟩) .e4m3 .rne false 0).wf = false := by decide +kernel

theorem wf_smoke_groups : (Instr.vquant none 1 ⟨61, .wait⟩ (.reg ⟨.x 2, .wait⟩) 0).wf = false ∧
    (Instr.vdeq none 63 ⟨1, .wait⟩ (.reg ⟨.x 2, .wait⟩) .bf16 .rne false 0).wf = false ∧
    (Instr.accrd none (.v 61) ⟨0, .wait⟩ none .fp32 .rne false false).wf = false ∧
    (Instr.msteps none 0 ⟨3, .wait⟩ ⟨0, .wait⟩ 0 0).wf = false ∧
    (Instr.cas none (.v 1) ⟨.x 1, .wait⟩ ⟨2, .wait⟩ ⟨3, .wait⟩ ⟨.row, .cas, false, false, false, false, false⟩).wf = false := by decide +kernel

theorem wf_smoke_memory : (Instr.ld none (.v 1) ⟨.x 1, .wait⟩ ⟨2, .wait⟩ ⟨.row, .raw, false, true, .w8⟩).wf = false ∧
    (Instr.st none ⟨.x 1, .wait⟩ ⟨2, .wait⟩ ⟨3, .wait⟩ ⟨.row, .i8, false, false, .w8⟩).wf = false ∧
    (Instr.lds 1 ⟨.x 1, .wait⟩ (.reg ⟨.x 2, .wait⟩) ⟨.row, .i8, false, false, .w8⟩).wf = false ∧
    (Instr.ldv none (.v 1) ⟨.x 1, .wait⟩ (.imm 4) ⟨.row, .raw, false, false, .w16⟩).wf = false ∧
    (Instr.atom none (.v 1) ⟨.x 1, .wait⟩ ⟨2, .wait⟩ ⟨3, .wait⟩ ⟨.row, .and, true, false, false, false, false⟩).wf = false ∧
    (Instr.red none ⟨.x 1, .wait⟩ ⟨2, .wait⟩ ⟨3, .wait⟩ ⟨.row, .add, false, true, false, false, false⟩).wf = false ∧
    (Instr.atoms 1 ⟨.x 1, .wait⟩ (.reg ⟨.x 2, .wait⟩) ⟨.x 3, .wait⟩ ⟨.row, .add, false, false, false, false, false⟩).wf = false ∧
    (Instr.fencex .pkg .rel 0).wf = false ∧ (Instr.csrr 1 0x016).wf = false := by decide +kernel

theorem wf_smoke_pairs : (Instr.pairWord .nop .nop).wf = false ∧
    (Instr.pairWord (.accz (some ⟨false, 1⟩) 0) (.mov 1 ⟨.x 2, .wait⟩)).wf = false ∧
    (Instr.pairWord (.accz none 0) (.mov 1 ⟨.x 2, .take⟩)).wf = false ∧
    (Instr.undefinedEncoding .xlate false 0).wf = false := by decide +kernel

/-! ## Decoding: words of the spec's worked examples, family by family -/

theorem test_decode_scalar : decode 0x02000A160C000003 0 = .lea 10 ⟨.x 11, .wait⟩ (.reg ⟨.x 12, .wait⟩) 3 := by decide +kernel
theorem test_decode_lane_structure : decode 0x04D000DA00000005 0 = .lendl ⟨5, .wait⟩ 5 := by decide +kernel
theorem test_decode_wait : decode 0x851009E400001388 0 = .waitc 9 ⟨2, .wait⟩ (.imm 5000) := by decide +kernel
theorem test_decode_trap : decode 0x854000000000002A 0 = .trap (.imm 42) ∧ decode 0x0550000000000000 0 = .brk := by decide +kernel
theorem test_decode_quantize : decode 0x0C50344809000001 0 =
    .vquant none 20 ⟨4, .wait⟩ (.reg ⟨.x 9, .wait⟩) 1 := by decide +kernel
theorem test_decode_tensor : decode 0x104028C0000000E0 0 = .accrd none (.v 8) ⟨0, .wait⟩ none .fp32 .rne false false ∧
    decode 0x1020614466000000 0 = .msteps none 1 ⟨2, .wait⟩ ⟨2, .wait⟩ 0 0 := by decide +kernel
theorem test_decode_loads : decode 0x1478A71426000087 0 =
      .gld (some ⟨false, 1⟩) (.v 7) ⟨.x 10, .wait⟩ ⟨6, .wait⟩ ⟨.row, .i64, false, true, .w64⟩ ∧
    decode 0x1420211A000000C1 0 =
      .ldb none (.v 1) ⟨.x 13, .wait⟩ (.reg ⟨.x 0, .wait⟩) ⟨.row, .bf16, false, false, .w16⟩ ∧
    decode 0x145005160000080B 0 =
      .lds 5 ⟨.x 11, .wait⟩ (.reg ⟨.x 0, .wait⟩) ⟨.pkg, .raw, true, false, .w64⟩ := by decide +kernel
theorem test_decode_stores : decode 0x1488801820140003 0 =
      .gst (some ⟨false, 1⟩) ⟨.x 12, .wait⟩ ⟨0, .wait⟩ ⟨8, .wait⟩ ⟨.row, .raw, false, false, .w64⟩ ∧
    decode 0x146000160000880B 0 =
      .sts ⟨.x 11, .wait⟩ (.reg ⟨.x 0, .wait⟩) ⟨.x 1, .wait⟩ ⟨.pkg, .raw, true, false, .w64⟩ := by decide +kernel
theorem test_decode_fence : decode 0x14E0000000000918 0 = .fencex .pkg .rel 0x18 := by decide +kernel
theorem test_decode_descriptors : decode 0xD83071027F000001 0x40 = .ldd 1 ⟨.x 1, .wait⟩ (.lit 0x40) true ∧
    decode 0x1850720C00000001 0 = .dset 2 ⟨.x 6, .wait⟩ 1 := by decide +kernel
theorem test_decode_queues : decode 0x1C20002800000000 0 = .qflush ⟨.x 20, .wait⟩ ∧
    decode 0x9C50050000000008 0 = .deq 5 (.imm 8) ∧ decode 0x1C40000000000000 0 = .recdone ∧
    decode 0x1E10050C00000000 0 = .cstat 5 ⟨.x 6, .wait⟩ := by decide +kernel
theorem test_decode_counters : decode 0x200000180D000000 0 = .jinit ⟨.x 12, .wait⟩ ⟨.x 13, .wait⟩ false ∧
    decode 0x2010071800000000 0 = .jdec 7 ⟨.x 12, .wait⟩ ∧ decode 0xA060000800002000 0 = .acnt ⟨.x 4, .wait⟩ (.imm 8192) false ∧
    decode 0xA080001200000321 0 = .evsel ⟨.x 9, .wait⟩ (.imm 0x321) ∧ decode 0x20900A1200000000 0 = .evrd 10 ⟨.x 9, .wait⟩ := by
  decide +kernel
theorem test_decode_system : decode 0xA40005000000000D 0 = .csrr 5 0x00D ∧ decode 0x2440000000000000 0 = .rett := by decide +kernel
theorem test_decode_pair : decode 0x403C78D0401428B8 0 =
    .pairWord (.vadd none (.v 28) ⟨.v 28, .wait⟩ (.reg ⟨.v 20, .wait⟩) .rne false false)
      (.add 10 ⟨.x 10, .wait⟩ (.reg ⟨.x 23, .wait⟩)) := by decide +kernel
/-- Opcode 0x0FF is in no row of the table, and a copied word 0 is NOP (R79, R125). -/
theorem test_decode_reserved : decode 0x0FF0000000000000 0 = .undefinedEncoding .illegal false 52 ∧ decode 0 0 = .nop := by decide +kernel

/-! ## Decoding: one word, written out from Tables 3.1 to 3.5, 4.2 to 4.6 and its entry, for every other instruction -/

theorem test_decode_integer :
    decode 0x002001141F800000 0 = .sub 1 ⟨.x 10, .wait⟩ (.reg ⟨.x 31, .take⟩) ∧
    decode 0x003002169EC00000 0 = .mul 2 ⟨.x 11, .trap⟩ (.reg ⟨.x 30, .peek⟩) ∧
    decode 0x004003191D000000 0 = .mulh 3 ⟨.x 12, .take⟩ (.reg ⟨.x 29, .wait⟩) ∧
    decode 0x0050041B9C400000 0 = .mulhn 4 ⟨.x 13, .peek⟩ (.reg ⟨.x 28, .trap⟩) ∧
    decode 0x0060051C1B800000 0 = .div 5 ⟨.x 14, .wait⟩ (.reg ⟨.x 27, .take⟩) ∧
    decode 0x0070061E9AC00000 0 = .divn 6 ⟨.x 15, .trap⟩ (.reg ⟨.x 26, .peek⟩) ∧
    decode 0x0080072119000000 0 = .rem 7 ⟨.x 16, .take⟩ (.reg ⟨.x 25, .wait⟩) ∧
    decode 0x0090082398400000 0 = .remn 8 ⟨.x 17, .peek⟩ (.reg ⟨.x 24, .trap⟩) := by decide +kernel
theorem test_decode_integer_2 :
    decode 0x00A0092417800000 0 = .and 9 ⟨.x 18, .wait⟩ (.reg ⟨.x 23, .take⟩) ∧
    decode 0x00B00A2696C00000 0 = .or 10 ⟨.x 19, .trap⟩ (.reg ⟨.x 22, .peek⟩) ∧
    decode 0x00C00B2915000000 0 = .xor 11 ⟨.x 20, .take⟩ (.reg ⟨.x 21, .wait⟩) ∧
    decode 0x00D00C2B94400000 0 = .andn 12 ⟨.x 21, .peek⟩ (.reg ⟨.x 20, .trap⟩) ∧
    decode 0x00E00D2C13800000 0 = .shl 13 ⟨.x 22, .wait⟩ (.reg ⟨.x 19, .take⟩) ∧
    decode 0x00F00E2E92C00000 0 = .shr 14 ⟨.x 23, .trap⟩ (.reg ⟨.x 18, .peek⟩) ∧
    decode 0x01000F3111000000 0 = .sar 15 ⟨.x 24, .take⟩ (.reg ⟨.x 17, .wait⟩) ∧
    decode 0x0110103390400000 0 = .rot 16 ⟨.x 25, .peek⟩ (.reg ⟨.x 16, .trap⟩) := by decide +kernel
theorem test_decode_integer_3 :
    decode 0x012011340F800000 0 = .min 17 ⟨.x 26, .wait⟩ (.reg ⟨.x 15, .take⟩) ∧
    decode 0x013012368EC00000 0 = .max 18 ⟨.x 27, .trap⟩ (.reg ⟨.x 14, .peek⟩) ∧
    decode 0x014013390D000000 0 = .minn 19 ⟨.x 28, .take⟩ (.reg ⟨.x 13, .wait⟩) ∧
    decode 0x0150143B8C400000 0 = .maxn 20 ⟨.x 29, .peek⟩ (.reg ⟨.x 12, .trap⟩) := by decide +kernel
theorem test_decode_compare :
    decode 0x01601F0700000000 0 = .clz 31 ⟨.x 3, .take⟩ ∧
    decode 0x01701E0900000000 0 = .ctz 30 ⟨.x 4, .take⟩ ∧
    decode 0x01801D0B00000000 0 = .popc 29 ⟨.x 5, .take⟩ ∧
    decode 0xC19004287F000000 0x89ABCDEF01234567 = .seq 4 ⟨.x 20, .wait⟩ (.lit 0x89ABCDEF01234567) ∧
    decode 0x81A0012B8000004E 0 = .sne 1 ⟨.x 21, .peek⟩ (.imm 78) ∧
    decode 0xC1B0062C7F000000 0x89ABCDEF01234569 = .slt 6 ⟨.x 22, .wait⟩ (.lit 0x89ABCDEF01234569) ∧
    decode 0x81C0032F80000050 0 = .sltn 3 ⟨.x 23, .peek⟩ (.imm 80) ∧
    decode 0xC1D008307F000000 0x89ABCDEF0123456B = .sle 8 ⟨.x 24, .wait⟩ (.lit 0x89ABCDEF0123456B) := by decide +kernel
theorem test_decode_compare_2 :
    decode 0x81E0053380000052 0 = .slen 5 ⟨.x 25, .peek⟩ (.imm 82) ∧
    decode 0x01F0010483826000 0 = .sel 1 ⟨.x 2, .trap⟩ (.reg ⟨.x 3, .take⟩) ⟨.x 4, .peek⟩ ∧
    decode 0x02101EF600000000 0 = .mov 30 ⟨.rowid, .wait⟩ ∧
    decode 0x0230040A06800001 0 = .bfx 4 ⟨.x 5, .wait⟩ ⟨.x 6, .take⟩ true ∧
    decode 0x0240040B86400000 0 = .bfi 4 ⟨.x 5, .peek⟩ ⟨.x 6, .trap⟩ ∧
    decode 0xC25007107F04C000 0x10 = .madd 7 ⟨.x 8, .wait⟩ (.lit 0x10) ⟨.x 9, .take⟩ := by decide +kernel
theorem test_decode_branches :
    decode 0x840000007FFFFFFE 0 = .j 0x7FFFFFFE ∧
    decode 0x0410003F00000000 0 = .jr ⟨.x 31, .take⟩ ∧
    decode 0x8420001880000009 0 = .bz ⟨.x 12, .trap⟩ 9 ∧
    decode 0x8430001A40000000 0 = .bnz ⟨.x 13, .wait⟩ 0x40000000 ∧
    decode 0x84401F0000000006 0 = .call 31 6 ∧
    decode 0x04501E0580000000 0 = .callr 30 ⟨.x 2, .peek⟩ ∧
    decode 0x047000DE80000000 0 = .lif ⟨7, .trap⟩ ∧
    decode 0x0480000000000000 0 = .lelse := by decide +kernel
theorem test_decode_branches_2 :
    decode 0x0490000000000000 0 = .lendif ∧
    decode 0x04A0000000000000 0 = .lloop ∧
    decode 0x0530000000000000 0 = .exit ∧
    decode 0x0000000000000000 0 = .nop ∧
    decode 0x04B000DC0000001F 0 = .lbreak ⟨6, .wait⟩ 31 ∧
    decode 0x04C000DB00000002 0 = .lcont ⟨5, .take⟩ 2 ∧
    decode 0x04E008D200000000 0 = .lany 8 ⟨1, .wait⟩ ∧
    decode 0x04F009D580000000 0 = .lall 9 ⟨2, .peek⟩ := by decide +kernel
theorem test_decode_branches_3 :
    decode 0x05000AD600000000 0 = .lcnt 10 ⟨3, .wait⟩ ∧
    decode 0x852000007FFFFFFF 0 = .yield (.imm 0x7FFFFFFF) := by decide +kernel
theorem test_decode_vector_arithmetic :
    decode 0x081EF9BF7A000600 0 = .vsub (some ⟨true, 5⟩) .s ⟨.v 63, .take⟩ (.reg ⟨.lane, .wait⟩) .rtz true false ∧
    decode 0xC82021F07F000810 0x3F803F80 = .vmul none (.v 1) ⟨.n, .wait⟩ (.lit 0x3F803F80) .rup false true ∧
    decode 0x08302246A4FC4C00 0 = .vfma none (.v 2) ⟨.v 3, .trap⟩ (.reg ⟨.v 4, .peek⟩) ⟨.n, .take⟩ .rdn false false ∧
    decode 0x0849A54C27145210 0 = .vfms (some ⟨false, 3⟩) (.v 5) ⟨.v 6, .wait⟩ (.reg ⟨.v 7, .wait⟩) ⟨.v 8, .take⟩ .rna true true ∧
    decode 0x085029542B000010 0 = .vmin none (.v 9) ⟨.v 10, .wait⟩ (.reg ⟨.v 11, .wait⟩) true ∧
    decode 0x8860295400000003 0 = .vmax none (.v 9) ⟨.v 10, .wait⟩ (.imm 3) false ∧
    decode 0x08702C5B80000200 0 = .vabs none (.v 12) ⟨.v 13, .peek⟩ true ∧
    decode 0x08802C5A00000000 0 = .vneg none (.v 12) ⟨.v 13, .wait⟩ false := by decide +kernel
theorem test_decode_vector_arithmetic_2 :
    decode 0x0890347C00001400 0 = .vrcp none (.v 20) ⟨.v 30, .wait⟩ .sr false ∧
    decode 0x08A0357E00001A00 0 = .vrsq none (.v 21) ⟨.v 31, .wait⟩ .dyn true ∧
    decode 0x08B0368000000000 0 = .vsqrt none (.v 22) ⟨.v 32, .wait⟩ .rne false ∧
    decode 0x08C0378200000600 0 = .vexp2 none (.v 23) ⟨.v 33, .wait⟩ .rtz true ∧
    decode 0x08D0388400000800 0 = .vlog2 none (.v 24) ⟨.v 34, .wait⟩ .rup false ∧
    decode 0x08E0398600000E00 0 = .vtanh none (.v 25) ⟨.v 35, .wait⟩ .rdn true ∧
    decode 0x08FEEF422200001E 0 = .vcmp (some ⟨true, 5⟩) 7 ⟨.v 1, .wait⟩ (.reg ⟨.v 2, .wait⟩) .uo true true ∧
    decode 0x0900214478F64000 0 = .vsel none (.v 1) ⟨.v 2, .wait⟩ ⟨.n, .peek⟩ ⟨4, .take⟩ := by decide +kernel
theorem test_decode_vector_arithmetic_3 :
    decode 0x091048A4DC000000 0 = .vand none (.v 40) ⟨.v 50, .trap⟩ (.reg ⟨.v 60, .wait⟩) ∧
    decode 0x092049A6DD000000 0 = .vor none (.v 41) ⟨.v 51, .trap⟩ (.reg ⟨.v 61, .wait⟩) ∧
    decode 0x09304AA8DE000000 0 = .vxor none (.v 42) ⟨.v 52, .trap⟩ (.reg ⟨.v 62, .wait⟩) ∧
    decode 0x0940214423000210 0 = .vshl none (.v 1) ⟨.v 2, .wait⟩ (.reg ⟨.v 3, .wait⟩) true true ∧
    decode 0x8950214400000004 0 = .vshr none (.v 1) ⟨.v 2, .wait⟩ (.imm 4) ∧
    decode 0x8960214400000005 0 = .vsar none (.v 1) ⟨.v 2, .wait⟩ (.imm 5) ∧
    decode 0x0970794423121810 0 = .vdot none .s ⟨.v 2, .wait⟩ (.reg ⟨.v 3, .wait⟩) ⟨.v 4, .wait⟩ .dyn false true ∧
    decode 0x0980213E000000A0 0 = .vsplat none (.v 1) ⟨.x 31, .wait⟩ .fp16 := by decide +kernel
theorem test_decode_vector_arithmetic_4 :
    decode 0x099011F103000000 0 = .vmovx none 17 ⟨.n, .take⟩ (.reg ⟨.x 3, .wait⟩) ∧
    decode 0xC9A026087F0001C0 0x3F = .vins none (.v 6) ⟨.x 4, .wait⟩ (.lit 63) .pl16 ∧
    decode 0x09B9898200000E15 0 = .vred (some ⟨false, 3⟩) 9 ⟨.v 33, .wait⟩ .xor .rdn true true ∧
    decode 0x09C029830000140A 0 = .vscan none (.v 9) ⟨.v 33, .take⟩ .max .sr false false true := by decide +kernel
theorem test_decode_conversion_and_predicates :
    decode 0x0C10214423400B20 0 = .vpack none (.v 1) ⟨.v 2, .wait⟩ ⟨.v 3, .trap⟩ .e5m2 .rup true false ∧
    decode 0x0C202144000000F3 0 = .vunpk none (.v 1) ⟨.v 2, .wait⟩ .fp32 .rne false true 3 ∧
    decode 0x0C3079F0000001A0 0 = .vtag none .s ⟨.n, .wait⟩ .mxi8 ∧
    decode 0x0C4EA14403000001 0 = .vscl (some ⟨true, 5⟩) (.v 1) ⟨.v 2, .wait⟩ (.reg ⟨.x 3, .wait⟩) true ∧
    decode 0xCC60244BFF0006C2 0x7F = .vdeq none 4 ⟨5, .peek⟩ (.lit 0x7F) .bf16 .rtz true 2 ∧
    decode 0x0C7021F40000000F 0 = .xbar none (.v 1) ⟨.lane, .wait⟩ 15 ∧
    decode 0x0C80001900000009 0 = .xbld ⟨.x 12, .take⟩ 9 ∧
    decode 0x0C9021447B000000 0 = .vrot none (.v 1) ⟨.v 2, .wait⟩ (.reg ⟨.rowid, .wait⟩) := by decide +kernel
theorem test_decode_conversion_and_predicates_2 :
    decode 0xCCA021447F000000 0x5 = .vbcast none (.v 1) ⟨.v 2, .wait⟩ (.lit 5) ∧
    decode 0x0CB06FD06A800000 0 = .pand 7 ⟨0, .wait⟩ ⟨2, .take⟩ ∧
    decode 0x0CC06ED26B800000 0 = .por 6 ⟨1, .wait⟩ ⟨3, .take⟩ ∧
    decode 0x0CD06DD46C800000 0 = .pxor 5 ⟨2, .wait⟩ ⟨4, .take⟩ ∧
    decode 0x0CE068DE80000000 0 = .pnot 0 ⟨7, .trap⟩ ∧
    decode 0x8CF06B007FFFFFFF 0 = .pset 3 (.imm 0x7FFFFFFF) ∧
    decode 0x0D0EF90000000000 0 = .vrng (some ⟨true, 5⟩) .s ∧
    decode 0x0D10009800000000 0 = .vseed none ⟨.v 44, .wait⟩ := by decide +kernel
theorem test_decode_tensor_and_ports :
    decode 0x100063F066400087 0 = .mstep none 3 ⟨.n, .wait⟩ ⟨2, .trap⟩ 16 7 ∧
    decode 0x1039E20000000000 0 = .accz (some ⟨false, 3⟩) 2 ∧
    decode 0x105061B980000000 0 = .accwr none 1 ⟨60, .peek⟩ ∧
    decode 0x106061C678800000 0 = .accadd none 1 ⟨3, .wait⟩ (.n .take) ∧
    decode 0x108067F080000000 0 = .wrecv none 3 .trap ∧
    decode 0x109079CB00000000 0 = .wsend none ⟨1, .take⟩ ∧
    decode 0x10A079C400000001 0 = .psend none (.a ⟨2, .wait⟩) true ∧
    decode 0x10B05EF000000000 0 = .precv none (.v 62) .wait := by decide +kernel
theorem test_decode_tensor_and_ports_2 :
    decode 0x10C000EC00000005 0 = .pbind ⟨6, .wait⟩ .wc true ∧
    decode 0x10D0000000000000 0 = .pflush ∧
    decode 0x10E0666280000000 0 = .wscl none 2 ⟨17, .trap⟩ := by decide +kernel
theorem test_decode_memory :
    decode 0x14002104230011EA 0 = .ld none (.v 1) ⟨.x 2, .wait⟩ ⟨3, .wait⟩ ⟨.sys, .acc48, true, false, .w32⟩ ∧
    decode 0x1410790403800503 0 = .ldv none .s ⟨.x 2, .wait⟩ (.reg ⟨.x 3, .take⟩) ⟨.field, .e4m3, false, false, .w64⟩ ∧
    decode 0x1430000423122608 0 = .st none ⟨.x 2, .wait⟩ ⟨3, .wait⟩ ⟨4, .trap⟩ ⟨.die, .raw, true, false, .w8⟩ ∧
    decode 0xD44E80047F120A01 0x100 = .stv (some ⟨true, 5⟩) ⟨.x 2, .wait⟩ (.lit 0x100) ⟨4, .wait⟩ ⟨.host, .raw, false, false, .w16⟩ ∧
    decode 0x14A0000423128C5F 0 = .red none ⟨.x 2, .wait⟩ ⟨3, .wait⟩ ⟨5, .wait⟩ ⟨.pod, .min, false, true, true, true, true⟩ ∧
    decode 0x14B02904232F0E06 0 = .cas none (.v 9) ⟨.x 2, .wait⟩ ⟨3, .wait⟩ ⟨62, .wait⟩ ⟨.cluster, .cas, false, false, false, true, false⟩ ∧
    decode 0x14C00B04030269C3 0 = .atoms 11 ⟨.x 2, .wait⟩ (.reg ⟨.x 3, .wait⟩) ⟨.x 4, .peek⟩ ⟨.pkg, .cas, false, false, false, false, true⟩ ∧
    decode 0x14D0000000000280 0 = .fence .band .acq := by decide +kernel
theorem test_decode_memory_2 :
    decode 0x94F0000400000040 0 = .pref ⟨.x 2, .wait⟩ (.imm 0x40) ∧
    decode 0x1500040005000002 0 = .sgrow 4 (.reg ⟨.x 5, .wait⟩) .lat ∧
    decode 0x9510040000000002 0 = .sfree 4 (.imm 2) := by decide +kernel
theorem test_decode_copy_and_queues :
    decode 0x181014E272BB8000 0 = .copyef 20 ⟨1, .wait⟩ ⟨2, .take⟩ ⟨7, .wait⟩ ∧
    decode 0x182015E604000000 0 = .copys 21 ⟨3, .wait⟩ ⟨.x 4, .wait⟩ ∧
    decode 0x18400002023AE001 0 = .std ⟨.x 1, .wait⟩ (.reg ⟨.x 2, .wait⟩) ⟨5, .peek⟩ true ∧
    decode 0x186006E800000007 0 = .dget 6 ⟨4, .wait⟩ 7 ∧
    decode 0x1870002800000000 0 = .ccancel (.x 20) ∧
    decode 0x1C10090202018001 0 = .enqb 9 ⟨.x 1, .wait⟩ ⟨.x 2, .wait⟩ ⟨.x 3, .wait⟩ false true ∧
    decode 0x1C30090280000000 0 = .qstat 9 ⟨.x 1, .trap⟩ := by decide +kernel
theorem test_decode_counters_and_system :
    decode 0x2020050C00000000 0 = .jread 5 ⟨.x 6, .wait⟩ ∧
    decode 0xA040000C0000000F 0 = .bara ⟨.x 6, .wait⟩ (.imm 15) ∧
    decode 0x2050000007800000 0 = .barw (.reg ⟨.x 7, .take⟩) ∧
    decode 0xE07000107F000000 0x1000000000000 = .aset ⟨.x 8, .wait⟩ (.lit 0x1000000000000) ∧
    decode 0xA420001200000001 0 = .csrs ⟨.x 9, .wait⟩ 0x001 ∧
    decode 0xA430001200000003 0 = .csrc ⟨.x 9, .wait⟩ 0x003 := by decide +kernel

/-! ## A small state: one row of a band that holds chunks 1 to 4 of its field's side memory -/

/-- The band of the tests. -/
def band1 : Band := { fetchBand with chunk0 := 1, chunks := 4, node := 5 }

/-- Row slot A of row 0 with some of its registers. -/
def slotOf (x : List (Nat × Word)) (v : List (Nat × LaneReg)) (p : List (Nat × Mask)) (d : List (Nat × Desc)) : Slot :=
  { Slot.empty with band := some 1, pc := 0x1000, tvec := 0x2000, x := x, v := v, p := p, d := d }

/-- The machine with that slot executing and a band in it; region 0 lets every trap go to the slot's handler. -/
def stateOf (b : Band) (c : Slot) : State :=
  { State.reset with
    bands := [(1, some b)], slots := [(0, c)], nextId := 7
    regions := [(0, (0x155555555555#512 <<< 386) ||| 0x8000000000000000#512)] }

/-- x1 is the start of the band's side memory, x2 is 64, x3 a global address, x4 is -7 and x5 is 2. -/
def xs : List (Nat × Word) := [(1, 0x10000), (2, 0x40), (3, 0x20000), (4, -7), (5, 2)]

def st : State := stateOf band1 (slotOf xs [] [] [])

/-- Two lane registers in lane 0 (lane 0 of v1 is entry 64), which p1 alone names. -/
def stV (a b : LaneReg) : State := stateOf band1 (slotOf xs [(64, a), (128, b)] [(1, 1)] [])

def g1 : Option Guard := some ⟨false, 1⟩
def x (i : Fin 32) : XSrc := ⟨.x i, .wait⟩
def v (i : Fin 64) : VSrc := ⟨.v i, .wait⟩
def r (i : Fin 64) : RSrc := ⟨i, .wait⟩

/-- Register x`i` after an instruction. -/
def xAfter (i : Instr) (s : State) (d : Fin 32) : Option Word :=
  match exec i s with
  | .next t => some ((t.slot s.cur).xr d)
  | _ => none

/-- Lane `l` of v`d` after an instruction. -/
def vAfter (i : Instr) (s : State) (d : Nat) (l : Nat) : Option (Word × Fmt) :=
  match exec i s with
  | .next t => some (((t.slot s.cur).vr d l).bits, ((t.slot s.cur).vr d l).tag)
  | _ => none

/-- The slot after an instruction. -/
def after (i : Instr) (s : State) : Slot :=
  match exec i s with
  | .next t => t.slot s.cur
  | _ => Slot.empty

/-! ## Scalar results, by hand -/

theorem test_add_sub : xAfter (.add 6 (x 4) (.imm 7)) st 6 = some 0 ∧ xAfter (.add 6 (x 5) (.imm 0x7FFFFFFD)) st 6 = some (-1) ∧
    xAfter (.sub 6 (x 5) (.reg (x 4))) st 6 = some 9 ∧ xAfter (.add 0 (x 5) (.reg (x 5))) st 0 = some 0 := by decide +kernel
theorem test_mul : xAfter (.mul 6 (x 4) (.reg (x 5))) st 6 = some (-14) ∧ xAfter (.mulh 6 (x 4) (.reg (x 5))) st 6 = some (-1) ∧
    xAfter (.mulhn 6 (x 4) (.reg (x 5))) st 6 = some 1 ∧ xAfter (.madd 6 (x 4) (.reg (x 5)) (x 2)) st 6 = some 50 := by decide +kernel
theorem test_div : xAfter (.div 6 (x 4) (.reg (x 5))) st 6 = some (-3) ∧ xAfter (.rem 6 (x 4) (.reg (x 5))) st 6 = some (-1) ∧
    xAfter (.divn 6 (x 2) (.imm 7)) st 6 = some 9 ∧ xAfter (.remn 6 (x 2) (.imm 7)) st 6 = some 1 ∧
    xAfter (.div 6 (x 6) (.imm 0x7FFFFFFF)) (stateOf band1 (slotOf [(6, 0x8000000000000000)] [] [] [])) 6 =
      some 0x8000000000000000 := by decide +kernel
theorem test_div_by_zero : (after (.div 6 (x 4) (.reg (x 0))) st).trapcause = 0x16 ∧
    (after (.div 6 (x 4) (.reg (x 0))) st).trappc = 0x1000 ∧ (after (.div 6 (x 4) (.reg (x 0))) st).pc = 0x2000 ∧
    (after (.div 6 (x 4) (.reg (x 0))) st).xr 6 = 0 := by decide +kernel
theorem test_logic : xAfter (.and 6 (x 4) (.imm 0xF)) st 6 = some 9 ∧ xAfter (.or 6 (x 2) (.imm 1)) st 6 = some 0x41 ∧
    xAfter (.xor 6 (x 2) (.imm 0x41)) st 6 = some 1 ∧ xAfter (.andn 6 (x 2) (.imm 0x40)) st 6 = some 0 := by decide +kernel
theorem test_shifts : xAfter (.shl 6 (x 5) (.imm 65)) st 6 = some 4 ∧ xAfter (.shr 6 (x 4) (.imm 63)) st 6 = some 1 ∧
    xAfter (.sar 6 (x 4) (.imm 1)) st 6 = some (-4) ∧ xAfter (.rot 6 (x 4) (.imm 4)) st 6 = some 0xFFFFFFFFFFFFFF9F := by decide +kernel
theorem test_extremes : xAfter (.min 6 (x 4) (.reg (x 5))) st 6 = some (-7) ∧ xAfter (.max 6 (x 4) (.reg (x 5))) st 6 = some 2 ∧
    xAfter (.minn 6 (x 4) (.reg (x 5))) st 6 = some 2 ∧ xAfter (.maxn 6 (x 4) (.reg (x 5))) st 6 = some (-7) := by decide +kernel
theorem test_counts : xAfter (.clz 6 (x 2)) st 6 = some 57 ∧ xAfter (.clz 6 (x 0)) st 6 = some 64 ∧ xAfter (.ctz 6 (x 2)) st 6 = some 6 ∧
    xAfter (.ctz 6 (x 0)) st 6 = some 64 ∧ xAfter (.popc 6 (x 4)) st 6 = some 62 := by decide +kernel
theorem test_compares : xAfter (.seq 6 (x 5) (.imm 2)) st 6 = some 1 ∧ xAfter (.sne 6 (x 5) (.imm 2)) st 6 = some 0 ∧
    xAfter (.slt 6 (x 4) (.reg (x 5))) st 6 = some 1 ∧ xAfter (.sltn 6 (x 4) (.reg (x 5))) st 6 = some 0 ∧
    xAfter (.sle 6 (x 5) (.reg (x 5))) st 6 = some 1 ∧ xAfter (.slen 6 (x 4) (.reg (x 5))) st 6 = some 0 := by decide +kernel
theorem test_moves : xAfter (.sel 6 (x 0) (.reg (x 4)) (x 5)) st 6 = some 2 ∧ xAfter (.lea 6 (x 2) (.reg (x 5)) 3) st 6 = some 0x50 ∧
    xAfter (.mov 6 ⟨.rowid, .wait⟩) st 6 = some 0 ∧ xAfter (.li 6 (.lit 0x100000000)) st 6 = some 0x100000000 ∧
    xAfter (.li 6 (.imm 0x7F000000)) st 6 = some 0xFFFFFFFFFF000000 := by decide +kernel
/-- Fields: length in bits 14 to 8 of B, position in bits 5 to 0 (Table 6.3). -/
theorem test_bit_fields : xAfter (.bfx 6 (x 4) (x 7) true) (stateOf band1 (slotOf [(4, 0x0F80), (7, 0x0508)] [] [] [])) 6 = some 0xF ∧
    xAfter (.bfx 6 (x 4) (x 7) true) (stateOf band1 (slotOf [(4, 0x1F80), (7, 0x0508)] [] [] [])) 6 = some (-1) ∧
    xAfter (.bfi 6 (x 4) (x 7)) (stateOf band1 (slotOf [(4, 5), (6, 0xFFFF), (7, 0x0404)] [] [] [])) 6 = some 0xFF5F := by decide +kernel

/-! ## Control -/

theorem test_branches : (after (.j 2) st).pc = 0x1010 ∧ (after (.bz (x 0) 0x7FFFFFFF) st).pc = 0xFF8 ∧ (after (.bz (x 5) 4) st).pc = 0x1008 ∧
    (after (.bnz (x 5) 4) st).pc = 0x1020 ∧ (after (.call 9 4) st).xr 9 = 0x1008 ∧ (after (.jr (x 3)) st).pc = 0x20000 ∧
    (after (.dbnz 5 (x 5) 0x7FFFFFFB) st).pc = 0xFD8 ∧ (after (.dbnz 5 (x 5) 0x7FFFFFFB) st).xr 5 = 1 := by decide +kernel
theorem test_exit : (after .exit st).exited = true ∧ (after .exit st).pc = 0x1008 ∧
    (after (.jr (x 30)) (stateOf band1 (slotOf [(30, 0x01FFFFFFFFFFFFF8)] [] [] []))).exited = true ∧
    (after (.jr (x 5)) st).trapcause = 0x08 ∧ (after (.jr (x 5)) st).trapinfo = 2 := by decide +kernel
theorem test_software_traps : (after (.trap (.imm 42)) st).trapinfo = 42 ∧ (after (.trap (.imm 42)) st).trappc = 0x1008 ∧
    (after (.trap (.imm 42)) st).trapcause = 0x12 ∧ (after .brk st).trapcause = 0x15 ∧ (after .brk st).trappc = 0x1000 ∧
    (after .brk st).handler = true := by decide +kernel
theorem test_return : (after .rett (stateOf band1 { slotOf [] [] [] [] with handler := true, trappc := 0x1008 })).pc = 0x1008 ∧
    (after .rett (stateOf band1 { slotOf [] [] [] [] with handler := true, trappc := 0x1008 })).handler = false ∧
    (after .rett st).trapcause = 0x01 ∧ (after .rett st).trapinfo = 52 := by decide +kernel
/-- The rows of Table 6.6, of lanes 0 to 3; lanes 4 to 63 start closed. -/
def nested (n : List (BitVec 6)) : State :=
  stateOf band1 { slotOf [] [] [(1, 7), (2, 5), (3, 4), (4, 2), (5, 1)] [] with nest := Tab.ofList 0 (n.zipIdx.map (fun p => (p.2, p.1))) }
def nestAfter (i : Instr) (n : List (BitVec 6)) : List (BitVec 6) := (List.range 4).map (after i (nested n)).nestOf
theorem test_lane_structure : nestAfter (.lif ⟨1, .wait⟩) [0, 0, 0, 0] = [0, 0, 0, 1] ∧ nestAfter .lloop [0, 0, 0, 1] = [0, 0, 0, 3] ∧
    nestAfter (.lif ⟨2, .wait⟩) [0, 0, 0, 3] = [0, 1, 0, 4] ∧ nestAfter (.lbreak ⟨3, .wait⟩ 1) [0, 1, 0, 4] = [0, 1, 3, 4] ∧
    nestAfter .lendif [0, 1, 3, 4] = [0, 0, 2, 3] ∧ nestAfter (.lcont ⟨4, .wait⟩ 0) [0, 0, 2, 3] = [0, 1, 2, 3] ∧
    nestAfter .lelse [0, 1, 2, 3] = [1, 0, 2, 3] := by decide +kernel
theorem test_loop_end : nestAfter (.lendl ⟨5, .wait⟩ 5) [0, 1, 2, 3] = [0, 0, 2, 3] ∧ (after (.lendl ⟨5, .wait⟩ 5) (nested [0, 1, 2, 3])).pc = 0xFD8 := by
  decide +kernel
theorem test_nesting_overflow : (after .lloop (nested [0, 62, 0, 61])).trapcause = 0x07 ∧ (after .lloop (nested [0, 62, 0, 61])).trapinfo = 2 := by
  decide +kernel
theorem test_lane_predicates : xAfter (.lany 6 ⟨1, .wait⟩) st 6 = some 0 ∧ xAfter (.lcnt 6 ⟨1, .wait⟩) (nested [0, 1, 0, 0]) 6 = some 2 ∧
    xAfter (.lall 6 ⟨1, .wait⟩) (nested [0, 1, 0, 0]) 6 = some 0 := by decide +kernel

/-! ## Lane results: spec/02's and spec/07's examples, or by hand -/

theorem test_integer_lanes : vAfter (.vadd g1 (.v 3) (v 1) (.reg (v 2)) .rne false false) (stV ⟨0x7F01, .i8, 127⟩ ⟨0x01FF, .i8, 127⟩) 3 0 = some (0x8000, .i8) ∧
    vAfter (.vadd g1 (.v 3) (v 1) (.reg (v 2)) .rne true false) (stV ⟨0x7F01, .i8, 127⟩ ⟨0x01FF, .i8, 127⟩) 3 0 = some (0x7F00, .i8) ∧
    vAfter (.vsub g1 (.v 3) (v 1) (.imm 1) .rne false false) (stV ⟨0x00, .i64, 127⟩ .zero) 3 0 = some (-1, .i64) ∧
    vAfter (.vmul g1 (.v 3) (v 1) (.reg (v 2)) .rne true true) (stV ⟨0x10000, .i32, 127⟩ ⟨0x10000, .i32, 127⟩) 3 0 = some (0xFFFFFFFF, .i32) := by
  decide +kernel
theorem test_float_lanes : vAfter (.vadd g1 (.v 3) (v 1) (.reg (v 2)) .rne false false) (stV ⟨0x3F800000, .fp32, 127⟩ ⟨0x40000000, .fp32, 127⟩) 3 0 = some (0x40400000, .fp32) ∧
    vAfter (.vmul g1 (.v 3) (v 1) (.reg (v 2)) .rne false false) (stV ⟨0x3FC00000, .fp32, 127⟩ ⟨0x3FC00000, .fp32, 127⟩) 3 0 = some (0x40100000, .fp32) ∧
    vAfter (.vfma g1 (.v 3) (v 1) (.reg (v 2)) (v 1) .rne false false) (stV ⟨0x4000, .fp16, 127⟩ ⟨0x4200, .fp16, 127⟩) 3 0 = some (0x4800, .fp16) ∧
    vAfter (.vfms g1 (.v 3) (v 1) (.reg (v 2)) (v 1) .rne false false) (stV ⟨0x4000, .fp16, 127⟩ ⟨0x4200, .fp16, 127⟩) 3 0 = some (0x4400, .fp16) := by
  decide +kernel
theorem test_extremes_and_signs : vAfter (.vmin g1 (.v 3) (v 1) (.reg (v 2)) false) (stV ⟨0xFF, .i8, 127⟩ ⟨0x01, .i8, 127⟩) 3 0 = some (0xFF, .i8) ∧
    vAfter (.vmax g1 (.v 3) (v 1) (.reg (v 2)) true) (stV ⟨0xFF, .i8, 127⟩ ⟨0x01, .i8, 127⟩) 3 0 = some (0xFF, .i8) ∧
    vAfter (.vabs g1 (.v 3) (v 1) true) (stV ⟨0x80, .i8, 127⟩ .zero) 3 0 = some (0x7F, .i8) ∧
    vAfter (.vneg g1 (.v 3) (v 1) false) (stV ⟨0x3F800000, .fp32, 127⟩ .zero) 3 0 = some (0x80000000BF800000, .fp32) := by decide +kernel
theorem test_functions : vAfter (.vsqrt g1 (.v 3) (v 1) .rne false) (stV ⟨0x40800000, .fp32, 127⟩ .zero) 3 0 = some (0x40000000, .fp32) ∧
    vAfter (.vexp2 g1 (.v 3) (v 1) .rne false) (stV ⟨0x40400000, .fp32, 127⟩ .zero) 3 0 = some (0x3F80000041000000, .fp32) ∧
    vAfter (.vlog2 g1 (.v 3) (v 1) .rne false) (stV ⟨0x3F80000041000000, .fp32, 127⟩ .zero) 3 0 = some (0x40400000, .fp32) := by decide +kernel
theorem test_reciprocals : vAfter (.vrcp g1 (.v 3) (v 1) .rne false) (stV ⟨0x3F80000040000000, .fp32, 127⟩ .zero) 3 0 = some (0x3F8000003F000000, .fp32) ∧
    vAfter (.vrsq g1 (.v 3) (v 1) .rne false) (stV ⟨0x3F80000040800000, .fp32, 127⟩ .zero) 3 0 = some (0x3F8000003F000000, .fp32) ∧
    vAfter (.vtanh g1 (.v 3) (v 1) .rne false) (stV ⟨0, .fp32, 127⟩ .zero) 3 0 = some (0, .fp32) := by decide +kernel
theorem test_bitwise_lanes : vAfter (.vand g1 (.v 3) (v 1) (.reg (v 2))) (stV ⟨0xF0, .i8, 127⟩ ⟨0x3C, .raw, 127⟩) 3 0 = some (0x30, .i8) ∧
    vAfter (.vor g1 (.v 3) (v 1) (.reg (v 2))) (stV ⟨0xF0, .i8, 127⟩ ⟨0x3C, .raw, 127⟩) 3 0 = some (0xFC, .i8) ∧
    vAfter (.vxor g1 (.v 3) (v 1) (.imm 0x7FFFFFFF)) (stV ⟨0, .raw, 127⟩ .zero) 3 0 = some (-1, .raw) := by decide +kernel
theorem test_lane_shifts : vAfter (.vshl g1 (.v 3) (v 1) (.imm 9) false false) (stV ⟨0x40, .i8, 127⟩ .zero) 3 0 = some (0x80, .i8) ∧
    vAfter (.vshr g1 (.v 3) (v 1) (.imm 4)) (stV ⟨0x80F0, .i8, 127⟩ .zero) 3 0 = some (0x080F, .i8) ∧
    vAfter (.vsar g1 (.v 3) (v 1) (.imm 4)) (stV ⟨0x80F0, .i8, 127⟩ .zero) 3 0 = some (0xF8FF, .i8) := by decide +kernel

/-! ## Witnesses: for every statement with hypotheses, a state and operands that meet them, for each of its clauses -/

theorem st_issues (x : List (Nat × Word)) (v : List (Nat × LaneReg)) (p : List (Nat × Mask)) (d : List (Nat × Desc)) :
    CanIssue (stateOf band1 (slotOf x v p d)) := ⟨rfl, .inl rfl⟩

theorem st_inRow (c : Cause) : InRow st c := ⟨band1, by cases c <;> decide +kernel⟩

theorem upTo_one {P : Nat → Prop} {n : Nat} (hn : n % 8 = 1) (h : P 1) (i : Nat) (h1 : 1 ≤ i) (h2 : i ≤ n % 8) : P i := by
  have : i = 1 := by omega
  exact this ▸ h
theorem beyond_count {P : Nat → Prop} {n : Nat} (h : ∀ i, i < 8 → n < i → P i) (i : Nat) (h1 : n < i) (h2 : i ≤ 7) : P i :=
  h i (by omega) h1

/-- A linked band of two rows: a value waits in its zenith feed. -/
def val1 : PortVal := ⟨false, .v [(0, ⟨5, .i64, 127⟩)], false⟩
def tdesc : Desc := 0x1402000000000000#512 ||| (0x20000#512 <<< 64) ||| (640#512 <<< 128)
def bandE : Band := { band1 with
  linked := true, height := 2, zen := ⟨some ⟨tdesc, .vv, 0, 0, 0, 0, true⟩, none, 5, [⟨0, 0, 0, 0, val1⟩], false⟩
  nad := ⟨some ⟨tdesc, .vv, 2, 0, 0, 0, true⟩, none, 0, [], false⟩ }

/-- Row 0 of that band executes, or row 1, above whose north port a value of row 0 has arrived. -/
def stE : State := stateOf bandE (slotOf xs [] [] [])
def stE1 : State :=
  { stE with cur := 2, slots := [(0, { slotOf xs [] [] [] with south := [⟨val1, true⟩] }), (2, slotOf xs [] [] [])] }

theorem witness_RoundTripScalar : isScalarOrControl (.add 31 ⟨.x 31, .trap⟩ (.lit (-1))) = true ∧
    (Instr.add 31 ⟨.x 31, .trap⟩ (.lit (-1))).wf = true := by decide +kernel
theorem witness_RoundTripLane : isLaneWord (.vadd (some ⟨true, 7⟩) .s ⟨.v 63, .trap⟩ (.reg ⟨.n, .take⟩) .sr true true) = true ∧
    (Instr.vadd (some ⟨true, 7⟩) .s ⟨.v 63, .trap⟩ (.reg ⟨.n, .take⟩) .sr true true).wf = true := by decide +kernel
theorem witness_RoundTripTensorMemoryUnits : isTensorOrMemory (.mstepn none .s ⟨63, .take⟩ ⟨3, .wait⟩ .take 63 3) = true ∧
    (Instr.mstepn none .s ⟨63, .take⟩ ⟨3, .wait⟩ .take 63 3).wf = true ∧
    isUnitWord (.copy 31 ⟨7, .take⟩ ⟨7, .trap⟩ ⟨.x 31, .wait⟩) = true ∧
    (Instr.copy 31 ⟨7, .take⟩ ⟨7, .trap⟩ ⟨.x 31, .wait⟩).wf = true := by decide +kernel
theorem witness_RoundTripPair : (Instr.pairWord (.mstep none 3 ⟨.v 63, .wait⟩ ⟨3, .wait⟩ 0 0) (.add 31 ⟨.x 31, .wait⟩ (.reg ⟨.x 31, .wait⟩))).wf = true := by decide +kernel

/-- A word placed where the first step fetches it. -/
def stF : State := State.reset.withFetchWord 64 0x8010050C7FFFFFFD
/-- The same with the row's slot A empty and its slot B executing. -/
def stFB : State := { stF with slots := [(1, stF.slot 0)] }
/-- The same with a word that has taken the row's issue before, and with no slot at all. -/
def stFS : State := { stF with slots := [(0, { stF.slot 0 with selected := true })] }
def stFN : State := { stF with slots := [] }

/-- The same with both slots of the row there, slot A's word waiting for x6. -/
def stF2 : State := { stF with slots := [(0, { stF.slot 0 with xEmpty := 64 }), (1, stF.slot 0)] }
def addF : Instr := .add 5 ⟨.x 6, .wait⟩ (.imm 0x7FFFFFFD)
def nextOf (o : Host.Outcome State Fault Refusal) : State := match o with
  | .next t => t
  | _ => State.reset
theorem nextOf_eq {o : Host.Outcome State Fault Refusal} (h : (match o with | .next _ => true | _ => false) = true) : o = .next (nextOf o) := by
  cases o with
  | next t => rfl
  | _ => cases h
/-- Every coming of a slot to its issue, and of an event, has an outcome. -/
theorem ran_some (w : State) (k : Nat) (i : Instr) : ∃ o, Ran w k i o := by
  by_cases h1 : AtTurn w (.slot k)
  · by_cases h2 : (comeUp w (.slot k)).scoreHolds k i = true
    · exact ⟨_, fun h => absurd h1 h, fun _ _ => rfl, fun _ h => by simp [h2] at h, fun _ h => by simp [h2] at h⟩
    · by_cases h3 : ∃ t, exec i { comeUp w (.slot k) with cur := k } = .next t
      · obtain ⟨t, ht⟩ := h3
        by_cases h4 : t.clash = []
        · by_cases h5 : performed (comeUp w (.slot k)) t k = true
          · exact ⟨_, fun h => absurd h1 h, fun _ h => absurd h h2, fun _ _ u hu => by
              cases ht.symm.trans hu
              exact ⟨fun h => absurd h4 h, fun _ h => by simp [h5] at h, fun _ _ => rfl⟩, fun _ _ h => absurd ht (h t)⟩
          · exact ⟨_, fun h => absurd h1 h, fun _ h => absurd h h2, fun _ _ u hu => by
              cases ht.symm.trans hu
              exact ⟨fun h => absurd h4 h, fun _ _ => rfl, fun _ h => absurd h h5⟩, fun _ _ h => absurd ht (h t)⟩
        · exact ⟨_, fun h => absurd h1 h, fun _ h => absurd h h2, fun _ _ u hu => by
            cases ht.symm.trans hu
            exact ⟨fun _ => rfl, fun h => absurd h h4, fun h => absurd h h4⟩, fun _ _ h => absurd ht (h t)⟩
      · exact ⟨_, fun h => absurd h1 h, fun _ h => absurd h h2, fun _ _ t ht => absurd ⟨t, ht⟩ h3, fun _ _ _ => rfl⟩
  · exact ⟨_, fun _ => rfl, fun h => absurd h h1, fun h => absurd h h1, fun h => absurd h h1⟩
theorem came_some (w : State) (i : Instr) : ∃ o, Came w i o := by
  by_cases h1 : AtTurn w (.act (.event i))
  · by_cases h3 : ∃ t, exec i (comeUp w (.act (.event i))) = .next t
    · obtain ⟨t, ht⟩ := h3
      by_cases h4 : t.clash = []
      · exact ⟨_, fun h => absurd h1 h, fun _ u hu => by
          cases ht.symm.trans hu
          exact ⟨fun h => absurd h4 h, fun _ => rfl⟩, fun _ h => absurd ht (h t)⟩
      · exact ⟨_, fun h => absurd h1 h, fun _ u hu => by
          cases ht.symm.trans hu
          exact ⟨fun _ => rfl, fun h => absurd h h4⟩, fun _ h => absurd ht (h t)⟩
    · exact ⟨_, fun h => absurd h1 h, fun _ t ht => absurd ⟨t, ht⟩ h3, fun _ _ => rfl⟩
  · exact ⟨_, fun _ => rfl, fun h => absurd h h1, fun h => absurd h h1⟩

theorem witness_StepRunsDecodedAndEvents :
    (∃ rest, stF.agenda = .row 0 :: rest) ∧ (stF.slot 0).lastIssue ≤ (stF.slot 1).lastIssue ∧ MayIssue stF 0 ∧ ¬ MayIssue stF 1 ∧
    WordAt stF 0 addF ∧ ¬ MayIssue stFB 0 ∧ MayIssue stFB 1 ∧ WordAt stFB 1 addF ∧
    (MayIssue stFS 0 ∧ (stFS.slot 0).selected = true ∧ ¬ MayIssue stFS 1 ∧ WordAt stFS 0 addF) ∧
    (¬ MayIssue stFN 0 ∧ ¬ MayIssue stFN 1 ∧ 0 ∉ stFN.killStep ∧ 1 ∉ stFN.killStep) ∧
    (∀ w, w = comesToIssue { stF2 with agenda := [] } 0 → MayIssue w 0 ∧ MayIssue w 1 ∧ WordAt w 0 addF ∧
      ∃ t, Ran w 0 addF (.next t) ∧ ¬ Took w t 0 ∧ WordAt t 1 addF) ∧
    (∀ w k i, ∃ o, Ran w k i o) ∧ (∀ w i, ∃ o, Came w i o) ∧ encode .tick = none ∧ State.reset.agenda = [] := by
  refine ⟨⟨_, rfl⟩, by decide +kernel, ⟨_, rfl, .inl rfl, by decide +kernel⟩, ?_, ⟨_, _, rfl, rfl, rfl, .inl (by decide +kernel)⟩, ?_,
    ⟨_, rfl, .inl rfl, by decide +kernel⟩, ⟨_, _, rfl, rfl, rfl, .inl (by decide +kernel)⟩,
    ⟨⟨_, rfl, .inl rfl, by decide +kernel⟩, rfl, ?_, ⟨_, _, rfl, rfl, rfl, .inl (by decide +kernel)⟩⟩, ⟨?_, ?_, by decide, by decide⟩,
    fun w h => ?_, ran_some, came_some, rfl, rfl⟩
  on_goal 6 =>
    subst h
    have hx := nextOf_eq (o := exec addF { comeUp (comesToIssue { stF2 with agenda := [] } 0) (.slot 0) with cur := 0 }) (by decide +kernel)
    refine ⟨⟨_, rfl, .inl rfl, by decide +kernel⟩, ⟨_, rfl, .inl rfl, by decide +kernel⟩, ⟨_, _, rfl, rfl, rfl, .inl (by decide +kernel)⟩,
      nextOf (exec addF { comeUp (comesToIssue { stF2 with agenda := [] } 0) (.slot 0) with cur := 0 }), ⟨fun h => absurd (fun b hb => by cases hb) h, fun _ h => absurd h (by decide +kernel), fun _ _ u hu => ?_, fun _ _ h => absurd hx (h _)⟩, ?_, ?_⟩
    · cases hx.symm.trans hu
      exact ⟨fun h => absurd (by decide +kernel) h, fun _ _ => rfl, fun _ h => absurd h (by decide +kernel)⟩
    · unfold Took; decide +kernel
    · exact ⟨_, 0x8010050C7FFFFFFD, rfl, rfl, by decide +kernel, .inl (by decide +kernel)⟩
  all_goals (rintro ⟨v, h, _⟩; cases h)

def goesOn (o : Host.Outcome State Fault Refusal) : Bool := match o with | .next _ => true | _ => false
theorem goesOn_next {o : Host.Outcome State Fault Refusal} (h : goesOn o = true) : ∃ t, o = .next t := by
  cases o with
  | next t => exact ⟨t, rfl⟩
  | _ => cases h

theorem witness_StepKeepsMemory : stF.mem.wf = true ∧ ∃ t, step stF = .next t := ⟨rfl, goesOn_next (by decide +kernel)⟩
/-- The first word after reset runs: x5 becomes x6 - 3. -/
theorem test_step : (match step stF with | .next t => (t.slot 0).xr 5 | _ => 0) = -3 := by decide +kernel

theorem witness_SourcesRead : (st.bandOf st.cur).isSome = true ∧ (stE.bandOf stE.cur).isSome = true ∧ (here stE).band = some 1 ∧
    stE.band? 1 = some bandE ∧ stE.northHead stE.cur = some val1 ∧ bandE.rowIndex (slotRow stE.cur) = 0 ∧
    (here stE1).band = some 1 ∧ stE1.band? 1 = some bandE ∧ stE1.northHead stE1.cur = some val1 ∧
    bandE.rowIndex (slotRow stE1.cur) = 1 := by decide +kernel

theorem witness_ScalarBinary : (∃ f, binaryForm (.div 6 (x 4) (.reg (x 5))) = some f ∧ Ready st f.us [codeX f.d]) ∧ CanIssue st ∧
    divisor (.div 6 (x 4) (.reg (x 5))) = some (.reg (x 5)) ∧ (here st).opval st.cur (.reg (x 5)) ≠ 0 :=
  ⟨⟨_, rfl, by unfold Ready; decide +kernel⟩, st_issues .., rfl, by decide +kernel⟩
theorem witness_ScalarOther : CanIssue st ∧ otherOk st (.evrd 6 (x 5)) ∧ (∃ f, otherForm (.evrd 6 (x 5)) = some f ∧ Ready st f.us [codeX f.d]) ∧
    ∃ f, otherForm (.bfi 0 (x 4) (x 5)) = some f ∧ Ready st f.us [codeX f.d] :=
  ⟨st_issues .., by unfold otherOk; decide +kernel, ⟨_, rfl, by unfold Ready; decide +kernel⟩, ⟨_, rfl, by unfold Ready; decide +kernel⟩⟩

/-- x6 and x7 are empty. -/
def stHoles : State := stateOf band1 { slotOf xs [] [] [] with xEmpty := 0xC0 }
theorem witness_EmptySources :
    (∃ f, binaryForm (.add 8 ⟨.x 6, .trap⟩ (.reg ⟨.x 7, .trap⟩)) = some (binary 8 ⟨.x 6, .trap⟩ (.reg ⟨.x 7, .trap⟩) f)) ∧
    InRow stHoles .emptysrc ∧ (here stHoles).isEmpty 6 = true ∧ (here stHoles).isEmpty 7 = true ∧ CanIssue stHoles ∧
    (∀ u ∈ xUse 0 (x 6) ++ opUse (.reg ⟨.x 7, .take⟩), ¬ (u.mode = .trap ∧ (here stHoles).isEmpty u.code = true)) ∧
    ∃ u ∈ xUse 0 (x 6) ++ opUse (.reg ⟨.x 7, .take⟩), (u.mode = .wait ∨ u.mode = .take) ∧ (here stHoles).isEmpty u.code = true :=
  ⟨⟨_, rfl⟩, ⟨band1, rfl, by decide +kernel⟩, rfl, rfl, ⟨rfl, .inl rfl⟩, by decide +kernel, by decide +kernel⟩

theorem witness_Divisions : CanIssue st ∧ Ready st (xUse 0 (x 4) ++ opUse (.reg (x 5))) [codeX 6] ∧ (here st).opval st.cur (.reg (x 5)) ≠ 0 ∧
    InRow st .divzero ∧ (∃ f, divisor (.rem 6 (x 4) (.reg (x 0))) = some (.reg (x 0)) ∧ binaryForm (.rem 6 (x 4) (.reg (x 0))) = some f ∧
      Ready st f.us [codeX f.d]) ∧ (here st).opval st.cur (.reg (x 0)) = 0 :=
  ⟨st_issues .., by unfold Ready; decide +kernel, by decide +kernel, st_inRow _,
    ⟨_, rfl, rfl, by unfold Ready; decide +kernel⟩, by decide +kernel⟩

/-- x30 is the exit address. -/
def stX : State := stateOf band1 (slotOf ((30, exitAt) :: xs) [] [] [])
theorem witness_Branches : CanIssue st ∧ (∃ f, branchForm (.callr 9 (x 3)) = some f ∧ Ready st f.us (f.link.elim [] (fun l => [codeX l.1])) ∧
      targetReg (.callr 9 (x 3)) = some (x 3)) ∧ ((here st).xval st.cur (x 3) % 8 = 0 ∧ (here st).xval st.cur (x 3) ≠ exitAt) ∧
    CanIssue stX ∧ Ready stX (xUse 0 (x 30)) [] ∧ Ready stX (xUse 0 (x 30)) [codeX 9] ∧ (here stX).xval stX.cur (x 30) = exitAt ∧
    (∃ f, branchForm (.jr (x 5)) = some f ∧ Ready st f.us (f.link.elim [] (fun l => [codeX l.1])) ∧ targetReg (.jr (x 5)) = some (x 5)) ∧
    InRow st .misalign ∧ (here st).xval st.cur (x 5) % 8 ≠ 0 :=
  ⟨st_issues .., ⟨_, rfl, by unfold Ready; decide +kernel, rfl⟩, by decide +kernel, ⟨rfl, .inl rfl⟩, by unfold Ready; decide +kernel,
    by unfold Ready; decide +kernel, by decide +kernel, ⟨_, rfl, by unfold Ready; decide +kernel, rfl⟩,
    st_inRow _, by decide +kernel⟩

theorem witness_LaneNesting : CanIssue (nested [0, 61]) ∧
    (∃ p f, nestRule .lloop = some (p, f) ∧ ∀ l, l < 64 → f (((here (nested [0, 61])).pr p.reg).getLsbD l) ((here (nested [0, 61])).nestOf l).toNat ≤ 63) ∧
    InRow (nested [62]) .nestovf ∧
    (∃ p f, nestRule .lloop = some (p, f) ∧ ∃ l, l < 64 ∧ 63 < f (((here (nested [62])).pr p.reg).getLsbD l) ((here (nested [62])).nestOf l).toNat) ∧
    ((here (nested [0])).pr 1).getLsbD 0 = true ∧ (here (nested [0])).nestOf 0 = 0 ∧
    (∀ l, l < 64 → ¬ (((here (nested [])).pr 6).getLsbD l = true)) :=
  ⟨⟨rfl, .inl rfl⟩, ⟨_, _, rfl, by decide +kernel⟩, ⟨band1, rfl, by decide +kernel⟩, ⟨_, _, rfl, 0, by decide +kernel⟩, by decide +kernel,
    by decide +kernel, by decide +kernel⟩

/-- d1 waits for x1 to be full, d2 for a join counter to be zero, d3 for a time to come. -/
def stW : State := stateOf band1 (slotOf ((6, -1) :: xs) [] [] [(1, 0x1000000000000001#512 <<< 64 ||| 1#512),
  (2, 0x4000000000000000#512 <<< 64 ||| 9#512), (3, 0x40000000000000FF#512 <<< 64 ||| 1#512)])
theorem witness_WaitsAndYields : CanIssue stW ∧ stW.bandOf stW.cur = some band1 ∧
    Ready stW (dUse 0 ⟨1, .wait⟩ ++ opUse (.imm 0)) [codeX 9] ∧ goodVector band1.dregs ((here stW).dr 1) ∧ goodVector band1.dregs ((here stW).dr 2) ∧
    goodVector band1.dregs ((here stW).dr 3) ∧ portBound stW ((here stW).dr 3) ∧
    condTrue stW (condWord ((here stW).dr 1) 1) ∧ vectorMet ((here stW).dr 1) 1 ∧ condTrue stW (condWord ((here stW).dr 2) 1) ∧
    vectorMet ((here stW).dr 2) 1 ∧ ¬ condTrue stW (condWord ((here stW).dr 3) 1) ∧ ¬ vectorMet ((here stW).dr 3) 0 ∧
    noPoison stW ((here stW).dr 3) ∧ (here stW).opval stW.cur (.imm 0) = 0 ∧ (here stW).opval stW.cur (.imm 1) ≠ 0 ∧
    Ready stW (opUse (.reg (x 6))) [] := by
  refine ⟨st_issues .., rfl, by unfold Ready; decide +kernel, ?_, ?_, ?_, ?_, by unfold condTrue; decide +kernel,
    by unfold vectorMet; decide +kernel, by unfold condTrue; decide +kernel, by unfold vectorMet; decide +kernel,
    by unfold condTrue; decide +kernel, by unfold vectorMet; decide +kernel, ?_, rfl, by decide +kernel, by unfold Ready; decide +kernel⟩
  · exact ⟨by decide +kernel, by decide +kernel, upTo_one (by decide +kernel) (by dsimp only; decide +kernel), beyond_count (by decide +kernel)⟩
  · exact ⟨by decide +kernel, by decide +kernel, upTo_one (by decide +kernel) (by dsimp only; decide +kernel), beyond_count (by decide +kernel)⟩
  · exact ⟨by decide +kernel, by decide +kernel, upTo_one (by decide +kernel) (by dsimp only; decide +kernel), beyond_count (by decide +kernel)⟩
  · exact fun ⟨i, h1, h2, h3⟩ => absurd h3 (upTo_one (P := fun i => ¬ (condWord ((here stW).dr 3) i).toNat / 2 ^ 60 = 5) (by decide +kernel) (by decide +kernel) i h1 h2)
  · exact upTo_one (by decide +kernel) (by decide +kernel)

/-- The slot is in its handler and returns to 0x1008. -/
def stH : State := stateOf band1 { slotOf xs [] [] [] with handler := true, trappc := 0x1008 }
/-- A region of policy kill, or park, for every cause. -/
def withPolicy (s : State) (p : BitVec 512) : State := { s with regions := [(0, (p <<< 386) ||| 0x8000000000000000#512)] }
def stK : State := withPolicy st 0x2AAAAAAAAAAA
def stP : State := withPolicy st 0x3FFFFFFFFFFF

theorem witness_WordTraps : InRow st .swtrap ∧ Ready st (opUse (.reg (x 5))) [] ∧ InRow st .brk ∧ InRow st .illegal ∧ Cause.illegal ≠ .asyncfault :=
  ⟨st_inRow _, by unfold Ready; decide +kernel, st_inRow _, st_inRow _, by decide⟩
theorem witness_ReturnFromTrap : InRow st .illegal ∧ CanIssue stH ∧ (here stH).handler = true :=
  ⟨st_inRow _, ⟨rfl, .inl rfl⟩, rfl⟩
theorem witness_TrapPolicies : (CanIssue stK ∧ (here stK).deferred = none ∧ (here stK).band = some 1 ∧ stK.band? 1 = some band1 ∧
      band1.status ≠ .killing ∧ stK.policy band1.region .brk = .kill) ∧
    (CanIssue stH ∧ (here stH).deferred = none ∧ (here stH).band = some 1 ∧ stH.band? 1 = some band1 ∧
      stH.policy band1.region .brk = .inRow ∧ (here stH).handler = true) ∧
    CanIssue stP ∧ (here stP).deferred = none ∧ (here stP).band = some 1 ∧ stP.band? 1 = some band1 ∧
      stP.policy band1.region .brk = .park := by unfold CanIssue; decide +kernel
theorem witness_LanePredicates : CanIssue st ∧ Ready st [] [codeX 6] := ⟨st_issues .., by unfold Ready; decide +kernel⟩

/-- Lane 0, which p1 names, holds a pair of registers: of one tag, or of two. -/
def stV2 : State := stV ⟨5, .i64, 127⟩ ⟨3, .i64, 127⟩
def stV3 : State := stV ⟨5, .i64, 127⟩ ⟨3, .i32, 127⟩
def vaddIn (d : VDst) : Instr := .vadd g1 d (v 1) (.reg (v 2)) .rne false false
/-- Row 0 of the linked band, with lane values. -/
def stES : State := stateOf bandE (slotOf xs [(64, ⟨5, .i64, 127⟩), (128, ⟨3, .i64, 127⟩)] [(1, 1)] [])

theorem witness_LaneResults : (∃ f, laneForm (vaddIn (.v 3)) = some f ∧ CanIssue stV2 ∧ alsoReady stV2 (vaddIn (.v 3)) ∧
      Ready stV2 f.us (dstCodes f.d) ∧ PortsOk stV2 f.us (southOf f.d .vv) .vv (lanesOn stV2 f.g) ∧
      ∀ l, l < 64 → (lanesOn stV2 f.g).getLsbD l = true → (f.val stV2 l).isSome = true) ∧
    ∃ f, laneForm (.vadd g1 .s ⟨.n, .take⟩ (.reg (v 2)) .rne false false) = some f ∧ CanIssue stES ∧ alsoReady stES (vaddIn .s) ∧
      Ready stES f.us (dstCodes f.d) ∧ PortsOk stES f.us (southOf f.d .vv) .vv (lanesOn stES f.g) ∧
      ∀ l, l < 64 → (lanesOn stES f.g).getLsbD l = true → (f.val stES l).isSome = true :=
  ⟨⟨_, rfl, st_issues .., trivial, by unfold Ready; decide +kernel, by unfold PortsOk; decide +kernel, by decide +kernel⟩,
   ⟨_, rfl, ⟨rfl, .inl rfl⟩, trivial, by unfold Ready; decide +kernel, by
      refine ⟨fun _ => by decide +kernel, fun _ => by decide +kernel, fun _ => ⟨fun k h => by cases h; decide +kernel, ?_⟩⟩
      decide +kernel, by decide +kernel⟩⟩
theorem witness_TagMismatchTraps : ∃ f, laneForm (vaddIn (.v 3)) = some f ∧ InRow stV3 .tagmismatch ∧ alsoReady stV3 (vaddIn (.v 3)) ∧
    Ready stV3 f.us (dstCodes f.d) ∧ PortsOk stV3 f.us (southOf f.d .vv) .vv (lanesOn stV3 f.g) ∧
    ∃ l, l < 64 ∧ (lanesOn stV3 f.g).getLsbD l = true ∧ f.val stV3 l = none :=
  ⟨_, rfl, ⟨band1, by decide +kernel⟩, trivial, by unfold Ready; decide +kernel, by unfold PortsOk; decide +kernel, 0, by decide +kernel⟩
theorem witness_LaneArithmetic : Fmt.i8.isInt = true ∧ Fmt.i64 ≠ .i8 ∧ arithmetic .bf16 ∧ ¬ arithmetic .mxi8 ∧
    (⟨0, .sr, true, true⟩ : RoundCtx).mode ≠ .dyn ∧
    (∀ i, i < Fmt.fp32.count → funExact .sqrt .fp32 (elemNum ⟨0, .rne, false, false⟩ ⟨0x40000000FF800000, .fp32, 0⟩ i) =
      some (if i = 0 then (.nan, flInvalid) else (.mag false (fun q => order 2 (q * q)), 0))) ∧
    dotFormat .mxi8 = some .fp32 ∧ dotFormat .fp32 = none ∧ (Fmt.raw.isInt = false ∧ Fmt.e4m3.isInt = false ∧ Fmt.e4m3 ≠ .raw) ∧
    (¬ (arithmetic Fmt.acc48 ∨ Fmt.acc48 = .e4m3 ∨ Fmt.acc48 = .e5m2) ∧ 0 < Fmt.acc48.count) := by
  refine ⟨by decide, by decide, .inr (.inr (.inr rfl)), by simp [arithmetic, Fmt.isInt], by decide, ?_, rfl, rfl, by decide,
    by simp [arithmetic, Fmt.isInt], by decide⟩
  have two : numOf .fp32 false false 0x40000000 = .fin false 2 := by decide +kernel
  have low : numOf .fp32 false false 0xFF800000 = .inf true := by decide +kernel
  intro i h
  match i, h with
  | 0, _ =>
    have e : elemNum ⟨0, .rne, false, false⟩ ⟨0x40000000FF800000, .fp32, 0⟩ 0 = .inf true := by decide +kernel
    rw [e]; rfl
  | 1, _ =>
    have e : elemNum ⟨0, .rne, false, false⟩ ⟨0x40000000FF800000, .fp32, 0⟩ 1 = .fin false 2 := by decide +kernel
    have z : ¬ (2 : Rat) = 0 := by decide +kernel
    have n : ¬ (2 : Rat) < 0 := by decide +kernel
    rw [e]; simp only [funExact, z, n, if_false]; rfl
theorem witness_RoundToExact : Fmt.bf16.layout.isSome = true ∧ Fmt.bf16 ≠ .acc48 ∧ 0x7F7F < 2 ^ Fmt.bf16.bits ∧
    (∀ n, Fmt.bf16.value false false 0x7F7F ≠ .inf n) ∧ (Fmt.bf16.value false false 0x7FC1).isNan = true ∧
    (Fmt.mxe2m1 ≠ .raw ∧ Fmt.mxe2m1 ≠ .pl16 ∧ (⟨0x40, .sr, false, false⟩ : RoundCtx).mode ≠ .dyn) := by decide +kernel
/-- The half between the E2M1 numbers 1 and 1.5 rounds to the even one, with inexact. -/
theorem test_rounds_half : RoundsFloat .mxe2m1 1 1 .rne false false false (order (5 / 4)) 0 ⟨2, flInexact, 0⟩ :=
  ⟨2, by decide +kernel, by decide +kernel, by decide +kernel, fun h => absurd h (by decide +kernel), fun _ h => absurd h (by decide +kernel),
    fun _ _ => by decide +kernel⟩
theorem witness_PredicatesAndCompares : (∃ q, predForm stV2 (.pset 7 (.reg (x 4))) = some q ∧ CanIssue stV2 ∧ Ready stV2 q.2.1 []) ∧
    Ready stV2 (vUse 0 (v 1) ++ vopUse (.reg (v 2))) [] ∧ PortsOk stV2 (vUse 0 (v 1) ++ vopUse (.reg (v 2))) none .vv (lanesOn stV2 g1) ∧
    ∀ l, l < 64 → (lanesOn stV2 g1).getLsbD l = true → comparable stV2 (v 1) (.reg (v 2)) l :=
  ⟨⟨_, rfl, st_issues .., by unfold Ready; decide +kernel⟩, by unfold Ready; decide +kernel, by unfold PortsOk; decide +kernel,
    by unfold comparable; decide +kernel⟩
/-- Lane 0 of v1 holds bytes, the others a register as at reset. -/
def stMixed : State := stV ⟨5, .i8, 127⟩ ⟨3, .i64, 127⟩
theorem witness_ReductionsAndScans : CanIssue stV2 ∧ Ready stV2 (vUse 0 (v 1)) [codeX 6] ∧ Ready stV2 (vUse 0 (v 1)) (dstCodes (.v 3)) ∧
    PortsOk stV2 (vUse 0 (v 1)) none .vv (lanesOn stV2 g1) ∧ lanesOn stV2 (some ⟨false, 2⟩) = 0 ∧ lanesOn stV2 g1 ≠ 0 ∧
    sameFormat stV2 (v 1) .add (lanesOn stV2 g1) .i64 ∧
    ((lanesOn (stV ⟨5, .raw, 127⟩ ⟨0, .raw, 127⟩) g1).getLsbD 0 = true ∧ redTakes .add (va (stV ⟨5, .raw, 127⟩ ⟨0, .raw, 127⟩) (v 1) 0).tag = false ∧
      InRow (stV ⟨5, .raw, 127⟩ ⟨0, .raw, 127⟩) .tagmismatch) ∧
    ((lanesOn stMixed none).getLsbD 0 = true ∧ (∀ j, j < 0 → (lanesOn stMixed none).getLsbD j = false) ∧ InRow stMixed .tagmismatch ∧
      redTakes .add (va stMixed (v 1) 0).tag = true ∧ ∃ w : Word, w ≠ 0 ∧ ∀ j, j < 64 →
        (w.getLsbD j = true ↔ (lanesOn stMixed none).getLsbD j = true ∧ (va stMixed (v 1) j).tag ≠ (va stMixed (v 1) 0).tag)) ∧
    (arithmetic .i8 ∧ Fmt.i8.isInt = true ∧ ∀ c ∈ [255, 0, 128], c < 2 ^ Fmt.i8.bits) ∧
    redTakes .max .bf16 = true ∧ ∀ r ∈ [(⟨5, .bf16, 127⟩ : LaneReg)], r.tag = .bf16 :=
  ⟨st_issues .., by unfold Ready; decide +kernel, by unfold Ready; decide +kernel, by unfold PortsOk; decide +kernel, by decide +kernel,
    by decide +kernel, by unfold sameFormat; decide +kernel, ⟨by decide +kernel, by decide +kernel, ⟨band1, by decide +kernel⟩⟩,
    ⟨by decide +kernel, by decide, ⟨band1, by decide +kernel⟩, by decide +kernel, -2, by decide, by decide +kernel⟩,
    ⟨.inl rfl, by decide⟩, by decide, by decide⟩
/-- A Pleiad register in v1. -/
def stQ : State := stV ⟨0x8864, .pl16, 127⟩ ⟨3, .i64, 127⟩
theorem witness_ElementMoves : CanIssue stV2 ∧ Ready stV2 (vUse 0 (v 1) ++ opUse (.reg (x 4))) [codeX 6] ∧
    PortsOk stV2 (vUse 0 (v 1) ++ opUse (.reg (x 4))) none .vv (lanesOn stV2 g1) ∧ Ready stV2 (xUse 0 (x 4) ++ opUse (.imm 63)) [codeV 3] ∧
    CanIssue stES ∧ Ready stES (xUse 0 (x 4) ++ opUse (.imm 63)) [] ∧
    PortsOk stES (xUse 0 (x 4) ++ opUse (.imm 63)) (some .vv) .vv (lanesOn stES g1) ∧ lanesOn stES g1 ≠ 0 ∧
    CanIssue stQ ∧ 60 + 8 / Fmt.fp32.count ≤ 64 ∧
    Ready stQ (rUse 0 (r 1) ++ opUse (.reg (x 5))) ((List.range (8 / Fmt.fp32.count)).map (fun i => codeV (60 + i))) ∧
    (∀ l, l < 64 → (lanesOn stQ g1).getLsbD l = true → ((here stQ).vr (r 1).reg l).tag = .pl16) ∧
    Ready stV2 (vUse 0 (v 1)) [] ∧ PortsOk stV2 (vUse 0 (v 1)) none .vv (lanesOn stV2 g1) ∧
    (convertible .fp32 ∧ ¬ convertible .pl16) ∧ (Fmt.fp32.count ≤ Fmt.mxi8.count ∧ Fmt.bf16.count = 2 * Fmt.fp32.count ∧
      Fmt.fp32.count < Fmt.mxe2m1.count ∧ 7 * Fmt.fp32.count < Fmt.mxe2m1.count) ∧
    ((List.replicate 4 (⟨0x7F80000000000001, .fp32, 0⟩ : LaneReg)).length = 4 ∧
      ∀ r ∈ List.replicate 4 (⟨0x7F80000000000001, .fp32, 0⟩ : LaneReg), r.tag = .fp32) := by
  refine ⟨st_issues .., ?_, ?_, ?_, ⟨rfl, .inl rfl⟩, ?_, ⟨?_, ?_, fun _ => ⟨fun k h => ?_, ?_⟩⟩, ?_, st_issues .., ?_, ?_, ?_, ?_, ?_,
    ⟨by simp [convertible], by simp [convertible]⟩, ?_, by decide, by decide⟩
  on_goal 7 => cases h
  all_goals (first | decide +kernel | (unfold Ready; decide +kernel) | (unfold PortsOk; decide +kernel))

/-! ### Tensor and ports -/

def every {α : Type} (i : Nat) (a : α) : List (Nat × α) := (List.range 64).map (fun l => (64 * i + l, a))
/-- A band of two linked rows whose zenith feed holds a value with this body. -/
def bandN (b : PortBody) : Band :=
  { bandE with zen := ⟨some ⟨tdesc, b.kind, 0, 0, 0, 0, true⟩, none, 5, [⟨0, 0, 0, 0, ⟨false, b, false⟩⟩], false⟩ }
/-- Every lane of v1 holds bfloat16 values and every lane of w1 weights for them. -/
def slotT : Slot :=
  { slotOf xs (every 1 ⟨0x3F80, .bf16, 127⟩) [(1, 1)] [] with w := every 1 ⟨0x3F80, 0, false, .bf16, 0x7F7F7F7F7F7F7F7F⟩ }
def stT : State := stateOf (bandN (.acc [])) slotT

theorem pairOk_of {f : StepForm} {s : State} {l : Nat} {w : WReg} {r : LaneReg} (hw : (here s).wr f.w l = w) (ha : f.a s l = [r])
    (h : w.sparse = f.sparse ∧ ∃ K, widthOf r.tag w.tag w.sparse = some K ∧ f.kw ≤ K ∧ (f.sparse = true → f.kw = 0) ∧
      f.slice < slicesOf r.tag w.tag) : PairOk f s l := by
  subst hw
  obtain ⟨h1, K, h2⟩ := h
  exact ⟨h1, r, [], K, ha, by simp, h2⟩

theorem witness_TensorSteps :
    (∃ f, stepForm (.mstep none 0 (v 1) ⟨1, .wait⟩ 4 0) = some f ∧ CanIssue stT ∧ lanesOn stT f.g = BitVec.allOnes 64 ∧
      Ready stT f.us [codeA 0] ∧ PortsOk stT f.us none f.north (BitVec.allOnes 64) ∧ f.d = .a 0) ∧
    (∃ f, stepForm (.mstepn none .s (r 1) ⟨1, .wait⟩ .take 0 0) = some f ∧ Ready stT f.us [] ∧
      PortsOk stT f.us (some .acc) f.north (BitVec.allOnes 64) ∧ f.d = .s) ∧
    (∀ f, stepForm (.mstep none 0 (v 1) ⟨1, .wait⟩ 4 0) = some f → ∀ l, l < 64 → PairOk f stT l) ∧
    ∃ f, stepForm (.mstep g1 0 (v 1) ⟨1, .wait⟩ 0 0) = some f ∧ InRow stT .partialmask ∧ lanesOn stT f.g ≠ BitVec.allOnes 64 ∧
      PortsOk stT f.us (if f.d = .s then some .acc else none) f.north 0 := by
  refine ⟨⟨_, rfl, ⟨rfl, .inl rfl⟩, ?_, ?_, ?_, rfl⟩, ⟨_, rfl, ?_, ⟨fun _ => ?_, fun _ => ?_, fun _ => ⟨fun k h => ?_, ?_⟩⟩, rfl⟩, ?_,
    ⟨_, rfl, ⟨bandN (.acc []), ?_⟩, ?_, ?_⟩⟩
  on_goal 7 => cases h
  on_goal 9 =>
    intro f h; cases h
    have key : ∀ l, l < 64 → (here stT).wr 1 l = ⟨0x3F80, 0, false, .bf16, 0x7F7F7F7F7F7F7F7F⟩ ∧ (here stT).vr 1 l = ⟨0x3F80, .bf16, 127⟩ := by
      decide +kernel
    exact fun l hl => pairOk_of (key l hl).1 (congrArg (fun r => [r]) (key l hl).2) ⟨rfl, 4, by decide +kernel⟩
  all_goals first | decide +kernel | (unfold Ready; decide +kernel) | (unfold PortsOk; decide +kernel)

theorem witness_AccumulatorReadsAndWrites : CanIssue stV2 ∧ (∀ i : Fin 64, VDst.v 60 = .v i → i.val + 4 ≤ 64) ∧
    Ready stV2 (aUse 0 ⟨0, .wait⟩ ++ rUses 1 4 (r 4)) ((List.range 4).map (fun i => codeV (60 + i))) ∧
    PortsOk stV2 (aUse 0 ⟨0, .wait⟩) none .vv (lanesOn stV2 g1) ∧
    (∀ l, l < 64 → (lanesOn stT (some ⟨false, 2⟩)).getLsbD l = true → ∀ i, i < 4 → ((here stT).vr (4 + i) l).tag = .fp32) ∧
    PortsOk stES (aUse 0 ⟨0, .wait⟩) (some .vv) .vv (lanesOn stES g1) ∧
    (CanIssue stT ∧ stT.bandOf stT.cur = some (bandN (.acc [])) ∧ Ready stT (rUses 0 2 (r 1)) [codeA 3] ∧
      (lanesOn stT g1).getLsbD 0 = true ∧ lanesOn stT (some ⟨false, 2⟩) = 0 ∧ (1 : Nat) + 2 ≤ (bandN (.acc [])).vregs) := by
  refine ⟨st_issues .., ?_, ?_, ?_, ?_, ⟨?_, ?_, fun _ => ⟨fun k h => ?_, ?_⟩⟩, ⟨rfl, .inl rfl⟩, rfl, ?_, ?_, ?_, ?_⟩
  on_goal 7 => cases h
  on_goal 1 => intro i h; cases h; decide
  all_goals first | decide +kernel | (unfold Ready; decide +kernel) | (unfold PortsOk; decide +kernel)

theorem no_work {s : State} {ps : BitVec 7} (h1 : s.msgs = []) (h2 : s.heldEnq = []) (h3 : s.colls = [])
    (h4 : ∀ p ∈ s.bandList, p.2.nad.buf = []) : ¬ WorkLeft s ps := by
  rintro (⟨_, ⟨m, h, _⟩ | ⟨m, h, _⟩⟩ | ⟨_, c, h, _⟩ | ⟨_, p, h, _, q, hq, _⟩)
  · simp [h1] at h
  · simp [h2] at h
  · simp [h3] at h
  · simp [h4 p h] at hq

theorem witness_PortTransfers : (∃ q, sendForm (.psend g1 (.v (r 1)) true) = some q) ∧ CanIssue stE ∧ stE.bandOf stE.cur = some bandE ∧
    Ready stE (sendUse (.v (r 1))) [] ∧ PortsOk stES (sendUse (.v (r 1))) (some .vv) .vv (lanesOn stES g1) ∧
    lanesOn stES g1 ≠ 0 ∧ lanesOn stES (some ⟨false, 2⟩) = 0 ∧ ¬ WorkLeft stES 0x7F ∧ WorkLeft { stES with msgs := [⟨0, 0, 1, 0, .qflush 5, 0, 0, 0, false⟩] } 0x7F ∧
    (here stE1).reserved = [] ∧ bandE.rowIndex (slotRow stES.cur) + 1 ≠ bandE.height ∧
    CanIssue stE1 ∧ PortsOk stE1 (sendUse (.v (r 1))) (some .vv) .vv (lanesOn stE1 none) ∧
    bandE.rowIndex (slotRow stE1.cur) + 1 = bandE.height ∧
    (Ready stES [⟨0, .take, codeN⟩] [codeV 3] ∧ PortsOk stES [⟨0, .take, codeN⟩] none .vv (lanesOn stES none)) ∧
    (Ready stT [⟨0, .take, codeN⟩] [codeA 3] ∧ PortsOk stT [⟨0, .take, codeN⟩] none .acc (lanesOn stT none)) ∧
    (Ready (stateOf (bandN (.w [])) slotT) [⟨0, .wait, codeN⟩] [codeW 3] ∧
      PortsOk (stateOf (bandN (.w [])) slotT) [⟨0, .wait, codeN⟩] none .wc (lanesOn (stateOf (bandN (.w [])) slotT) none)) := by
  refine ⟨⟨_, rfl⟩, ⟨rfl, .inl rfl⟩, rfl, ?_, ⟨?_, ?_, fun _ => ⟨fun k h => ?_, ?_⟩⟩, ?_, ?_, no_work rfl rfl rfl (by decide +kernel),
    .inl ⟨rfl, .inl ⟨_, List.mem_singleton.mpr rfl, rfl⟩⟩, ?_, ?_, ⟨rfl, .inl rfl⟩,
    ⟨?_, ?_, fun _ => ⟨fun k h => ?_, ?_⟩⟩, ?_, ⟨?_, ?_⟩, ⟨?_, ?_⟩, ⟨?_, ?_⟩⟩
  on_goal 4 => cases h
  on_goal 12 => cases h
  all_goals first | decide +kernel | (unfold Ready; decide +kernel) | (unfold PortsOk; decide +kernel)

theorem witness_Accumulators : CanIssue stT ∧ Ready stT [] [codeA 3] ∧ Ready stT (aUse 0 ⟨0, .wait⟩ ++ [⟨1, .take, codeN⟩]) [codeA 3] ∧
    PortsOk stT (aUse 0 ⟨0, .wait⟩ ++ [⟨1, .take, codeN⟩]) none .acc (lanesOn stT g1) ∧ Ready stT (rUse 0 (r 63)) [codeW 3] := by
  unfold CanIssue Ready PortsOk; decide +kernel

/-! ### Memory -/

/-- Addresses 0x20000 to 0x2FFFF are side memory of field 0, at a translation held by its TLB; every master may access. -/
def leaf1 : TlbLeaf := ⟨0xD800000000020200, 0⟩
def stG : State := { stV2.tlbFill 0 0 2 leaf1 with acl := (List.range 0x8A).map (fun i => (i, BitVec.allOnes 512)) }
def mm8 : MemMod := ⟨.row, .i64, true, false, .w64⟩
def am8 (glob : Bool) : AtomMod := ⟨.row, .add, false, false, glob, true, true⟩

theorem witness_Loads : (∃ f, loadForm (.ldv g1 (.v 3) (x 1) (.reg (x 2)) mm8) = some f ∧ CanIssue stG ∧ Ready stG f.us (dstCodes f.d) ∧
      PortsOk stG f.us (southOf f.d .vv) .vv (lanesOn stG f.g) ∧ lanesOn stG f.g ≠ 0 ∧
      ∀ l ∈ actives (lanesOn stG f.g), Lands stG band1 ⟨f.glob, .read, false, false, f.mm.width.bytes⟩ (f.addr stG l)) ∧
    stG.bandOf stG.cur = some band1 ∧ lanesOn stG (some ⟨false, 2⟩) = 0 ∧
    ∃ f, readForm (.lds 31 (x 3) (.imm 0xFFF8) mm8) = some f ∧ Ready stG f.us [f.dst] ∧
      Lands stG band1 ⟨f.glob, .read, false, false, f.n⟩ (f.addr stG) := by
  refine ⟨⟨_, rfl, ⟨rfl, .inl rfl⟩, ?_, ?_, ?_, ?_⟩, rfl, ?_, ⟨_, rfl, ?_, ?_, ⟨leaf1, ?_, ?_⟩⟩⟩
  on_goal 4 =>
    have h : actives (lanesOn stG g1) = [0] := by decide +kernel
    intro l hl; rw [show actives _ = [0] from h] at hl; cases List.mem_singleton.mp hl
    unfold Lands kindOk; decide +kernel
  all_goals first | decide +kernel | (unfold Ready; decide +kernel) | (unfold PortsOk; decide +kernel) | (unfold kindOk; decide +kernel)

theorem witness_Stores : (∃ f, storeForm (.std (x 3) (.imm 0xFFC0) ⟨1, .wait⟩ false) = some f ∧ Ready stG f.us [] ∧ storeLanes stG f = [0] ∧
      Lands stG band1 ⟨f.glob, .write, true, decide (2 ≤ f.n), f.n⟩ (f.addr stG 0)) ∧ CanIssue stG ∧ stG.bandOf stG.cur = some band1 ∧
    (∃ f, storeForm (.stv (some ⟨false, 2⟩) (x 1) (.imm 8) (r 2) mm8) = some f ∧ storeLanes stG f = []) ∧
    ∃ f, storeForm (.stv g1 (x 1) (.imm 8) (r 2) mm8) = some f ∧ Ready stG f.us [] ∧ storeLanes stG f = [0] ∧
      Lands stG band1 ⟨f.glob, .write, true, decide (2 ≤ f.n), f.n⟩ (f.addr stG 0) := by
  refine ⟨⟨_, rfl, ?_, ?_, ?_, leaf1, ?_, ?_⟩, ⟨rfl, .inl rfl⟩, rfl, ⟨_, rfl, ?_⟩, ⟨_, rfl, ?_, ?_, ?_⟩⟩
  all_goals first | decide +kernel | (unfold Ready; decide +kernel) | (unfold kindOk; decide +kernel) | (unfold Lands kindOk; decide +kernel)

/-- Chunk 1 is compressed or lattice; a word of it is poisoned. -/
def stKind : State := { stG with chunkKind := [(1, 2)] }
def stPois : State := { stG with poison := [((sideLoc 0 0x10000) / 8, true)] }
theorem witness_MisalignedAccessTraps : InRow stG .misalign ∧
    (∃ f, loadForm (.ldv g1 (.v 3) (x 5) (.imm 8) mm8) = some f ∧ Ready stG f.us (dstCodes f.d) ∧
      PortsOk stG f.us (southOf f.d .vv) .vv (lanesOn stG f.g) ∧ ∀ l, l < 64 → ((1#64).getLsbD l = true ↔
        (lanesOn stG f.g).getLsbD l = true ∧ (f.addr stG l).toNat % f.mm.width.bytes ≠ 0)) ∧
    (∃ f, storeForm (.stv g1 (x 5) (.imm 8) (r 2) mm8) = some f ∧ f.lanes = some g1 ∧ Ready stG f.us [] ∧
      ∀ l, l < 64 → ((1#64).getLsbD l = true ↔ (lanesOn stG g1).getLsbD l = true ∧ (f.addr stG l).toNat % f.n ≠ 0)) ∧
    (∃ f, storeForm (.sts (x 3) (.imm 7) (x 4) mm8) = some f ∧ f.lanes = none ∧ Ready stG f.us [] ∧ (f.addr stG 0).toNat % f.n ≠ 0) ∧
    (∃ f, readForm (.ldd 3 (x 3) (.imm 63) false) = some f ∧ Ready stG f.us [f.dst] ∧ (f.addr stG).toNat % f.n ≠ 0) := by
  refine ⟨⟨band1, ?_⟩, ⟨_, rfl, ?_, ?_, ?_⟩, ⟨_, rfl, rfl, ?_, ?_⟩, ⟨_, rfl, rfl, ?_, ?_⟩, ⟨_, rfl, ?_, ?_⟩⟩
  all_goals first | decide +kernel | (unfold Ready; decide +kernel) | (unfold PortsOk; decide +kernel)

theorem reaches_of {f : Touch} {s : State} (h1 : Ready s f.us f.dsts) (h2 : PortsOk s f.us f.south .vv (f.mask s)) (h3 : f.lanes s = [0])
    (h4 : (f.addr s 0).toNat % f.q.n = 0) : Reaches f s := by
  refine ⟨h1, h2, fun l hl => ?_⟩
  rw [h3] at hl; cases List.mem_singleton.mp hl; exact h4
/-- A miss, an address outside the allotment, chunks of the kinds that refuse, a denied and a poisoned atomic. -/
theorem witness_MissesKindsAndGrants :
    (∃ f, touchForm (.lds 31 (x 3) (.imm 0xFFF8) mm8) = some f ∧ CanIssue stV2 ∧ stV2.bandOf stV2.cur = some band1 ∧ Reaches f stV2 ∧
      f.q.glob = true ∧ 0 ∈ f.lanes stV2 ∧ ¬ Found f stV2 band1 0) ∧
    (∃ f, touchForm (.ldv g1 (.v 3) (x 0) (.imm 8) mm8) = some f ∧ InRow stG .denied ∧ Reaches f stG ∧ f.q.glob = false ∧
      f.lanes stG = [0] ∧ ¬ Found f stG band1 0) ∧
    (∃ f, touchForm (.ldv g1 (.v 3) (x 1) (.imm 8) mm8) = some f ∧ InRow stKind .compressed ∧ Reaches f stKind ∧ f.lanes stKind = [0] ∧
      Found f stKind band1 0 ∧ kindCause f.q (kindOf f stKind band1 0) = some .compressed) ∧
    (∃ f, touchForm (.stv g1 (x 1) (.imm 8) (r 2) { mm8 with width := .w8 }) = some f ∧ InRow stKind .latticepart ∧
      kindCause f.q (kindOf f stKind band1 0) = some .latticepart) := by
  refine ⟨⟨_, rfl, ⟨rfl, .inl rfl⟩, rfl, reaches_of ?_ ?_ ?_ ?_, rfl, ?_, ?_⟩, ⟨_, rfl, ⟨band1, ?_⟩, reaches_of ?_ ?_ ?_ ?_, rfl, ?_, ?_⟩,
    ⟨_, rfl, ⟨band1, ?_⟩, reaches_of ?_ ?_ ?_ ?_, ?_, ?_, ?_⟩, ⟨_, rfl, ⟨band1, ?_⟩, ?_⟩⟩
  all_goals first | decide +kernel | (unfold Ready; decide +kernel) | (unfold PortsOk; decide +kernel) | (unfold Found; decide +kernel)
theorem witness_AtomicGrantTraps :
    (∃ g f, atomForm (.atom g1 (.v 3) (x 1) (r 4) (r 1) (am8 false)) = some g ∧ touchForm (.atom g1 (.v 3) (x 1) (r 4) (r 1) (am8 false)) = some f ∧
      stV2.bandOf stV2.cur = some band1 ∧ Reaches f stV2 ∧ f.lanes stV2 = [0] ∧ Found f stV2 band1 0 ∧
      kindCause f.q (kindOf f stV2 band1 0) = none ∧ (∀ p ∈ stV2.pend, p.slot ≠ stV2.cur) ∧ InRow stV2 .denied ∧
      stV2.denied (locOf stV2 band1 f.q (f.addr stV2 0)) (keyAt stV2 band1 f.q (f.addr stV2 0)) (slotField stV2.cur) true true = true) ∧
    ∃ f, touchForm (.atom g1 (.v 3) (x 1) (r 4) (r 1) (am8 false)) = some f ∧ Reaches f stPois ∧ f.lanes stPois = [0] ∧ InRow stPois .poison ∧
      stPois.denied (locOf stPois band1 f.q (f.addr stPois 0)) (keyAt stPois band1 f.q (f.addr stPois 0)) (slotField stPois.cur) true true = false ∧
      (∀ e, served stPois band1 .write (f.addr stPois 0) = some e → leafMig e.leaf = false) ∧
      stPois.poisonedAt (locOf stPois band1 f.q (f.addr stPois 0)) f.q.n = true := by
  refine ⟨⟨_, _, rfl, rfl, rfl, reaches_of ?_ ?_ ?_ ?_, ?_, ?_, ?_, fun p h => (nomatch h), ⟨band1, ?_⟩, ?_⟩,
    ⟨_, rfl, reaches_of ?_ ?_ ?_ ?_, ?_, ⟨band1, ?_⟩, ?_, ?_, ?_⟩⟩
  on_goal 17 => intro e h; exact absurd h (by
    have : served stPois band1 .write (xv stPois (x 1) + ((here stPois).vr (r 4).reg 0).bits) = none := by decide +kernel
    exact this ▸ (by simp))
  all_goals first | decide +kernel | (unfold Ready; decide +kernel) | (unfold PortsOk; decide +kernel) | (unfold Found; decide +kernel)

/-- v4 holds no offset, v1 and v2 as before. -/
def leafP : TlbLeaf := ⟨0xD000000000020600, 0⟩
def stPeer : State := stG.tlbFill 0 0 2 leafP
theorem witness_Atomics : (∃ f, atomForm (.atom g1 (.v 3) (x 1) (r 4) (r 1) (am8 false)) = some f ∧ CanIssue stG ∧
      Ready stG f.us (dstCodes f.d) ∧ PortsOk stG f.us (southOf f.d .vv) .vv (lanesOn stG f.g) ∧ actives (lanesOn stG f.g) = [0] ∧
      Lands stG band1 ⟨false, .write, false, false, 8⟩ (f.addr stG 0) ∧ Grants stG band1 ⟨false, .write, false, false, 8⟩ (f.addr stG 0)) ∧
    stG.bandOf stG.cur = some band1 ∧ lanesOn stG (some ⟨false, 2⟩) = 0 ∧ (∀ p rs, Unblocked stG p rs) ∧
    (Lands stPeer band1 ⟨true, .write, false, false, 8⟩ (xv stPeer (x 3)) ∧ Grants stPeer band1 ⟨true, .write, false, false, 8⟩ (xv stPeer (x 3)) ∧
      spaceOf (locOf stPeer band1 ⟨true, .write, false, false, 8⟩ (xv stPeer (x 3))) = .peer) ∧
    (Ready stG (xUse 0 (x 3) ++ opUse (.reg (x 4)) ++ xUse 2 (x 5)) [codeX 31] ∧
      Lands stG band1 ⟨true, .write, false, false, 8⟩ (xv stG (x 3)) ∧ Grants stG band1 ⟨true, .write, false, false, 8⟩ (xv stG (x 3))) ∧
    Ready stG (xUse 0 (x 1) ++ rUse 1 (r 4) ++ rUse 2 (r 1)) [] ∧
      Lands stG band1 ⟨false, .write, false, false, 8⟩ (xv stG (x 1) + ((here stG).vr (r 4).reg 0).bits) := by
  refine ⟨⟨_, rfl, ⟨rfl, .inl rfl⟩, ?_, ?_, ?_, ?_, ?_⟩, rfl, ?_, fun p rs => ⟨fun q h => (nomatch h), fun q h => (nomatch h)⟩,
    ⟨⟨?_, leafP, ?_, ?_⟩, ?_, ?_⟩, ⟨?_, ⟨?_, leaf1, ?_, ?_⟩, ?_⟩, ?_, ?_⟩
  all_goals first | decide +kernel | (unfold Ready; decide +kernel) | (unfold PortsOk; decide +kernel) | (unfold Grants; decide +kernel) |
    (unfold kindOk; decide +kernel) | (unfold Lands kindOk; decide +kernel)

/-- The slot has a store outstanding on the GATHER path; or a RED of it has failed. -/
def stS : State := { stG with pend := [{ opened stG true .row false false .store 0 [request stG band1 ⟨true, .write, true, true, 8⟩ 0 [0] 0x20000 [1, 0, 0, 0, 0, 0, 0, 0] [] []] with id := 3 }] }
def stA : State := stateOf band1 { slotOf xs [] [] [] with asyncfault := true }
theorem witness_FencesAndPrefetch : (∃ q, fenceForm (.fencex .pod .full 0x7F) = some q) ∧ (here stG).asyncfault = false ∧ CanIssue stG ∧
    FenceOpen stG .pod .full 0x7F ∧ CanIssue stS ∧ (here stS).asyncfault = false ∧ ¬ FenceOpen stS .pod .full 0x7F ∧
    (fenceForm (.fencex .band .rel 0x7F) = some (.band, .rel, 0x7F) ∧ FenceOpen stS .band .rel 0x7F ∧ Scope.band.code.toNat < 4) ∧
    (stA.bandOf stA.cur = some band1 ∧ InRow stA .asyncfault ∧ stA.pend = [] ∧ (here stA).asyncfault = true) ∧
    (Ready stG (xUse 0 (x 3) ++ opUse (.imm 0xFFFF)) [] ∧ served stG band1 .read (xv stG (x 3) + ov stG (.imm 0xFFFF)) = some leaf1 ∧
      leafMig leaf1.leaf = false) ∧
    (CanIssue stV2 ∧ Ready stV2 (xUse 0 (x 3) ++ opUse (.imm 8)) [] ∧ served stV2 band1 .read (xv stV2 (x 3) + ov stV2 (.imm 8)) = none ∧
      stV2.bankUntil = []) := by
  refine ⟨⟨_, rfl⟩, rfl, ⟨rfl, .inl rfl⟩, ⟨fun p h => (nomatch h), fun _ => ⟨no_work rfl rfl rfl (by decide +kernel), fun _ p h => (nomatch h)⟩,
    fun _ p h => (nomatch h)⟩, ⟨rfl, .inl rfl⟩, rfl, ?_, ⟨rfl, ⟨fun p h _ => by cases List.mem_singleton.mp h; rfl,
      fun _ => ⟨no_work rfl rfl rfl (by decide +kernel), fun h => absurd h (by decide)⟩, fun h => absurd rfl h⟩, by decide⟩, ⟨rfl, ⟨band1, by decide +kernel⟩, rfl, rfl⟩, ⟨by unfold Ready; decide +kernel, by decide +kernel, by decide⟩,
    ⟨rfl, .inl rfl⟩, by unfold Ready; decide +kernel, by decide +kernel, rfl⟩
  intro h
  refine (h.2.1 (by decide)).2 (by decide) _ (List.mem_singleton.mpr rfl) ⟨rfl, by decide, fun r hr => ?_, fun h => absurd h (by decide)⟩
  cases List.mem_singleton.mp hr; rfl

theorem witness_StationaryAndPatternLoads : CanIssue stG ∧ stG.bandOf stG.cur = some band1 ∧
    Ready stG (xUse 0 (x 1) ++ opUse (.reg (x 2))) [codeW 3] ∧
    (∀ l ∈ actives (lanesOn stG none), InAllotment band1 (wldAddr stG (x 1) (.reg (x 2)) l) 64 ∧ InAllotment band1 (wldMeta stG (x 1) (.reg (x 2)) l) 16) ∧
    lanesOn stG none ≠ 0 ∧ lanesOn stG (some ⟨false, 2⟩) = 0 ∧ ((here stG).wr 3 0).tag = .raw ∧
    (Ready stG (xUse 0 (x 1)) [] ∧ InAllotment band1 (xv stG (x 1)) 64 ∧ stG.pend = [] ∧
      stG.denied (sideLoc 0 0x10000) 0 0 true false = false ∧ stG.poisonedAt (sideLoc 0 0x10000) 64 = false ∧
      ∀ b ∈ (List.range 64).map (fun j => stG.byte (sideLoc 0 0x10000 + j)), b.toNat < 64 ∨ b = 255) := by
  refine ⟨⟨rfl, .inl rfl⟩, rfl, ?_, ?_, ?_, ?_, ?_, ?_, ?_, rfl, ?_, ?_, ?_⟩
  all_goals first | decide +kernel | (unfold Ready; decide +kernel) | (unfold InAllotment; decide +kernel)

/-! ### Accesses outstanding -/

/-- An access outstanding, with its requests; the machine whose slot has it. -/
def acc1 (op : PendOp) (rs : List Req) : Pend := { opened stG false .row false false op 1 rs with id := 3 }
def stO (op : PendOp) (rs : List Req) : State := { stG with pend := [acc1 op rs] }
/-- A request for bytes at the start of the allotment. -/
def req1 (k n : Nat) (va : Word) (data : List Byte) (ops news : List Word) : Req :=
  request stG band1 ⟨false, .read, false, false, n⟩ k [0] va data ops news

theorem unblocked_one {s : State} {p : Pend} {rs : List Req} (h : s.pend = [p]) : Unblocked s p rs := by
  refine ⟨fun q hq _ ho => ?_, fun q hq b _ hb => hb.1 ?_⟩ <;>
  · rw [h] at hq
    cases List.mem_singleton.mp hq
    first | rfl | exact absurd ho (Nat.lt_irrefl _)
theorem noOlder_one {s : State} {p : Pend} {rs : List Req} (h : s.pend = [p]) : NoOlder s p rs := by
  refine ⟨fun _ q hq ho => ?_, fun _ q hq _ ho => ?_⟩ <;>
  · rw [h] at hq
    cases List.mem_singleton.mp hq
    exact absurd ho (Nat.lt_irrefl _)
theorem clear_of {s : State} {p : Pend} {rs : List Req} (h1 : s.power = .running) (h2 : s.pend = [p]) (h3 : GrantsAll s p)
    (h4 : s.band? p.band = some band1) : Clear s p rs := ⟨.inl h1, unblocked_one h2, h3, noOlder_one h2, band1, h4, by decide⟩

def ld1 : List Req := [req1 0 8 0x10000 [] [] []]
theorem witness_LoadsComplete :
    (Clear (stO (.loadV 3 .i64 [] false) ld1) (acc1 (.loadV 3 .i64 [] false) ld1) ld1 ∧
      (stO (.loadV 3 .i64 [] false) ld1).findPend 3 = some (acc1 (.loadV 3 .i64 [] false) ld1) ∧
      (∀ r ∈ ld1, PlainAt (stO (.loadV 3 .i64 [] false) ld1) r) ∧
      NoBackOff (stO (.loadV 3 .i64 [] false) ld1) (acc1 (.loadV 3 .i64 [] false) ld1) ld1) ∧
    (Clear (stO (.loadX 31 true .w8) ld1) (acc1 (.loadX 31 true .w8) ld1) ld1 ∧ Clear (stO (.ldd 7) ld1) (acc1 (.ldd 7) ld1) ld1) ∧
    ((stO (.xbld 63 15) ld1).findPend 3 = some (acc1 (.xbld 63 15) ld1) ∧ Live (stO (.xbld 63 15) ld1) ∧
      ∀ q ∈ (stO (.xbld 63 15) ld1).pend, q.op = .xbld 63 15 → 3 ≤ q.id) ∧
    Clear (stO (.wld 3 none .sp 1) ld1) (acc1 (.wld 3 none .sp 1) ld1) ld1 ∧
    ∀ l ∈ actives 1, metaBad (((stO (.wld 3 none .sp 1) ld1).slot 0).wr 3 l).tag
      (BitVec.ofNat 128 (Claims.laneNumber stG [req1 64 16 0x10000 [] [] []] l)) = false := by
  refine ⟨⟨clear_of rfl rfl (.inr ?_) ?_, rfl, ?_, ?_⟩, ⟨clear_of rfl rfl (.inr ?_) ?_, clear_of rfl rfl (.inr ?_) ?_⟩, ⟨rfl, .inl rfl, ?_⟩,
    clear_of rfl rfl (.inr ?_) ?_, ?_⟩
  on_goal 3 =>
    intro r h; cases List.mem_singleton.mp h
    exact ⟨rfl, by decide +kernel, .inl (by decide +kernel)⟩
  all_goals first | decide +kernel | (unfold NoBackOff; decide +kernel)

def st2 : List Req := [req1 0 8 0x10000 [1, 2, 3, 4, 5, 6, 7, 8] [] [], req1 1 8 0x10008 [1, 2, 3, 4, 5, 6, 7, 8] [] []]
theorem witness_StoresPerform : (stO .store st2).findPend 3 = some (acc1 .store st2) ∧
    (∃ q ∈ st2, q.k ≠ 0) ∧ ∃ r, (acc1 .store st2).reqs.find? (fun q => q.k = 0) = some r ∧ r.data.length = r.len ∧
    Clear (stO .store st2) (acc1 .store st2) [r] ∧ PlainAt (stO .store st2) r ∧ NoBackOff (stO .store st2) (acc1 .store st2) [r] ∧
    ∀ q ∈ (acc1 .store st2).reqs, q.k < 0 → q.loc + q.len ≤ r.loc ∨ r.loc + r.len ≤ q.loc := by
  refine ⟨rfl, ?_, _, rfl, rfl, clear_of rfl rfl (.inr ?_) ?_, ⟨rfl, ?_, .inl ?_⟩, ?_, ?_⟩
  all_goals first | decide +kernel | (unfold NoBackOff; decide +kernel)

def at1 : List Req := [req1 0 8 0x10000 [] [5] [0]]
def opA : PendOp := .atomV 3 .add false false true false
def opR : PendOp := .red .add false false true 0
/-- An atomic that has held its slot through its grant phase. -/
def stHeld : State := { stO opA at1 with slots := [(0, { here stG with wait := .atomic, npc := 0x1008 })] }
theorem witness_AtomicsPerform : (∀ op ∈ [opA, opR], (stO op at1).findPend 3 = some (acc1 op at1) ∧
      atomicOf op = some (.add, false, false, true) ∧ Unblocked (stO op at1) (acc1 op at1) at1 ∧ Live (stO op at1)) ∧
    (∃ r, (acc1 opA at1).reqs.find? (fun q => q.k = 0) = some r ∧ r.len = 8 ∧ r.lanes.length = r.ops.length ∧ r.ops.length = r.news.length ∧
      r.ops ≠ [] ∧ PlainAt (stO opA at1) r ∧ NoBackOff (stO opA at1) (acc1 opA at1) [r] ∧ r.parked = false ∧ r.bad = none ∧
      (stO opR at1).denied r.loc r.key 0 true true = false ∧ (stO opR at1).poisonedAt r.loc r.len = false ∧
      NoOlder { stO opA at1 with pend := [{ acc1 opA at1 with granted := true }] } { acc1 opA at1 with granted := true } [r] ∧
      Clear stHeld (acc1 opA at1) [r] ∧ (stHeld.slot 0).wait = .atomic ∧ (acc1 opA at1).granted = false ∧ (acc1 opA at1).old = []) ∧
    (stO opA at1).band? (acc1 opA at1).band = some band1 := by
  refine ⟨fun op h => ?_, ⟨_, rfl, rfl, rfl, rfl, ?_, ⟨rfl, ?_, .inl ?_⟩, ?_, rfl, rfl, ?_, ?_, noOlder_one rfl,
    clear_of rfl rfl (.inr ?_) ?_, rfl, rfl, rfl⟩, rfl⟩
  · simp only [List.mem_cons, List.not_mem_nil, or_false] at h
    obtain rfl | rfl := h <;> exact ⟨rfl, rfl, unblocked_one rfl, .inl rfl⟩
  all_goals first | decide +kernel | (unfold NoBackOff; decide +kernel)

/-- The same accesses where no master may read or write. -/
def stD (op : PendOp) (rs : List Req) : State := { stO op rs with acl := (List.range 0x8A).map (fun i => (i, 0)) }
/-- The same with a handler, and the policy in-row. -/
def stDT (op : PendOp) (rs : List Req) : State := { stD op rs with slots := st.slots }
/-- A band being killed with nothing left to do. -/
def stDead : State := stateOf { band1 with status := .killing } (slotOf xs [] [] [])
theorem offends_one {s : State} {p : Pend} {r : Req} (h1 : p.granted = false) (h2 : p.reqs = [r]) (h3 : r.mig = false)
    (h4 : s.denied r.loc r.key (slotField p.slot) (decide (p.op ≠ .store)) (writesTo p.op) = true) : Offends s p .denied r := by
  refine ⟨h1, ?_, .inl ⟨rfl, by simp [h2], h4, ?_⟩⟩ <;> simp_all
theorem witness_FaultsFound :
    ((stD (.loadX 9 true .w8) ld1).findPend 3 = some (acc1 (.loadX 9 true .w8) ld1) ∧
      (∃ r, Offends (stD (.loadX 9 true .w8) ld1) (acc1 (.loadX 9 true .w8) ld1) .denied r) ∧
      atomicOf (acc1 (.loadX 9 true .w8) ld1).op = none ∧
      Unblocked (stD (.loadX 9 true .w8) ld1) (acc1 (.loadX 9 true .w8) ld1) ld1 ∧
      (stD (.loadX 9 true .w8) ld1).band? (acc1 (.loadX 9 true .w8) ld1).band = some band1 ∧
      ((stD (.loadX 9 true .w8) ld1).slot 0).exited = false ∧ ((stD (.loadX 9 true .w8) ld1).slot 0).deferred = none) ∧
    ((∃ r, Offends (stDT opA at1) (acc1 opA at1) .denied r) ∧ InRow { stDT opA at1 with cur := 0 } .denied ∧
      (stDT opA at1).findPend 3 = some (acc1 opA at1)) ∧
    (∃ r, (acc1 opR at1).reqs.find? (fun q => q.k = 0) = some r ∧ r.bad = none ∧ (stD opR at1).denied r.loc r.key 0 true true = true ∧
      (∀ q ∈ (acc1 opR at1).reqs, q.parked = false) ∧ r.mig = false ∧ (stD opR at1).findPend 3 = some (acc1 opR at1)) ∧
    Live stDead ∧ (∃ v, stDead.band? 1 = some v ∧ v.status = .killing) ∧ WorkEnded stDead 1 := by
  refine ⟨⟨rfl, ⟨_, offends_one rfl rfl rfl ?_⟩, rfl, unblocked_one rfl, rfl, ?_, rfl⟩, ⟨⟨_, offends_one rfl rfl rfl ?_⟩, ⟨band1, ?_⟩, rfl⟩,
    ⟨_, rfl, rfl, ?_, ?_, rfl, rfl⟩, .inl rfl, ⟨_, rfl, rfl⟩, ?_⟩
  all_goals first | decide +kernel | (unfold WorkEnded; decide +kernel)

/-- A slot that waits, in a linked band. -/
def stWait (w : Wait) : State := stateOf bandE { slotOf xs [] [] [(1, 0x1000000000000001#512 <<< 64 ||| 1#512)] with wait := w, npc := 0x1008 }
/-- A page table with one leaf, for the 1 GiB at 0x40000000. -/
def stTable : State := ((((stWait (.walk [0x40000000] .read)).writeMem 0x100000 (lowBytes 8 (2 ^ 63 + 0x101000))).writeMem 0x101000
  (lowBytes 8 (2 ^ 63 + 0x102000))).writeMem 0x102000 (lowBytes 8 (2 ^ 63 + 0x103000))).writeMem 0x103008 (lowBytes 8 (2 ^ 63 + 2 ^ 62 + 2 ^ 9 + 2 ^ 30))
def stWalk : State := { stTable with asidRoot := some 0x100000 }
def readLeaf (q : WalkEnd × State) : Bool := match q.1 with | .leaf e _ => (leafRefuses e .read).isNone | .fault _ => false
theorem readLeaf_some {q : WalkEnd × State} (h : readLeaf q = true) : ∃ e lv u, q = (.leaf e lv, u) ∧ leafRefuses e .read = none := by
  obtain ⟨w, u⟩ := q
  cases w with
  | leaf e lv => exact ⟨e, lv, u, rfl, Option.isNone_iff_eq_none.mp h⟩
  | fault _ => cases h

def fbw : FbWaiter := ⟨0, .slot 0, 0x20000, 0, .read, 1, 0⟩
/-- Row 0 of the linked band has a value under way to row 1, and row 1 one reserved for the drain. -/
def stPort : State := { stateOf bandE (slotOf xs [] [] []) with
  slots := [(0, { slotOf xs [] [] [] with south := [⟨val1, false⟩], reserved := [⟨none, 0, val1⟩] }), (2, { slotOf xs [] [] [] with reserved := [⟨none, 0, val1⟩] })] }

theorem witness_SlotEvents :
    (Live stWalk ∧ stWalk.bandOf 0 = some bandE ∧ (stWalk.slot 0).wait = .walk [0x40000000] .read ∧ stWalk.bankUntil = [] ∧
      (∃ e lv u, stWalk.walk bandE.asid 0x40000000 = (.leaf e lv, u) ∧ leafRefuses e .read = none)) ∧
    ((∃ why u, stTable.walk bandE.asid 0x40000000 = (.fault why, u)) ∧ Tab.wf none stTable.fb = true ∧
      ∃ i code, WordAt { stTable with icache := [(icKey 0 0 0x1000, some 0x145005160000080B)] } 0 i ∧ fills i = some code) ∧
    (let s := { stG with fbWait := [fbw] }
     s.fbWait = fbw :: [] ∧ fbw.die = 0 ∧ Tab.wf none s.fb = true ∧ ∃ i, i < 256 ∧ Tab.get none s.fb (256 * 0 + i) = none) ∧
    ((stPort.slot 0).south = [] ++ ⟨val1, false⟩ :: [] ∧ (stPort.slot 0).reserved = [] ++ ⟨none, 0, val1⟩ :: [] ∧
      (stPort.slot 2).reserved = [] ++ ⟨none, 0, val1⟩ :: [] ∧
      stPort.bandOf 0 = some bandE ∧ stPort.bandOf 2 = some bandE ∧ bandE.rowIndex 0 + 1 ≠ bandE.height ∧ bandE.rowIndex 1 + 1 = bandE.height) ∧
    (((stWait (.waitc 9 ((here stW).dr 1) (some 0))).slot 0).wait = .waitc 9 ((here stW).dr 1) (some 0) ∧ bandE.status = .running ∧
      condTrue (stWait (.waitc 9 ((here stW).dr 1) none)) (condWord ((here stW).dr 1) 1) ∧ vectorMet ((here stW).dr 1) 1 ∧
      ¬ condTrue (stWait (.waitc 9 ((here stW).dr 3) (some 0))) (condWord ((here stW).dr 3) 1) ∧ ¬ vectorMet ((here stW).dr 3) 0 ∧
      ∃ at_, some 0 = some at_ ∧ at_ ≤ (stWait (.waitc 9 ((here stW).dr 3) (some 0))).time.toNat) := by
  refine ⟨⟨.inl rfl, rfl, rfl, rfl, ?_⟩, ⟨⟨_, _, rfl⟩, rfl, _, 5, ⟨bandE, _, rfl, rfl, rfl, .inl ⟨by decide +kernel, rfl⟩⟩, ?_⟩, ⟨rfl, rfl, rfl, 0, by decide, rfl⟩,
    by decide +kernel, rfl, rfl, by unfold condTrue; decide +kernel,
    by unfold vectorMet; decide +kernel, by unfold condTrue; decide +kernel, by unfold vectorMet; decide +kernel, 0, rfl, Nat.zero_le _⟩
  · exact readLeaf_some (by decide +kernel)
  · decide +kernel

/-! ### Copies, side memory, edges -/

def spand : Desc := 0x4003000000000000#512 ||| (0x10000#512 <<< 64) ||| (0x20000#512 <<< 128)
/-- d1 holds a span descriptor of local addresses, d2 one with a reserved bit. -/
def stC : State := { stG with slots := [(0, slotOf xs [] [] [(1, spand), (2, spand ||| 1#512)])] }
def cmdC : CopyCmd := queuedCmd stC .copys 31 spand 0 0 0 2
/-- A field's queue with 16 commands. -/
def stC16 : State := { stC with cmds := (List.range 16).map (fun i => { cmdC with id := 50 + i }) }

theorem sound_spand : ∀ w, w < 8 → ¬ badSpan spand w := by
  intro w hw
  interval_cases w <;> (simp only [badSpan, badControl]; decide +kernel)
/-- The command names a start outside the allotment. -/
def stCout : State := { stC with slots := [(0, slotOf xs [] [] [(1, spand ||| (0xF0000#512 <<< 64))])] }
theorem witness_CopyWords : CanIssue stC ∧ Ready stC (xUse 0 (x 4) ++ impliedUse (codeD 7)) [] ∧
    (Names stC16 (.x 31) { cmdC with id := 50 } ∧ ¬ Names stC16 (.x 30) { cmdC with id := 50 }) ∧
    (∃ f, copyForm (.copys 31 ⟨1, .wait⟩ (x 5)) = some f ∧ stC.bandOf stC.cur = some band1 ∧ Ready stC f.us [codeX f.d] ∧ Sound (f.checks stC) ∧
      ∀ q ∈ copyFootprints (f.cmd stC), SpanIn band1 q) ∧
    (stC.cur ∈ stC.copyGrant ∨ stC.copyFree (fieldHere stC) = true) ∧ ¬ (stC16.cur ∈ stC16.copyGrant ∨ stC16.copyFree (fieldHere stC16) = true) ∧
    (InRow stC .baddesc ∧ ∃ f, copyForm (.copys 31 ⟨2, .wait⟩ (x 5)) = some f ∧ Ready stC f.us [codeX f.d] ∧ FirstFault (f.checks stC) 1 0) ∧
    (InRow stCout .denied ∧ ∃ f, copyForm (.copys 31 ⟨1, .wait⟩ (x 5)) = some f ∧
      ∃ q post, copyFootprints (f.cmd stCout) = [] ++ q :: post ∧ ¬ SpanIn band1 q) := by
  refine ⟨⟨rfl, .inl rfl⟩, by unfold Ready; decide +kernel, ⟨⟨rfl, 31, rfl, by decide, rfl⟩, ?_⟩,
    ⟨_, rfl, rfl, by unfold Ready; decide +kernel, ?_, by unfold SpanIn; decide +kernel⟩, by decide +kernel, by decide +kernel,
    ⟨⟨band1, by decide +kernel⟩, _, rfl, by unfold Ready; decide +kernel, ?_⟩, ⟨band1, by decide +kernel⟩, _, rfl, (0xF0000, 2), [(0x20000, 2)],
      by decide +kernel, ?_⟩
  · rintro ⟨_, i, h, _, h2⟩; cases h; exact absurd h2 (by decide +kernel)
  · intro q hq w hw
    simp only [List.mem_cons, List.not_mem_nil, or_false] at hq
    obtain rfl | rfl := hq
    · exact sound_spand w hw
    · show ¬ (w = 0 ∧ _)
      rintro ⟨_, h⟩; revert h; decide +kernel
  · have h0 : badSpan (spand ||| 1#512) 0 := by simp only [badSpan]; decide +kernel
    exact ⟨[], badSpan (spand ||| 1#512), [_], rfl, fun _ h => (nomatch h), by decide, h0, fun u h => absurd h (by omega)⟩
  · unfold SpanIn; decide +kernel

def stC1 : State := { stC with cmds := [cmdC] }
/-- A tensor of one byte, its box, one FP16 number, and the residue, one FP32 number; a command for them. -/
def ten1 : Desc := 0x1102000000000000#512 ||| (0x20000#512 <<< 64) ||| (1#512 <<< 128)
def box1 : Desc := 0x2502000000000000#512 ||| (0x7F#512 <<< 37) ||| (0x30000#512 <<< 64) ||| (1#512 <<< 320)
def res1 : Desc := 0x3702000000000000#512 ||| (0x40000#512 <<< 64)
def cmdE : CopyCmd := { cmdC with kind := .copyef, a := ten1, b := box1, c := res1, count := 0 }
def stCE : State := { stC with cmds := [cmdE] }
/-- Two commands of the slot: the second reads what the first writes; a band that a save stops. -/
def stC2 : State := { stC with cmds := [{ cmdC with phase := .running 1 },
  { cmdC with id := 9, a := 0x4003000000000000#512 ||| (0x20000#512 <<< 64) ||| (0x30000#512 <<< 128) }] }
def stCs : State := { stC1 with bands := [(1, some { band1 with status := .stopping, suspend := true })] }
theorem only_going {s : State} {f e : Nat} {c : CopyCmd} (h1 : s.cmds = [c]) (h2 : c.field = f) (h3 : c.ended = false) (h4 : s.band? c.band = some band1)
    (h5 : c.phase = .queued) (h6 : s.bandList = [(c.band, band1)]) : WorksOn s f e c := by
  have nostop : ¬ StopsFor s c := by
    rintro ⟨v, h, hs, _⟩
    rw [h4] at h; cases h
    rcases hs with ⟨h, _⟩ | h <;> exact absurd h (by decide)
  refine ⟨⟨by simp [h1], h2, h3, nostop, ?_, ?_⟩, by simp [h1], [], [], by simp [h1], fun q h => (nomatch h),
    .inr ⟨by simp [h1, h5], .inr ⟨h5, by simp [h1, h5]⟩⟩⟩
  · intro q hq _ h
    rw [h1] at hq; cases List.mem_singleton.mp hq
    exact absurd h (Nat.lt_irrefl _)
  · intro p hp
    rw [h6] at hp; cases List.mem_singleton.mp hp
    exact ⟨fun q hq => absurd hq (by simp [band1, fetchBand, Edge.empty]), fun q hq => absurd hq (by simp [band1, fetchBand, Edge.empty])⟩
theorem sees_local {s : State} {e asid a p : Nat} {write loc : Bool} (hl : loc = true) (hp : p = sideLoc 0 a) (h1 : s.poison = [])
    (h2 : s.chunkKind = []) (h3 : a < 2 ^ 23) (h4 : s.denied p 0 (64 + 2 * 0 + e) (!write) write = false) :
    EngineSees s 0 e asid loc write a p := by
  refine ⟨h4, fun _ => ?_, fun _ => ⟨h3, hp, fun _ => ?_⟩, fun h => absurd (hl.symm.trans h) (by decide)⟩
  · simp [State.poisonedAt, h1, Tab.get]
  · simp [State.chunkAt, h2, Tab.get]
theorem box1_rows (row j0 : Nat) (h1 : cmdE.granules * 2 ^ (copyControl cmdE / 2 ^ 44 % 16) ≤ row ∧ row < min
    (((List.range (cut cmdE.b 55 53)).map (fun k => extentOf cmdE.b (permOf cmdE.b (k + 1)))).foldl (· * ·) 1)
    (cmdE.granules * 2 ^ (copyControl cmdE / 2 ^ 44 % 16) + 2 ^ (copyControl cmdE / 2 ^ 44 % 16)) ∧ j0 < extentOf cmdE.b (permOf cmdE.b 0)) :
    row = 0 ∧ j0 = 0 := by
  have e1 : cmdE.granules * 2 ^ (copyControl cmdE / 2 ^ 44 % 16) = 0 := by decide +kernel
  have e2 : 2 ^ (copyControl cmdE / 2 ^ 44 % 16) = 1 := by decide +kernel
  have e3 : extentOf cmdE.b (permOf cmdE.b 0) = 1 := by decide +kernel
  rw [e1, e2, e3] at h1
  omega
theorem witness_CopyEngines :
    (∀ s, s = { stC with copyLine := [.slot 200, .slot 0] } → Live s ∧ s.copyHeld 0 < 16 ∧ s.copyLine = [.slot 200] ++ .slot 0 :: [] ∧
      ∀ a ∈ [Agent.slot 200], s.lineField a ≠ 0) ∧
    (stC1.power = .running ∧ WorksOn stC1 0 0 cmdC ∧ cmdC.kind = .copys ∧ stC1.bankUntil = [] ∧ stC1.backoff = [] ∧ (∀ p ∈ stC1.pend, p.urgent = false) ∧
      2 = min cmdC.count (cmdC.granules * 256 + 256) - cmdC.granules * 256 ∧
      (∀ i, i < 2 → EngineSees stC1 0 0 (stC1.asidOf 1) (cmdC.a.getLsbD 48) false (cut cmdC.a 120 64 + cmdC.granules * 256 + i) (sideLoc 0 (0x10000 + i)) ∧
        EngineSees stC1 0 0 (stC1.asidOf 1) (cmdC.a.getLsbD 49) true (cut cmdC.a 184 128 + cmdC.granules * 256 + i) (sideLoc 0 (0x20000 + i))) ∧
      ∀ i j, i < 2 → j < 2 → sideLoc 0 (0x20000 + i) = sideLoc 0 (0x20000 + j) → i = j) ∧
    (WorksOn stCE 0 1 cmdE ∧ cmdE.kind ≠ .copys ∧ Sound [(1, badTensor cmdE.a), (1, badWhole cmdE.a cmdE.b), (2, badBox cmdE.a cmdE.b)] ∧
      Sound [(3, badResidue cmdE.c)] ∧ inTensor cmdE.a cmdE.b 0 0 ∧
      (∀ i, i < elemBits (tdFmt cmdE.a) → EngineSees stCE 0 1 (stCE.asidOf 1) (cmdE.a.getLsbD 49) false ((sourceBit cmdE.a cmdE.b 0 0 + i) / 8)
        (sideLoc 0 ((sourceBit cmdE.a cmdE.b 0 0 + i) / 8))) ∧ (tdFmt cmdE.a).isMx = false ∧
      (∀ i, i < elemBits (boxFormat cmdE.a cmdE.b) → EngineSees stCE 0 1 (stCE.asidOf 1) (cmdE.b.getLsbD 49) true ((destBit cmdE.a cmdE.b 0 0 + i) / 8)
        (sideLoc 0 ((destBit cmdE.a cmdE.b 0 0 + i) / 8)) ∧ (destBit cmdE.a cmdE.b 0 0 + i) / 8 < 0x30002 ∧ 0x30000 ≤ (destBit cmdE.a cmdE.b 0 0 + i) / 8) ∧
      (∀ i, i < elemBits (Fmt.ofCode (BitVec.ofNat 4 (cut cmdE.c 59 56))) → EngineSees stCE 0 1 (stCE.asidOf 1) (cmdE.c.getLsbD 49) true
        ((residueBit cmdE.b cmdE.c 0 0 + i) / 8) (sideLoc 0 ((residueBit cmdE.b cmdE.c 0 0 + i) / 8)) ∧ (residueBit cmdE.b cmdE.c 0 0 + i) / 8 < 0x40004 ∧
        0x40000 ≤ (residueBit cmdE.b cmdE.c 0 0 + i) / 8) ∧
      (∀ a b, 0x30000 ≤ a → a < 0x40004 → 0x30000 ≤ b → b < 0x40004 → sideLoc 0 a = sideLoc 0 b → a = b)) ∧
    (∃ p c, stC2.cmds = [p, c] ∧ p.slot = c.slot ∧ p.id < c.id ∧ p.phase = .running 1 ∧ c.phase = .queued ∧ p.ended = false ∧ p.granules = 0 ∧
      p.a.getLsbD 49 = true ∧ c.a.getLsbD 48 = true ∧ 0 < p.count ∧ 0 < c.count ∧ cut p.a 184 128 + 0 = cut c.a 120 64 + 0) ∧
    StopsFor stCs cmdC ∧
    ((stC1.cmds.find? (fun q => q.id == cmdC.id && q.field == 0)) = some cmdC ∧ { cmdC with granules := 1 }.ended = true ∧
      stC1.takesResults cmdC.band = true ∧ cmdC.dst < 32) := by
  refine ⟨fun s h => ?_, ⟨rfl, only_going rfl rfl (by decide +kernel) rfl rfl rfl, rfl, rfl, rfl, fun p h => (nomatch h), by decide +kernel, fun i hi => ?_, fun i j hi hj h => ?_⟩,
    ⟨only_going rfl rfl (by decide +kernel) rfl rfl rfl, by decide, fun q hq w hw => ?_, fun q hq w hw => ?_, fun d hd => ?_, fun i hi => ?_, by decide +kernel,
      fun i hi => ?_, fun i hi => ?_, fun a b h1 h2 h3 h4 h => ?_⟩,
    ⟨_, _, rfl, rfl, by decide +kernel, rfl, rfl, by decide +kernel, rfl, by decide +kernel, by decide +kernel, by decide, by decide, by decide +kernel⟩,
    ⟨_, rfl, .inl ⟨rfl, rfl⟩, .inr rfl⟩, ?_⟩
  · subst h; exact ⟨.inl rfl, by decide +kernel, rfl, by decide +kernel⟩
  · interval_cases i <;> constructor <;> refine sees_local ?_ ?_ rfl rfl ?_ ?_ <;> decide +kernel
  · simp only [sideLoc] at h; omega
  · simp only [List.mem_cons, List.not_mem_nil, or_false] at hq
    obtain rfl | rfl | rfl := hq <;> interval_cases w
    all_goals first
      | (simp only [badTensor, badExtent, badStart, badWhole]; decide +kernel)
      | (simp only [badBox, badExtent, badStart]; decide +kernel)
      | skip
    · exact fun ⟨i, h1, h2, h3⟩ => by unfold badExtent at h3; interval_cases i <;> revert h3 <;> decide +kernel
    · exact fun ⟨i, h1, h2, h3⟩ => by unfold badExtent at h3; interval_cases i <;> revert h3 <;> decide +kernel
    · have hr : cut cmdE.b 55 53 + 1 = 1 := by decide +kernel
      simp only [badBox, hr]
      rintro (h | ⟨k, h1, h2⟩ | ⟨j, k, h1, h2, _⟩ | ⟨k, h1, h2, h3⟩ | h | h | h)
      · revert h; decide +kernel
      · have : k = 0 := by omega
        subst this; revert h2; decide +kernel
      · omega
      · interval_cases k <;> revert h3 <;> decide +kernel
      all_goals revert h; decide +kernel
  · simp only [List.mem_cons, List.not_mem_nil, or_false] at hq
    subst hq
    interval_cases w <;> (simp only [badResidue, badControl]; decide +kernel)
  · have : tdRank cmdE.a = 1 := by decide +kernel
    have : d = 0 := by omega
    subst this; decide +kernel
  · have e8 : elemBits (tdFmt cmdE.a) = 8 := by decide +kernel
    rw [e8] at hi
    refine sees_local ?_ rfl rfl rfl ?_ ?_ <;> (try interval_cases i) <;> decide +kernel
  · have e8 : elemBits (boxFormat cmdE.a cmdE.b) = 16 := by decide +kernel
    rw [e8] at hi
    refine ⟨sees_local ?_ rfl rfl rfl ?_ ?_, ?_, ?_⟩ <;> (try interval_cases i) <;> decide +kernel
  · have e8 : elemBits (Fmt.ofCode (BitVec.ofNat 4 (cut cmdE.c 59 56))) = 32 := by decide +kernel
    rw [e8] at hi
    refine ⟨sees_local ?_ rfl rfl rfl ?_ ?_, ?_, ?_⟩ <;> (try interval_cases i) <;> decide +kernel
  · simp only [sideLoc] at h; omega
  · decide +kernel

/-- A slot that waits to grow by three chunks, or to free three; its region has budgets. -/
def stGrow (w : Wait) (budget : Desc) : State := { stateOf band1 { slotOf xs [] [] [] with wait := w, npc := 0x1008 } with
  regions := [(0, 0x8000000000000000#512 ||| (8192#512 <<< 64) ||| (budget <<< 80) ||| (100#512 <<< 96))] }
/-- The same in a band of two fields, in the second of which another band's side memory begins just above. -/
def bandG : Band := { band1 with height := 128 }
def stGrow2 : State := { stGrow (.sgrow 5 3 .lat) 100 with
  bands := [(1, some bandG), (2, some { band1 with row0 := 64, chunk0 := 5, chunks := 2 })] }
theorem first_one {s : State} {v : Band} {k : Nat} (h : ∀ j ∈ v.slotKeys, j = k ∨ (s.slot j).wait = .none) : FirstToGrow s v k := by
  intro j hj hw
  rcases h j hj with rfl | h
  · exact Nat.le_refl _
  · rcases hw with ⟨_, _, _, _, hw⟩ | ⟨_, _, hw⟩ <;> rw [h] at hw <;> cases hw
theorem witness_SideMemory : CanIssue st ∧ Ready st (opUse (.reg (x 4))) [codeX 31] ∧
    (growStatus st band1 0 = some 0 ∧ growStatus st band1 124 = some 3 ∧ growStatus (stGrow .none 1) band1 3 = some 2 ∧
      growStatus (stGrow .none 100) band1 3 = none ∧ freeStatus band1 5 = some 3 ∧ freeStatus band1 4 = none) ∧
    (FirstToGrow (stGrow (.sgrow 5 3 .lat) 1) band1 0 ∧ (stGrow (.sgrow 5 3 .lat) 1).bandOf 0 = some band1 ∧
      ¬ ChunksFit (stGrow (.sgrow 5 3 .lat) 1) band1.region (3 * band1.fieldCount)) ∧
    (FirstToGrow (stGrow (.sgrow 5 3 .lat) 100) band1 0 ∧ band1.chunk0 + band1.chunks + 3 ≤ 128 ∧
      ChunksFit (stGrow (.sgrow 5 3 .lat) 100) band1.region (3 * band1.fieldCount) ∧
      ∀ f ∈ band1.fields, ∀ i, i < 3 → ∀ p ∈ (stGrow (.sgrow 5 3 .lat) 100).bandList, ¬ (f ∈ p.2.fields ∧
        p.2.chunk0 ≤ band1.chunk0 + band1.chunks + i ∧ band1.chunk0 + band1.chunks + i < p.2.chunk0 + p.2.chunks)) ∧
    (stGrow2.growStuck 0 = true ∧ stGrow2.youngest 0 = some bandG ∧ stGrow2.growers bandG = [0]) ∧
    (FirstToGrow (stGrow (.sfree 5 3) 100) band1 0 ∧ (stGrow (.sfree 5 3) 100).chunksBusy 1 band1 2 3 = false ∧ freeStatus band1 3 = none) := by
  refine ⟨st_issues .., by unfold Ready; decide +kernel, ?_, ⟨first_one ?_, rfl, ?_⟩, ⟨first_one ?_, ?_⟩, ?_, first_one ?_, ?_⟩ <;> decide +kernel

/-- d2 holds the descriptor of a tensor in side memory; the drain of the band's second row holds a value. -/
def bandF : Band := { bandE with
  zen := { bandE.zen with cur := none, queued := bandE.zen.cur, buf := [] }, nad := { bandE.nad with buf := [⟨tdesc, 2, 0, 3, val1⟩] } }
def stB (b : Band) (k : Nat) : State := { stG with
  cur := k, bands := [(1, some b)], slots := [(0, slotOf xs [] [] [(2, tdesc), (3, tdesc ||| 1#512 <<< 48)]), (2, { slotOf xs [] [] [(2, tdesc)] with npc := 0x1008 })] }
def bandE0 : Band := { bandE with zen := { bandE.zen with buf := [] } }
/-- An access of the slot that its PBIND came behind. -/
def stBp (b : Band) : State := { stB b 0 with pend := [{ acc1 .store [req1 0 8 0x10000 [0] [] []] with slot := 2, order := 0 }] }
theorem sound_tdesc : Sound (bindChecks true .vv tdesc) ∧ Sound (bindChecks false .vv tdesc) := by
  have ht : ∀ w, w < 8 → ¬ badTensor tdesc w := by
    intro w hw
    interval_cases w
    all_goals first
      | (simp only [badTensor, badExtent, badStart]; decide +kernel)
      | exact fun ⟨i, h1, h2, h3⟩ => by unfold badExtent at h3; interval_cases i <;> revert h3 <;> decide +kernel
  constructor <;> (intro q hq w hw; simp only [bindChecks, List.mem_cons, List.not_mem_nil, or_false] at hq) <;>
    obtain rfl | rfl | rfl := hq
  · exact ht w hw
  · exact fun h => absurd h.2.1 (by decide)
  · exact fun h => absurd h.2 (by decide +kernel)
  · exact ht w hw
  · exact fun h => absurd h.2.2 (by decide +kernel)
  · exact fun h => absurd h.2 (by decide +kernel)
theorem sees_edge {b : Band} {k e a : Nat} {write : Bool} (h3 : a < 2 ^ 23)
    (h4 : (stB b k).denied (sideLoc 0 a) 0 (64 + 2 * 0 + e) (!write) write = false) :
    EngineSees (stB b k) 0 e b.asid (tdLocal tdesc) write a (sideLoc 0 a) := sees_local (by decide +kernel) rfl rfl rfl h3 h4
theorem witness_EdgesOfLinkedBands : CanIssue (stB bandF 0) ∧ (here (stB bandF 0)).band = some 1 ∧ (stB bandF 0).band? 1 = some bandF ∧
    (Owns (stB bandE 0) bandE false ∧ Owns (stB bandE 2) bandE true ∧ ¬ Owns (stB bandE 0) bandE true) ∧
    (Ready (stB bandE 2) (dUse 0 ⟨2, .wait⟩) [] ∧ Sound (bindChecks true .vv ((here (stB bandE 2)).dr 2)) ∧ (edgeOf bandE true).queued = none ∧
      Sound (bindChecks false .vv ((here (stB bandE 0)).dr 2)) ∧ (edgeOf bandF false).cur = none ∧ (edgeOf bandF false).queued = bandE.zen.cur) ∧
    (InRow (stB bandE 0) .baddesc ∧ FirstFault (bindChecks false .vv ((here (stB bandE 0)).dr 3)) 1 0) ∧
    (bandE0.zen.cur = some ⟨tdesc, .vv, 0, 0, 0, 0, true⟩ ∧ bandE0.zen.buf = [] ∧ bandE0.zen.parked = false ∧
      0 < (⟨tdesc, .vv, 0, 0, 0, 0, true⟩ : Binding).total ∧ tdRank tdesc = 1 ∧ tdBitoff tdesc = 0 ∧
      (∀ i, i < 64 * 8 → EngineSees (stB bandE0 0) 0 0 bandE0.asid (tdLocal tdesc) false (tdBase tdesc + 64 * 8 * 0 + i) (sideLoc 0 (tdBase tdesc + 64 * 8 * 0 + i))) ∧
      Behind (stB bandE0 0) 0 0) ∧
    (bandF.nad.buf = ⟨tdesc, 2, 0, 3, val1⟩ :: [] ∧ bandF.nad.parked = false ∧ val1.body.kind = .vv ∧ 64 * 8 * (3 + 1) ≤ tdBytes tdesc ∧
      (∀ i, i < 64 * 8 → EngineSees (stB bandF 0) 0 1 bandF.asid (tdLocal tdesc) true (tdBase tdesc + 64 * 8 * 3 + i) (sideLoc 0 (tdBase tdesc + 64 * 8 * 3 + i))) ∧
      (∀ i j, i < 64 * 8 → j < 64 * 8 → sideLoc 0 (0x20000 + 1536 + i) = sideLoc 0 (0x20000 + 1536 + j) → i = j) ∧ Behind (stB bandF 0) 2 0) ∧
    (∃ p ∈ (stBp bandF).pend, p.slot = 2 ∧ p.order < 1 ∧ ∀ r ∈ p.reqs, r.parked = false) ∧
    bandE.nad.buf = [] ∧ bandE.status = .running := by
  have bound : ∀ i, i < 64 * 8 → tdBase tdesc + 64 * 8 * 0 + i < 2 ^ 23 ∧ tdBase tdesc + 64 * 8 * 3 + i < 2 ^ 23 ∧
      (stB bandE0 0).denied (sideLoc 0 (tdBase tdesc + 64 * 8 * 0 + i)) 0 64 true false = false ∧
      (stB bandF 0).denied (sideLoc 0 (tdBase tdesc + 64 * 8 * 3 + i)) 0 65 false true = false := by decide +kernel
  refine ⟨⟨rfl, .inl rfl⟩, rfl, rfl, by unfold Owns; decide +kernel,
    ⟨by unfold Ready; decide +kernel, sound_tdesc.1, rfl, sound_tdesc.2, rfl, rfl⟩, ⟨⟨bandE, ?_⟩, ?_⟩, ⟨rfl, rfl, rfl, ?_, ?_, ?_, ?_, ?_⟩,
    ⟨rfl, rfl, rfl, ?_, ?_, ?_, ?_⟩, ?_, rfl, rfl⟩
  · decide +kernel
  · have h0 : badTensor (tdesc ||| 1#512 <<< 48) 0 := .inr (.inl (by decide +kernel))
    exact ⟨[], badTensor (tdesc ||| 1#512 <<< 48), _, rfl, fun _ h => (nomatch h), by decide, h0, fun u h => absurd h (by omega)⟩
  · decide +kernel
  · decide +kernel
  · decide +kernel
  · exact fun i hi => sees_edge (bound i hi).1 (bound i hi).2.2.1
  · refine ⟨fun p h => (nomatch h), fun q h => (nomatch h), fun p h => ⟨fun q hq => ?_, fun q _ _ => .inl (Nat.zero_le _)⟩⟩
    cases List.mem_singleton.mp h
    cases hq
  · decide +kernel
  · exact fun i hi => sees_edge (bound i hi).2.1 (bound i hi).2.2.2
  · intro i j _ _ h; simp only [sideLoc] at h; omega
  · exact ⟨fun p h => (nomatch h), fun q h => (nomatch h), fun p h => ⟨fun q _ _ => Nat.zero_le _, fun q _ _ => .inl (Nat.zero_le _)⟩⟩
  · exact ⟨_, List.mem_singleton.mpr rfl, rfl, by decide, by decide⟩

/-! ### Queues, counters, barriers, CSRs -/

def node5 : BitVec 512 := 0xB000000000000000#512 ||| (16#512 <<< 128) ||| (4#512 <<< 144) ||| (31#512 <<< 196) ||| (8#512 <<< 219) ||| (2#512 <<< 227)
def regionQ : BitVec 512 := (0x155555555555#512 <<< 386) ||| 0x8000000000000000#512 ||| (8192#512 <<< 64) ||| (8192#512 <<< 80) ||| (100#512 <<< 96)
/-- x6 names node 5 or counter 5, x7 a template of a join counter in side memory, x8 a time-out of 5 and length 16. -/
def template : List Byte := lowBytes 32 (3 + 5 * 2 ^ 32 + 0x1122334455667788 * 2 ^ 64)
def stQu : State :=
  { stG with
    nodes := [(5, node5)], regions := [(0, regionQ)], slots := [(0, slotOf ([(1, 0x10000), (2, 0x40), (4, -7), (6, 5), (7, 0x10040), (8, 0x500000010)]) [] [] [])] }.writeMem
      (sideLoc 0 0x10040) template
/-- The band holds a record window of one chunk of 32-byte entries. -/
def bandH : Band := { band1 with windowHeld := true, batch := 4, winChunk := 2, winChunks := 1, stride := 32, psize := 11 }
def stHeldW : State := { stQu with bands := [(1, some bandH)] }

theorem readable_local {s : State} {v : Band} {va : Word} (h1 : Lands s v ⟨false, .read, false, false, 1⟩ va)
    (h2 : s.denied (sideLoc (slotField s.cur) va.toNat) 0 (slotField s.cur) true false = false)
    (h3 : s.poisonedAt (sideLoc (slotField s.cur) va.toNat) 1 = false)
    (h4 : sideLoc (slotField s.cur) va.toNat % 256 + 1 ≤ 256 ∧ 2 ^ 40 ≤ sideLoc (slotField s.cur) va.toNat) :
    Readable s v ⟨false, .read, false, false, 1⟩ va :=
  ⟨h1, h2, h3, ⟨rfl, h4.1, .inl h4.2⟩, fun h => absurd h (Nat.not_lt.mpr h4.2)⟩

theorem payload_readable (j : Nat) (h : j < 32) : Readable stQu band1 ⟨false, .read, false, false, 1⟩ (0x10040 + BitVec.ofNat 64 j) := by
  have key : ∀ j, j < 32 → Lands stQu band1 ⟨false, .read, false, false, 1⟩ (0x10040 + BitVec.ofNat 64 j) ∧
      stQu.denied (sideLoc (slotField stQu.cur) (0x10040 + BitVec.ofNat 64 j : Word).toNat) 0 (slotField stQu.cur) true false = false ∧
      stQu.poisonedAt (sideLoc (slotField stQu.cur) (0x10040 + BitVec.ofNat 64 j : Word).toNat) 1 = false ∧
      sideLoc (slotField stQu.cur) (0x10040 + BitVec.ofNat 64 j : Word).toNat % 256 + 1 ≤ 256 ∧
      2 ^ 40 ≤ sideLoc (slotField stQu.cur) (0x10040 + BitVec.ofNat 64 j : Word).toNat := by unfold Lands kindOk; decide +kernel
  obtain ⟨h1, h2, h3, h4⟩ := key j h
  exact readable_local h1 h2 h3 h4

theorem witness_QueueAndEnqueueWords : CanIssue stQu ∧ stQu.bandOf stQu.cur = some band1 ∧
    (∃ f, enqForm (.enqb 9 (x 6) (x 7) (x 8) true true) = some f ∧ Ready stQu (xUse 0 f.n ++ xUse 1 f.p ++ xUse 2 f.c) [codeX f.d] ∧
      (xv stQu f.c).toNat % 2 ^ 13 = 16 ∧ xv stQu f.p = 0x10040) ∧
    (∀ j, j < 32 → Readable stQu band1 ⟨false, .read, false, false, 1⟩ (0x10040 + BitVec.ofNat 64 j)) ∧
    (∃ f, askForm (.qstat 31 (x 6)) = some f ∧ Ready stQu f.us f.dsts) ∧ Ready stQu (xUse 0 (x 6)) [codeX 31] ∧
    (Ready stQu (xUse 0 (x 6) ++ xUse 1 (x 7)) [] ∧ (xv stQu (x 7)).toNat % 32 = 0 ∧
      bytesAt stQu band1 ⟨false, .read, false, false, 1⟩ (xv stQu (x 7)) 32 = template ∧ ofBytes (template.take 4) ≠ 0 ∧
      ofBytes ((template.drop 4).take 2) ≤ 4095 ∧ ofBytes ((template.drop 6).take 2) = 0 ∧ ofBytes (template.drop 24) = 0 ∧ band1.depth ≠ 31) ∧
    (Ready stQu (opUse (.imm 0)) [codeX 9] ∧ ov stQu (.imm 0) = 0 ∧ ov stQu (.imm 3) ≠ 0 ∧ band1.windowHeld = false ∧
      CanIssue stHeldW ∧ stHeldW.bandOf stHeldW.cur = some bandH ∧ bandH.windowHeld = true) := by
  refine ⟨⟨rfl, .inl rfl⟩, rfl, ⟨_, rfl, ?_, ?_, ?_⟩, payload_readable, ⟨_, rfl, ?_⟩, ?_, ⟨?_, ?_⟩, ?_, ?_, ?_, rfl, ⟨rfl, .inl rfl⟩, rfl, rfl⟩
  all_goals first | decide +kernel | (unfold Ready; decide +kernel)

/-- A message to the home die of node 5 and the machine that has sent it; a region without record budget. -/
def msgQ (op : MsgOp) : Msg := ⟨3, 0, 1, 3, op, 0, 0, 0, false⟩
def stM (op : MsgOp) : State := { stQu with msgs := [msgQ op] }
def enqOp (node : Word) (b : Bool) : MsgOp := .enq node (lowBytes 16 0x1122) 16 31 9 true b (some 20)
def noBudget (s : State) : State := { s with regions := [(0, 0x8000000000000000#512)] }
def msgH : Msg := { msgQ (enqOp 5 true) with status := 2, due := true }

theorem arrives_one {s : State} {m : Msg} (h1 : s.power = .running) (h2 : s.msgs = [m]) (h3 : s.heldEnq = []) (h4 : s.pend = [])
    (h5 : s.takesResults m.band = true) (h6 : s.colls = [] := by rfl) (h7 : ∀ p ∈ s.bandList, p.2.nad.buf = [] := by decide +kernel) :
    Arrives s m.id m := by
  refine ⟨⟨.inl h1, by simp [h2], rfl, by simp [h2], fun q hq _ h => ?_, fun _ q hq => ?_, fun _ => ⟨fun q hq _ => ?_, fun q hq => ?_,
    fun c hc => ?_, fun p hp => .inr (fun q hq => ?_), fun p hp => ?_⟩⟩, h5⟩
  · rw [h2] at hq; cases List.mem_singleton.mp hq; exact absurd h (Nat.lt_irrefl _)
  · rw [h3] at hq; cases hq
  · rw [h2] at hq; cases List.mem_singleton.mp hq; exact Nat.le_refl _
  · rw [h3] at hq; cases hq
  · rw [h6] at hc; cases hc
  · rw [h7 p hp] at hq; cases hq
  · rw [h4] at hp; cases hp

theorem witness_EnqueueEvents : Arrives (stM (enqOp 6 false)) 3 (msgQ (enqOp 6 false)) ∧ refusal (stM (enqOp 6 false)) 0 6 16 31 = some 4 ∧
    (Arrives (stM (enqOp 5 false)) 3 (msgQ (enqOp 5 false)) ∧ refusal (stM (enqOp 5 false)) 0 5 16 31 = none ∧
      (stM (enqOp 5 false)).recPlace (nodeHome ((stM (enqOp 5 false)).node 5)) false = some (false, 0)) ∧
    (Arrives (noBudget (stM (enqOp 5 true))) 3 (msgQ (enqOp 5 true)) ∧ refusal (noBudget (stM (enqOp 5 true))) 0 5 16 31 = some 2 ∧
      (noBudget (stM (enqOp 5 true))).bandRuns 1 = true) ∧
    (∀ s, s = { stQu with heldEnq := [msgH], time := 20 } → Live s ∧ s.takesResults msgH.band = true ∧
      s.heldEnq.filter (fun q => q.die == msgH.die && q.due) = [msgH] ∧ (∀ q ∈ s.heldEnq, q.id = 3 → q = msgH) ∧
      s.heldEnq.find? (fun q => q.id == 3) = some msgH ∧ 20 ≤ (s.time - msgH.since).toNat ∧ msgH.status ≠ 0 ∧ msgH.status ≠ 3) := by
  refine ⟨arrives_one rfl rfl rfl rfl rfl, by decide +kernel, ⟨arrives_one rfl rfl rfl rfl rfl, by decide +kernel, by decide +kernel⟩,
    ⟨arrives_one rfl rfl rfl rfl rfl, by decide +kernel, by decide +kernel⟩, fun s h => ?_⟩
  subst h
  exact ⟨.inl rfl, rfl, by decide +kernel, by decide +kernel, by decide +kernel, by decide +kernel, by decide, by decide⟩

def ref7 : RecRef := ⟨0, false, 7, 17, none, 11, none⟩
/-- Entry 7 of die 0's record area holds a record of 11 bytes for node 5. -/
def stRec : State := { stHeldW.writeMem (entryAt 0 7) (lowBytes 32 (11 + 5 * 2 ^ 20 + 17 * 2 ^ 32 + 99 * 2 ^ 128)) with queues := [(5, [ref7])] }
def stDeq : State := { stRec with msgs := [msgQ (.deq 1 9)] }
def stDue : State := { stQu with queues := [(5, (List.range 16).map (fun i => ⟨0, false, i, i, none, 3, none⟩))] }
theorem witness_QueueEvents :
    (MayArrive (stM (.qflush 5)) 3 (msgQ (.qflush 5)) ∧ (stM (.qflush 5)).mayEnqueue 0 5 = true ∧
      nodeTimer ({ stM (.qflush 5) with nodes := [(5, node5 ||| (0xFFFFFFFF#512 <<< 160))] }.node 5) ≠ 0) ∧
    Arrives (stM (.qstat 5 9)) 3 (msgQ (.qstat 5 9)) ∧
    (Arrives stDeq 3 (msgQ (.deq 1 9)) ∧ stDeq.band? 1 = some bandH ∧ bandH.records = [] ∧ stDeq.queue bandH.node = [ref7] ∧
      stDeq.recPoisoned ref7 = false ∧
      numberAt stDeq (entryAt 0 7) 32 / 2 ^ 15 % 2 ^ 5 ≤ bandH.depth ∧ numberAt stDeq (entryAt 0 7) 32 % 2 ^ 13 = 11 ∧ bandH.fields = [0] ∧
      stDeq.grants 0x40 0xD0 true = true ∧ 65536 * bandH.winChunk + bandH.stride ≤ 2 ^ 23) ∧
    (stHeldW.chunksBusy 1 bandH bandH.winChunk bandH.winChunks = false ∧ PlainRecs stHeldW bandH.records ∧ PlainRecs stHeldW [ref7]) ∧
    (LaunchDue stDue 5 ∧ Tab.get none stDue.nodeReq 5 = none ∧ (∀ r ∈ (stDue.queue 5).head?, r.spill = false) ∧ ¬ LaunchDue stRec 5) ∧
    (∀ s, s = { stRec with poison := [(entryAt 0 7 / 8, true)] } → s.queue 5 = [ref7] ∧ s.poisonedAt (entryAt ref7.die ref7.idx) 32 = true) := by
  refine ⟨⟨(arrives_one rfl rfl rfl rfl rfl).1, by decide +kernel, by decide +kernel⟩, arrives_one rfl rfl rfl rfl rfl,
    ⟨arrives_one rfl rfl rfl rfl rfl, ?_⟩, ⟨?_, fun r h => (nomatch h), ?_⟩, ⟨⟨by decide +kernel, .inl (by decide +kernel)⟩, rfl, ?_, ?_⟩, fun s h => ?_⟩
  · decide +kernel
  · decide +kernel
  · intro r h; cases List.mem_singleton.mp h; exact ⟨rfl, rfl, by decide, rfl⟩
  · decide +kernel
  · rintro ⟨_, h | ⟨_, h, _⟩ | ⟨_, h, _⟩⟩ <;> revert h <;> decide +kernel
  · subst h; decide +kernel

/-- Join counter 65535 armed with a count. -/
def stJ (n : Nat) (op : MsgOp) : State := (stM op).writeMem (ctrAt 65535) (lowBytes 32 (n + 5 * 2 ^ 32 + 2 ^ 48))
def heldJ : HeldRec := ⟨5, 1, 4, lowBytes 16 0x1122, 0, some (msgQ (.jdec 9 9)), 0⟩
/-- Node 5's home die has no free record entry, those kept for join counters among them. -/
@[irreducible] def fullArea : List (Nat × Bool) := (List.range' (3 * 2 ^ 20) 507904).map (fun i => (i, true))
def stFull : State := { stJ 1 (.jdec 65535 31) with recUsed := fullArea }

theorem used_of_range (a n k : Nat) (h1 : a ≤ k) (h2 : k < a + n) : Tab.get false ((List.range' a n).map (fun i => (i, true))) k = true := by
  induction n generalizing a with
  | zero => omega
  | succ n ih =>
    rw [List.range'_succ]
    simp only [List.map_cons, Tab.get]
    split
    · rfl
    · exact ih (a + 1) (by omega) (by omega)

theorem none_free {s : State} {die limit : Nat} (h : ∀ j, j < limit → Tab.get false s.recUsed (recUsedKey die j) = true) (n i : Nat) :
    freeEntryFrom s die limit n i = none := by
  induction n generalizing i with
  | zero => rfl
  | succ n ih =>
    unfold freeEntryFrom
    split
    · rfl
    · rw [if_pos (h i (by omega))]; exact ih (i + 1)

theorem no_place {s : State} {die : Nat} (h : ∀ j, j < recEntries → Tab.get false s.recUsed (recUsedKey die j) = true)
    (h3 : s.freeSpill die = none) : s.recPlace die true = none := by
  have h1 : s.freeEntry die 0 recPlain = none := none_free (fun j hj => h j (Nat.lt_trans hj (by decide))) _ _
  have h2 : s.freeEntry die recPlain recEntries = none := none_free h _ _
  unfold State.recPlace
  rw [h1, h3, h2]
  rfl

theorem fullArea_used (j : Nat) (h : j < recEntries) : Tab.get false fullArea (recUsedKey 3 j) = true := by
  unfold fullArea
  have h' : j < 507904 := h
  exact used_of_range _ _ _ (by show _ ≤ 3 * 2 ^ 20 + j; omega) (by show 3 * 2 ^ 20 + j < _; omega)

theorem witness_JoinCounters : Arrives (stM (.jinit 65535 template 4)) 3 (msgQ (.jinit 65535 template 4)) ∧
    CtrOpen (stM (.jinit 65535 template 4)) (msgQ (.jinit 65535 template 4)) 65535 ∧
    (∀ n, Arrives (stJ n (.jdec 65535 31)) 3 (msgQ (.jdec 65535 31))) ∧
    (∀ n ∈ [0, 1, 2], CtrOpen (stJ n (.jdec 65535 31)) (msgQ (.jdec 65535 31)) 65535 ∧
      (stJ n (.jdec 65535 31)).ctrBad 65535 = false ∧ numberAt (stJ n (.jdec 65535 31)) (ctrAt 65535) 32 % 2 ^ 32 = n) ∧
    (stJ 1 (.jdec 65535 31)).recPlace (nodeHome ((stJ 1 (.jdec 65535 31)).node 5)) true = some (false, 0) ∧
    (nodeHome (stFull.node 5) = 3 ∧ stFull.recPlace 3 true = none) ∧
    (∀ s, s = { stQu with heldRec := [heldJ] } → Live s ∧ s.recPlace 0 true = some (false, 0) ∧ s.takesResults 1 = true ∧ heldJ.payload.length ≤ 16) ∧
    Arrives (stJ 2 (.jread 65535 9)) 3 (msgQ (.jread 65535 9)) := by
  refine ⟨arrives_one rfl rfl rfl rfl rfl, ?_, fun n => arrives_one rfl rfl rfl rfl rfl rfl (fun p h => by cases List.mem_singleton.mp h; rfl), ?_, ?_, ⟨?_, no_place fullArea_used ?_⟩, fun s h => ?_,
    arrives_one rfl rfl rfl rfl rfl⟩
  on_goal 6 => subst h; exact ⟨.inl rfl, by decide +kernel, rfl, by decide⟩
  all_goals first | decide +kernel | (unfold CtrOpen; decide +kernel)

/-- Slot 0 and slot 2 of a band of three rows; slot 2 waits at barrier 15, where two of three have arrived. -/
def bandB (arrivals : Nat) : Band := { band1 with height := 3, barriers := [(15, ⟨7, if arrivals = 0 then 0 else 3, arrivals⟩)] }
def stBar (arrivals : Nat) : State :=
  { stateOf (bandB arrivals) (slotOf ((6, 3) :: xs) [] [] []) with
    slots := [(0, { slotOf ((4, -7) :: (5, 2) :: [(6, 3)]) [] [] [] with owed := 0x8000, lastPhase := [(15, 7)] }), (2, { slotOf [] [] [] [] with wait := .barrier 15, owed := 0x8000, lastPhase := [(15, 7)], npc := 0x1008 })] }
theorem witness_NamedBarriers : (here (stBar 2)).band = some 1 ∧ (stBar 2).band? 1 = some (bandB 2) ∧ Ready (stBar 2) (xUse 0 (x 6) ++ opUse (.imm 31)) [] ∧
    (ov (stBar 2) (.imm 31)).toNat % 16 = 15 ∧ (¬ GoodArrival (bandB 2) 15 2 ∧ InRow (stBar 2) .barmismatch) ∧
    (CanIssue (stBar 2) ∧ GoodArrival (bandB 2) 15 3 ∧ ¬ WorkLeft (stBar 2) 0x7F ∧ (here (stBar 2)).wait = .none ∧ 2 ∈ (bandB 2).slotKeys ∧
      ((stBar 2).slot 2).wait = .barrier 15) ∧
    (GoodArrival (bandB 0) 15 3 ∧ GoodArrival (bandB 1) 15 3) ∧ (here (stBar 2)).owed.getLsbD 15 = true ∧
    ((bandB 2).barrier 15).phase = (here (stBar 2)).lastOf 15 := by
  refine ⟨rfl, rfl, by unfold Ready; decide +kernel, by decide +kernel, ⟨by unfold GoodArrival; decide +kernel, bandB 2, by decide +kernel⟩,
    ⟨⟨rfl, .inl rfl⟩, by unfold GoodArrival; decide +kernel, no_work rfl rfl rfl (by decide +kernel), rfl, by decide +kernel, rfl⟩,
    by unfold GoodArrival; decide +kernel, by decide +kernel, by decide +kernel⟩

theorem witness_CountersAndCsrWrites : CanIssue stQu ∧ Ready stQu (xUse 0 (x 4) ++ opUse (.reg (x 6))) [] ∧ ¬ WorkLeft stQu 0x7F ∧
    ((xv stQu (x 6)).toNat % 32 < 24 ∧ evLevel 2 = some true ∧ evQualOk 2 0 = true ∧ InRow stQu .baddesc ∧ evLevel 0xFF = none) ∧
    (∃ q, csrForm (.csrw (x 6) 0) = some q) ∧ Ready stQu (xUse 0 (x 6)) [] ∧ ¬ 6 ≤ (xv stQu (x 6)).toNat % 8 ∧
    (InRow (stateOf band1 (slotOf [(6, 6)] [] [] [])) .resfield ∧ 6 ≤ (xv (stateOf band1 (slotOf [(6, 6)] [] [] [])) (x 6)).toNat % 8) := by
  refine ⟨⟨rfl, .inl rfl⟩, by unfold Ready; decide +kernel, no_work rfl rfl rfl (by decide +kernel), ⟨by decide +kernel, by decide +kernel, by decide +kernel,
    ⟨band1, by decide +kernel⟩, by decide +kernel⟩, ⟨_, rfl⟩, by unfold Ready; decide +kernel, by decide +kernel, ⟨band1, by decide +kernel⟩, by decide +kernel⟩

/-! ### Collectives, links, the host -/

/-- d1 describes a RECEIVE of group 3 from member 1, to the pages at 0x40020000; d2 no descriptor of a collective. -/
def collD : Desc := 0x5A28000000000003#512 ||| (0x100000#512 <<< 64) ||| (0x40020000#512 <<< 128) ||| (8#512 <<< 192) ||| (1#512 <<< 256)
/-- Group 3 is this device and another. -/
def stCo : State := { stG with
  slots := [(0, slotOf xs [] [] [(1, collD), (2, 1)])], pkgid := 0x123
  groups := [(3, 0x8006000200000000#256 ||| (0x4000#256 <<< 64))], members := [(3, [0x123, 0x999])] }
def coll0 : CollOp := queuedColl stCo 31 ⟨1, .wait⟩ (.imm 9)
def coll1 : CollOp := { coll0 with started := true, total := 1 }
def stCq : State := { stCo with colls := [coll0] }
/-- 64 operations at the engine. -/
def stC64 : State := { stCo with colls := List.replicate 64 coll0 }
def stDown : State := { stCq with links := (List.range 18).map (fun i => (i, { Link.reset with up := false })) }
/-- The pages at 0x40000000 are side memory of field 0. -/
def sideMapped (s : State) : State :=
  { (((s.writeMem 0x100000 (lowBytes 8 (2 ^ 63 + 0x101000))).writeMem 0x101000 (lowBytes 8 (2 ^ 63 + 0x102000))).writeMem 0x102000
    (lowBytes 8 (2 ^ 63 + 0x103000))).writeMem 0x103008 (lowBytes 8 0xD800000000000200) with asidRoot := some 0x100000 }
def stCw : State := { sideMapped stCo with colls := [coll1] }
/-- A walk that finds a leaf the RECEIVE may write through. -/
def receives (q : WalkEnd × State) : Bool :=
  match q.1 with
  | .leaf e lv =>
    let loc := leafLoc ⟨e, lv⟩ 0x40020000
    (leafRefuses e .write).isNone && !leafMig e && decide (2 ^ 40 ≤ loc) && (List.range 64).all (fun i => !q.2.denied (loc + i) (leafKey e) 0xC3 false true)
  | .fault _ => false

/-- An ALLREDUCE of two I32 elements in place, its first step to come; its pages have been walked. -/
def collR : Desc := 0x5018000000000003#512 ||| (0x40020000#512 <<< 64) ||| (0x40020000#512 <<< 128) ||| (2#512 <<< 192)
def coll2 : CollOp := { coll0 with desc := collR, started := true, total := 2 }
def stR : State := { (stCw.walk 0 0x40020000).2 with colls := [coll2] }
def engineSees (s : State) (asid engine a loc : Nat) : Bool :=
  match s.walk asid (BitVec.ofNat 64 a) with
  | (.leaf e lv, u) => decide (u = s) && decide (leafRefuses e .read = none) && decide (leafRefuses e .write = none) && !leafMig e &&
      decide (leafLoc ⟨e, lv⟩ (BitVec.ofNat 64 a) = loc) && decide (spaceOf loc = .side 0) &&
      !s.denied loc (leafKey e) (0xC0 + engine) true false && !s.denied loc (leafKey e) (0xC0 + engine) false true && !s.poisonedAt loc 1
  | _ => false
theorem engineAt_of {s : State} {asid engine a loc : Nat} (h : engineSees s asid engine a loc = true) : EngineAt s asid engine a loc := by
  unfold engineSees at h
  split at h
  · simp only [Bool.and_eq_true, decide_eq_true_eq, Bool.not_eq_true'] at h
    obtain ⟨⟨⟨⟨⟨⟨⟨⟨rfl, h2⟩, h3⟩, h4⟩, h5⟩, h6⟩, h7⟩, h8⟩, h9⟩ := h
    exact ⟨_, _, 0, ‹_›, h2, h3, h4, h5, h6, h7, h8, h9⟩
  · cases h

theorem sound_collD (w : Nat) (hw : w < 8) : ¬ BadWord stCo collD w := by
  interval_cases w <;> (simp only [BadWord]; decide +kernel)

theorem sound_collR (w : Nat) (hw : w < 8) : ¬ BadWord stR coll2.desc w := by
  interval_cases w <;> (simp only [BadWord]; decide +kernel)

theorem mayStart_one {s : State} {c : CollOp} {e : Nat} (h1 : c.engine = e ∧ c.started = false ∧ c.err = none) (h2 : s.pend = [])
    (h3 : s.msgs = []) (h4 : s.heldEnq = []) (h5 : s.colls = [c]) (h6 : ∀ p ∈ s.bandList, p.2.nad.buf = []) : mayStart s e c := by
  refine ⟨h1.1, h1.2.1, h1.2.2, ?_, ?_, ?_, fun q hq _ h => ?_, fun p hp => .inr fun q hq => ?_⟩
  · rw [h2]; exact fun p h => (nomatch h)
  · rw [h3]; exact fun p h => (nomatch h)
  · rw [h4]; exact fun p h => (nomatch h)
  · rw [h5] at hq; cases List.mem_singleton.mp hq; exact absurd h (Nat.lt_irrefl _)
  · rw [h6 p hp] at hq; cases hq

theorem witness_Collectives : CanIssue stCo ∧ Ready stCo (dUse 0 ⟨1, .wait⟩ ++ opUse (.imm 9)) [codeX 31] ∧
    (∀ w, w < 8 → ¬ BadWord stCo ((here stCo).dr 1) w) ∧ hasEntry stCo 3 ∧ ¬ hasEntry stC64 3 ∧ (InRow stCo .baddesc ∧ FirstBad (BadWord stCo ((here stCo).dr 2)) 0) ∧
    (heldBy { stCo with collLine := [(2, 8), (3, 0)] } 3 < 64 ∧ { stCo with collLine := [(2, 8), (3, 0)] }.collLine = [(2, 8)] ++ (3, 0) :: []) ∧
    (stCq.colls = [] ++ coll0 :: [] ∧ mayStart stCq 3 coll0 ∧ ¬ badGroup stCq coll0 ∧ (∀ p ∈ stCq.collPorts coll0.desc, (stCq.link p).up = true) ∧
      badGroup { stCq with members := [] } coll0 ∧ ¬ ∀ p ∈ stDown.collPorts coll0.desc, (stDown.link p).up = true) ∧
    (stCw.colls.find? (fun q => q.id == coll1.id) = some coll1 ∧ clOp coll1.desc = 5 ∧ clCount coll1.desc * clWidth coll1.desc = 16 ∧
      clDst coll1.desc = 0x40020000 ∧ receives (stCw.walk (stCw.collAsid coll1.band) 0x40020000) = true ∧ RingUp stCw coll1 ∧ stCw.bankUntil = [] ∧ stCw.pend = []) ∧
    (RingUp stR coll2 ∧ stR.pend = [] ∧ stR.colls.find? (fun q => q.id == coll2.id) = some coll2 ∧ coll2.steps < coll2.total ∧ clOp coll2.desc ≤ 3 ∧ (∀ w, w < 8 → ¬ BadWord stR coll2.desc w) ∧
      grpSize (stR.group (clGroup coll2.desc)) = 2 ∧ grpRank (stR.group (clGroup coll2.desc)) = 0 ∧ stR.collAsid coll2.band = 0 ∧ clCount coll2.desc % 2 = 0 ∧
      coll2.total = ringSteps (clOp coll2.desc) 2 ∧ clWidth coll2.desc = 4 ∧
      (∀ a, (ringStep coll2.desc 2 0 0).has a → EngineAt stR 0 coll2.engine a (2 ^ 40 + (a - 0x40000000))) ∧ (ringStep coll2.desc 2 0 0).with_ = some 0x40020004 ∧
      ∀ a b, (ringStep coll2.desc 2 0 0).has a → (ringStep coll2.desc 2 0 0).has b → 2 ^ 40 + (a - 0x40000000) = 2 ^ 40 + (b - 0x40000000) → a = b) ∧
    (coll1.err = none ∧ coll1.started = true ∧ coll1.parked = false ∧ coll1.total ≤ { coll1 with steps := 1 }.steps ∧
      stCw.band? coll1.band = some band1 ∧ band1.status ≠ .placed ∧ band1.status ≠ .killing ∧ coll1.dst < 32) := by
  have step : ringStep coll2.desc 2 0 0 = ⟨none, (0x40020000, 4, 1), (0x40020004, 4), some 0x40020004⟩ := by
    have h : (ringStep coll2.desc 2 0 0).own = none ∧ (ringStep coll2.desc 2 0 0).send = (0x40020000, 4, 1) ∧
        (ringStep coll2.desc 2 0 0).recv = (0x40020004, 4) ∧ (ringStep coll2.desc 2 0 0).with_ = some 0x40020004 := by decide +kernel
    generalize ringStep coll2.desc 2 0 0 = p at h
    obtain ⟨h1, h2, h3, h4⟩ := h
    cases p; cases h1; cases h2; cases h3; cases h4; rfl
  have within : ∀ a, (ringStep coll2.desc 2 0 0).has a → 0x40020000 ≤ a ∧ a < 0x40020008 := by
    rw [step]
    rintro a (⟨_, _, _, h, _⟩ | h | h | ⟨o, h, h'⟩)
    · cases h
    · simp only at h; omega
    · simp only at h; omega
    · cases h; simp only at h'; omega
  have up : ∀ p, (stR.link p).up = true ∧ (stR.link p).training = false := by
    have h : stR.links = [] := by decide +kernel
    intro p; unfold State.link; rw [h]; exact ⟨rfl, rfl⟩
  have reach : ∀ i, i < 8 → engineSees stR 0 coll2.engine (0x40020000 + i) (2 ^ 40 + (0x40020000 + i - 0x40000000)) = true := by decide +kernel
  refine ⟨⟨rfl, .inl rfl⟩, by unfold Ready; decide +kernel, sound_collD, by unfold hasEntry; decide +kernel, by unfold hasEntry; decide +kernel,
    ⟨⟨band1, by decide +kernel⟩, by decide, ?_, fun u h => absurd h (by omega)⟩, ⟨by decide +kernel, rfl⟩,
    ⟨rfl, mayStart_one ⟨by decide +kernel, rfl, rfl⟩ rfl rfl rfl rfl (by decide +kernel), ?_, fun p _ => rfl, .inr (.inl (by decide +kernel)), ?_⟩,
    ⟨by decide +kernel, by decide +kernel, by decide +kernel, by decide +kernel, by decide +kernel, fun p _ => ⟨rfl, rfl⟩, rfl, by decide +kernel⟩,
    ⟨fun p _ => up p, by decide +kernel, by decide +kernel, by decide, by decide +kernel, sound_collR, by decide +kernel, by decide +kernel, by decide +kernel, by decide +kernel, by decide +kernel,
      by decide +kernel, fun a h => ?_, by rw [step], fun a b ha hb h => ?_⟩, by decide +kernel⟩
  · have h0 : BadWord stCo 1 0 := .inl (by decide +kernel)
    exact h0
  · rintro (h | h | h | h)
    · exact absurd h (by decide +kernel)
    · exact absurd h (by decide +kernel)
    · exact absurd h (by decide +kernel)
    · exact absurd h.2 (by decide +kernel)
  · intro h
    have down : ∀ q, q < 18 → (stDown.link q).up = false := by decide +kernel
    have ports : stDown.collPorts coll0.desc = [0x999#32].map (fun m => Config.memberPort m.toNat % 18) :=
      congrArg (List.map (fun m : BitVec 32 => Config.memberPort m.toNat % 18)) (by decide +kernel)
    have h' := h (Config.memberPort 0x999 % 18) (by rw [ports]; exact List.mem_singleton.mpr rfl)
    rw [down _ (Nat.mod_lt _ (by decide))] at h'
    cases h'
  · have hw := within a h
    obtain ⟨i, rfl⟩ : ∃ i, a = 0x40020000 + i := ⟨a - 0x40020000, by omega⟩
    exact engineAt_of (reach i (by omega))
  · have := within a ha
    have := within b hb
    omega

theorem witness_CollectiveStatus : CanIssue { stCo with colls := [coll1] } ∧ Ready { stCo with colls := [coll1] } (xUse 0 (x 3)) [codeX 9] ∧
    askedColl { stCo with colls := [coll1] } 0x900000003 = some coll1 ∧ askedColl stCo 0x900000003 = none := by
  unfold CanIssue Ready; decide +kernel

/-- Ports 2 and 17, with a flit kept for each; a flit's payload, and flits for port 2. -/
def link2 : Link := { Link.reset with txSeq := 5, expect := 9, replay := [(4, 1, [])] }
def stL (l : Link) : State := { State.reset with links := [(2, l)] }
def pay : List Byte := List.replicate 240 7
def flitOf (seq : BitVec 16) (type : BitVec 8) : Flit :=
  ⟨seq, 3, type, pay, crc64 (lowBytes 2 seq.toNat ++ lowBytes 2 (3 : BitVec 16).toNat ++ [type, 0, 0, 0] ++ pay)⟩
theorem good_flit (seq : BitVec 16) (type : BitVec 8) : Good (flitOf seq type) :=
  ⟨show pay.length = 240 from List.length_replicate, by simp only [flitOf]⟩
def acc : ExtAccess := ⟨0xFFFFFFFFF8, .hbm, false, false, 8, []⟩
theorem witness_Links : Moves (stL link2) 2 link2 ∧ (link2.nakDue = false ∧ link2.repair = false ∧ link2.resend = []) ∧ pay.length = 240 ∧
    link2.replay.length < 512 ∧ 512 ≤ (List.replicate 512 ((4#16, 1#8, pay))).length ∧ { link2 with repair := true }.repair = true ∧
    ({ link2 with resend := [4] }.replay.find? (fun (q : BitVec 16 × BitVec 8 × List Byte) => q.1 = 4)).isSome = true ∧
    (Good (flitOf 9 1) ∧ (flitOf 9 1).seq = link2.expect) ∧ (Good (flitOf 8 3) ∧ (link2.expect - (flitOf 8 3).seq).toNat ≤ 32768) ∧
    (Good (flitOf 12 0) ∧ 32768 < (link2.expect - (flitOf 12 0).seq).toNat) ∧ Good (flitOf 9 4) ∧ ¬ Good { flitOf 9 1 with crc := (flitOf 9 1).crc + 1 } ∧ link2.lanes = 8 ∧
    ((stL { link2 with training := true }).link 2).up = true ∧ (stL link2).waking = false ∧ PlainSpan State.reset acc ∧ acc.addr.toNat % acc.len = 0 ∧
    stG.denied acc.addr.toNat 0 0xE8 true true = false ∧ stG.poisonedAt acc.addr.toNat 8 = false := by
  refine ⟨⟨.inl rfl, ?_⟩, by decide, ?_, ?_, ?_, ?_, ?_, ⟨good_flit .., ?_⟩, ⟨good_flit .., ?_⟩, ⟨good_flit .., ?_⟩, good_flit .., fun h => ?_, rfl, rfl, rfl,
    ⟨⟨?_, fun h => (nomatch h)⟩, ?_⟩, ?_, ?_, ?_⟩
  on_goal 10 =>
    have h' := h.2.symm.trans (good_flit 9 1).2
    change (flitOf 9 1).crc + 1 = _ at h'
    generalize (flitOf 9 1).crc = c at h'
    bv_omega
  all_goals first | decide +kernel | (show acc.addr.toNat + acc.len ≤ 2 ^ 40; decide +kernel) | (unfold PlainLine; exact ⟨by decide, by decide +kernel, fun _ => ⟨by decide +kernel, rfl, fun _ h => (nomatch h)⟩⟩)

/-- A submission entry for node 5, and the device with it at index 255; entry 0 of the fault buffer of die 7. -/
def entry (len : Nat) : Nat := 5 + len * 2 ^ 16 + 0x40 * 2 ^ 64 + 0x1122 * 2 ^ 128
def stSub (v : Nat) : State := { stQu.writeMem (2 ^ 42 + 64 * 255) (lowBytes 64 v) with subhead := 255, subtail := 256 }
def stPark : State := { stWait (.parked 0x20000 .read) with acl := stG.acl, fb := [(256 * 7 + 0, some ⟨0x20000, 0, .read, 1, 0, 1, 0, 0, [.slot 0]⟩)] }
/-- A read of MBSTAT. -/
def accR : ExtAccess := ⟨0x30008, .csr, false, false, 8, []⟩
theorem witness_HostAccesses : (OutsideFits acc ∧ PlainSpan stG acc ∧ Live stG ∧ stG.denied acc.addr.toNat 0 0xE0 true false = false ∧
      stG.poisonedAt acc.addr.toNat 8 = false ∧ OutsideFits ⟨0x7FFFF8, .side 3, false, false, 8, []⟩ ∧ OutsideFits ⟨0xFFFFF8, .queue 7, true, false, 8, []⟩) ∧
    (accR.target = .csr ∧ accR.addr.toNat % 8 = 0 ∧ accR.addr.toNat < 2 ^ 18 ∧ stG.grants 0x88 0xE0 false = true ∧ stG.power ≠ .off ∧
      (registerOf stG accR.addr.toNat).isSome = true ∧ { stG with acl := [(0x88, 0)] }.grants 0x88 0xE0 false = false) ∧
    HostWrites stG ∧
    (submitted (stSub (entry 16)) 255 = entry 16 ∧ (stSub (entry 16)).subhead ≠ (stSub (entry 16)).subtail ∧ Submittable (stSub (entry 16)) (entry 16) ∧
      16 ≤ nodePsize ((stSub (entry 16)).node 5) ∧ SlotsFit (stSub (entry 16)) (nodeRegion ((stSub (entry 16)).node 5)) ∧
      (stSub (entry 16)).recPlace (nodeHome ((stSub (entry 16)).node 5)) false = some (false, 0) ∧ ¬ Submittable (stSub (entry 16 + 2 ^ 48)) (entry 16 + 2 ^ 48)) ∧
    (HostWrites stPark ∧ Tab.get none stPark.fb (256 * (0x700 / 256 % 8) + 0x700 % 256) = some ⟨0x20000, 0, .read, 1, 0, 1, 0, 0, [.slot 0]⟩ ∧
      (stPark.slot 0).wait = .parked 0x20000 .read ∧ InRow { stPark with cur := 0 } .xlate) ∧
    (0xC000000000000000 : Word).toNat / 2 ^ 62 = 3 := by
  refine ⟨⟨⟨?_, fun h => (nomatch h)⟩, ⟨⟨?_, fun h => (nomatch h)⟩, ?_⟩, .inl rfl, ?_, ?_, ⟨?_, fun h => (nomatch h)⟩, ⟨⟨rfl, ?_⟩, fun h => (nomatch h)⟩⟩,
    ⟨rfl, ?_, ?_, ?_, ?_, ?_, ?_⟩, ?_, ⟨?_, ?_, ?_, ?_, ?_, ?_, ?_⟩, ⟨?_, rfl, rfl, bandE, ?_⟩, ?_⟩
  all_goals first | decide +kernel | (show acc.addr.toNat + acc.len ≤ 2 ^ 40; decide +kernel) | (unfold HostWrites; decide +kernel) | (unfold Submittable; decide +kernel) |
    (unfold PlainLine; exact ⟨by decide, by decide +kernel, fun _ => ⟨by decide +kernel, rfl, fun _ h => (nomatch h)⟩⟩)

/-! ### The mailbox -/

/-- A command with its argument bits and MBDATA. -/
def mbx (s : State) (code args : Nat) (d : BitVec 512) : State := { s with mbCmd := some (BitVec.ofNat 64 (code * 2 ^ 56 + args)), mbData := d }
def words (l : List Word) : BitVec 512 := l.zipIdx.foldl (fun (d : BitVec 512) p => d ||| (p.1.setWidth 512).shiftLeft (64 * p.2)) 0
/-- A package without nodes, whose region blocks start at 0x4000; the first is a block of reserved zeros and valid. -/
def stRegs (i : Nat) (r : BitVec 512) : State :=
  (mbx { stQu with nodes := [], conBase := some (0x4000, 65) } 4 i 0).writeMem (0x4000 + 64 * i) (lowBytes 64 r.toNat)
def tlb2 : State := mbx { stG with tlb := [(tlbKey 0 3 3, some leaf1), (tlbKey 0 3 9, some leaf1)] } 6 0 (words [0x30000, 3 + 2 * 2 ^ 8])
def stGroup : State := (mbx { stQu with pkgid := 0x123 } 15 0xFFF (words [2 ^ 63 + 6 * 2 ^ 48 + 4 * 2 ^ 32 + 2, 0x4000])).writeMem 0x4000
  (lowBytes 16 (5 + 6 * 2 ^ 32 + 0x123 * 2 ^ 64 + 9 * 2 ^ 96))
/-- Slot 0 is parked under its policy; a word of PARKANS names it. -/
def stAns (answer : Nat) : State := mbx { st with slots := [(0, { slotOf xs [] [] [] with policyPark := true, trappc := 0x7770 })] } 35 0
  (words [1, BitVec.ofNat 64 (answer * 2 ^ 24 + 2 ^ 32), 0x12345F])

theorem not_reserved {n : Nat} {e : BitVec n} {fields : List (Nat × Nat)}
    (h : ∀ i, i < n → e.getLsbD i = true → ∃ f ∈ fields, f.2 ≤ i ∧ i ≤ f.1) : ¬ Reserved e fields := by
  rintro ⟨i, hi, hf⟩
  by_cases hn : i < n
  · obtain ⟨f, hm, h2⟩ := h i hn hi
    exact hf f hm h2
  · rw [BitVec.getLsbD_of_ge _ _ (by omega)] at hi
    cases hi

/-- A node's entry is placed, a migration's given, a region's block read: good ones, and ones that break a rule. -/
def stNw (e : BitVec 512) : State := { mbx stQu 1 0xFFF e with conBase := some (0x4000, 65) }
def goodMig : BitVec 256 := 0x8000000000000000#256 ||| (0x10000#256 <<< 64)
def asid1 : BitVec 512 := regionQ ||| (1#512 <<< 248)
theorem good_node : ¬ BadNode (stNw node5) node5 := by
  rintro (h | h | h | ⟨_, h⟩)
  · exact not_reserved (by decide +kernel) h
  · revert h; decide +kernel
  · exact h ⟨by decide +kernel, 0x4000, 65, rfl, by decide +kernel⟩
  · revert h; unfold OverLimits; decide +kernel
theorem good_mig : ¬ BadMig stQu 0 goodMig := by
  rintro (h | h)
  · exact not_reserved (by decide +kernel) h
  · revert h; decide +kernel
theorem good_block : ¬ BadBlock (stRegs 0 regionQ) 0 regionQ := by
  rintro (h | h)
  · exact not_reserved (by decide +kernel) h
  · revert h; decide +kernel
theorem good_group : ¬ BadGroupEntry (stGroup.mbData.setWidth 256) := by
  unfold BadGroupEntry inHbm; decide +kernel

theorem witness_Mailbox_tables :
    (∃ f, cmdForm .noderd = some f ∧ Given (mbx stQu 2 0xFFF node5) 0x0200000000000FFF f.code f.mask) ∧
    (Given (stNw node5) 0x0100000000000FFF 1 0xFFF ∧ ¬ BadNode (stNw node5) node5 ∧ BadNode (stNw node5) (node5 ||| 1 <<< 57) ∧
      (nodeHome node5 = nodeHome ((stNw node5).node 5) ∧ nodeValid node5 = true ∧ (∀ r ∈ ((stNw node5).queue 5).head?, r.spill = false) ∧
      LaunchDue stDue 5 ∧ ¬ LaunchDue (stNw node5) 5) ∧ (nodeHome 0 ≠ nodeHome ((stRec).node 5) ∧ stRec.queue 5 ≠ [])) ∧
    (Given (mbx stQu 7 0xF3F 0) 0x0700000000000F3F 7 0xF3F ∧ ¬ BadMig stQu 0 goodMig ∧ BadMig stQu 16 goodMig ∧ (Tab.get Mig.idle stQu.migs 0).raw.getLsbD 63 = false) ∧
    (Given (mbx stQu 3 0 (words [64, 65536])) 0x0300000000000000 3 0 ∧ inHbm 64 64 (64 * 65536) ∧ someNode stQu ∧ ¬ someNode stG ∧
      ¬ inHbm 32 64 64) ∧
    (Given (mbx stG 4 0xFFFF 0) 0x040000000000FFFF 4 0xFFFF ∧ stG.conBase = none ∧ (stRegs 64 0).conBase = some (0x4000, 65) ∧
      (0x4000 + 64 * 64 + 64 ≤ 2 ^ 40 ∧ Tab.get 0 (stRegs 64 0).lineKey ((0x4000 + 64 * 64) / 256) = 0 ∧
        Tab.get none (stRegs 64 0).halo ((0x4000 + 64 * 64) / 256) = none) ∧
      numberAt (stRegs 0 regionQ) 0x4000 64 = regionQ.toNat ∧ ¬ BadBlock (stRegs 0 regionQ) 0 regionQ ∧
      BadBlock (stRegs 0 regionQ) 0 (regionQ ||| 0x4000000000000000) ∧ (∀ j, KeepsItems (stRegs 0 regionQ) ((stRegs 0 regionQ).withRegion 0 regionQ) j) ∧
      regValid regionQ = true ∧ RegionUsed (stRegs 0 asid1) 0 ∧ ¬ KeepsItems (stRegs 0 asid1) ((stRegs 0 asid1).withRegion 0 asid1) 0) ∧
    (Given (mbx stQu 5 0 (words [0xFFFFFFF000])) 0x0500000000000000 5 0 ∧ inHbm 0xFFFFFFF000 4096 2048 ∧ ¬ inHbm 2048 4096 2048) := by
  have idle : ¬ LaunchDue (stNw node5) 5 := by
    rintro ⟨_, h | ⟨h, _⟩ | ⟨h, _⟩⟩ <;> revert h <;> decide +kernel
  have same : (stRegs 0 regionQ).withRegion 0 regionQ = stRegs 0 regionQ := by decide +kernel
  refine ⟨⟨_, rfl, ?_⟩, ⟨?_, good_node, .inl ⟨57, by decide +kernel⟩, ⟨?_, ?_, ?_, witness_QueueEvents.2.2.2.2.1.1, idle⟩, ?_⟩, ⟨?_, good_mig, .inr (.inr (.inr (.inr (.inl (by decide +kernel))))), ?_⟩, ⟨?_, ?_, ?_, ?_, ?_⟩,
    ⟨?_, rfl, rfl, ⟨by decide, rfl, rfl⟩, ?_, good_block, .inl ⟨62, ?_⟩, fun j => ?_, ?_, .inl ⟨(1, some band1), .head _, band1, rfl, rfl⟩, ?_⟩, ⟨?_, ?_, ?_⟩⟩
  all_goals first | decide +kernel | (unfold Given; decide +kernel) | (unfold inHbm; decide +kernel) | (unfold someNode; decide +kernel) |
    (rw [same]; exact ⟨rfl, rfl, rfl⟩) | (exact fun h => absurd h.1 (by decide +kernel))

theorem witness_Mailbox_units :
    (Given tlb2 0x0600000000000000 6 0 ∧ ¬ BadShoot tlb2 ∧ tlb2.pend = [] ∧ BadShoot (mbx stG 6 0 (words [0, 2 ^ 63]))) ∧
    (Given stGroup 0x0F00000000000FFF 15 0xFFF ∧ ¬ BadGroupEntry (stGroup.mbData.setWidth 256) ∧ BadGroupEntry 0 ∧
      (BitVec.ofNat 32 (numberAt stGroup (0x4000 + 4 * 2) 4)).toNat % 2 ^ 24 = stGroup.pkgid.toNat ∧ stGroup.colls = [] ∧
      0x4000 % 256 + 4 * 4 ≤ 256 ∧ Tab.get 0 stGroup.lineKey (0x4000 / 256) = 0 ∧ Tab.get none stGroup.halo (0x4000 / 256) = none) ∧
    (Given (mbx stQu 17 7 (words [0x4000, 8192])) 0x1100000000000007 17 7 ∧ inHbm 0x4000 64 (32 * 8192) ∧ stQu.spilledOf 7 = [] ∧
      { stQu with spilled := [(7, [(0, 1)])] }.spilledOf 7 ≠ []) ∧
    (Given (mbx stQu 32 200000000 (words [0x40000000])) 0x200000000BEBC200 32 0xFFFFFFF ∧ stQu.power = .running ∧ stQu.heldEnq = [] ∧
      stQu.mbCmd = none ∧ stQu.band? 1 = some band1 ∧ band1.status = .running ∧ band1.linked = false ∧ bandE.linked = true) ∧
    (Given (mbx stQu 33 0 0) 0x2100000000000000 33 0 ∧ (∃ p, p < 18 ∧ ({ mbx stQu 33 0 0 with power := .eclipse }.link p).up = true) ∧
      (∀ p, p < 18 → ({ stDown with power := .eclipse, mbCmd := some 0x2100000000000000 }.link p).up = false) ∧
      (∀ s, s = { mbx stQu 33 0 0 with power := .eclipse, eclipsed := some stQu.kept } →
        (∃ k, s.eclipsed = some k) ∧ ∃ p, p < 18 ∧ (((s.eclipsed.map s.bringBack).getD s).link p).up = true)) ∧
    (∀ s, s = { stQu with power := .resuming, waking := true, links := [(17, { Link.reset with training := true })] } →
      s.power = .resuming ∧ s.waking = true ∧ (s.link 17).up = true ∧ (s.link 17).training = true ∧
      (∀ q, q < 18 → q ≠ 17 → (s.link q).up = true → (s.link q).training = false) ∧ ∀ q ∈ s.pend, ∀ r ∈ q.reqs, r.parked = false) ∧
    (Given (mbx stQu 34 0 0) 0x2200000000000000 34 0 ∧ (∀ r ∈ stQu.mem.fills, r.base + r.len ≤ 2 ^ 40)) ∧
    (∀ a, a < 4 → Given (stAns a) 0x2300000000000000 35 0 ∧ mb (stAns a) 0 = 1 ∧ mb (stAns a) 1 / 2 ^ 24 % 4 = a ∧
      mb (stAns a) 1 % 4096 < band1.height ∧ band1.slotAB = mb (stAns a) 1 / 2 ^ 16 % 2 ∧ ((stAns a).slot (band1.slotOf 0)).policyPark = true ∧
      ((stAns a).slot (band1.slotOf 0)).band = some 1) ∧
    (∀ v, (mbx stQu 35 0 0).band? (mb (mbx stQu 35 0 0) 0) = some v → v.slotAB ≠ 0) ∧ Given (mbx stQu 36 0 0) 0x2400000000000000 36 0 := by
  have none_here : (mbx stQu 35 0 0).band? (mb (mbx stQu 35 0 0) 0) = none := by decide +kernel
  refine ⟨⟨?_, ?_, rfl, ?_⟩, ⟨?_, good_group, .inl (by decide), ?_, ?_, ?_, rfl, rfl⟩, ⟨?_, ?_, ?_⟩, ⟨?_, ?_⟩, ⟨?_, ⟨17, ?_⟩, ?_, fun s h => ⟨⟨_, by subst h; rfl⟩, 17, by subst h; decide +kernel⟩⟩, fun s h => by subst h; decide +kernel, ⟨?_, ?_⟩, ?_,
    fun v h => absurd (none_here ▸ h) (by simp), ?_⟩
  all_goals first | decide +kernel | (unfold Given; decide +kernel) | (unfold inHbm; decide +kernel) | (unfold BadShoot; decide +kernel)

/-! ### Lives of bands, power, memory controllers, pair words -/

def nodeL : BitVec 512 := node5 ||| 0x7000#512 ||| (0x1234#512 <<< 64) ||| (3#512 <<< 201)
/-- A launch of node 5 is due, six records are queued; region 0 has an arena of 64 MiB at 1 GiB. -/
def stLn : State :=
  { stQu with
    nodes := [(5, nodeL)], conBase := some (0x4000, 64), launchSeq := 1, nodeReq := [(5, some (9, 0))], time := 10000000
    queues := [(5, (List.range 6).map (fun i => ⟨3, false, i, i, none, 3, none⟩))]
    regions := [(0, regionQ ||| (26#512 <<< 186) ||| (0x40000000#512 <<< 128))] }
/-- A linked band of two rows at its YIELDs with a yield due. -/
def bandY (st : BandStatus) : Band :=
  { band1 with linked := true, height := 2, vregs := 8, wregs := 1, aregs := 0, node := 9, due := true, victimOf := some 5, status := st, entry := 0x7000 }
def stY (st : BandStatus) : State :=
  { stLn with
    launchSeq := 4, bands := [(1, some (bandY st))]
    slots := [(0, { slotOf xs [] [] [] with wait := .yield 5 }), (2, { slotOf [] [] [] [] with exited := true })] }
/-- A saved band that is to be placed again, and the same placed; its image is of zeros. -/
def rest1 : Restore := ⟨1, { bandY .placed with due := false, victimOf := none, suspend := false }, 0x40000000, (0, 0x40000000, 12), 1, 0, 0, [], []⟩
def rest2 : Restore := { rest1 with how := 2 }
/-- A node of 4,096 rows and 126 chunks a field: it fits nowhere beside another band. -/
def tall : BitVec 512 := nodeL ^^^ (0x1002#512 <<< 227) ^^^ (126#512 <<< 201)
def stTall : State := { stY .running with nodes := [(5, tall)] }
/-- A band that is to start with record 7 in its window. -/
def bandR : Band := { bandH with status := .placed, records := [ref7] }
def stRel : State := { stRec with bands := [(1, some bandR)] }
def stOut : State := { stQu with slots := [(0, { slotOf [] [] [] [] with exited := true })] }
def stSaved (rs : List Restore) (bs : List (Nat × Option Band)) : State :=
  { stLn with queues := [], nodes := [], nodeReq := [], launchSeq := 4, bands := bs, slots := [], restores := rs }

theorem fits_none {s : State} {gone : Nat → Band → Prop} {H vn wn an S row0 ab c : Nat} (h : c + S ≤ 128)
    (hg : ∀ p ∈ s.bandList, gone p.1 p.2) : Fits s gone H vn wn an S row0 ab c := ⟨h, fun p hp hn => absurd (hg p hp) hn⟩
theorem first_at_home {s : State} {gone : Nat → Band → Prop} {e : BitVec 512} {r : Nat} (hr : r = 64 * (nodeHome e % 8 * 8))
    (h : NodeFits s gone e r 0 0) : FirstPlace s gone e r 0 0 := by
  refine ⟨0, 0, 0, ⟨by decide, by decide, by decide, fun h => (by omega), fun _ => rfl⟩, ?_, h, fun c' hc => (by omega), ?_⟩
  · rw [hr]; simp only [rowAt]; omega
  · intro d' j' ab' r' c' _ hlt; omega

theorem tall_nowhere : NoPlace stTall (fun _ _ => False) (stTall.node 5) := by
  rintro d j ab r c _ ⟨hc, hf⟩
  have hS : nodeChunks (stTall.node 5) = 126 := by decide +kernel
  rw [hS] at hc hf
  have hp := hf (1, bandY .running) (by decide +kernel) not_false
  have h0 := hp.2 0 (by
    have hH : max 1 (nodeHeight (stTall.node 5) / 64) = 64 := by decide +kernel
    have hz : ∀ x, x < 64 → (x + (64 - x)) % 64 = 0 := by omega
    unfold fieldsFrom
    rw [hH, List.mem_map]
    refine ⟨(64 - rowAt (nodeHome (stTall.node 5)) d j r / 64 % 64) % 64, List.mem_range.mpr (by omega), ?_⟩
    omega) (by decide +kernel) (by decide)
  have hb : (bandY .running).chunk0 = 1 ∧ (bandY .running).chunks = 4 := by decide
  rw [hb.1, hb.2] at h0
  omega

theorem sole_launch {s : State} {n : Nat} {w : Word × Nat} (h : s.nodeReq = [(n, some w)]) (h1 : 1 ≤ nodeHeight (s.node n) ∧ nodeHeight (s.node n) ≤ 4096)
    (h2 : Covered s (s.node n)) (h3 : s.restores = []) : FirstLaunch s n w := by
  refine ⟨by simp [h], h1.1, h1.2, h2, fun q hq _ => ?_, fun q hq b _ hn => ?_, fun r hr => ?_⟩
  · rw [h] at hq; cases List.mem_singleton.mp hq; rfl
  · rw [h] at hq; cases List.mem_singleton.mp hq; exact absurd rfl hn
  · rw [h3] at hr; cases hr

theorem witness_PowerAndBands_places :
    (stLn.power = .running ∧ RowsSane stLn ∧ FirstLaunch stLn 5 (9, 0) ∧ FirstPlace stLn (fun _ _ => False) (stLn.node 5) 1536 0 0 ∧
      stLn.nodeReq = [(5, some (9, 0))] ∧ stLn.restores = []) ∧
    (stTall.power = .running ∧ RowsSane stTall ∧ FirstLaunch stTall 5 (9, 0) ∧ NoPlace stTall (fun _ _ => False) (stTall.node 5) ∧
      1000000 ≤ waitedFor stTall 9 ∧ stTall.heldEnq = [] ∧
      FirstPlace stTall (fun _ v => stTall.regPriority v.region < priorityOf stTall (nodeRegion (stTall.node 5)) 9) (stTall.node 5) 1536 0 0) ∧
    (∀ s, s = noBudget stLn → s.power = .running ∧ (∀ q ∈ s.nodeReq, q.2 ≠ none → ¬ Covered s (s.node q.1)) ∧ ∀ r ∈ s.restores, s.band? r.seq ≠ none) ∧
    (RowsSane (stSaved [rest1] []) ∧ (∀ q ∈ (stSaved [rest1] []).nodeReq, q.2 = none) ∧ (stSaved [rest1] []).band? rest1.seq = none ∧
      Fits (stSaved [rest1] []) (fun _ _ => False) rest1.band.height rest1.band.vregs rest1.band.wregs rest1.band.aregs rest1.band.chunks
        rest1.band.row0 rest1.band.slotAB rest1.band.chunk0 ∧
      ¬ Fits (stSaved [rest1] [(2, some band1)]) (fun _ _ => False) rest1.band.height rest1.band.vregs rest1.band.wregs rest1.band.aregs rest1.band.chunks
        rest1.band.row0 rest1.band.slotAB rest1.band.chunk0) ∧
    (∀ s, s = { stSaved [rest2] [] with power := .resuming } → s.power = .resuming ∧ s.waking = false ∧ RowsSane s ∧ rest2 ∈ s.restores ∧ rest2.how = 2 ∧
      s.band? rest2.seq = none ∧ (s.restores.filter (fun q => q.seq = rest2.seq)).length = 1) := by
  refine ⟨⟨rfl, by unfold RowsSane; decide +kernel, sole_launch rfl (by decide +kernel) ?_ rfl, first_at_home (by decide +kernel) ⟨by decide +kernel, fun p hp _ => ?_⟩,
      rfl, rfl⟩,
    ⟨rfl, by unfold RowsSane; decide +kernel, sole_launch rfl (by decide +kernel) ?_ rfl, tall_nowhere, by decide +kernel, rfl,
      first_at_home (by decide +kernel) (fits_none (by decide +kernel) (by decide +kernel))⟩,
    fun s h => ?_, ⟨by unfold RowsSane; decide +kernel, by decide, rfl, fits_none (by decide +kernel) (by decide), ?_⟩, fun s h => ?_⟩
  · unfold Covered; decide +kernel
  · have hp' : p = (1, band1) := by revert p; decide +kernel
    subst hp'
    have e1 : nodeHeight (stLn.node 5) = 2 := by decide +kernel
    have e2 : band1.row0 = 0 ∧ band1.height = 1 := by decide
    refine ⟨?_, ?_⟩
    · rintro ⟨i, j, hi, hj, h⟩
      simp only [e1, e2] at hi hj h
      omega
    · decide +kernel
  · unfold Covered; decide +kernel
  · subst h
    refine ⟨rfl, ?_, by decide +kernel⟩
    unfold Covered; decide +kernel
  · rintro ⟨_, h⟩
    exact absurd (h (2, band1) (by decide +kernel) not_false).1 (fun h => absurd rfl (h ⟨0, 0, by decide, by decide, by decide⟩).1)
  · subst h
    exact ⟨rfl, rfl, by unfold RowsSane; decide +kernel, by decide +kernel, rfl, rfl, by decide +kernel⟩

theorem settled_yields : Settled (stY .saving) 1 (bandY .saving) (howOf (bandY .saving)) := by
  refine ⟨fun p h => (nomatch h), fun p h => (nomatch h), fun p h => (nomatch h), fun p h => (nomatch h), fun p h => (nomatch h), fun k hk => ?_⟩
  have hk' : k = 0 ∨ k = 2 := by revert k; decide +kernel
  rcases hk' with rfl | rfl
  · exact ⟨rfl, .inr (.inr (.inr (.inr (.inr (.inr (.inr (.inr ⟨5, rfl⟩)))))))⟩
  · exact ⟨rfl, .inl rfl⟩
theorem yields_now : Yields (stY .running) (bandY .running) := by
  refine ⟨rfl, rfl, fun k hk => ?_, rfl⟩
  have hk' : k = 0 ∨ k = 2 := by revert k; decide +kernel
  rcases hk' with rfl | rfl
  · exact ⟨.inr ⟨5, rfl⟩, rfl, rfl⟩
  · exact ⟨.inl rfl, rfl, rfl⟩

theorem witness_PowerAndBands_lives :
    (∀ s, s = { stQu with bands := [(1, some { band1 with status := .placed })] } →
      s.band? 1 = some { band1 with status := .placed } ∧ s.restores = [] ∧ band1.records = [] ∧ band1.due = false ∧ band1.suspend = false) ∧
    (stRel.band? 1 = some bandR ∧ bandR.fields = [0] ∧ stRel.grants 0x40 0xD0 true = true ∧ ref7.idx < 507904 ∧
      stRel.poisonedAt (entryAt ref7.die ref7.idx) 32 = false ∧ stRel.recPoisoned ref7 = false ∧ numberAt stRel (entryAt 0 7) 32 % 2 ^ 13 ≤ 16 ∧
      32 ≤ bandR.stride ∧ 65536 * bandR.winChunk + bandR.stride ≤ 2 ^ 23) ∧
    (stOut.band? 1 = some band1 ∧ (∀ k ∈ band1.slotKeys, (stOut.slot k).exited = true) ∧ WorkEnded stOut 1) ∧
    (∃ v, stTall.band? 1 = some v ∧ ¬ MayBeVictim stTall 5 1 v) ∧
    MayBeVictim { stTall with bands := [(1, some { bandY .running with due := false, victimOf := none })] } 5 1 { bandY .running with due := false, victimOf := none } ∧
    InTheWay (stTall.node 5) 1536 0 0 (bandY .running) ∧
    (∀ s, s = { stY .stopping with nodeReq := [] } → RowsSane s ∧ s.band? 1 = some (bandY .stopping) ∧ (bandY .stopping).victimOf = some 5 ∧
      (∀ q ∈ s.nodeReq, q.1 = 5 → q.2 = none)) ∧
    ((stY .running).band? 1 = some (bandY .running) ∧ Yields (stY .running) (bandY .running) ∧ (stY .running).heldEnq = []) ∧
    ((stY .saving).band? 1 = some (bandY .saving) ∧ Settled (stY .saving) 1 (bandY .saving) (howOf (bandY .saving)) ∧
      (stY .saving).imageBlock (bandY .saving) = some 0 ∧ (stY .saving).cmds = []) := by
  refine ⟨fun s h => by subst h; decide +kernel, by decide +kernel, ⟨rfl, by decide +kernel, by unfold WorkEnded; decide +kernel⟩,
    ⟨_, rfl, fun h => absurd h.2.2.1 (by decide)⟩, ⟨.inl rfl, fun r h => (nomatch h), rfl, by decide +kernel, by decide +kernel, fun h => (nomatch h)⟩, ?_,
    fun s h => ?_, ⟨rfl, yields_now, rfl⟩, ⟨rfl, settled_yields, by decide +kernel, rfl⟩⟩
  · exact .inr ⟨0, by decide +kernel, by decide +kernel, by decide +kernel, by decide +kernel, by decide +kernel⟩
  · subst h
    exact ⟨by unfold RowsSane; decide +kernel, rfl, rfl, fun q h => (nomatch h)⟩

/-- A saved band of one row without chunks; its image of zeros lies in side memory. -/
def bandZ : Band := { bandY .placed with due := false, victimOf := none, suspend := false, height := 1, chunks := 0, vregs := 8 }
def restZ : Restore := ⟨1, bandZ, 0x4000E800, (0, 0, 11), 1, 0, 0, [], []⟩
def stZ : State := { sideMapped stLn with bands := [(1, some bandZ)], slots := [], restores := [restZ] }
theorem witness_PowerAndBands_restores : stZ.band? 1 = some bandZ ∧ bandZ.status = .placed ∧ bandZ.due = false ∧ bandZ.suspend = false ∧
    stZ.restores.find? (fun q => q.seq == 1) = some restZ ∧ restZ.band = { bandZ with records := [] } ∧ stZ.roomFor restZ = true ∧ bandZ.height = 1 ∧
    (numAt (stZ.regionReadVia (stZ.imageVia bandZ.region) restZ.image (imageSize bandZ)).1 (rowSection bandZ 0 + 0x388) 8).testBit 4 = false := by
  refine ⟨rfl, rfl, rfl, rfl, by decide +kernel, rfl, by decide +kernel, rfl, ?_⟩
  decide +kernel

/-- Twilight after its deadline, and with all settled; eclipse. -/
def stTw (st : BandStatus) : State := { stY st with power := .twilight, yieldBy := some 50, mbCmd := some 5, eclipseAt := some 0x40000000 }
theorem witness_PowerAndBands_power : ((stTw .running).yieldBy = some 50 ∧ 50 ≤ (stTw .running).time.toNat ∧ (stTw .running).heldEnq = [] ∧
      Yields (stTw .running) (bandY .running) ∧ ¬ SaveStuck (stTw .running) 1 ∧ SaveStuck { stTw .saving with heldRec := [heldJ] } 1) ∧
    Quiet (stTw .frozen) ∧ (stTw .frozen).power = .twilight ∧ (stTw .frozen).halo = [] ∧ { stTw .frozen with power := .eclipse }.power = .eclipse := by
  refine ⟨⟨rfl, by decide +kernel, rfl, yields_now, ?_, .inr ⟨_, List.mem_singleton.mpr rfl, _, rfl, rfl⟩⟩, ⟨by decide +kernel, fun p h => (nomatch h), rfl, rfl, fun p h => (nomatch h), fun p h => (nomatch h), ?_⟩, rfl, rfl, rfl⟩
  · rintro (⟨p, h, _⟩ | ⟨p, h, _⟩) <;> cases h
  · decide +kernel

/-- An active migration of page 0x50000 of HBM from side memory, one line of it moved. -/
def mig1 : Mig := ⟨BitVec.ofNat 256 (2 ^ 63 + 2 ^ 59 + 3 * 2 ^ 34 + 0x10000 + 0x5 * 2 ^ 80), false, [(0, true)]⟩
def alert1 : Nat := (3 * 512 + 7) * 32768 + 55
/-- The slot's next word is the last of an executable page of side memory. -/
def leafF : TlbLeaf := ⟨0xD800000000020100, 0⟩
def stFetch : State := { stG.tlbFill 0 0 2 leafF with slots := [(0, { slotOf [] [] [] [] with pc := 0x2FFF8 })] }
theorem witness_MemoryEvents :
    (migActive mig1 = true ∧ (∀ j, j < 1 → Tab.get false mig1.lines j = true) ∧ 1 < migSize mig1 / 256 ∧ Tab.get false mig1.lines 1 = false ∧
      2 ^ 40 ≤ migOld mig1 ∧ migNew mig1 + 512 ≤ 2 ^ 40 ∧ Tab.wf false mig1.lines = true) ∧
    ((∀ q ∈ [4 * 512 * 32768], q / 32768 / 512 ≠ 3) ∧ alert1 / 32768 / 512 = 3) ∧
    (let s := { stQu with openRow := [(63 * 512 + 511, some (32767, 9))], refresh := [(63 * 512 + 511, 8)], cmds := [{ cmdC with id := 9, phase := .running 1 }] }
     s.power = .running ∧ Tab.get none s.openRow (512 * 63 + 511) = some (32767, 9) ∧ (∃ c ∈ s.cmds, c.id = 9 ∧ ∃ e, c.phase = .running e) ∧ 8 ≤ Tab.get 0 s.refresh (512 * 63 + 511) ∧
       Tab.get 0 s.refresh 0 < 8) ∧
    ({ stQu with evc := [(8 * 63 + 7, ⟨1, 10, 10, 0, 0⟩)] }.evCtr (8 * 63 + 7)).sel = 1 ∧ (stQu.backoff = [] ∧ stQu.stepsIn + 8 = 8 ∧ stQu.clkPhase = false) ∧
    ((stQu.bandOf 0).isSome = true ∧ 31 ∉ (stQu.slot 0).softErr) ∧ (stPort.slot 0).south = ⟨val1, false⟩ :: [] ∧
    (MayIssue stFetch 0 ∧ (stFetch.slot 0).high = 0 ∧ stFetch.bankUntil = [] ∧ stFetch.icache.length < 32768 ∧ Tab.get none stFetch.icache (icKey 0 band1.asid 0x2FFF8) = none ∧ stFetch.tlbLook 0 band1.asid 2 = some leafF ∧
      leafMig leafF.leaf = false ∧ leafRefuses leafF.leaf .fetch = none ∧ stFetch.denied (leafLoc leafF 0x2FFF8) 0 0 true false = false ∧
      stFetch.poisonedAt (leafLoc leafF 0x2FFF8) 8 = false ∧ 2 ^ 40 ≤ leafLoc leafF 0x2FFF8) := by
  refine ⟨by decide +kernel, by decide +kernel, ⟨rfl, by decide +kernel, ⟨_, List.mem_singleton.mpr rfl, rfl, 1, rfl⟩, by decide +kernel, by decide +kernel⟩,
    by decide +kernel, by decide +kernel, by decide +kernel, rfl, ⟨band1, rfl, .inl rfl, by decide +kernel⟩,
    by decide +kernel⟩

/-- H0 adds lanes, H1 adds to a scalar register; or H1 reads an empty register in trap mode. -/
def half0 : Instr := .vadd none (.v 28) ⟨.v 1, .wait⟩ (.reg ⟨.v 2, .wait⟩) .rne false false
def half1 : Instr := .add 9 ⟨.x 9, .wait⟩ (.reg ⟨.x 3, .wait⟩)
def performed (s : State) (o : Host.Outcome State Fault Refusal) : Bool :=
  match o with
  | .next t => decide ((t.slot s.cur).pc = (here s).pc + 8 ∧ (t.slot s.cur).handler = (here s).handler)
  | _ => false
theorem performed_next {s : State} {o : Host.Outcome State Fault Refusal} (h : performed s o = true) : ∃ t, o = .next t ∧ Performed s t := by
  cases o with
  | next t => exact ⟨t, rfl, of_decide_eq_true (p := _ ∧ _) h⟩
  | _ => cases h
/-- Every lane of v1 and v2 holds an integer; or those of v2 another format. -/
def stPair (f : Fmt) : State := stateOf band1 (slotOf xs (every 1 ⟨5, .i64, 127⟩ ++ every 2 ⟨3, f, 127⟩) [] [])
/-- A register that half H1 reads is empty; a lane register that a tensor half reads is empty. -/
def stWaits (b : Band) (xe vE : Nat) (f : Fmt) : State :=
  stateOf b { slotOf xs (every 1 ⟨5, .i64, 127⟩ ++ every 2 ⟨3, f, 127⟩) [] [] with xEmpty := BitVec.ofNat 32 xe, vEmpty := BitVec.ofNat 64 vE }
def bandT : Band := { band1 with aregs := 4, wregs := 4 }
def halfM : Instr := .mstep none 0 ⟨.v 1, .wait⟩ ⟨0, .wait⟩ 0 0
def half1t : Instr := .add 9 ⟨.x 9, .trap⟩ (.reg ⟨.x 3, .wait⟩)
/-- The word goes on waiting, in a machine of one slot. -/
def waitsOn (s : State) (o : Host.Outcome State Fault Refusal) : Bool :=
  match o with
  | .next t => decide (t = { s with slots := [(0, { here s with blocked := (t.slot s.cur).blocked })] })
  | _ => false
theorem holding_of {i : Instr} {s : State} (hc : s.cur = 0) (hs : s.slots = [(0, here s)]) (h : waitsOn s (exec i s) = true) : Holding i s := by
  unfold Holding
  cases ho : exec i s with
  | next t =>
    rw [ho] at h
    have ht := of_decide_eq_true (p := t = _) h
    refine ⟨t, rfl, ?_, fun k hk => ?_, fun loc => by rw [ht]; rfl⟩
    · rw [ht, hc]; rfl
    · rw [hc] at hk
      have h1 : t.slot k = Slot.empty := by rw [ht]; simp [State.slot, Tab.get, Ne.symm hk]
      have h2 : s.slot k = Slot.empty := by simp [State.slot, Tab.get, hs, Ne.symm hk]
      rw [h1, h2]
  | fault _ => rw [ho] at h; cases h
  | refused _ => rw [ho] at h; cases h

theorem witness_PairWords : (Instr.pairWord half0 half1).wf = true ∧ CanIssue (stPair .i64) ∧ alsoReady (stPair .i64) half0 ∧
    (∃ f, laneForm half0 = some f ∧ Ready (stPair .i64) f.us (dstCodes f.d) ∧
      ∀ l, l < 64 → (lanesOn (stPair .i64) f.g).getLsbD l = true → (f.val (stPair .i64) l).isSome = true) ∧
    (∃ g, binaryForm half1 = some g ∧ Ready (stPair .i64) g.us [codeX g.d]) ∧
    (∃ t, exec half0 (stPair .i64) = .next t ∧ Performed (stPair .i64) t) ∧ (∃ t, exec half1 (stPair .i64) = .next t ∧ Performed (stPair .i64) t) ∧
    (InRow (stPair .i32) .tagmismatch ∧ (∃ t, exec half1 (stPair .i32) = .next t ∧ Performed (stPair .i32) t) ∧ StepReady half0 (stPair .i32) ∧
      (after half0 (stPair .i32)).trapcause = 5 ∧ (after half0 (stPair .i32)).pc = 0x2000) ∧
    (let s := stWaits band1 0x200 0 .i64
     Holding half1 s ∧ (∃ t, exec half0 s = .next t ∧ Performed s t) ∧ (after half1t s).handler = true) ∧
    (Holding half1 (stWaits band1 0x200 0 .i32) ∧ (after half0 (stWaits band1 0x200 0 .i32)).handler = true ∧
      (after half1t (stWaits band1 0x200 0 .i32)).handler = true) ∧
    (Holding half0 (stWaits band1 0x200 2 .i64) ∧ Holding half1 (stWaits band1 0x200 2 .i64) ∧ (after half1t (stWaits band1 0x200 2 .i64)).handler = true) ∧
    ((Instr.pairWord halfM half1).wf = true ∧ ∃ f, stepForm halfM = some f ∧ (∃ x ∈ f.us, x.empty (stWaits bandT 0 2 .i64) 0 = true) ∧
      (∀ x ∈ f.us, x.bad (stWaits bandT 0 2 .i64) 0 = false) ∧
      ∃ t, exec half1 (stWaits bandT 0 2 .i64) = .next t ∧ Performed (stWaits bandT 0 2 .i64) t) := by
  refine ⟨by decide +kernel, ⟨rfl, .inl rfl⟩, trivial, ⟨_, rfl, ?_, ?_⟩, ⟨_, rfl, ?_⟩, performed_next ?_, performed_next ?_,
    ⟨⟨band1, ?_⟩, performed_next ?_, fun f h => (nomatch h), ?_⟩, ⟨holding_of rfl rfl ?_, performed_next ?_, ?_⟩, ⟨holding_of rfl rfl ?_, ?_⟩,
    ⟨holding_of rfl rfl ?_, holding_of rfl rfl ?_, ?_⟩, ?_, _, rfl, ?_, ?_, performed_next ?_⟩
  all_goals first | decide +kernel | (unfold Ready; decide +kernel)

/-! ## Conversions, reductions, lane moves, tensor steps: the spec's examples, or by hand -/

/-- spec/07's worked pair: lane 0 of v4 to v7 holds eight values, x9 the exponent -1. -/
def stQuant : State := stateOf band1 (slotOf [(9, 0x7E)]
  [(256, ⟨0x3F2000003E400000, .fp32, 127⟩), (320, ⟨0x3F500000BEC00000, .fp32, 127⟩), (384, ⟨0xBE0000003D800000, .fp32, 127⟩),
   (448, ⟨0x3E0000003EE00000, .fp32, 127⟩), (1280, ⟨0x88640000, .pl16, 0x7E⟩)] [(1, 1)] [])
theorem test_vquant : vAfter (.vquant g1 20 (r 4) (.reg (x 9)) 1) stQuant 20 0 = some (0x88640000, .pl16) ∧
    ((after (.vquant g1 20 (r 4) (.reg (x 9)) 1) stQuant).vr 20 0).scale = 0x7E ∧
    (after (.vquant g1 20 (r 4) (.reg (x 9)) 1) stQuant).lanestat = 0 := by decide +kernel
theorem test_vdeq : vAfter (.vdeq g1 24 (r 20) (.reg (x 0)) .fp32 .rne false 1) stQuant 24 0 = some (0x3F4000003E800000, .fp32) ∧
    vAfter (.vdeq g1 24 (r 20) (.reg (x 0)) .fp32 .rne false 1) stQuant 25 0 = some (0x3F400000BE800000, .fp32) := by decide +kernel
theorem test_conversions : vAfter (.vcvt g1 (.v 3) (v 1) .fp32 .rne false false) (stV ⟨0xFFFFFFFF00000003, .i32, 127⟩ .zero) 3 0 = some (0xBF80000040400000, .fp32) ∧
    vAfter (.vcvt g1 (.v 3) (v 1) .bf16 .rne false false) (stV ⟨0xC00000003FC00000, .fp32, 127⟩ .zero) 3 0 = some (0xC0003FC0, .bf16) ∧
    vAfter (.vpack g1 (.v 3) (v 1) (v 2) .i16 .rne true false) (stV ⟨0x0001000000008000, .i32, 127⟩ ⟨0xFFFF000000000005, .i32, 127⟩) 3 0 = some (0x800000057FFF7FFF, .i16) ∧
    vAfter (.vunpk g1 (.v 3) (v 1) .i32 .rne false false 1) (stV ⟨0x8000000100020003, .i16, 127⟩ .zero) 3 0 = some (0xFFFF800000000001, .i32) := by decide +kernel
theorem test_tags : vAfter (.vtag g1 (.v 3) (v 1) .raw) (stV ⟨7, .i64, 9⟩ .zero) 3 0 = some (7, .raw) ∧
    ((after (.vtag g1 (.v 3) (v 1) .raw) (stV ⟨7, .i64, 9⟩ .zero)).vr 3 0).scale = 9 ∧
    ((after (.vscl g1 (.v 3) (v 1) (.reg (x 4)) true) (stV ⟨7, .i64, 9⟩ .zero)).vr 3 0).scale = 2 ∧
    ((after (.vscl g1 (.v 3) (v 1) (.imm 0x1F0) false) (stV ⟨7, .i64, 9⟩ .zero)).vr 3 0).scale = 0xF0 := by decide +kernel
theorem test_compare : ((after (.vcmp g1 2 (v 1) (.reg (v 2)) .lt false false) (stV ⟨0xFF01, .i8, 127⟩ ⟨0x0002, .i8, 127⟩)).pr 2) = 0 ∧
    ((after (.vcmp g1 2 (v 1) (.reg (v 2)) .lt true false) (stV ⟨0xFF01, .i8, 127⟩ ⟨0x0002, .i8, 127⟩)).pr 2) = 1 := by decide +kernel
theorem test_predicates : ((after (.pand 7 ⟨1, .wait⟩ ⟨0, .wait⟩) stV2).pr 7) = 0 ∧ ((after (.pnot 7 ⟨1, .wait⟩) stV2).pr 7) = 0xFFFFFFFFFFFFFFFE ∧
    ((after (.por 7 ⟨1, .wait⟩ ⟨0, .wait⟩) stV2).pr 7) = 1 ∧ ((after (.pxor 7 ⟨1, .wait⟩ ⟨1, .wait⟩) stV2).pr 7) = 0 ∧
    ((after (.pset 7 (.reg (x 4))) stV2).pr 7) = -7 := by decide +kernel
/-- spec/07: lane 0 holds (2^24, 1) and lane 1 (1, 0), under p1. -/
def stRed : State := stateOf band1 (slotOf xs [(384, ⟨0x3F8000004B800000, .fp32, 127⟩), (385, ⟨0x000000003F800000, .fp32, 127⟩)] [(1, 3)] [])
theorem test_vred : xAfter (.vred g1 4 (v 6) .add .rne false false) stRed 4 = some 0x4B800001 ∧
    (after (.vred g1 4 (v 6) .add .rne false false) stRed).lanestat = 0 := by decide +kernel
theorem test_vscan : vAfter (.vscan g1 (.v 3) (v 6) .add .rne false false false) stRed 3 1 = some (0x3F8000004B800000, .fp32) ∧
    vAfter (.vscan g1 (.v 3) (v 6) .add .rne false false true) stRed 3 0 = some (0, .fp32) := by decide +kernel
theorem test_lane_moves : vAfter (.vrot none (.v 3) (v 6) (.reg (x 5))) stRed 3 3 = some (0x3F800000, .fp32) ∧
    vAfter (.vbcast g1 (.v 3) (v 6) (.reg (x 0))) stRed 3 1 = some (0x3F8000004B800000, .fp32) ∧
    vAfter (.xbar g1 (.v 3) (v 6) 0) stRed 3 1 = some (0x3F800000, .fp32) ∧
    vAfter (.vsel g1 (.v 3) (v 6) (v 7) ⟨2, .wait⟩) stRed 3 1 = some (0, .raw) := by decide +kernel
theorem test_scalar_moves : xAfter (.vmovx g1 6 (v 6) (.imm 65)) stRed 6 = some 0x3F800000 ∧
    xAfter (.vmovx g1 6 (v 6) (.imm 2)) stRed 6 = some 0 ∧ vAfter (.vins none (.v 3) (x 4) (.imm 127) .i64) stRed 3 63 = some (-7, .i64) ∧
    vAfter (.vsplat g1 (.v 3) (x 5) .i32) stRed 3 1 = some (0x200000002, .i32) := by decide +kernel
theorem test_random : (after (.vseed g1 (v 6)) stRed).rngOf 1 = 0x3F800000 := by
  decide +kernel

/-- spec/08's sparse step: the same operands in every lane. -/
def stSparse : State := stateOf band1
  { slotOf [] (every 2 ⟨0x40E0C0003FC040A0, .bf16, 127⟩ ++ every 3 ⟨0x4100411040403E80, .bf16, 127⟩) [] [] with
    w := every 2 ⟨0x4000#512 ||| (0x3F00#512 <<< 128) ||| (0x4080#512 <<< 256) ||| (0xBF80#512 <<< 384), 0xC00000009, true, .bf16, 0x7F7F7F7F7F7F7F7F⟩
    a := every 1 ((510#384 <<< 37) ||| (1#384 <<< 36)) }
theorem test_msteps : ((after (.msteps none 1 (r 2) ⟨2, .wait⟩ 0 0) stSparse).ar 1 0).toNat % 2 ^ 48 = 2 ^ 47 + 513 * 2 ^ 37 + 2 ^ 33 := by decide +kernel
/-- One dense step: the first weight of each column against 1.0, and partial masks refused. -/
theorem test_mstep : ((after (.mstep none 0 (v 1) ⟨1, .wait⟩ 1 0) stT).ar 0 63).toNat % 2 ^ 48 = 511 * 2 ^ 37 ∧
    (after (.mstep g1 0 (v 1) ⟨1, .wait⟩ 1 0) stT).trapcause = 6 := by decide +kernel
theorem test_accumulators : ((after (.accadd none 2 ⟨1, .wait⟩ (.a ⟨1, .wait⟩)) stSparse).ar 2 9).toNat % 2 ^ 48 = 511 * 2 ^ 37 + 2 ^ 36 ∧
    (after (.accz none 1) stSparse).ar 1 9 = 0 ∧ vAfter (.accrd none (.v 8) ⟨1, .wait⟩ none .fp32 .rne false false) stSparse 8 5 = some (0x3F400000, .fp32) := by
  decide +kernel

/-! ## Memory, queues and units, one step each -/

/-- 3.5 and the old values of Table 10.4 (spec/10): lanes 0, 1, 2 and 5 of one request to a word that holds 1.0. -/
def reqX : Req := { req1 0 4 0x10000 [] [0x33800000, 0x33800000, 0x40400000, 0xBF000000] [0, 0, 0, 0] with lanes := [0, 1, 2, 5] }
def stAtom : State := (stO (.atomV 10 .add true false false false) [reqX]).writeMem (sideLoc 0 0x10000) [0, 0, 0x80, 0x3F]
def stepOf (i : Instr) (s : State) : State := match exec i s with | .next t => t | _ => State.reset
theorem test_atomic_old_values : numberAt (stepOf (.atomicComplete 3 0) stAtom) (sideLoc 0 0x10000) 4 = 0x40600000 ∧
    (List.range 4).map (Claims.seenBy .add true false false 0x3F800000 [0x33800000, 0x33800000, 0x40400000, 0xBF000000] [0, 0, 0, 0]) =
      [0x3F800000, 0x3F800000, 0x3F800001, 0x40800000] := by decide +kernel
theorem test_load_completes : ((stepOf (.loadComplete 3) ((stO (.loadX 9 true .w8) [req1 0 1 0x10000 [] [] []]).writeMem (sideLoc 0 0x10000) [0x80])).slot 0).xr 9 = -128 := by
  decide +kernel
theorem test_store_performs : (stepOf (.storePerform 3 0) (stO .store st2)).byte (sideLoc 0 0x10003) = 4 := by decide +kernel
/-- spec/15: two of three have arrived with count 3, and one comes with count 2. -/
theorem test_barrier_mismatch : (after (.barr (x 5) (.imm 15)) (stBar 2)).trapcause = 0x0F ∧ (after (.barr (x 5) (.imm 15)) (stBar 2)).trapinfo = 0x300000002 := by
  decide +kernel
theorem test_join : numberAt (stepOf (.jdecArrival 3) (stJ 2 (.jdec 65535 31))) (ctrAt 65535) 4 = 1 ∧
    ((stepOf (.jdecArrival 3) (stJ 0 (.jdec 65535 31))).slot 0).xr 31 = 2 := by decide +kernel
theorem test_csr : (after (.csrw (x 4) 0x003) stQu).trappc = 0x01FFFFFFFFFFFFF8 ∧ xAfter (.csrr 9 0x020) stQu 9 = some 0x90E3D ∧
    (after (.csrw (x 4) 0x006) stQu).trapcause = 0 := by decide +kernel
/-- spec/09: P = 0x1C_8A5D_6F40. -/
theorem test_hbm_address : hbmQuad 0x1C8A5D6F40 = 7 ∧ hbmChannel 0x1C8A5D6F40 = 7 ∧ hbmColumn 0x1C8A5D6F40 = 320 ∧ hbmBank 0x1C8A5D6F40 = 43 ∧
    hbmRow 0x1C8A5D6F40 = 4427 := by decide +kernel
/-- spec/14's access-table example: bits 141 and 143 of quadrant 5's table are byte 17 = 0xA0. -/
theorem test_access_table : { State.reset with acl := [(5, 0xA0#512 <<< 136)] }.grants 5 0x46 true = true ∧
    { State.reset with acl := [(5, 0xA0#512 <<< 136)] }.grants 5 0x46 false = false ∧
    State.reset.grants 0x88 0xE0 true = true ∧ State.reset.grants 5 0xF0 false = true ∧ State.reset.grants 5 0xE0 false = false := by decide +kernel

end Sys2Proof.Tests
end

section
/-!
SUPPORT. When an outstanding access may be performed: the model's tests for order, grants and banks agree with what the statements
say of them (spec/09 R203, R226, R228, spec/10 R240, spec/11 R275, R277).
-/
namespace Sys2Proof.Machine
open Sys2Proof.Claims

/-! ### The checks before an access is performed -/

theorem State.live_of {s : State} (h : Live s) : s.live = true := by
  simpa [Live, State.live, or_assoc] using h

theorem PendOp.reads_eq (op : PendOp) : op.reads = decide (op ≠ .store) := by cases op <;> rfl

theorem PendOp.writes_eq (op : PendOp) : op.writes = writesTo op := by cases op <;> rfl

theorem PendOp.atBank_iff (op : PendOp) : op.atBank = true ↔ ∀ f k, op ≠ .xbld f k := by
  cases op <;> simp [PendOp.atBank]

theorem Pend.parked_eq_false (p : Pend) : p.parked = false ↔ ∀ r ∈ p.reqs, r.parked = false := by
  simp [Pend.parked]

theorem inScope_iff (sc : Scope) (q : Pend) (rs : List Req) : inScope sc q rs = true ↔ inScopeOf sc q rs := by
  simp [inScope, inScopeOf, podScope, Pend.peerOnly]

/-- The order of R237, R248 and R277 as the model tests it. -/
theorem orderedBefore_iff (q p : Pend) (rs : List Req) : orderedBefore q p rs = true ↔ StandsBefore q p rs := by
  simp [orderedBefore, StandsBefore, inScope_iff, Pend.parked_eq_false, Req.meets, narrow, and_assoc, or_assoc]

theorem State.shares_iff (s : State) (c : Scope) (k j : Nat) : s.shares c k j = true ↔ Shares s c k j := by
  cases c <;> simp [State.shares, Shares, slotField, slotDie]

/-- The marks of R275 as the model tests them. -/
theorem State.behindMark_iff (s : State) (p : Pend) (b : Req) :
    s.behindMark p.slot (fun n => p.marks.all (fun m => decide (n ≤ m.1))) p.op.writes b.loc b.len = true ↔
      ∃ q ∈ s.pend, CountsBefore s q p b := by
  have hc (a : Req) : (b.loc < a.loc + a.len ∧ a.loc < b.loc + b.len) ↔ (a.loc < b.loc + b.len ∧ b.loc < a.loc + a.len) := and_comm
  simp [hc, State.behindMark, CountsBefore, Pend.conflicts, State.shares_iff, PendOp.writes_eq, PendOp.atBank_iff, and_assoc]

theorem State.performable_iff (s : State) (p : Pend) (rs : List Req) : s.performable p rs = true ↔ Unblocked s p rs := by
  have hb (b : Req) : s.behindMark p.slot (fun n => p.marks.all (fun m => decide (n ≤ m.1))) p.op.writes b.loc b.len = false ↔
      ∀ q ∈ s.pend, ¬ CountsBefore s q p b := by
    rw [← Bool.not_eq_true, State.behindMark_iff]; simp
  have ho (q : Pend) : orderedBefore q p rs = false ↔ ¬ StandsBefore q p rs := by rw [← orderedBefore_iff, Bool.not_eq_true]
  have hq (q : Pend) : (!(q.slot == p.slot && decide (q.order < p.order) && orderedBefore q p rs)) = true ↔
      (q.slot = p.slot → q.order < p.order → ¬ StandsBefore q p rs) := by
    rw [← ho]; simp only [Bool.not_eq_true', Bool.and_eq_false_imp, Bool.and_eq_true, beq_iff_eq, decide_eq_true_eq, and_imp]
  simp only [State.performable, Unblocked, Bool.and_eq_true, List.all_eq_true, hq, Bool.not_eq_true', hb]
  exact and_congr_right' ⟨fun h q hq b hb => h b hb q hq, fun h b hb q hq => h q hq b hb⟩

theorem State.migDue_of_not_mig (s : State) (loc : Nat) : s.migDue false loc = none := rfl

theorem State.meetsPoison_of_not_mig (s : State) (loc len : Nat) : s.meetsPoison loc len false = s.poisonedAt loc len := rfl

/-- The grant phase that finds nothing (R240). -/
theorem State.pendBad_of_grants {s : State} {p : Pend} (h : GrantsAll s p) : s.pendBad p = none := by
  unfold State.pendBad
  rcases h with h | h
  · simp [h]
  · have hd : p.reqs.filter (fun r => s.denied r.loc r.key (slotMaster p.slot) p.op.reads p.op.writes) = [] := by
      simp only [List.filter_eq_nil_iff, PendOp.reads_eq, PendOp.writes_eq, slotMaster]
      exact fun r hr => Bool.not_eq_true _ ▸ (h r hr).1
    have hp : p.reqs.filter (fun r => p.op.reads && s.meetsPoison r.loc r.len r.mig) = [] := by
      simp only [List.filter_eq_nil_iff, PendOp.reads_eq]
      intro r hr
      by_cases ho : p.op = .store
      · simp [ho]
      · simp [ho, (h r hr).2 ho, State.meetsPoison_of_not_mig]
    rw [hd, hp]
    simp [lowestReq]

theorem State.olderUrgent_of_noOlder {s : State} {p : Pend} {rs : List Req} (h : NoOlder s p rs) : s.olderUrgent p = false := by
  simp only [State.olderUrgent, Bool.and_eq_false_imp, List.any_eq_false, State.urgentWaits]
  intro hu r _
  simp only [Bool.and_eq_true, List.any_eq_true, decide_eq_true_eq, not_and, not_exists]
  intro _ q hq ho hq'
  simp [h.1 hu q hq ho] at hq'

theorem State.mayPerform_of_clear {s : State} {p : Pend} {rs : List Req} (h : Clear s p rs) : s.mayPerform p rs = true := by
  obtain ⟨hl, hu, hg, ho, -⟩ := h
  simp [State.mayPerform, State.live_of hl, (State.performable_iff s p rs).2 hu, State.pendBad_of_grants hg,
    State.olderUrgent_of_noOlder ho]

theorem State.takesResults_of_clear {s : State} {p : Pend} {rs : List Req} (h : Clear s p rs) : s.takesResults p.band = true := by
  obtain ⟨-, -, -, -, v, hv, hs⟩ := h
  simp [State.takesResults, hv, hs]

/-! ### Banks -/

theorem sideBank_eq_some (loc : Nat) (b : Nat × Nat) :
    sideBank loc = some b ↔ spaceOf loc = .side b.1 ∧ loc / 64 % 32 = b.2 := by
  obtain ⟨f, n⟩ := b
  cases h : spaceOf loc <;> simp [sideBank, h, bitsOf]

theorem State.bankOlder_of_noOlder {s : State} {p : Pend} {rs : List Req} (h : NoOlder s p rs) : s.bankOlder p rs = false := by
  rw [← Bool.not_eq_true]
  intro hb
  simp only [State.bankOlder, bankPath, pathLane, pathWeight, Bool.and_eq_true, Bool.or_eq_true, beq_iff_eq, List.any_eq_true,
    decide_eq_true_eq, Bool.not_eq_true', Pend.parked_eq_false, State.performable_iff, PendOp.atBank_iff, Option.isSome_iff_exists] at hb
  obtain ⟨hp, q, hq, ⟨⟨⟨⟨hqp, hx⟩, ho⟩, hpk⟩, hun⟩, a, ha, ⟨b, hab⟩, r, hr, hrb⟩ := hb
  rw [hab, sideBank_eq_some] at hrb
  rw [sideBank_eq_some] at hab
  rcases h.2 (by omega) q hq (by omega) ho hx hpk hun a ha r hr b.1 b.1 hab.1 hrb.1 with hf | hn
  · exact hf rfl
  · exact hn (hab.2.trans hrb.2.symm)

theorem State.nextAt_of_backoff {s : State} {bank : Nat} {w x : Waiter} {u : Bool} (h : ∀ b ∈ s.backoff, b.1 = bank → b.2 = w)
    (hx : s.nextAt u bank = some x) : x = w := by
  obtain ⟨b, hb, rfl⟩ := Option.map_eq_some_iff.1 hx
  have hbank := List.find?_some hb
  simp only [Bool.and_eq_true, beq_iff_eq] at hbank
  exact h b (List.mem_of_find?_eq_some hb) hbank.1

/-- A request that meets no unavailable bank and is behind no other does not back off (R228). -/
theorem State.backsOff_of_noBackOff {s : State} {p : Pend} {rs : List Req} {r : Req} (u full dram : Bool) (h : NoBackOff s p rs)
    (hr : r ∈ rs) : s.backsOff (.req p.id r.k) u r.loc r.key full dram false = false := by
  simp only [State.backsOff, State.mustBackOff, State.needsBank, State.migDue_of_not_mig]
  rcases h r hr with hl | ⟨hb, hn⟩
  · rw [decide_eq_false (Nat.not_lt.2 hl)]; rfl
  · have : (s.nextAt u (bankKey r.loc)).any (fun x => decide (x ≠ .req p.id r.k)) = false := by
      rw [← Bool.not_eq_true, Option.any_eq_true]
      rintro ⟨x, hx, hne⟩
      exact of_decide_eq_true hne (State.nextAt_of_backoff hn hx)
    rw [hb, this, Bool.and_false]; rfl

theorem State.stalledReqs_of_noBackOff {s : State} {p : Pend} {rs : List Req} (dram : Bool) (h : NoBackOff s p rs)
    (hm : ∀ r ∈ rs, r.mig = false) : s.stalledReqs p rs dram = [] := by
  simp only [State.stalledReqs, List.filter_eq_nil_iff]
  intro r hr
  simp [hm r hr, State.backsOff_of_noBackOff p.urgent false dram h hr]

end Sys2Proof.Machine
end

section
/-!
SUPPORT. Reading at the targets: in plain memory a request reads the bytes of memory, and what its reading changes is caches and
counters only (spec/09 R210, R211, R227, R230).
-/
namespace Sys2Proof.Machine
open Sys2Proof.Claims

/-! ### Bytes read, as a list and as a number -/

theorem Mem.readN_eq_map (m : Mem) (loc n : Nat) : m.readN loc n = (List.range n).map (fun j => m.read (loc + j)) := by
  induction n generalizing loc with
  | zero => rfl
  | succ n ih =>
    rw [Mem.readN, ih, List.range_succ_eq_map, List.map_cons, List.map_map]
    simp only [Nat.add_zero, List.cons.injEq, true_and, List.map_inj_left, Function.comp_apply]
    intro j _
    rw [Nat.add_assoc, Nat.add_comm 1 j]

/-- Bytes within those read are read at their own place. -/
theorem Mem.take_drop_readN (m : Mem) (loc n k len : Nat) (h : k + len ≤ n) :
    ((m.readN loc n).drop k).take len = m.readN (loc + k) len := by
  simp only [Mem.readN_eq_map]
  refine List.ext_getElem (by simp; omega) (fun i _ _ => ?_)
  simp [Nat.add_assoc]

theorem ofBytes_map_range (f : Nat → Byte) (n : Nat) :
    ofBytes ((List.range n).map f) = ((List.range n).map (fun j => (f j).toNat * 256 ^ j)).sum := by
  induction n generalizing f with
  | zero => rfl
  | succ n ih =>
    rw [List.range_succ_eq_map, List.map_cons, List.map_cons, List.map_map, List.map_map, ofBytes, ih, List.sum_cons,
      ← List.sum_map_mul_left]
    simp only [pow_zero, Nat.one_mul, Function.comp_def, pow_succ, Nat.mul_comm, Nat.mul_left_comm, Nat.succ_eq_add_one]

/-- The bytes a request reads are the number at its location (R3). -/
theorem ofBytes_readMem (s : State) (loc n : Nat) : ofBytes (s.readMem loc n) = numberAt s loc n := by
  rw [State.readMem, Mem.readN_eq_map, ofBytes_map_range]; rfl

/-! ### What banks and counters record -/

/-- From `s` to `t` only the records of banks and the counters change. -/
def Counted (s t : State) : Prop :=
  t = { s with acts := t.acts, openRow := t.openRow, clash := t.clash, alerts := t.alerts, evc := t.evc, backoff := t.backoff }

namespace Counted

theorem refl (s : State) : Counted s s := rfl

theorem trans {s t u : State} (h : Counted s t) (h' : Counted t u) : Counted s u := by
  unfold Counted at h h'
  rw [h] at h'
  exact h'

theorem ite {c : Prop} [Decidable c] {s t u : State} (ht : Counted s t) (hu : Counted s u) : Counted s (if c then t else u) := by
  split <;> assumption

theorem evQuad (s : State) (Q code n : Nat) : Counted s (s.evQuad Q code n) := rfl
theorem evFieldN (s : State) (f code n : Nat) : Counted s (s.evFieldN f code n) := rfl
theorem leaveBackoff (s : State) (w : Waiter) : Counted s (s.leaveBackoff w) := rfl

theorem alert (s : State) (Q code r : Nat) : Counted s { s.evQuad Q code 1 with alerts := s.alerts ++ [r] } := rfl

theorem activate (s : State) (P : Nat) : Counted s (s.activate P) := by
  unfold State.activate
  extract_lets r c s1 s2 s3
  have h1 : Counted s s1 := ite rfl rfl
  have h2 : Counted s1 s2 := by clear h1; clear_value s1; exact rfl
  have h3 : Counted s2 s3 := evQuad _ _ _ _
  exact ((h1.trans h2).trans h3).trans (ite (alert s3 _ _ _) (refl s3))

variable {s t : State}

theorem halo (h : Counted s t) : t.halo = s.halo := by rw [h]

end Counted

/-! ### What a read leaves unchanged -/

/-- Key slot 0 stands for plaintext (R230). -/
theorem State.keyOf_zero (s : State) : s.keyOf 0 = 0#512 := if_pos rfl

/-- A line stored in plaintext and, where it is held, held for key slot 0 (R230). -/
def PlainLine (s : State) (line : Nat) : Prop :=
  Tab.get 0#512 s.lineKey line = 0#512 ∧ ∀ h, Tab.get none s.halo line = some h → h.slot = 0

/-- From `s` to `t` only the halo caches, the contents that lines are stored under, the records of banks and the counters change,
and a line stored and held in plaintext stays so. -/
structure Cached (s t : State) : Prop where
  shape : t = { s with
    halo := t.halo, lineKey := t.lineKey, unkeyed := t.unkeyed, draws := t.draws, acts := t.acts, openRow := t.openRow
    clash := t.clash, alerts := t.alerts, evc := t.evc, backoff := t.backoff }
  plain : ∀ line, PlainLine s line → PlainLine t line

theorem Counted.cached {s t : State} (h : Counted s t) : Cached s t := by
  unfold Counted at h
  exact ⟨by rw [h], fun line hl => by rw [PlainLine, h]; exact hl⟩

namespace Cached

theorem refl (s : State) : Cached s s := ⟨rfl, fun _ h => h⟩

theorem trans {s t u : State} (h : Cached s t) (h' : Cached t u) : Cached s u :=
  ⟨by have hu := h'.shape; rw [h.shape] at hu; exact hu, fun line hl => h'.plain line (h.plain line hl)⟩

theorem ite {c : Prop} [Decidable c] {s t u : State} (ht : Cached s t) (hu : Cached s u) : Cached s (if c then t else u) := by
  split <;> assumption

variable {s t : State}

theorem slots (h : Cached s t) : t.slots = s.slots := by rw [h.shape]
theorem bands (h : Cached s t) : t.bands = s.bands := by rw [h.shape]
theorem mem (h : Cached s t) : t.mem = s.mem := by rw [h.shape]
theorem pend (h : Cached s t) : t.pend = s.pend := by rw [h.shape]
theorem readMem (h : Cached s t) (loc n : Nat) : t.readMem loc n = s.readMem loc n := by rw [State.readMem, h.mem]; rfl

/-- A request in plain memory stays one. -/
theorem plainAt (h : Cached s t) {r : Req} (hr : PlainAt s r) : PlainAt t r := by
  obtain ⟨hm, hl, hp⟩ := hr
  exact ⟨hm, hl, hp.imp_right (fun ⟨hk, hline⟩ => ⟨hk, h.plain _ hline⟩)⟩

theorem setUnkeyed (s : State) (line : Nat) (b : Bool) : Cached s (s.setUnkeyed line b) := ⟨rfl, fun _ h => h⟩

/-- Holding a line for key slot 0 keeps every plain line plain, and so does dropping it. -/
theorem setHalo (s : State) (line : Nat) {o : Option HaloLine} (ho : ∀ h, o = some h → h.slot = 0) :
    Cached s { s with halo := Tab.set none s.halo line o } := by
  refine ⟨rfl, fun l ⟨hk, hh⟩ => ⟨hk, fun h hl => ?_⟩⟩
  rw [Tab.get_set] at hl
  split at hl
  · exact ho h hl
  · exact hh h hl

/-- Storing and holding a line for a key slot keeps it plain where the slot is 0. -/
theorem store {line slot : Nat} (d : Bool) (h0 : PlainLine s line → slot = 0) :
    Cached s { s with
      lineKey := Tab.set 0#512 s.lineKey line (s.keyOf slot), halo := Tab.set none s.halo line (some ⟨d, slot⟩) } := by
  refine ⟨rfl, fun l hl => ?_⟩
  by_cases hll : l = line
  · subst hll
    obtain rfl := h0 hl
    refine ⟨?_, fun h hs => ?_⟩
    · rw [Tab.get_set_same, State.keyOf_zero]
    · rw [Tab.get_set_same] at hs
      cases hs; rfl
  · refine ⟨(Tab.get_set_other _ _ _ hll).trans hl.1, fun h hs => hl.2 h ?_⟩
    rw [← hs, Tab.get_set_other _ _ _ hll]

end Cached

theorem State.writeBack_cached (s : State) (line : Nat) : Cached s (s.writeBack line) := by
  unfold State.writeBack
  split
  · rename_i slot hline
    have h := (Counted.activate s (256 * line)).trans (Counted.evQuad _ (hbmQuad (256 * line)) 0x28 1)
    exact h.cached.trans (.store false (fun hp => hp.2 ⟨true, slot⟩ (by rw [h.halo]; exact hline)))
  · exact .refl s

theorem State.evictLine_cached (s : State) (line : Nat) : Cached s (s.evictLine line) :=
  (s.writeBack_cached line).trans (.setHalo _ line (by simp))

theorem State.makeRoom_cached (s : State) (line : Nat) : Cached s (s.makeRoom line) := by
  unfold State.makeRoom
  split
  · exact (s.evictLine_cached _).trans ⟨rfl, fun _ h => h⟩
  · exact .refl s

/-- A plain line needs no deciphering for a reader without a key (R230). -/
theorem State.recrypt_of_plain {s : State} {line : Nat} (h : PlainLine s line) : s.recrypt line 0#512 = s.setUnkeyed line false :=
  if_pos h.1

theorem State.fillLine_cached {s : State} {line : Nat} (write full act : Bool) (h : PlainLine s line) :
    Cached s (s.fillLine line 0 write full act) := by
  unfold State.fillLine
  extract_lets s1 s2 s3
  have h1 : Cached s s1 := ((s.evictLine_cached line).trans (State.makeRoom_cached _ line)).trans (Counted.evQuad _ _ _ _).cached
  have h2 : Cached s1 s2 := by
    have ha : Cached s1 (if act then s1.activate (256 * line) else s1) := .ite (Counted.activate s1 _).cached (.refl s1)
    refine .ite (.refl s1) ?_
    rw [State.keyOf_zero, State.recrypt_of_plain (ha.plain line (h1.plain line h))]
    exact ha.trans (.setUnkeyed _ line false)
  have h3 : Cached s2 s3 := .ite (.setUnkeyed s2 line false) (.refl s2)
  exact ((h1.trans h2).trans h3).trans (.setHalo s3 line (fun _ he => by cases he; rfl))

/-- An access without a key to a plain line changes no byte of memory (R211, R230). -/
theorem State.touchLineAs_cached {s : State} {line : Nat} (write full act : Bool) (h : PlainLine s line) :
    Cached s (s.touchLineAs line 0 write full act) := by
  unfold State.touchLineAs
  extract_lets Q
  split
  · exact ((Counted.evQuad s Q 0x26 1).cached.trans (.setUnkeyed _ line false)).trans (.store _ (fun _ => rfl))
  · rename_i dirty old hline _
    have ho : old = 0 := h.2 _ hline
    rw [if_pos ho]
    exact (Counted.evQuad s Q 0x26 1).cached.trans (.ite (.setHalo _ line (fun _ he => by cases he; rfl)) (.refl _))
  · exact State.fillLine_cached write full act h

theorem State.keyNow_of_plain {s : State} {line : Nat} (h : PlainLine s line) : s.keyNow line = 0#512 := by
  unfold State.keyNow
  split
  · rename_i slot hline
    rw [show slot = 0 from h.2 _ hline, State.keyOf_zero]
  · exact h.1

/-- A plain line reads as its bytes for a reader without a key (R230). -/
theorem State.lineView_of_plain {s : State} {line : Nat} (h : PlainLine s line) :
    s.lineView line 0#512 = s.readMem (256 * line) 256 :=
  if_pos (by rw [State.keyNow_of_plain h, decide_eq_true rfl, Bool.true_or])

/-- The part of a line that a request within it names. -/
theorem State.readMem_in_line (s : State) {loc len : Nat} (h : loc % 256 + len ≤ 256) :
    ((s.readMem (256 * (loc / 256)) 256).drop (loc % 256)).take len = s.readMem loc len := by
  rw [State.readMem, Mem.take_drop_readN _ _ _ _ _ h, Nat.div_add_mod]; rfl

theorem spaceOf_eq_hbm {loc : Nat} (h : spaceOf loc = .hbm) : loc < 2 ^ 40 := by
  by_contra hl
  simp only [spaceOf, if_neg hl] at h
  repeat' split at h
  all_goals cases h

/-- What a request in plain memory reads are the bytes of memory, and its reading changes none (R3, R230). -/
theorem State.targetRead_plain {s : State} {r : Req} (h : PlainAt s r) (dram : Bool) :
    (s.targetRead r.loc r.len r.key r.mig dram).1 = s.readMem r.loc r.len ∧
      Cached s (s.targetRead r.loc r.len r.key r.mig dram).2 := by
  obtain ⟨hm, hl, hp⟩ := h
  unfold State.targetRead
  split
  case h_1 hs =>
    obtain ⟨hk, hline⟩ := hp.resolve_left (Nat.not_le.2 (spaceOf_eq_hbm hs))
    have hline : PlainLine s (r.loc / 256) := hline
    rw [hm, hk]
    cases dram with
    | true =>
      have hw := ((s.writeBack_cached (r.loc / 256)).trans (Counted.activate _ r.loc).cached).trans
        (Counted.evQuad _ (hbmQuad r.loc) 0x2C 1).cached
      refine ⟨?_, hw⟩
      simp only [Bool.false_eq_true, if_false, if_true]
      rw [State.keyOf_zero, State.lineView_of_plain (hw.plain _ hline), State.readMem_in_line _ hl, hw.readMem]
    | false =>
      have ht : Cached s (s.touchLine (r.loc / 256) 0 false false) := State.touchLineAs_cached _ _ _ hline
      exact ⟨ht.readMem _ _, ht⟩
  case h_2 => exact ⟨rfl, (Counted.evFieldN s _ _ _).cached⟩
  case h_3 => exact ⟨rfl, .refl s⟩

/-! ### Reading every request of an access -/

theorem State.countUrgent_counted (s : State) (p : Pend) (rs : List Req) : Counted s (s.countUrgent p rs) := by
  unfold State.countUrgent
  refine .ite (.refl s) ?_
  induction rs generalizing s with
  | nil => exact .refl s
  | cons r rs ih => exact Counted.trans (.ite (.evQuad s _ _ _) (.refl s)) (ih _)

/-- One request of an access read at its target. -/
def State.readReq (p : Pend) (dram : Bool) (acc : List (Req × List Byte) × State) (r : Req) : List (Req × List Byte) × State :=
  let q := acc.2.targetRead r.loc r.len r.key r.mig dram
  (acc.1 ++ [(r, q.1)], q.2.leaveBackoff (.req p.id r.k))

theorem State.readReqs_eq (s : State) (p : Pend) (dram : Bool) :
    s.readReqs p dram = p.reqs.foldl (State.readReq p dram) ([], s.countUrgent p p.reqs) := rfl

/-- What the requests of an access in plain memory read, in their order. -/
def State.bytesAt (s : State) (rs : List Req) : List (Req × List Byte) := rs.map (fun r => (r, s.readMem r.loc r.len))

theorem Cached.bytesAt {s t : State} (h : Cached s t) (rs : List Req) : t.bytesAt rs = s.bytesAt rs := by
  simp only [State.bytesAt, h.readMem]

theorem State.foldl_readReq_plain (p : Pend) (dram : Bool) (rs : List Req) (acc : List (Req × List Byte) × State)
    (h : ∀ r ∈ rs, PlainAt acc.2 r) :
    (rs.foldl (State.readReq p dram) acc).1 = acc.1 ++ acc.2.bytesAt rs ∧ Cached acc.2 (rs.foldl (State.readReq p dram) acc).2 := by
  induction rs generalizing acc with
  | nil => exact ⟨(List.append_nil _).symm, .refl _⟩
  | cons r rs ih =>
    obtain ⟨hr, hrs⟩ := List.forall_mem_cons.1 h
    obtain ⟨hb, hc⟩ := State.targetRead_plain hr dram
    have hc : Cached acc.2 (State.readReq p dram acc r).2 := hc.trans (Counted.leaveBackoff _ _).cached
    obtain ⟨ihb, ihc⟩ := ih (State.readReq p dram acc r) (fun q hq => hc.plainAt (hrs q hq))
    refine ⟨?_, hc.trans ihc⟩
    rw [List.foldl_cons, ihb, hc.bytesAt]
    simp only [State.readReq, hb, State.bytesAt, List.map_cons, List.append_assoc, List.singleton_append]

/-- Reading every request of an access in plain memory gives the bytes of memory and changes none. -/
theorem State.readReqs_plain {s : State} {p : Pend} (dram : Bool) (h : ∀ r ∈ p.reqs, PlainAt s r) :
    (s.readReqs p dram).1 = s.bytesAt p.reqs ∧ Cached s (s.readReqs p dram).2 := by
  have hu := (s.countUrgent_counted p p.reqs).cached
  obtain ⟨hb, hc⟩ := State.foldl_readReq_plain p dram p.reqs ([], s.countUrgent p p.reqs) (fun r hr => hu.plainAt (h r hr))
  rw [State.readReqs_eq, hb, hu.bytesAt]
  exact ⟨rfl, hu.trans hc⟩

end Sys2Proof.Machine
end

section
/-!
SUPPORT. Reads that are performed: tables after several writes, the marks on earlier accesses (spec/11 R275), and what is left of an
access once its requests have been read.
-/
namespace Sys2Proof

variable {α : Type} [DecidableEq α]

/-- Writes at `b + l` for the listed `l` read back at their own keys. -/
theorem Tab.get_foldl_set (d : α) (t : List (Nat × α)) (b : Nat) (f : Nat → α) (ls : List Nat) (l : Nat) :
    Tab.get d (ls.foldl (fun t l => Tab.set d t (b + l) (f l)) t) (b + l) = if l ∈ ls then f l else Tab.get d t (b + l) := by
  induction ls generalizing t with
  | nil => rfl
  | cons k ls ih =>
    rw [List.foldl_cons, ih, Tab.get_set]
    by_cases hl : l ∈ ls
    · simp [hl]
    · by_cases hk : l = k <;> simp [hl, hk]

/-- They leave every other key alone. -/
theorem Tab.get_foldl_set_other (d : α) (t : List (Nat × α)) (b : Nat) (f : Nat → α) (ls : List Nat) {k : Nat}
    (h : ∀ l ∈ ls, k ≠ b + l) : Tab.get d (ls.foldl (fun t l => Tab.set d t (b + l) (f l)) t) k = Tab.get d t k := by
  induction ls generalizing t with
  | nil => rfl
  | cons j ls ih =>
    obtain ⟨hj, hls⟩ := List.forall_mem_cons.1 h
    rw [List.foldl_cons, ih _ hls, Tab.get_set_other _ _ _ hj]

theorem Tab.setAll_map (d : α) (t : List (Nat × α)) (f : Nat → α) (ls : List Nat) :
    Tab.setAll d t (ls.map (fun l => (l, f l))) = ls.foldl (fun t l => Tab.set d t (0 + l) (f l)) t := by
  induction ls generalizing t with
  | nil => rfl
  | cons l ls ih => rw [List.map_cons, Tab.setAll, ih, List.foldl_cons, Nat.zero_add]

end Sys2Proof

namespace Sys2Proof.Machine
open Sys2Proof.Claims

/-! ### Marks -/

/-- A release or acquire narrower than the package is what sets marks (R275; log entry 92). -/
def Pend.wide (p : Pend) : Prop := 4 ≤ p.scope.code.toNat ∨ p.rel = false ∧ p.acq = false

/-- An access but for its marks. -/
def Pend.unmarked (p : Pend) : Pend := { p with marks := [] }

/-- From `s` to `t` only marks are set on accesses, and none where no access has an ordering narrower than the package. -/
structure Marked (s t : State) : Prop where
  shape : t = { s with pend := t.pend, nextId := t.nextId }
  same : t.pend.map Pend.unmarked = s.pend.map Pend.unmarked
  wide : (∀ q ∈ s.pend, q.wide) → t = s

namespace Marked

variable {s t : State}

theorem refl (s : State) : Marked s s := ⟨rfl, rfl, fun _ => rfl⟩
theorem slots (h : Marked s t) : t.slots = s.slots := by rw [h.shape]
theorem bands (h : Marked s t) : t.bands = s.bands := by rw [h.shape]
theorem mem (h : Marked s t) : t.mem = s.mem := by rw [h.shape]
theorem bytesAt (h : Marked s t) (rs : List Req) : t.bytesAt rs = s.bytesAt rs := by
  simp only [State.bytesAt, State.readMem, h.mem]
theorem plainAt (h : Marked s t) {r : Req} (hr : PlainAt s r) : PlainAt t r := by
  unfold PlainAt
  rw [h.shape]
  exact hr

/-- Without an access goes the same access on both sides. -/
theorem gone (h : Marked s t) (id : Nat) :
    SameAccesses s (t.pend.filter (fun q => q.id ≠ id)) (s.pend.filter (fun q => q.id ≠ id)) := by
  refine ⟨?_, fun hw => by rw [h.wide hw]⟩
  have hf (ps : List Pend) : (ps.filter (fun q => q.id ≠ id)).map Pend.unmarked = (ps.map Pend.unmarked).filter (fun q => q.id ≠ id) :=
    (List.filter_map (f := Pend.unmarked) (p := fun q => decide (q.id ≠ id))).symm
  exact (hf _).trans ((congrArg (List.filter _) h.same).trans (hf _).symm)

end Marked

theorem State.markAt_of_none {s : State} {c : Scope} {which : Pend → Bool} (h : ∀ q ∈ s.pend, which q = false) :
    s.markAt c which = s := by
  unfold State.markAt
  refine if_neg ?_
  rw [List.any_eq_true]
  rintro ⟨q, hq, hw⟩
  simp [h q hq] at hw

/-- Where every access of the machine and `p` itself is wide, none comes before `p` in a narrow scope. -/
theorem State.narrowBefore_of_wide {s : State} {p : Pend} {c : Scope} (hc : c.code.toNat < 4) (hp : p.wide)
    (h : ∀ q ∈ s.pend, q.wide) (q : Pend) : s.narrowBefore p q c = false := by
  have no {x : Pend} (hx : x.wide) (hs : x.scope = c) : x.rel = false ∧ x.acq = false := hx.resolve_left (by rw [hs]; omega)
  have hrel : (p.rel && decide (p.scope = c)) = false := by
    simpa using fun hr hs => Bool.false_ne_true ((no hp hs).1.symm.trans hr)
  have hacq : s.pend.any (fun x => x.slot == p.slot && x.path == p.path && decide (x.order < p.order) &&
      decide (q.order ≤ x.order) && x.acq && decide (x.scope = c)) = false := by
    rw [List.any_eq_false]
    intro x hx ht
    simp only [Bool.and_eq_true, decide_eq_true_eq] at ht
    exact Bool.false_ne_true ((no (h x hx) ht.2).2.symm.trans ht.1.2)
  rw [State.narrowBefore, hrel, hacq, Bool.or_false, Bool.and_false]

/-- One more scope's marks: none where every access of the machine is wide. -/
theorem Marked.markAt {s u : State} (h : Marked s u) (c : Scope) (which : Pend → Bool)
    (hw : (∀ q ∈ s.pend, q.wide) → ∀ q ∈ u.pend, which q = false) : Marked s (u.markAt c which) := by
  refine ⟨?_, .trans ?_ h.same, fun hq => (State.markAt_of_none (hw hq)).trans (h.wide hq)⟩
  · have hu : u.markAt c which = { u with pend := (u.markAt c which).pend, nextId := (u.markAt c which).nextId } := by
      unfold State.markAt
      extract_lets hit
      split <;> rfl
    generalize u.markAt c which = v at hu ⊢
    rw [h.shape] at hu
    exact hu
  · unfold State.markAt
    extract_lets hit
    split
    · rw [List.map_map]
      refine List.map_congr_left (fun q _ => ?_)
      rw [Function.comp_apply]
      split <;> rfl
    · rfl

theorem Marked.foldl_markAt {s u : State} {p : Pend} (hp : p ∈ s.pend) (cs : List Scope) (hcs : ∀ c ∈ cs, c.code.toNat < 4)
    (h : Marked s u) : Marked s (cs.foldl (fun s c => s.markAt c (fun q => s.narrowBefore p q c)) u) := by
  induction cs generalizing u with
  | nil => exact h
  | cons c cs ih =>
    obtain ⟨hc, hcs⟩ := List.forall_mem_cons.1 hcs
    refine ih hcs (h.markAt c _ (fun hw q _ => ?_))
    rw [h.wide hw]
    exact State.narrowBefore_of_wide hc (hw p hp) hw q

theorem State.markEarlier_marked {s : State} {p : Pend} (hp : p ∈ s.pend) : Marked s (s.markEarlier p) :=
  Marked.foldl_markAt hp _ (by decide) (.refl s)

/-! ### The outstanding access found by its number -/

theorem State.mem_of_findPend {s : State} {id : Nat} {p : Pend} (h : s.findPend id = some p) : p ∈ s.pend :=
  List.mem_of_find?_eq_some h

theorem State.id_of_findPend {s : State} {id : Nat} {p : Pend} (h : s.findPend id = some p) : p.id = id := by
  simpa using List.find?_some h

/-! ### A read that is performed -/

/-- An access that has been read is gone, and no row slot, band or byte of memory has changed. -/
structure ReadDone (s u : State) (id : Nat) : Prop where
  gone : Gone s u id
  slots : u.slots = s.slots
  bands : u.bands = s.bands
  mem : u.mem = s.mem

/-- A read that may be performed reads the bytes of memory at its requests and delivers them (R239). -/
theorem State.performRead_of_clear {s : State} {id : Nat} {p : Pend} (hf : s.findPend id = some p) (hc : Clear s p p.reqs)
    (hp : ∀ r ∈ p.reqs, PlainAt s r) (hb : NoBackOff s p p.reqs) (dram : Bool) (f : List (Req × List Byte) → State → State) :
    ∃ u, s.performRead p dram f = f (s.bytesAt p.reqs) u ∧ ReadDone s u id := by
  obtain ⟨-, -, -, ho, -⟩ := hc
  have hid := State.id_of_findPend hf
  have hm := State.markEarlier_marked (State.mem_of_findPend hf)
  obtain ⟨hbytes, hcached⟩ := State.readReqs_plain dram (fun r hr => hm.plainAt (hp r hr))
  refine ⟨((s.markEarlier p).readReqs p dram).2.dropPend id, ?_, ?_, ?_, ?_, ?_⟩
  · simp only [State.performRead, State.atBanks, State.bankOlder_of_noOlder ho,
      State.stalledReqs_of_noBackOff dram hb (fun r hr => (hp r hr).1), hbytes, hm.bytesAt, hid]
    rfl
  · have h := hm.gone id
    rw [← hcached.pend] at h
    exact h
  · exact hcached.slots.trans hm.slots
  · exact hcached.bands.trans hm.bands
  · exact hcached.mem.trans hm.mem

namespace ReadDone

variable {s u : State} {id k : Nat}

theorem slot (h : ReadDone s u id) (j : Nat) : u.slot j = s.slot j := by rw [State.slot, h.slots]; rfl
theorem byte (h : ReadDone s u id) (loc : Nat) : u.byte loc = s.byte loc := by rw [State.byte, h.mem]; rfl

theorem takesResults (h : ReadDone s u id) {p : Pend} {rs : List Req} (hc : Clear s p rs) : u.takesResults p.band = true := by
  have := State.takesResults_of_clear hc
  unfold State.takesResults State.band? at this ⊢
  rw [h.bands]
  exact this

/-- Delivery to one slot changes that slot only. -/
theorem deliver (h : ReadDone s u id) {f : Slot → Slot} {P : Slot → Slot → Prop} (hP : P (s.slot k) (f (s.slot k))) :
    Gone s (u.modSlot k f) id ∧ OnlySlot s (u.modSlot k f) k P := by
  refine ⟨h.gone, fun j hj => ?_, h.bands, h.byte, ?_⟩
  · rw [State.slot_modSlot_other _ _ hj, h.slot]
  · rw [State.slot_modSlot_same, h.slot]
    exact hP

end ReadDone

end Sys2Proof.Machine
end

section
/-!
SUPPORT. Full/empty bits and pending marks of single registers (spec/05 R107, R108).
-/
namespace Sys2Proof.Machine
open Sys2Proof.Claims

/-! ### Registers that take a long-latency result -/

/-- A register without an empty bit is never empty. -/
theorem Slot.isEmpty_of_not_hasEmpty (c : Slot) {code : Nat} (h : hasEmpty code = false) : c.isEmpty code = false := by
  simp only [hasEmpty, Bool.or_eq_false_iff, Bool.and_eq_false_imp, decide_eq_true_eq, decide_eq_false_iff_not] at h
  by_cases h0 : code = 0
  · subst h0; rfl
  · unfold Slot.isEmpty
    rw [if_neg (by omega), if_neg (by omega), if_neg (by omega), if_neg (by omega)]
    split
    · rfl
    · rw [if_neg (by omega)]

theorem Slot.setEmpty_codeX (c : Slot) {i : Nat} (h : i < 32) (h0 : i ≠ 0) (b : Bool) :
    c.setEmpty (codeX i) b = { c with xEmpty := setBit c.xEmpty i b } := by
  unfold Slot.setEmpty codeX
  rw [if_neg h0, if_pos h]

theorem Slot.setPend_codeX (c : Slot) {i : Nat} (h : i < 32) (h0 : i ≠ 0) (b : Bool) :
    c.setPend (codeX i) b = { c with xPend := setBit c.xPend i b } := by
  unfold Slot.setPend codeX
  rw [if_neg h0, if_pos h]

theorem Slot.setEmpty_codeV (c : Slot) {i : Nat} (h : i < 64) (b : Bool) :
    c.setEmpty (codeV i) b = { c with vEmpty := setBit c.vEmpty i b } := by
  unfold Slot.setEmpty codeV
  rw [if_neg (by omega), if_neg (by omega), if_pos (by omega), Nat.add_sub_cancel_left]

theorem Slot.setPend_codeV (c : Slot) {i : Nat} (h : i < 64) (b : Bool) :
    c.setPend (codeV i) b = { c with vPend := setBit c.vPend i b } := by
  unfold Slot.setPend codeV
  rw [if_neg (by omega), if_neg (by omega), if_pos (by omega), Nat.add_sub_cancel_left]

theorem Slot.setEmpty_codeW (c : Slot) {i : Nat} (h : i < 4) (b : Bool) :
    c.setEmpty (codeW i) b = { c with wEmpty := setBit c.wEmpty i b } := by
  unfold Slot.setEmpty codeW
  repeat rw [if_neg (by omega)]
  rw [if_pos (by omega), Nat.add_sub_cancel_left]

theorem Slot.setPend_codeW (c : Slot) {i : Nat} (h : i < 4) (b : Bool) :
    c.setPend (codeW i) b = { c with wPend := setBit c.wPend i b } := by
  unfold Slot.setPend codeW
  repeat rw [if_neg (by omega)]
  rw [if_pos (by omega), Nat.add_sub_cancel_left]

theorem Slot.setEmpty_codeD (c : Slot) {i : Nat} (h : i < 8) (b : Bool) :
    c.setEmpty (codeD i) b = { c with dEmpty := setBit c.dEmpty i b } := by
  unfold Slot.setEmpty codeD
  repeat rw [if_neg (by omega)]
  rw [if_pos (by omega), Nat.add_sub_cancel_left]

theorem Slot.setPend_codeD (c : Slot) {i : Nat} (h : i < 8) (b : Bool) :
    c.setPend (codeD i) b = { c with dPend := setBit c.dPend i b } := by
  unfold Slot.setPend codeD
  repeat rw [if_neg (by omega)]
  rw [if_pos (by omega), Nat.add_sub_cancel_left]

/-- Setting or clearing a pending mark touches the four masks only. -/
theorem Slot.setPend_shape (c : Slot) (code : Nat) (b : Bool) : c.setPend code b =
    { c with xPend := (c.setPend code b).xPend, dPend := (c.setPend code b).dPend, vPend := (c.setPend code b).vPend,
             wPend := (c.setPend code b).wPend } := by
  unfold Slot.setPend
  repeat' split
  all_goals rfl

@[simp] theorem Slot.isEmpty_setPend (c : Slot) (code : Nat) (b : Bool) (i : Nat) : (c.setPend code b).isEmpty i = c.isEmpty i := by
  rw [Slot.setPend_shape]; rfl

/-- Full/empty bits leave pending marks alone. -/
@[simp] theorem Slot.isPend_setEmpty (c : Slot) (code : Nat) (b : Bool) (i : Nat) : (c.setEmpty code b).isPend i = c.isPend i := by
  rw [Slot.setEmpty_shape]; rfl

/-- Clearing a register's pending mark leaves that of every other. -/
theorem Slot.isPend_setPend_false (c : Slot) (code i : Nat) :
    (c.setPend code false).isPend i = (c.isPend i && decide (i ≠ code)) := by
  unfold Slot.setPend
  split_ifs <;> simp only [Slot.isPend, getLsbD_setBit]
  all_goals grind

/-- A register that has its long-latency result is full, and nothing is pending (R108). -/
theorem Slot.filled_produced (c : Slot) (code : Nat) : Filled code c (c.produced code) := by
  intro i _
  refine ⟨?_, ?_⟩
  · rw [Slot.produced, Slot.isEmpty_setPend, Slot.isEmpty_setEmpty]
    by_cases hi : i = code
    · subst hi
      cases h : hasEmpty i
      · simp [Slot.isEmpty_of_not_hasEmpty c h]
      · simp
    · simp [hi]
  · rw [Slot.produced, Slot.isPend_setPend_false, Slot.isPend_setEmpty]

end Sys2Proof.Machine
end

section
/-!
SUPPORT. Results that reach registers and ports, and slots that go on (spec/05 R108, spec/03 R70, spec/08 R184).
-/
namespace Sys2Proof.Machine
open Sys2Proof.Claims

/-! ### Deliveries to registers -/

theorem mem_lanesOf {m : Mask} {l : Nat} : l ∈ lanesOf m ↔ l < 64 ∧ m.getLsbD l = true := by
  simp [lanesOf]

theorem Slot.clearErr_shape (c : Slot) (code : Nat) : c.clearErr code = { c with softErr := (c.clearErr code).softErr } := by
  unfold Slot.clearErr
  split <;> rfl

/-- A scalar result leaves its register full with it, and nothing else of the slot changed; x0 discards it. -/
theorem Slot.filledX_deliverX (c : Slot) {d : Nat} (hd : d < 32) (w : Word) : FilledX d w c (c.deliverX d w) := by
  by_cases h0 : d = 0
  · subst h0
    refine ⟨rfl, c.filled_produced (codeX 0), fun i _ => ?_⟩
    simp [Slot.deliverX, Slot.setX, Slot.setPend, codeX]
  · have hs : c.deliverX d w = { c.produced (codeX d) with
        x := Tab.set 0#64 c.x d w, softErr := (c.deliverX d w).softErr } := by
      rw [Slot.deliverX, Slot.setX, if_neg h0, Slot.clearErr_shape, Slot.setPend_codeX _ hd h0, Slot.produced,
        Slot.setEmpty_codeX _ hd h0, Slot.setPend_codeX _ hd h0]
    refine ⟨?_, ?_, fun i _ => ?_⟩
    · rw [hs, Slot.produced, Slot.setEmpty_codeX _ hd h0, Slot.setPend_codeX _ hd h0]
    · rw [hs]; exact c.filled_produced (codeX d)
    · rw [hs]
      simp only [Slot.xr, Tab.get_set]
      split_ifs <;> simp_all

/-- A descriptor leaves its register full with it, and nothing else of the slot changed. -/
theorem Slot.filledD_deliverD (c : Slot) {d : Nat} (hd : d < 8) (w : Desc) : FilledD d w c (c.deliverD d w) := by
  have hs : c.deliverD d w = { c.produced (codeD d) with
      d := Tab.set 0#512 c.d d w, softErr := (c.deliverD d w).softErr } := by
    rw [Slot.deliverD, Slot.setD, Slot.clearErr_shape, Slot.setPend_codeD _ hd, Slot.produced, Slot.setEmpty_codeD _ hd,
      Slot.setPend_codeD _ hd]
  refine ⟨?_, ?_, fun i _ => ?_⟩
  · rw [hs, Slot.produced, Slot.setEmpty_codeD _ hd, Slot.setPend_codeD _ hd]
  · rw [hs]; exact c.filled_produced (codeD d)
  · rw [hs]; exact Tab.get_set _ _ _ _ _

theorem Slot.foldl_setV (c : Slot) (d : Nat) (f : Nat → LaneReg) (ls : List Nat) :
    ls.foldl (fun c l => c.setV d l (f l)) c =
      { c with v := ls.foldl (fun t l => Tab.set LaneReg.zero t (64 * d + l) (f l)) c.v } := by
  induction ls generalizing c with
  | nil => rfl
  | cons l ls ih => rw [List.foldl_cons, ih]; rfl

theorem Slot.foldl_setW (c : Slot) (d : Nat) (f : Nat → WReg) (ls : List Nat) :
    ls.foldl (fun c l => c.setW d l (f l)) c =
      { c with w := ls.foldl (fun t l => Tab.set WReg.zero t (64 * d + l) (f l)) c.w } := by
  induction ls generalizing c with
  | nil => rfl
  | cons l ls ih => rw [List.foldl_cons, ih]; rfl

/-- A register file of 64 lanes after writes to the lanes of a mask of one register. -/
theorem Tab.get_lanes {α : Type} [DecidableEq α] (z : α) (t : List (Nat × α)) (d : Nat) (m : Mask) (f : Nat → α) {i l : Nat}
    (hl : l < 64) : Tab.get z ((lanesOf m).foldl (fun t l => Tab.set z t (64 * d + l) (f l)) t) (64 * i + l) =
      if i = d ∧ m.getLsbD l = true then f l else Tab.get z t (64 * i + l) := by
  by_cases hi : i = d
  · subst hi
    simp [Tab.get_foldl_set, mem_lanesOf, hl]
  · rw [if_neg (fun h => hi h.1)]
    refine Tab.get_foldl_set_other z t _ f _ (fun k hk => ?_)
    have := (mem_lanesOf.1 hk).1
    omega

/-- A lane result leaves its register full with it in the lanes of the mask, and nothing else of the slot changed. -/
theorem Slot.filledV_deliverV (c : Slot) {d : Nat} (hd : d < 64) (m : Mask) (f : Nat → LaneReg) :
    FilledV d m f c (c.deliverV d m f) := by
  have hs : c.deliverV d m f = { c.produced (codeV d) with
      v := (lanesOf m).foldl (fun t l => Tab.set LaneReg.zero t (64 * d + l) (f l)) c.v
      softErr := (c.deliverV d m f).softErr } := by
    simp only [Slot.deliverV, Slot.foldl_setV, Slot.produced, Slot.setEmpty_codeV _ hd, Slot.setPend_codeV _ hd]
    split
    · rw [Slot.clearErr_shape]
    · rfl
  refine ⟨?_, ?_, fun i l _ hl => ?_⟩
  · rw [hs, Slot.produced, Slot.setEmpty_codeV _ hd, Slot.setPend_codeV _ hd]
  · rw [hs]; exact c.filled_produced (codeV d)
  · rw [hs]; exact Tab.get_lanes _ _ _ _ _ hl

/-- A stationary register takes values in the lanes of a mask: full, nothing pending, nothing else of the slot changed. -/
def FilledW (d : Nat) (m : Mask) (val : Nat → WReg) (c c' : Slot) : Prop :=
  c' = { c with w := c'.w, wEmpty := c'.wEmpty, wPend := c'.wPend, softErr := c'.softErr } ∧ Filled (codeW d) c c' ∧
  ∀ i l, i < 4 → l < 64 → c'.wr i l = if i = d ∧ m.getLsbD l = true then val l else c.wr i l

theorem Slot.filledW_deliverW (c : Slot) {d : Nat} (hd : d < 4) (m : Mask) (f : Nat → WReg) :
    FilledW d m f c (c.deliverW d m f) := by
  have hs : c.deliverW d m f = { c.produced (codeW d) with
      w := (lanesOf m).foldl (fun t l => Tab.set WReg.zero t (64 * d + l) (f l)) c.w
      softErr := (c.deliverW d m f).softErr } := by
    simp only [Slot.deliverW, Slot.foldl_setW, Slot.produced, Slot.setEmpty_codeW _ hd, Slot.setPend_codeW _ hd]
    split
    · rw [Slot.clearErr_shape]
    · rfl
  refine ⟨?_, ?_, fun i l _ hl => ?_⟩
  · rw [hs, Slot.produced, Slot.setEmpty_codeW _ hd, Slot.setPend_codeW _ hd]
  · rw [hs]; exact c.filled_produced (codeW d)
  · rw [hs]; exact Tab.get_lanes _ _ _ _ _ hl

/-- The value that an access puts in its reserved entry of the south port (R184). -/
def portValue (m : Mask) (f : Nat → LaneReg) : PortVal :=
  ⟨false, .v (Tab.ofList LaneReg.zero ((lanesOf m).map (fun l => (l, f l)))), false⟩

theorem portValue_lane (m : Mask) (f : Nat → LaneReg) {l : Nat} (hl : l < 64) :
    (portValue m f).lane l = if m.getLsbD l = true then f l else LaneReg.zero := by
  have h := Tab.get_foldl_set LaneReg.zero [] 0 f (lanesOf m) l
  rw [← Tab.setAll_map, Nat.zero_add] at h
  exact h.trans (by simp [mem_lanesOf, hl, Tab.get])

theorem Slot.filledPort_fillReserved (c : Slot) (id : Nat) (m : Mask) (f : Nat → LaneReg) :
    FilledPort id m f c (c.fillReserved id (portValue m f)) :=
  ⟨portValue m f, rfl, rfl, rfl, fun _ hl => portValue_lane m f hl, rfl⟩

/-- A lane result reaches its register or its port entry. -/
theorem State.deliverLanes_eq {s : State} {p : Pend} (d : Nat) (f : BitVec 8 → Nat → LaneReg) (h : s.takesResults p.band = true) :
    ∃ g : Slot → Slot, s.deliverLanes p d f = s.modSlot p.slot g ∧ ∀ c, FilledTo d p.id p.mask f c (g c) := by
  unfold State.deliverLanes FilledTo
  rw [h]
  by_cases hd : d < 64
  · simp only [hd, if_true]
    exact ⟨_, rfl, fun c => c.filledV_deliverV hd _ _⟩
  · simp only [hd, if_false]
    exact ⟨_, rfl, fun c => c.filledPort_fillReserved _ _ _⟩

/-! ### A slot that goes on -/

theorem hasEmpty_eq_hasBit (code : Nat) : hasEmpty code = hasBit code := rfl

theorem Slot.foldl_setEmpty_shape (c : Slot) (xs : List Nat) : xs.foldl (fun c x => c.setEmpty x true) c =
    { c with
      xEmpty := (xs.foldl (fun c x => c.setEmpty x true) c).xEmpty, dEmpty := (xs.foldl (fun c x => c.setEmpty x true) c).dEmpty
      vEmpty := (xs.foldl (fun c x => c.setEmpty x true) c).vEmpty, wEmpty := (xs.foldl (fun c x => c.setEmpty x true) c).wEmpty
      aEmpty := (xs.foldl (fun c x => c.setEmpty x true) c).aEmpty } := by
  induction xs generalizing c with
  | nil => rfl
  | cons x xs ih =>
    rw [List.foldl_cons, ih, Slot.setEmpty_shape c x true]

theorem Slot.isEmpty_foldl_setEmpty (c : Slot) (xs : List Nat) (code : Nat) :
    (xs.foldl (fun c x => c.setEmpty x true) c).isEmpty code = (c.isEmpty code || (hasBit code && decide (code ∈ xs))) := by
  induction xs generalizing c with
  | nil => simp
  | cons x xs ih =>
    rw [List.foldl_cons, ih, Slot.isEmpty_setEmpty, ← hasEmpty_eq_hasBit]
    by_cases hx : code = x
    · subst hx; cases hasEmpty code <;> simp
    · simp [hx]

/-- The takes of a word that has waited (R70). -/
theorem Slot.tookLate_takeLate (c : Slot) : TookLate c c.takeLate := by
  refine ⟨?_, fun code _ => c.isEmpty_foldl_setEmpty c.late code⟩
  unfold Slot.takeLate
  rw [Slot.foldl_setEmpty_shape]

theorem Slot.goto_eq_goesTo (c : Slot) (t : Word) : c.goto t = goesTo c t := by
  have hp : (t.setWidth 57).setWidth 64 = t &&& 0x01FFFFFFFFFFFFFF := by
    apply BitVec.eq_of_toNat_eq
    rw [BitVec.toNat_and, show (0x01FFFFFFFFFFFFFF : Word).toNat = 2 ^ 57 - 1 from rfl, Nat.and_two_pow_sub_one_eq_mod,
      BitVec.toNat_setWidth, BitVec.toNat_setWidth]
    omega
  have hh : t.extractLsb' 57 7 = BitVec.ofNat 7 (t.toNat / 2 ^ 57) := by
    rw [BitVec.extractLsb', Nat.shiftRight_eq_div_pow]
  rw [Slot.goto, hp, hh]; rfl

theorem Slot.goesOn_goOn (c : Slot) : GoesOn c c.goOn :=
  ⟨c.takeLate, c.tookLate_takeLate, by rw [Slot.goOn, Slot.goto_eq_goesTo]⟩

end Sys2Proof.Machine
end

section
/-!
PROOF. Completions of loads, descriptor loads, weight loads and pattern loads (statement O38).
-/
namespace Sys2Proof.Machine
open Sys2Proof.Claims

/-! ### The values that loads deliver -/

/-- The bytes that serve a lane are the number at its request's location. -/
theorem ofBytes_laneData (s : State) (rs : List Req) (l : Nat) : ofBytes (laneData (s.bytesAt rs) l) = Claims.laneNumber s rs l := by
  rw [laneData, State.bytesAt, List.find?_map, Claims.laneNumber, serving]
  simp only [Function.comp_def]
  cases rs.find? (fun r => r.lanes.contains l) with
  | none => rfl
  | some r => exact ofBytes_readMem s r.loc r.len

theorem ofBytes_onlyBytes (s : State) (rs : List Req) : ofBytes (onlyBytes (s.bytesAt rs)) = firstNumber s rs := by
  cases rs with
  | nil => rfl
  | cons r rs => exact ofBytes_readMem s r.loc r.len

theorem ofBytes_wldBlock (s : State) (rs : List Req) (isMeta : Bool) (l : Nat) :
    ofBytes (wldBlock (s.bytesAt rs) isMeta l) = Claims.laneNumber s (rs.filter (fun r => decide (64 ≤ r.k) == isMeta)) l := by
  rw [wldBlock, State.bytesAt, List.filter_map, ← ofBytes_laneData]; rfl

theorem laneBitsOf_eq_heldAs (f : Fmt) (b : Word) : laneBitsOf f b = heldAs f b := by
  unfold laneBitsOf heldAs
  split
  · apply BitVec.eq_of_toNat_eq
    rw [BitVec.toNat_and, show (0xFFFFFFFFFFFF#64 : Word).toNat = 2 ^ 48 - 1 from rfl, Nat.and_two_pow_sub_one_eq_mod,
      BitVec.toNat_ofNat]
    omega
  · rfl

theorem signedOf_eq_asInt (w n : Nat) : signedOf w n = asInt w false n := by
  simp [signedOf, asInt]

/-- A lane's loaded value (R239, R242; the unused bits of an ACC48 register by log entry 86). -/
theorem loadedLane_eq (s : State) (rs : List Req) (fmt : Fmt) (scale : List (Nat × BitVec 8)) (old : BitVec 8) (l : Nat) :
    loadedLane (s.bytesAt rs) fmt scale old l =
      ⟨heldAs fmt (BitVec.ofNat 64 (Claims.laneNumber s rs l)), fmt, (Tab.find scale l).getD old⟩ := by
  rw [loadedLane, ofBytes_laneData, laneBitsOf_eq_heldAs]

/-- A scalar load's value (R246). -/
theorem loadedX_eq (s : State) (rs : List Req) (sx : Bool) (w : Width) : loadedX sx w (onlyBytes (s.bytesAt rs)) =
    if sx then BitVec.ofInt 64 (asInt (8 * w.bytes) false (firstNumber s rs)) else BitVec.ofNat 64 (firstNumber s rs) := by
  rw [loadedX, ofBytes_onlyBytes, signedOf_eq_asInt]

/-- The register a WLD leaves in a lane (R191, R192). -/
theorem loadedW_eq (s : State) (rs : List Req) (fmt : Option Fmt) (kind : WKind) (old : WReg) (l : Nat) :
    loadedW (s.bytesAt rs) fmt kind old l =
      ⟨BitVec.ofNat 512 (Claims.laneNumber s (rs.filter (fun r => decide (64 ≤ r.k) == false)) l),
        if kind = .sp then BitVec.ofNat 128 (Claims.laneNumber s (rs.filter (fun r => decide (64 ≤ r.k) == true)) l) else 0,
        decide (kind = .sp), fmt.getD old.tag, old.scales⟩ := by
  rw [loadedW, ofBytes_wldBlock, ofBytes_wldBlock]; rfl

/-- Metadata without a reserved code give no bad lane (R192). -/
theorem wldBadLanes_eq_zero {s : State} {c : Slot} {d : Nat} {fmt : Option Fmt} {m : Mask} {rs : List Req}
    (h : ∀ l ∈ actives m, metaBad (fmt.getD (c.wr d l).tag)
      (BitVec.ofNat 128 (Claims.laneNumber s (rs.filter (fun r => decide (64 ≤ r.k) == true)) l)) = false) :
    wldBadLanes c d fmt m (s.bytesAt rs) = 0#64 := by
  have hnone : (lanesOf m).filter (fun l => metaBad (fmt.getD (c.wr d l).tag)
      (BitVec.ofNat 128 (ofBytes (wldBlock (s.bytesAt rs) true l)))) = [] := by
    rw [List.filter_eq_nil_iff]
    intro l hl
    rw [ofBytes_wldBlock, h l hl]
    exact Bool.false_ne_true
  rw [wldBadLanes, hnone]; rfl

/-! ### The end of a WLD -/

/-- The slot of a WLD after its end: its register filled, and where a sparse WLD held the slot, the slot going on (R191). -/
def WldEnded (d : Nat) (m : Mask) (val : Nat → WReg) (c c' : Slot) : Prop :=
  ∃ c1, (if c.wait = .wldSparse then GoesOn c1 c' else c' = c1) ∧ FilledW d m val c c1

theorem Slot.wldEnded (c : Slot) {d : Nat} (hd : d < 4) (m : Mask) (f : Nat → WReg) :
    WldEnded d m f c (c.deliverW d m f).endSparse := by
  have hfill := c.filledW_deliverW hd m f
  have hw : (c.deliverW d m f).wait = c.wait := by rw [hfill.1]
  refine ⟨c.deliverW d m f, ?_, hfill⟩
  rw [Slot.endSparse, hw]
  split
  · exact Slot.goesOn_goOn _
  · rfl

theorem State.countSparse_eq (u : State) (k : Nat) : u.countSparse k = { u with evc := (u.countSparse k).evc } := by
  unfold State.countSparse
  split <;> rfl

theorem ReadDone.countSparse {s u : State} {id : Nat} (h : ReadDone s u id) (k : Nat) : ReadDone s (u.countSparse k) id := by
  rw [State.countSparse_eq]
  exact ⟨h.gone, h.slots, h.bands, h.mem⟩

/-- A WLD without reserved metadata codes delivers (R191, R192). -/
theorem State.wldEnd_eq {u : State} {p : Pend} {d : Nat} {fmt : Option Fmt} {kind : WKind} {m : Mask}
    {rs : List (Req × List Byte)} (hbad : kind = .sp → wldBadLanes (u.slot p.slot) d fmt m rs = 0#64)
    (ht : u.takesResults p.band = true) : u.wldEnd p d fmt kind m rs =
      (u.countSparse p.slot).modSlot p.slot
        (fun c => (c.deliverW d m (fun l => loadedW rs fmt kind (c.wr d l) l)).endSparse) := by
  have h0 : (if kind = .sp then wldBadLanes (u.slot p.slot) d fmt m rs else 0#64) = 0#64 := by
    split
    · exact hbad ‹_›
    · rfl
  unfold State.wldEnd
  simp only [h0, ht]
  rfl

/-! ### Pattern loads -/

/-- Pattern loads of a field complete in the order they issued (R162). -/
theorem State.xbldFirst_of_oldest {s : State} {p : Pend} (h : ∀ q ∈ s.pend, q.op = p.op → p.id ≤ q.id) : s.xbldFirst p = true := by
  rw [State.xbldFirst, List.all_eq_true]
  intro q hq
  by_cases ho : q.op = p.op
  · simp [h q hq ho]
  · simp [ho]

theorem State.pattern_setPattern (s : State) (f g : Nat) {k j : Nat} (hk : k < 16) (hj : j < 16) (v : BitVec 512) :
    (s.setPattern f k v).pattern g j = if g = f ∧ j = k then v else s.pattern g j := by
  have hkey : 16 * g + j = 16 * f + k ↔ g = f ∧ j = k := by omega
  rw [State.pattern, State.setPattern, Tab.get_set]
  exact if_congr hkey rfl rfl

theorem xbldComplete_delivers {s : State} {id f k : Nat} {p : Pend} {r : Req} {rs : List Req} (hf : s.findPend id = some p)
    (hl : Live s) (ho : p.op = .xbld f k) (hr : p.reqs = r :: rs) (hk : k < 16)
    (hfirst : ∀ q ∈ s.pend, q.op = p.op → p.id ≤ q.id) :
    ∃ t, exec (.xbldComplete id) s = .next t ∧ Gone s t id ∧ t.slots = s.slots ∧ t.mem = s.mem ∧
      ∀ g j, j < 16 → t.pattern g j = if g = f ∧ j = k then BitVec.ofNat 512 (ofBytes r.data) else s.pattern g j := by
  refine ⟨(s.setPattern f k (BitVec.ofNat 512 (ofBytes r.data))).dropPend id, ?_, ⟨rfl, fun _ => rfl⟩, rfl, rfl,
    fun g j hj => State.pattern_setPattern s f g hk hj _⟩
  change execXbldComplete id s = _
  simp only [execXbldComplete, hf, ho, hr, State.live_of hl, State.xbldFirst_of_oldest hfirst, when]
  rfl

/-! ### Loads that may be performed -/

section
variable {id : Nat} {p : Pend} {s : State}

/-- A lane load that may be performed reads its requests and delivers their lanes. -/
theorem exec_loadComplete_lanes {d : Nat} {fmt : Fmt} {scale : List (Nat × BitVec 8)} {dram : Bool}
    (hf : s.findPend id = some p) (hm : s.mayPerform p p.reqs = true) (ho : p.op = .loadV d fmt scale dram) :
    exec (.loadComplete id) s =
      .next (s.performRead p dram (fun rs t => t.deliverLanes p d (fun old l => loadedLane rs fmt scale old l))) := by
  change execLoadComplete id s = _
  simp only [execLoadComplete, hf, hm, ho]
  rfl

theorem exec_loadComplete_scalar {d : Nat} {sx : Bool} {w : Width}
    (hf : s.findPend id = some p) (hm : s.mayPerform p p.reqs = true) (ho : p.op = .loadX d sx w) :
    exec (.loadComplete id) s =
      .next (s.performRead p false (fun rs t => t.deliverScalar p d (loadedX sx w (onlyBytes rs)))) := by
  change execLoadComplete id s = _
  simp only [execLoadComplete, hf, hm, ho]
  rfl

theorem exec_lddComplete {d : Nat} (hf : s.findPend id = some p) (hm : s.mayPerform p p.reqs = true) (ho : p.op = .ldd d) :
    exec (.lddComplete id) s = .next (s.performRead p false (fun rs t =>
      if t.takesResults p.band then t.modSlot p.slot (fun c => c.deliverD d (BitVec.ofNat 512 (ofBytes (onlyBytes rs)))) else t)) := by
  change execLddComplete id s = _
  simp only [execLddComplete, hf, hm, ho]
  rfl

theorem exec_wldComplete {d : Nat} {fmt : Option Fmt} {kind : WKind} {m : Mask}
    (hf : s.findPend id = some p) (hm : s.mayPerform p p.reqs = true) (ho : p.op = .wld d fmt kind m) :
    exec (.wldComplete id) s = .next (s.performRead p false (fun rs t => t.wldEnd p d fmt kind m rs)) := by
  change execWldComplete id s = _
  simp only [execWldComplete, hf, hm, ho]
  rfl

variable (hf : s.findPend id = some p) (hc : Clear s p p.reqs) (hp : ∀ r ∈ p.reqs, PlainAt s r) (hb : NoBackOff s p p.reqs)
include hf hc hp hb

/-- A read that ends in a change of its slot alone. -/
theorem performRead_delivers (dram : Bool) {f : List (Req × List Byte) → State → State} {P : Slot → Slot → Prop}
    (hdel : ∀ u, ReadDone s u id → ∃ v g, f (s.bytesAt p.reqs) u = v.modSlot p.slot g ∧ ReadDone s v id ∧
      P (s.slot p.slot) (g (s.slot p.slot))) :
    Gone s (s.performRead p dram f) id ∧ OnlySlot s (s.performRead p dram f) p.slot P := by
  obtain ⟨u, hu, hdone⟩ := State.performRead_of_clear hf hc hp hb dram f
  obtain ⟨v, g, hv, hdone', hP⟩ := hdel u hdone
  rw [hu, hv]
  exact hdone'.deliver hP

theorem loadComplete_delivers_lanes {d : Nat} {fmt : Fmt} {scale : List (Nat × BitVec 8)} {dram : Bool}
    (ho : p.op = .loadV d fmt scale dram) :
    ∃ t, exec (.loadComplete id) s = .next t ∧ Gone s t id ∧ OnlySlot s t p.slot (FilledTo d id p.mask (fun sc l =>
      ⟨heldAs fmt (BitVec.ofNat 64 (Claims.laneNumber s p.reqs l)), fmt, (Tab.find scale l).getD sc⟩)) := by
  refine ⟨_, exec_loadComplete_lanes hf (State.mayPerform_of_clear hc) ho,
    performRead_delivers hf hc hp hb dram (fun u hu => ?_)⟩
  obtain ⟨g, hg, hfill⟩ := State.deliverLanes_eq d (fun old l => loadedLane (s.bytesAt p.reqs) fmt scale old l) (hu.takesResults hc)
  simp only [loadedLane_eq, State.id_of_findPend hf] at hfill
  exact ⟨u, g, hg, hu, hfill _⟩

theorem loadComplete_delivers_scalar {d : Nat} {sx : Bool} {w : Width} (ho : p.op = .loadX d sx w) (hd : d < 32) :
    ∃ t, exec (.loadComplete id) s = .next t ∧ Gone s t id ∧ OnlySlot s t p.slot (FilledX d
      (if sx then BitVec.ofInt 64 (asInt (8 * w.bytes) false (firstNumber s p.reqs))
        else BitVec.ofNat 64 (firstNumber s p.reqs))) := by
  refine ⟨_, exec_loadComplete_scalar hf (State.mayPerform_of_clear hc) ho,
    performRead_delivers hf hc hp hb false (fun u hu => ⟨u, _, if_pos (hu.takesResults hc), hu, ?_⟩)⟩
  rw [loadedX_eq]
  exact Slot.filledX_deliverX _ hd _

theorem lddComplete_delivers {d : Nat} (ho : p.op = .ldd d) (hd : d < 8) :
    ∃ t, exec (.lddComplete id) s = .next t ∧ Gone s t id ∧
      OnlySlot s t p.slot (FilledD d (BitVec.ofNat 512 (firstNumber s p.reqs))) := by
  refine ⟨_, exec_lddComplete hf (State.mayPerform_of_clear hc) ho,
    performRead_delivers hf hc hp hb false (fun u hu => ⟨u, _, if_pos (hu.takesResults hc), hu, ?_⟩)⟩
  rw [ofBytes_onlyBytes]
  exact Slot.filledD_deliverD _ hd _

theorem wldComplete_delivers {d : Nat} {fmt : Option Fmt} {kind : WKind} {m : Mask} (ho : p.op = .wld d fmt kind m) (hd : d < 4)
    (hmeta : kind = .sp → ∀ l ∈ actives m, metaBad (fmt.getD ((s.slot p.slot).wr d l).tag)
      (BitVec.ofNat 128 (Claims.laneNumber s (p.reqs.filter (fun r => decide (64 ≤ r.k) == true)) l)) = false) :
    ∃ t, exec (.wldComplete id) s = .next t ∧ Gone s t id ∧ OnlySlot s t p.slot (fun c c' =>
      WldEnded d m (fun l => loadedW (s.bytesAt p.reqs) fmt kind (c.wr d l) l) c c') :=
  ⟨_, exec_wldComplete hf (State.mayPerform_of_clear hc) ho, performRead_delivers hf hc hp hb false (fun u hu =>
    ⟨u.countSparse p.slot, _, State.wldEnd_eq (fun hk => by rw [hu.slot]; exact wldBadLanes_eq_zero (hmeta hk)) (hu.takesResults hc),
      hu.countSparse _, Slot.wldEnded _ hd _ _⟩)⟩

end

end Sys2Proof.Machine

section
open Sys2Proof Sys2Proof.Machine

/-- Settles O38: each completion finds its access ready, reads the bytes of memory at its requests, and delivers them to its slot
alone; a pattern load holds its bytes already. -/
theorem loadsComplete : Obligations.LoadsComplete := by
  unfold Obligations.LoadsComplete
  refine ⟨⟨fun id p s hf hc hp => ⟨?_, ?_, ?_⟩, ?_⟩, ?_⟩
  · exact fun d fmt scale dram ho hb => loadComplete_delivers_lanes hf hc hp hb ho
  · exact fun d sx w ho hd hb => loadComplete_delivers_scalar hf hc hp hb ho hd
  · exact fun d ho hd hb => lddComplete_delivers hf hc hp hb ho hd
  · exact fun id f k p r rs s hf hl ho hr hk hfirst => xbldComplete_delivers hf hl ho hr hk hfirst
  · intro id d fmt kind m p s hf ho hd hc hp hb block tag hmeta
    have h := wldComplete_delivers hf hc hp hb ho hd hmeta
    simp only [loadedW_eq] at h
    exact h

end
end

section
/-!
SUPPORT. The magnitudes of floating-point codes (spec/02 R33, R34, Table 2.2): what each layout's codes stand for, that they rise
with the code, and that the model's exact values are the numbers the statements name.
-/
namespace Sys2Proof
open Sys2Proof.Claims

/-! ### Layouts -/

/-- The first code without sign that is no finite number. -/
def Layout.top (L : Layout) : Nat :=
  match L.spec with
  | .ieee => (2 ^ L.eb - 1) * 2 ^ L.mb
  | .e4m3 => 2 ^ (L.eb + L.mb) - 1
  | .none_ => 2 ^ (L.eb + L.mb)

/-- What the layouts of Table 2.2 have in common. -/
structure Layout.Sound (L : Layout) : Prop where
  eb : 2 ≤ L.eb
  mb : 1 ≤ L.mb

theorem Fmt.layout_sound {f : Fmt} {L : Layout} (h : f.layout = some L) : L.Sound := by
  cases f <;> simp only [Fmt.layout, Option.some.injEq, reduceCtorEq] at h <;> subst h <;> exact ⟨by decide, by decide⟩

theorem floatOf_of_layout {f : Fmt} {L : Layout} (h : f.layout = some L) : floatOf f = some (L.eb, L.mb, (L.bias : Int)) := by
  cases f <;> simp only [Fmt.layout, Option.some.injEq, reduceCtorEq] at h <;> subst h <;> rfl

theorem floatOf_of_no_layout {f : Fmt} (h : f.layout = none) : floatOf f = none := by
  cases f <;> first | rfl | simp [Fmt.layout] at h

theorem topCode_of_layout {f : Fmt} {L : Layout} (h : f.layout = some L) : topCode f = L.top := by
  cases f <;> simp only [Fmt.layout, Option.some.injEq, reduceCtorEq] at h <;> subst h <;> rfl

theorem bits_of_layout {f : Fmt} {L : Layout} (h : f.layout = some L) : f.bits = L.eb + L.mb + 1 := by
  cases f <;> simp only [Fmt.layout, Option.some.injEq, reduceCtorEq] at h <;> subst h <;> rfl

theorem hasNaN_of_layout {f : Fmt} {L : Layout} (h : f.layout = some L) : hasNaN f = !decide (L.spec = .none_) := by
  cases f <;> simp only [Fmt.layout, Option.some.injEq, reduceCtorEq] at h <;> subst h <;> rfl

theorem hasInf_of_layout {f : Fmt} {L : Layout} (h : f.layout = some L) : hasInf f = decide (L.spec = .ieee) := by
  cases f <;> simp only [Fmt.layout, Option.some.injEq, reduceCtorEq] at h <;> subst h <;> rfl

theorem nanCode_eq_nanOf (f : Fmt) : f.nanCode = nanOf f := by cases f <;> rfl

theorem flushOf_eq_flushes (fpmode : Word) (f : Fmt) : flushOf fpmode f = flushes fpmode f := by cases f <;> rfl

theorem Layout.signBit_eq {f : Fmt} {L : Layout} (h : f.layout = some L) (neg : Bool) :
    L.signBit neg = if neg then 2 ^ (f.bits - 1) else 0 := by
  rw [bits_of_layout h]; rfl

theorem Layout.maxCode_eq {L : Layout} (h : L.Sound) : L.maxCode = L.top - 1 := by
  obtain ⟨heb, hmb⟩ := h
  have he : 4 ≤ 2 ^ L.eb := Nat.pow_le_pow_right (n := 2) (by omega) heb
  have hm : 1 ≤ 2 ^ L.mb := Nat.one_le_two_pow
  unfold Layout.maxCode Layout.top
  cases L.spec with
  | ieee =>
    obtain ⟨a, ha⟩ : ∃ a, 2 ^ L.eb = a + 2 := ⟨2 ^ L.eb - 2, by omega⟩
    simp only [ha, Nat.add_sub_cancel, show a + 2 - 1 = a + 1 from rfl, Nat.add_mul]
    omega
  | e4m3 => rfl
  | none_ => rfl

theorem Layout.infCode_eq {L : Layout} (h : L.Sound) (neg : Bool) :
    L.infCode neg = L.signBit neg + if L.spec = .none_ then L.top - 1 else L.top := by
  have hm := Layout.maxCode_eq h
  unfold Layout.infCode Layout.nanCode Layout.top at *
  cases hs : L.spec <;> simp_all

theorem Layout.top_le {L : Layout} (h : L.Sound) : 2 * 2 ^ L.mb ≤ L.top ∧ L.top ≤ 2 ^ (L.eb + L.mb) := by
  obtain ⟨heb, hmb⟩ := h
  have he : 4 ≤ 2 ^ L.eb := Nat.pow_le_pow_right (n := 2) (by omega) heb
  have hm : 2 ^ 1 ≤ 2 ^ L.mb := Nat.pow_le_pow_right (by omega) hmb
  have hp : 4 * 2 ^ L.mb ≤ 2 ^ L.eb * 2 ^ L.mb := Nat.mul_le_mul_right _ he
  unfold Layout.top
  rw [pow_add]
  cases L.spec <;> simp only [Nat.sub_mul] <;> omega

/-! ### Magnitudes -/

theorem magnitude_line {mb : Nat} (bias : Int) {j N : Nat} (hN : N ≤ 2 ^ (mb + 1)) (hj : j = 0 ∨ 2 ^ mb ≤ N) :
    magnitude mb bias (j * 2 ^ mb + N) = (N : Rat) * 2 ^ (1 - bias - mb + j) := by
  have hpos : 0 < 2 ^ mb := Nat.two_pow_pos mb
  have hpow : 2 ^ (mb + 1) = 2 * 2 ^ mb := by rw [pow_succ]; omega
  rcases Nat.lt_or_ge N (2 ^ mb) with hlt | hge
  · obtain rfl : j = 0 := by omega
    have h0 : (0 * 2 ^ mb + N) / 2 ^ mb = 0 := by rw [Nat.zero_mul, Nat.zero_add]; exact Nat.div_eq_of_lt hlt
    rw [magnitude, if_pos h0]; simp
  · obtain ⟨F, rfl⟩ : ∃ F, N = 2 ^ mb + F := ⟨N - 2 ^ mb, by omega⟩
    rcases Nat.lt_or_ge F (2 ^ mb) with hF | hF
    · have hd : (j * 2 ^ mb + (2 ^ mb + F)) / 2 ^ mb = j + 1 := by
        rw [← Nat.add_assoc, ← Nat.succ_mul, Nat.mul_comm, Nat.mul_add_div hpos, Nat.div_eq_of_lt hF, Nat.add_zero]
      have hm : (j * 2 ^ mb + (2 ^ mb + F)) % 2 ^ mb = F := by
        rw [← Nat.add_assoc, ← Nat.succ_mul, Nat.mul_comm, Nat.mul_add_mod, Nat.mod_eq_of_lt hF]
      rw [magnitude, hd, hm, if_neg (by omega)]
      congr 2
      push_cast; ring
    · obtain rfl : F = 2 ^ mb := by omega
      have hd : (j * 2 ^ mb + (2 ^ mb + 2 ^ mb)) / 2 ^ mb = j + 2 := by
        rw [show j * 2 ^ mb + (2 ^ mb + 2 ^ mb) = (j + 2) * 2 ^ mb by ring]; exact Nat.mul_div_cancel _ hpos
      have hm : (j * 2 ^ mb + (2 ^ mb + 2 ^ mb)) % 2 ^ mb = 0 := by
        rw [show j * 2 ^ mb + (2 ^ mb + 2 ^ mb) = (j + 2) * 2 ^ mb by ring]; exact Nat.mul_mod_left _ _
      rw [magnitude, hd, hm, if_neg (by omega)]
      have h2 : (2 : Rat) ^ (((j + 2 : Nat) : Int) - bias - mb) = 2 * 2 ^ (1 - bias - mb + (j : Int)) := by
        rw [← zpow_one_add₀ (by norm_num)]; congr 1; push_cast; ring
      rw [h2]; push_cast; ring

/-- Every code is a multiple, of at most `mb + 1` bits, of the last place of its line. -/
theorem exists_line (mb k : Nat) : ∃ j N, k = j * 2 ^ mb + N ∧ N < 2 ^ (mb + 1) ∧ (j = 0 ∨ 2 ^ mb ≤ N) := by
  have hpos : 0 < 2 ^ mb := Nat.two_pow_pos mb
  have hpow : 2 ^ (mb + 1) = 2 * 2 ^ mb := by rw [pow_succ]; omega
  have hdm := Nat.div_add_mod k (2 ^ mb)
  have hml := Nat.mod_lt k hpos
  rcases Nat.eq_zero_or_pos (k / 2 ^ mb) with h0 | h0
  · exact ⟨0, k, by omega, by rw [h0] at hdm; omega, .inl rfl⟩
  · obtain ⟨d, hd⟩ : ∃ d, k / 2 ^ mb = d + 1 := ⟨k / 2 ^ mb - 1, by omega⟩
    refine ⟨d, 2 ^ mb + k % 2 ^ mb, ?_, by omega, .inr (by omega)⟩
    rw [hd, Nat.mul_add, Nat.mul_one, Nat.mul_comm] at hdm; omega

theorem magnitude_nonneg (mb : Nat) (bias : Int) (k : Nat) : 0 ≤ magnitude mb bias k := by
  unfold magnitude; split <;> positivity

theorem magnitude_lt_succ (mb : Nat) (bias : Int) (k : Nat) : magnitude mb bias k < magnitude mb bias (k + 1) := by
  obtain ⟨j, N, rfl, hN, hj⟩ := exists_line mb k
  rw [Nat.add_assoc, magnitude_line bias hN.le hj, magnitude_line bias (by omega) (by omega)]
  exact mul_lt_mul_of_pos_right (by push_cast; linarith) (by positivity)

theorem magnitude_strictMono (mb : Nat) (bias : Int) : StrictMono (magnitude mb bias) :=
  strictMono_nat_of_lt_succ (magnitude_lt_succ mb bias)

@[simp] theorem magnitude_zero (mb : Nat) (bias : Int) : magnitude mb bias 0 = 0 := by simp [magnitude]

theorem magnitude_pos {mb : Nat} {bias : Int} {k : Nat} : 0 < magnitude mb bias k ↔ 0 < k := by
  rw [← magnitude_zero mb bias]; exact (magnitude_strictMono mb bias).lt_iff_lt

end Sys2Proof
end

section
/-!
SUPPORT. RoundMag (spec/02 R47, R49): a magnitude that lies in the model as `m * 2^e`, or inside the interval above it, is brought
to one of its two neighbours among the multiples of `2^q` as the mode says.
-/
namespace Sys2Proof
open Sys2Proof.Claims

/-! ### Magnitudes given by comparison -/

/-- How the magnitude that the model holds as `m * 2^e`, `st` when it lies strictly inside the interval above, compares with a
number. -/
def cutOf (m : Nat) (e : Int) (st : Bool) (p : Rat) : Ordering :=
  if st then (if p ≤ (m : Rat) * 2 ^ e then .gt else .lt) else order ((m : Rat) * 2 ^ e) p

/-- The model's magnitude stands for the one given by `cut` in all comparisons with multiples of `2^g`; inside an open interval it
is that fine itself. -/
structure Encloses (cut : Rat → Ordering) (m : Nat) (e : Int) (st : Bool) (g : Int) : Prop where
  agrees : ∀ p : Nat, cut ((p : Rat) * 2 ^ g) = cutOf m e st ((p : Rat) * 2 ^ g)
  fine : st = true → e ≤ g

theorem Encloses.exact (m : Nat) (e g : Int) : Encloses (order ((m : Rat) * 2 ^ e)) m e false g :=
  ⟨fun _ => rfl, fun h => by cases h⟩

/-- A magnitude compared with a multiple of a finer power of two. -/
theorem cutOf_mul {m : Nat} {e : Int} {st : Bool} {a : Nat} :
    cutOf m e st ((a : Rat) * 2 ^ e) = if a < m ∨ (a = m ∧ st = true) then .gt else if a = m then .eq else .lt := by
  have hp : (0 : Rat) < 2 ^ e := by positivity
  have hle : (a : Rat) * 2 ^ e ≤ (m : Rat) * 2 ^ e ↔ a ≤ m := by rw [mul_le_mul_iff_left₀ hp]; exact Nat.cast_le
  have hlt : (m : Rat) * 2 ^ e < (a : Rat) * 2 ^ e ↔ m < a := by rw [mul_lt_mul_iff_left₀ hp]; exact Nat.cast_lt
  have heq : (m : Rat) * 2 ^ e = (a : Rat) * 2 ^ e ↔ m = a := by rw [mul_left_inj' hp.ne']; exact Nat.cast_inj
  unfold cutOf order
  cases st <;> simp only [hle, hlt, heq, Bool.false_eq_true, if_false, if_true, and_false, and_true, or_false]
  · split_ifs <;> first | rfl | omega
  · split_ifs <;> first | rfl | omega

theorem order_ne_lt {x y : Rat} : order x y ≠ .lt ↔ y ≤ x := by
  unfold order; split_ifs with h1 h2
  · simp [h1]
  · simp [h2]
  · simp [not_lt.1 h1]

theorem order_eq_lt {x y : Rat} : order x y = .lt ↔ x < y := by rw [← not_iff_not, not_lt]; exact order_ne_lt

theorem order_eq_eq {x y : Rat} : order x y = .eq ↔ x = y := by
  unfold order; split_ifs with h1 h2
  · simp [h1.ne]
  · simp [h2]
  · simp [h2]

theorem advance_eq_rngNext (s : Word) : advance s = rngNext s := rfl

theorem order_gt {x y : Rat} : order x y = .gt ↔ y < x := by
  unfold order; split_ifs with h1 h2
  · simp [h1.le]
  · simp [h2]
  · simp only [true_iff]; exact lt_of_le_of_ne (not_lt.1 h1) (Ne.symm h2)

/-! ### The rounded multiple -/

/-- What RoundMag gives for the multiple `N` of the last place `2^q` at or below the magnitude (R47, R49). -/
def roundedMul (mode : RMode) (neg : Bool) (cut : Rat → Ordering) (q : Int) (rng : Word) (N : Nat) : Nat × Bool × Word :=
  let inexact := decide (cut ((N : Rat) * 2 ^ q) ≠ .eq)
  (if inexact && goesUp mode neg cut ((N : Rat) * 2 ^ q) (2 ^ q) (decide (N % 2 = 1)) rng then N + 1 else N, inexact,
    if inexact && decide (mode = .sr) then advance rng else rng)

/-- A place that is at most that of the magnitude: nothing is rounded. -/
theorem roundMag_coarse (neg : Bool) (m : Nat) {e q : Int} (h : q ≤ e) (mode : RMode) (rng : Word) :
    roundMag neg m e false q mode rng = (m <<< (e - q).toNat, false, rng) := by
  rw [roundMag, if_pos ⟨h, rfl⟩]

/-- The fraction that LaneRandom draws (R50). -/
theorem fraction_eq (rng : Word) : fraction rng = ((rngNext rng >>> 40).toNat : Rat) / 2 ^ 24 := by
  rw [fraction, advance_eq_rngNext, BitVec.toNat_ushiftRight, Nat.shiftRight_eq_div_pow]

theorem draw_lt (rng : Word) : (rngNext rng >>> 40).toNat < 2 ^ 24 := by
  rw [BitVec.toNat_ushiftRight, Nat.shiftRight_eq_div_pow]
  exact Nat.div_lt_of_lt_mul (by have := (rngNext rng).isLt; omega)

/-- The carry out of the fraction's first 24 bits (R49): floor(|v|/u + t 2^-24) is the upper neighbour. -/
theorem carry_iff {r t S : Nat} (hS : 0 < S) (hr : r < S) (ht : t < 2 ^ 24) :
    (r * 2 ^ 24 / S + t) / 2 ^ 24 = if S * (2 ^ 24 - t) ≤ r * 2 ^ 24 then 1 else 0 := by
  have hf : r * 2 ^ 24 / S < 2 ^ 24 := Nat.div_lt_of_lt_mul (Nat.mul_lt_mul_of_pos_right hr (by norm_num))
  have hle : 2 ^ 24 - t ≤ r * 2 ^ 24 / S ↔ S * (2 ^ 24 - t) ≤ r * 2 ^ 24 := by
    rw [Nat.le_div_iff_mul_le hS, Nat.mul_comm]
  simp only [← hle]
  generalize r * 2 ^ 24 / S = f at *
  split_ifs <;> omega

theorem carry_le_one {r t sh : Nat} (hr : r < 2 ^ sh) (ht : t < 2 ^ 24) : ((r <<< 24) >>> sh + t) / 2 ^ 24 ≤ 1 := by
  rw [Nat.shiftLeft_eq, Nat.shiftRight_eq_div_pow, carry_iff (Nat.two_pow_pos sh) hr ht]
  split_ifs <;> omega

/-! ### Comparisons at the points that a rounding looks at -/

section
variable {cut : Rat → Ordering} {m : Nat} {e g q : Int} {st : Bool}

theorem cutOf_ne_lt {p : Rat} : cutOf m e st p ≠ .lt ↔ p ≤ (m : Rat) * 2 ^ e := by
  unfold cutOf
  cases st
  · exact order_ne_lt
  · by_cases h : p ≤ (m : Rat) * 2 ^ e <;> simp [h]

theorem zpow_split (a b : Int) (h : a ≤ b) : (2 : Rat) ^ b = ((2 ^ (b - a).toNat : Nat) : Rat) * 2 ^ a := by
  rw [Nat.cast_pow, Nat.cast_ofNat, ← zpow_natCast, ← zpow_add₀ (by norm_num)]
  congr 1; omega

/-- Multiples of a coarser power of two. -/
theorem Encloses.at (h : Encloses cut m e st g) (a : Nat) {b : Int} (hb : g ≤ b) :
    cut ((a : Rat) * 2 ^ b) = cutOf m e st ((a : Rat) * 2 ^ b) := by
  rw [zpow_split g b hb, ← mul_assoc, ← Nat.cast_mul]
  exact h.agrees _

/-- A multiple of `2^q` where the magnitude's own place is finer, by `sh` bits. -/
theorem cutOf_shift {a b sh : Nat} (hq : q = e + sh) (hb : b ≤ sh) :
    cutOf m e st ((a : Rat) * 2 ^ (q - b)) =
      if a * 2 ^ (sh - b) < m ∨ (a * 2 ^ (sh - b) = m ∧ st = true) then .gt else if a * 2 ^ (sh - b) = m then .eq else .lt := by
  rw [zpow_split e (q - b) (by omega), show (q - b - e).toNat = sh - b by omega, ← mul_assoc, ← Nat.cast_mul]
  exact cutOf_mul

variable {N r sh : Nat} (h : Encloses cut m e st g) (hg : g + 24 ≤ q) (hq : q = e + sh) (hsh : 1 ≤ sh) (hm : m = N * 2 ^ sh + r)
  (hr : r < 2 ^ sh)

include h hg hq hm in
/-- The magnitude at its lower neighbour. -/
theorem Encloses.cut_lower : cut ((N : Rat) * 2 ^ q) = if r = 0 ∧ st = false then .eq else .gt := by
  have h0 := (h.at N (by omega : g ≤ q)).trans (by simpa using cutOf_shift (a := N) (b := 0) hq (Nat.zero_le _))
  rw [h0, hm]
  generalize N * 2 ^ sh = a
  cases st <;> grind

include h hg hq hm hsh in
/-- The magnitude at the point halfway between its neighbours. -/
theorem Encloses.cut_half : cut ((N : Rat) * 2 ^ q + 2 ^ q / 2) =
    if 2 ^ (sh - 1) < r ∨ (r = 2 ^ (sh - 1) ∧ st = true) then .gt else if r = 2 ^ (sh - 1) then .eq else .lt := by
  have hp : (N : Rat) * 2 ^ q + 2 ^ q / 2 = ((2 * N + 1 : Nat) : Rat) * 2 ^ (q - (1 : Nat)) := by
    rw [zpow_sub₀ (by norm_num)]; push_cast; ring
  have hd : 2 ^ sh = 2 ^ (sh - 1) * 2 := by rw [← pow_succ]; congr 1; omega
  rw [hp, h.at _ (by omega : g ≤ q - (1 : Nat)), cutOf_shift hq hsh, hm,
    show (2 * N + 1) * 2 ^ (sh - 1) = N * 2 ^ sh + 2 ^ (sh - 1) by rw [hd]; ring]
  generalize N * 2 ^ sh = a
  generalize 2 ^ (sh - 1) = b
  cases st <;> grind

include h hg hq hm hr in
/-- The magnitude at the point from which a drawn fraction carries into the upper neighbour. -/
theorem Encloses.cut_draw (rng : Word) : cut ((N : Rat) * 2 ^ q + 2 ^ q * (1 - fraction rng)) ≠ .lt ↔
    ((r <<< 24) >>> sh + (rngNext rng >>> 40).toNat) / 2 ^ 24 = 1 := by
  have ht : (rngNext rng >>> 40).toNat < 2 ^ 24 := draw_lt rng
  rw [fraction_eq]
  generalize (rngNext rng >>> 40).toNat = t at ht ⊢
  obtain ⟨u, hu⟩ : ∃ u, 2 ^ 24 = u + t := ⟨2 ^ 24 - t, by omega⟩
  have hp : (N : Rat) * 2 ^ q + 2 ^ q * (1 - (t : Rat) / 2 ^ 24) = ((N * 2 ^ 24 + u : Nat) : Rat) * 2 ^ (q - (24 : Nat)) := by
    have hu' : (u : Rat) = 2 ^ 24 - t := by rw [eq_sub_iff_add_eq]; exact_mod_cast hu.symm
    rw [zpow_sub₀ (by norm_num), zpow_natCast]; push_cast; rw [hu']; field_simp; ring
  have he : (2 : Rat) ^ (q - (24 : Nat)) = ((2 ^ sh : Nat) : Rat) * 2 ^ e / 2 ^ 24 := by
    rw [zpow_sub₀ (by norm_num), zpow_natCast, hq, zpow_add₀ (by norm_num), zpow_natCast]; push_cast; ring
  have hle : (N * 2 ^ 24 + u) * 2 ^ sh ≤ m * 2 ^ 24 ↔ 2 ^ sh * (2 ^ 24 - t) ≤ r * 2 ^ 24 := by
    rw [hm, show 2 ^ 24 - t = u by omega, Nat.add_mul, Nat.add_mul]
    constructor <;> intro <;> nlinarith
  rw [hp, h.at _ (by omega : g ≤ q - (24 : Nat)), cutOf_ne_lt, he, ← mul_div_assoc, div_le_iff₀ (by positivity), ← mul_assoc,
    mul_right_comm (m : Rat), mul_le_mul_iff_left₀ (by positivity), Nat.shiftLeft_eq, Nat.shiftRight_eq_div_pow,
    carry_iff (Nat.two_pow_pos sh) hr ht, show ((2 : Rat) ^ 24) = ((2 ^ 24 : Nat) : Rat) by norm_num, ← Nat.cast_mul, ← Nat.cast_mul,
    Nat.cast_le, hle]
  split_ifs with hc
  · exact iff_of_true hc rfl
  · exact iff_of_false hc (by decide)

include h hg hq hm hr hsh in
/-- RoundMag where the place is coarser than the magnitude's own. -/
theorem roundMag_fine (neg : Bool) (mode : RMode) (rng : Word) : roundMag neg m e st q mode rng = roundedMul mode neg cut q rng N := by
  have hlo := h.cut_lower hg hq hm
  have hmid := h.cut_half hg hq hsh hm
  have hdr := h.cut_draw hg hq hm hr rng
  have hN : m >>> sh = N := by
    rw [Nat.shiftRight_eq_div_pow, hm, Nat.mul_comm, Nat.mul_add_div (Nat.two_pow_pos sh), Nat.div_eq_of_lt hr, Nat.add_zero]
  have hR : m % 2 ^ sh = r := by rw [hm, Nat.mul_comm, Nat.mul_add_mod, Nat.mod_eq_of_lt hr]
  rw [roundMag, if_neg (by omega)]
  simp only [show ¬ q ≤ e by omega, if_false, show (q - e).toNat = sh by omega, hN, hR]
  unfold roundedMul
  by_cases hx : r = 0 ∧ st = false
  · simp [hlo, hx]
  · have hinx : (r != 0 || st) = true := by
      rw [Bool.or_eq_true, bne_iff_ne, ← Bool.not_eq_false]; tauto
    have hcx : decide (cut ((N : Rat) * 2 ^ q) ≠ .eq) = true := by rw [hlo, if_neg hx]; rfl
    rw [hcx, hinx]
    cases mode with
    | rne =>
      have hup : (decide (2 ^ (sh - 1) < r) || (decide (r = 2 ^ (sh - 1)) && st) || (decide (r = 2 ^ (sh - 1)) && !st && N % 2 == 1)) =
          goesUp .rne neg cut ((N : Rat) * 2 ^ q) (2 ^ q) (decide (N % 2 = 1)) rng := by
        simp only [goesUp, hmid]; cases st <;> grind
      simp [hup]
    | rtz => simp [goesUp]
    | rup => simp [goesUp]
    | rdn => simp [goesUp]
    | rna =>
      have hup : (decide (2 ^ (sh - 1) < r) || (decide (r = 2 ^ (sh - 1)) && st) || (decide (r = 2 ^ (sh - 1)) && !st)) =
          goesUp .rna neg cut ((N : Rat) * 2 ^ q) (2 ^ q) (decide (N % 2 = 1)) rng := by
        simp only [goesUp, hmid]; cases st <;> grind
      simp [hup]
    | dyn => simp [goesUp]
    | sr =>
      have hup : N + ((r <<< 24) >>> sh + (rngNext rng >>> 40).toNat) / 2 ^ 24 =
          if goesUp .sr neg cut ((N : Rat) * 2 ^ q) (2 ^ q) (decide (N % 2 = 1)) rng = true then N + 1 else N := by
        simp only [goesUp, decide_eq_true_eq, hdr]
        have := carry_le_one hr (draw_lt rng)
        generalize ((r <<< 24) >>> sh + (rngNext rng >>> 40).toNat) / 2 ^ 24 = c at this ⊢
        split_ifs <;> omega
      simp only [Bool.not_true, Bool.false_eq_true, if_false, if_true, hup, Bool.true_and, decide_true, advance_eq_rngNext]

end

/-- RoundMag gives the multiple at or below the magnitude, or the next one. -/
theorem exists_roundMag {cut : Rat → Ordering} {m : Nat} {e g q : Int} {st : Bool} (h : Encloses cut m e st g) (hg : g + 24 ≤ q)
    (neg : Bool) (mode : RMode) (rng : Word) :
    ∃ N : Nat, cut ((N : Rat) * 2 ^ q) ≠ .lt ∧ cut (((N + 1 : Nat) : Rat) * 2 ^ q) = .lt ∧ (N : Rat) * 2 ^ q ≤ (m : Rat) * 2 ^ e ∧
      (m : Rat) * 2 ^ e < ((N + 1 : Nat) : Rat) * 2 ^ q ∧ roundMag neg m e st q mode rng = roundedMul mode neg cut q rng N := by
  have bounds {N : Nat} (hl : (N : Rat) * 2 ^ q ≤ (m : Rat) * 2 ^ e) (hu : (m : Rat) * 2 ^ e < ((N + 1 : Nat) : Rat) * 2 ^ q) :
      cut ((N : Rat) * 2 ^ q) ≠ .lt ∧ cut (((N + 1 : Nat) : Rat) * 2 ^ q) = .lt := by
    rw [h.at N (by omega : g ≤ q), h.at (N + 1) (by omega : g ≤ q)]
    exact ⟨cutOf_ne_lt.2 hl, not_not.1 (fun hn => absurd (cutOf_ne_lt.1 hn) (not_le.2 hu))⟩
  rcases lt_or_ge e q with he | he
  · obtain ⟨sh, hsh⟩ : ∃ sh : Nat, q = e + sh := ⟨(q - e).toNat, by omega⟩
    have hdm : m = m / 2 ^ sh * 2 ^ sh + m % 2 ^ sh := (Nat.div_add_mod' m (2 ^ sh)).symm
    have hr : m % 2 ^ sh < 2 ^ sh := Nat.mod_lt _ (Nat.two_pow_pos sh)
    have hq : (2 : Rat) ^ q = ((2 ^ sh : Nat) : Rat) * 2 ^ e := by
      rw [zpow_split e q he.le, show (q - e).toNat = sh by omega]
    have hl : ((m / 2 ^ sh : Nat) : Rat) * 2 ^ q ≤ (m : Rat) * 2 ^ e := by
      rw [hq, ← mul_assoc, ← Nat.cast_mul, mul_le_mul_iff_left₀ (by positivity)]
      exact Nat.cast_le.2 (by omega)
    have hu : (m : Rat) * 2 ^ e < ((m / 2 ^ sh + 1 : Nat) : Rat) * 2 ^ q := by
      rw [hq, ← mul_assoc, ← Nat.cast_mul, mul_lt_mul_iff_left₀ (by positivity)]
      exact Nat.cast_lt.2 (by rw [Nat.add_mul]; omega)
    exact ⟨_, (bounds hl hu).1, (bounds hl hu).2, hl, hu, roundMag_fine h hg hsh (by omega) hdm hr neg mode rng⟩
  · obtain rfl : st = false := by
      rw [← Bool.not_eq_true]; intro hs; have := h.fine hs; omega
    have hx : (m : Rat) * 2 ^ e = ((m <<< (e - q).toNat : Nat) : Rat) * 2 ^ q := by
      rw [zpow_split q e he, Nat.shiftLeft_eq, Nat.cast_mul, mul_assoc]
    have hu : (m : Rat) * 2 ^ e < ((m <<< (e - q).toNat + 1 : Nat) : Rat) * 2 ^ q := by
      rw [hx, mul_lt_mul_iff_left₀ (by positivity)]
      exact Nat.cast_lt.2 (Nat.lt_succ_self _)
    refine ⟨_, (bounds hx.ge hu).1, (bounds hx.ge hu).2, hx.ge, hu, ?_⟩
    have hc : cut (((m <<< (e - q).toNat : Nat) : Rat) * 2 ^ q) = .eq := by
      rw [h.at _ (by omega : g ≤ q), ← hx]
      exact order_eq_eq.2 rfl
    rw [roundMag_coarse neg m he, roundedMul]
    simp [hc]

end Sys2Proof
end

section
/-!
SUPPORT. RoundTo into the floating-point formats (spec/02 R47, R49, R51, R53, R54, Table 2.7): the code the model delivers is that
of one of the two neighbours of the exact magnitude.
-/
namespace Sys2Proof
open Sys2Proof.Claims

/-! ### Codes of rounded multiples -/

/-- The exponent of the subnormals' last place. -/
def Layout.low (L : Layout) : Int := 1 - (L.bias : Int) - L.mb

section
variable {L : Layout} {j n : Nat} (hn : n ≤ 2 ^ (L.mb + 1)) (hj : j = 0 ∨ 2 ^ L.mb ≤ n)
include hn hj

/-- The code of `n` times the last place of line `j`. -/
theorem Layout.code_line (neg : Bool) : L.code neg n (L.low + j) = L.signBit neg + (j * 2 ^ L.mb + n) := by
  have hpow : 2 ^ (L.mb + 1) = 2 * 2 ^ L.mb := by rw [pow_succ]; omega
  have hpos : 0 < 2 ^ L.mb := Nat.two_pow_pos _
  unfold Layout.code Layout.low
  rcases Nat.lt_or_ge n (2 ^ (L.mb + 1)) with h | h
  · simp only [if_pos h]
    split_ifs with h1
    · obtain rfl : j = 0 := by omega
      omega
    · rw [show (1 - (L.bias : Int) - L.mb + j + L.mb + L.bias).toNat = j + 1 by omega, Nat.add_mul]
      omega
  · obtain rfl : n = 2 ^ (L.mb + 1) := by omega
    have h2 : 2 ^ (L.mb + 1) / 2 = 2 ^ L.mb := by omega
    simp only [lt_irrefl, if_false, h2]
    rw [show (1 - (L.bias : Int) - L.mb + j + 1 + L.mb + L.bias).toNat = j + 2 by omega, Nat.add_mul]
    omega

omit hn hj in
/-- Where the largest finite magnitude lies: on line `J`, its multiple `A`. -/
theorem Layout.exists_last (hL : L.Sound) : ∃ J A : Nat, L.top = J * 2 ^ L.mb + A + 1 ∧ 2 ^ L.mb ≤ A ∧ A < 2 ^ (L.mb + 1) ∧
    2 ^ (L.mb + 1) ≤ 2 * A ∧ ∀ n q, L.exceeds n q = if L.low + J ≤ q then decide (A < n <<< (q - (L.low + J)).toNat)
      else decide (A <<< (L.low + J - q).toNat < n) := by
  obtain ⟨heb, hmb⟩ := hL
  obtain ⟨M, hM⟩ : ∃ M, 2 ^ L.mb = M + 2 := ⟨2 ^ L.mb - 2, by
    have : 2 ^ 1 ≤ 2 ^ L.mb := Nat.pow_le_pow_right (by omega) hmb
    omega⟩
  obtain ⟨Q, hQ⟩ : ∃ Q, 2 ^ L.eb = Q + 4 := ⟨2 ^ L.eb - 4, by
    have : 2 ^ 2 ≤ 2 ^ L.eb := Nat.pow_le_pow_right (by omega) heb
    omega⟩
  have hpow : 2 ^ (L.mb + 1) = 2 * (M + 2) := by rw [pow_succ, hM]; omega
  cases hs : L.spec
  case ieee =>
    refine ⟨Q + 1, 2 * (M + 2) - 1, ?_, by omega, by omega, by omega, fun n q => ?_⟩
    · simp only [Layout.top, hs, hQ, hM, Nat.add_mul, show Q + 4 - 1 = Q + 3 from rfl]; omega
    · have hE : ((Q + 4 - 2 : Nat) : Int) - L.bias - L.mb = L.low + ((Q + 1 : Nat) : Int) := by unfold Layout.low; omega
      simp only [Layout.exceeds, hs, hQ, hpow, if_true, reduceCtorEq, if_false, hE]
  case e4m3 =>
    refine ⟨Q + 2, 2 * (M + 2) - 2, ?_, by omega, by omega, by omega, fun n q => ?_⟩
    · simp only [Layout.top, hs, pow_add, hQ, hM, Nat.add_mul]; omega
    · have hE : ((Q + 4 - 1 : Nat) : Int) - L.bias - L.mb = L.low + ((Q + 2 : Nat) : Int) := by unfold Layout.low; omega
      simp only [Layout.exceeds, hs, hQ, hpow, if_true, reduceCtorEq, if_false, hE]
  case none_ =>
    refine ⟨Q + 2, 2 * (M + 2) - 1, ?_, by omega, by omega, by omega, fun n q => ?_⟩
    · simp only [Layout.top, hs, pow_add, hQ, hM, Nat.add_mul]; omega
    · have hE : ((Q + 4 - 1 : Nat) : Int) - L.bias - L.mb = L.low + ((Q + 2 : Nat) : Int) := by unfold Layout.low; omega
      simp only [Layout.exceeds, hs, hQ, hpow, reduceCtorEq, if_false, hE]

/-- A multiple exceeds the largest finite magnitude where its code is past the last finite one. -/
theorem Layout.exceeds_line (hL : L.Sound) : L.exceeds n (L.low + j) = decide (L.top ≤ j * 2 ^ L.mb + n) := by
  obtain ⟨J, A, htop, hA1, hA2, hA3, hex⟩ := Layout.exists_last hL
  have grow (a d : Nat) (hd : 1 ≤ d) : 2 * a ≤ a <<< d := by
    rw [Nat.shiftLeft_eq, Nat.mul_comm]
    exact Nat.mul_le_mul_left a (Nat.pow_le_pow_right (n := 2) (by omega) hd : 2 ^ 1 ≤ 2 ^ d)
  have hpow : 2 ^ (L.mb + 1) = 2 * 2 ^ L.mb := by rw [pow_succ]; omega
  rw [hex, htop]
  rcases lt_trichotomy j J with h | h | h
  · rw [if_neg (by omega), decide_eq_decide]
    have := grow A (L.low + J - (L.low + j)).toNat (by omega)
    have : (j + 1) * 2 ^ L.mb ≤ J * 2 ^ L.mb := Nat.mul_le_mul_right _ h
    rw [Nat.add_mul] at this
    omega
  · subst h
    simp only [le_refl, if_true, sub_self, Int.toNat_zero, Nat.shiftLeft_zero, decide_eq_decide]
    omega
  · rw [if_pos (by omega), decide_eq_decide]
    have := grow n (L.low + j - (L.low + J)).toNat (by omega)
    have : (J + 1) * 2 ^ L.mb ≤ j * 2 ^ L.mb := Nat.mul_le_mul_right _ h
    rw [Nat.add_mul] at this
    omega

end

/-! ### The result of RoundTo -/

/-- The last place of a magnitude `m * 2^e` in a layout. -/
def Layout.place (L : Layout) (m : Nat) (e : Int) : Int := max L.low ((Nat.log2 m : Int) + e - L.mb)

/-- An overflow goes to infinity (Table 2.7). -/
def toInfinity (mode : RMode) (neg : Bool) : Bool :=
  match mode with
  | .rtz => false
  | .rup => !neg
  | .rdn => neg
  | _ => true

/-- What RoundTo delivers once the code `k` without sign has been chosen, the exponent range unbounded above (R51, R53, R54). -/
def Layout.deliver (L : Layout) (neg sat flush : Bool) (mode : RMode) (k : Nat) (inexact : Bool) (rng : Word) : Rounded :=
  let tiny := decide (0 < k ∧ k < 2 ^ L.mb)
  if L.top ≤ k then
    ⟨L.signBit neg + (if sat = false ∧ toInfinity mode neg = true ∧ L.spec ≠ .none_ then L.top else L.top - 1),
      flOverflow ||| flInexact ||| ifSet (sat || (toInfinity mode neg && decide (L.spec = .none_))) flSat, rng⟩
  else if flush && tiny then ⟨L.signBit neg, flUnderflow ||| flInexact, rng⟩
  else ⟨L.signBit neg + k, ifSet inexact flInexact ||| ifSet (inexact && tiny) flUnderflow, rng⟩

/-- The code without sign that a magnitude between those of `k` and `k + 1` is brought to, and whether it is inexact. -/
def roundedCode (mb : Nat) (bias : Int) (mode : RMode) (neg : Bool) (cut : Rat → Ordering) (rng : Word) (k : Nat) : Nat × Bool × Word :=
  let lo := magnitude mb bias k
  let inexact := decide (cut lo ≠ .eq)
  (if inexact && goesUp mode neg cut lo (magnitude mb bias (k + 1) - lo) (decide (k % 2 = 1)) rng then k + 1 else k, inexact,
    if inexact && decide (mode = .sr) then advance rng else rng)

/-- The bounds of a magnitude's multiples at its last place. -/
theorem Layout.line_bounds (L : Layout) {m N : Nat} {e : Int} (hm : m ≠ 0) (hl : (N : Rat) * 2 ^ L.place m e ≤ (m : Rat) * 2 ^ e)
    (hu : (m : Rat) * 2 ^ e < ((N + 1 : Nat) : Rat) * 2 ^ L.place m e) :
    N < 2 ^ (L.mb + 1) ∧ (L.place m e = L.low ∨ 2 ^ L.mb ≤ N) := by
  have pow_place (a : Nat) : ((2 ^ a : Nat) : Rat) * 2 ^ L.place m e = 2 ^ ((a : Int) + L.place m e) := by
    rw [zpow_add₀ (by norm_num), zpow_natCast, Nat.cast_pow, Nat.cast_ofNat]
  have pow_log (a : Nat) : ((2 ^ a : Nat) : Rat) * 2 ^ e = 2 ^ ((a : Int) + e) := by
    rw [zpow_add₀ (by norm_num), zpow_natCast, Nat.cast_pow, Nat.cast_ofNat]
  have hlow : (2 : Rat) ^ ((Nat.log2 m : Int) + e) ≤ (m : Rat) * 2 ^ e := by
    rw [← pow_log]; exact mul_le_mul_of_nonneg_right (Nat.cast_le.2 (Nat.log2_self_le hm)) (by positivity)
  have hhigh : (m : Rat) * 2 ^ e < 2 ^ ((Nat.log2 m : Int) + 1 + e) := by
    rw [← Nat.cast_succ, ← pow_log]; exact mul_lt_mul_of_pos_right (Nat.cast_lt.2 Nat.lt_log2_self) (by positivity)
  constructor
  · have h1 : (2 : Rat) ^ ((Nat.log2 m : Int) + 1 + e) ≤ 2 ^ (((L.mb + 1 : Nat) : Int) + L.place m e) :=
      zpow_le_zpow_right₀ (by norm_num) (by unfold Layout.place; push_cast; omega)
    have h2 := (hl.trans_lt hhigh).trans_le h1
    rw [← pow_place, mul_lt_mul_iff_left₀ (by positivity)] at h2
    exact Nat.cast_lt.1 h2
  · by_cases hq : L.place m e = L.low
    · exact .inl hq
    · have h1 : (2 : Rat) ^ ((L.mb : Int) + L.place m e) = 2 ^ ((Nat.log2 m : Int) + e) := by
        congr 1; unfold Layout.place at *; omega
      have h2 := (h1 ▸ hlow).trans_lt hu
      rw [← pow_place, mul_lt_mul_iff_left₀ (by positivity)] at h2
      exact .inr (Nat.lt_succ_iff.1 (Nat.cast_lt.1 h2))

section
variable {L : Layout} {j n : Nat} (hL : L.Sound) (hn : n ≤ 2 ^ (L.mb + 1)) (hj : j = 0 ∨ 2 ^ L.mb ≤ n)
include hL hn hj

/-- RoundTo after RoundMag, where the multiple `n` of line `j`'s last place has been chosen. -/
theorem Layout.deliver_line (neg sat flush inexact : Bool) (mode : RMode) (rng : Word) :
    (let flx := if inexact then flInexact else flNone
      if L.exceeds n (L.low + j) then
        let fl := flx ||| flOverflow ||| flInexact
        if sat then ⟨L.signBit neg + L.maxCode, fl ||| flSat, rng⟩
        else if toInfinity mode neg then ⟨L.infCode neg, if L.spec = .none_ then fl ||| flSat else fl, rng⟩
        else ⟨L.signBit neg + L.maxCode, fl, rng⟩
      else if n = 0 then ⟨L.signBit neg, flx, rng⟩
      else if L.low + j = L.low ∧ n < 2 ^ L.mb then
        if flush then ⟨L.signBit neg, flx ||| flUnderflow ||| flInexact, rng⟩
        else ⟨L.code neg n (L.low + j), if inexact then flx ||| flUnderflow else flx, rng⟩
      else ⟨L.code neg n (L.low + j), flx, rng⟩ : Rounded) = L.deliver neg sat flush mode (j * 2 ^ L.mb + n) inexact rng := by
  have hpos : 0 < 2 ^ L.mb := Nat.two_pow_pos _
  have htop := (Layout.top_le hL).1
  have hlow : L.low + (j : Int) = L.low ↔ j = 0 := by omega
  have htiny : (0 < j * 2 ^ L.mb + n ∧ j * 2 ^ L.mb + n < 2 ^ L.mb) ↔ n ≠ 0 ∧ j = 0 ∧ n < 2 ^ L.mb := by
    rcases Nat.eq_zero_or_pos j with rfl | h0
    · simp; omega
    · have : 1 * 2 ^ L.mb ≤ j * 2 ^ L.mb := Nat.mul_le_mul_right _ h0
      constructor <;> intro h <;> omega
  simp only [Layout.exceeds_line hn hj hL, Layout.code_line hn hj, Layout.maxCode_eq hL, Layout.infCode_eq hL, decide_eq_true_eq,
    Layout.deliver, htiny, hlow]
  by_cases hk : L.top ≤ j * 2 ^ L.mb + n
  · simp only [if_pos hk]
    cases sat <;> cases toInfinity mode neg <;> by_cases hs : L.spec = .none_ <;> cases inexact <;> simp [hs, ifSet, flNone] <;> decide
  · simp only [if_neg hk]
    by_cases h0 : n = 0
    · have : j = 0 := by omega
      simp [h0, this, ifSet, flNone]
    · by_cases ht : j = 0 ∧ n < 2 ^ L.mb
      · cases flush <;> cases inexact <;> simp [h0, ht, ifSet, flNone] <;> decide
      · cases flush <;> cases inexact <;> simp [h0, ht, ifSet, flNone]

end

/-- RoundTo of a non-zero magnitude takes it to one of its two neighbours and delivers that. -/
theorem Layout.exists_roundFloat {L : Layout} (hL : L.Sound) {cut : Rat → Ordering} {m : Nat} {e g : Int} {st : Bool} (hm : m ≠ 0)
    (h : Encloses cut m e st g) (hg : g + 24 ≤ L.place m e) (neg sat flush : Bool) (mode : RMode) (rng : Word) :
    ∃ k, cut (magnitude L.mb L.bias k) ≠ .lt ∧ cut (magnitude L.mb L.bias (k + 1)) = .lt ∧
      roundFloat L (.fin neg m e st) mode sat flush rng =
        let r := roundedCode L.mb L.bias mode neg cut rng k
        L.deliver neg sat flush mode r.1 r.2.1 r.2.2 := by
  obtain ⟨N, hlo, hup, hle, hlt, hN⟩ := exists_roundMag h hg neg mode rng
  obtain ⟨hN1, hN2⟩ := L.line_bounds hm hle hlt
  obtain ⟨j, hq⟩ : ∃ j : Nat, L.place m e = L.low + j := ⟨(L.place m e - L.low).toNat, by unfold Layout.place; omega⟩
  have hj : j = 0 ∨ 2 ^ L.mb ≤ N := by omega
  have hk : magnitude L.mb L.bias (j * 2 ^ L.mb + N) = (N : Rat) * 2 ^ L.place m e := by
    rw [magnitude_line _ hN1.le hj, hq]; rfl
  have hk1 : magnitude L.mb L.bias (j * 2 ^ L.mb + N + 1) = ((N + 1 : Nat) : Rat) * 2 ^ L.place m e := by
    rw [Nat.add_assoc, magnitude_line _ hN1 (by omega), hq]; rfl
  have hdiff : ((N + 1 : Nat) : Rat) * 2 ^ L.place m e - (N : Rat) * 2 ^ L.place m e = 2 ^ L.place m e := by push_cast; ring
  refine ⟨j * 2 ^ L.mb + N, hk ▸ hlo, hk1 ▸ hup, ?_⟩
  have hpar : (j * 2 ^ L.mb + N) % 2 = N % 2 := by
    obtain ⟨c, hc⟩ : 2 ∣ 2 ^ L.mb := dvd_pow_self 2 (by have := hL.mb; omega)
    rw [hc, Nat.mul_left_comm]; omega
  have hplace : (if (Nat.log2 m : Int) + e - L.mb < 1 - (L.bias : Int) - L.mb then 1 - (L.bias : Int) - L.mb
      else (Nat.log2 m : Int) + e - L.mb) = L.place m e := by
    unfold Layout.place Layout.low; split_ifs <;> omega
  simp only [roundFloat, hm, false_and, if_false, hplace, hN, roundedMul, roundedCode, hk, hk1, hdiff, hpar]
  generalize decide (cut ((N : Rat) * 2 ^ L.place m e) ≠ .eq) = inexact
  generalize goesUp mode neg cut ((N : Rat) * 2 ^ L.place m e) (2 ^ L.place m e) (decide (N % 2 = 1)) rng = up
  rw [hq]
  by_cases hc : (inexact && up) = true
  · rw [if_pos hc, if_pos hc, Nat.add_assoc]
    exact Layout.deliver_line hL hN1 (by omega) neg sat flush inexact mode _
  · rw [if_neg hc, if_neg hc]
    exact Layout.deliver_line hL hN1.le hj neg sat flush inexact mode _

end Sys2Proof
end

section
/-!
SUPPORT. RoundTo of exact values (spec/02 R38, R39, R47, R49, R51, R53, R54): the model's result is the one the statements name.
-/
namespace Sys2Proof
open Sys2Proof.Claims

/-! ### Floating-point formats -/

section
variable {f : Fmt} {L : Layout} (hL : f.layout = some L)
include hL

/-- What RoundTo delivers, in the words of its rules (Table 2.7). -/
theorem Layout.deliver_spec (neg sat flush : Bool) {mode : RMode} (hm : mode ≠ .dyn) (n : Nat) (inexact : Bool) (rng : Word) :
    let toInf := mode = .rne ∨ mode = .rna ∨ mode = .sr ∨ mode = .rup ∧ neg = false ∨ mode = .rdn ∧ neg = true
    let sign := if neg then 2 ^ (f.bits - 1) else 0
    let out := L.deliver neg sat flush mode n inexact rng
    out.rng = rng ∧
    (topCode f ≤ n → out.code = sign + (if sat = false ∧ toInf ∧ hasNaN f = true then topCode f else topCode f - 1) ∧
      out.fl = flOverflow ||| flInexact ||| ifSet (sat || (decide toInf && !hasNaN f)) flSat) ∧
    (n < topCode f → flush = true ∧ 0 < n ∧ n < 2 ^ L.mb → out.code = sign ∧ out.fl = flUnderflow ||| flInexact) ∧
    (n < topCode f → ¬ (flush = true ∧ 0 < n ∧ n < 2 ^ L.mb) → out.code = sign + n ∧
      out.fl = ifSet inexact flInexact ||| ifSet (inexact && decide (0 < n ∧ n < 2 ^ L.mb)) flUnderflow) := by
  have hinf : (mode = .rne ∨ mode = .rna ∨ mode = .sr ∨ mode = .rup ∧ neg = false ∨ mode = .rdn ∧ neg = true) ↔
      toInfinity mode neg = true := by
    cases mode <;> cases neg <;> simp [toInfinity] at hm ⊢
  simp only [topCode_of_layout hL, hinf, Layout.deliver, Layout.signBit_eq hL, hasNaN_of_layout hL]
  rcases Nat.lt_or_ge n L.top with h | h
  · rw [if_neg (not_le.2 h)]
    by_cases hf : flush = true ∧ 0 < n ∧ n < 2 ^ L.mb
    · simp [hf, h, not_le.2 h]
    · simp [h, not_le.2 h, hf]
  · simp [h, not_lt.2 h]

/-- The result delivered for one of the two neighbours is the one that RoundTo's rules give. -/
theorem Layout.roundsFloat_deliver {cut : Rat → Ordering} {neg sat flush : Bool} {mode : RMode} {rng : Word} {k : Nat}
    (hm : mode ≠ .dyn) (hlo : cut (magnitude L.mb L.bias k) ≠ .lt) (hup : cut (magnitude L.mb L.bias (k + 1)) = .lt) :
    let r := roundedCode L.mb L.bias mode neg cut rng k
    RoundsFloat f L.mb L.bias mode sat flush neg cut rng (L.deliver neg sat flush mode r.1 r.2.1 r.2.2) :=
  ⟨k, hlo, hup, Layout.deliver_spec hL neg sat flush hm _ _ _⟩

/-- RoundTo of a magnitude into a floating-point format. -/
theorem roundFloat_rounds {cut : Rat → Ordering} {m : Nat} {e g : Int} {st : Bool} (hm : m ≠ 0) (h : Encloses cut m e st g)
    (hg : g + 24 ≤ L.place m e) (neg sat flush : Bool) {mode : RMode} (hmode : mode ≠ .dyn) (rng : Word) :
    RoundsFloat f L.mb L.bias mode sat flush neg cut rng (roundFloat L (.fin neg m e st) mode sat flush rng) := by
  obtain ⟨k, hlo, hup, hk⟩ := Layout.exists_roundFloat (Fmt.layout_sound hL) hm h hg neg sat flush mode rng
  exact hk ▸ Layout.roundsFloat_deliver hL hmode hlo hup

end

/-- Rounding to nearest draws nothing. -/
theorem RoundsFloat.of_rne {f : Fmt} {mb : Nat} {bias : Int} {sat flush neg : Bool} {cut : Rat → Ordering} {rng rng' : Word}
    {out : Rounded} (h : RoundsFloat f mb bias .rne sat flush neg cut rng out) :
    RoundsFloat f mb bias .rne sat flush neg cut rng' { out with rng := rng' } := by
  obtain ⟨k, hlo, hup, -, hk⟩ := h
  exact ⟨k, hlo, hup, by simp, hk⟩

/-! ### Integer formats -/

/-- RoundTo of a magnitude into an integer format. -/
theorem roundInt_rounds {cut : Rat → Ordering} {m : Nat} {e g : Int} {st : Bool} (h : Encloses cut m e st g) (hg : g + 24 ≤ 0)
    (w : Nat) (un neg sat : Bool) (mode : RMode) (rng : Word) :
    RoundsInt w un sat mode neg cut rng (roundInt w un (.fin neg m e st) mode sat rng) := by
  obtain ⟨N, hlo, hup, -, -, hN⟩ := exists_roundMag h hg neg mode rng
  have hcast : (((N + 1 : Nat) : Rat) * 2 ^ (0 : Int)) = N + 1 := by push_cast; ring
  rw [hcast] at hup
  simp only [zpow_zero, mul_one] at hlo
  refine ⟨N, hlo, hup, ?_⟩
  have hpow : (1 : Int) ≤ 2 ^ (w - 1) := one_le_pow₀ (by norm_num)
  have hpow' : (1 : Int) ≤ 2 ^ w := one_le_pow₀ (by norm_num)
  simp only [roundInt, hN, roundedMul, zpow_zero, mul_one, wrapInt, Nat.cast_pow, Nat.cast_ofNat]
  generalize decide (cut (N : Rat) ≠ .eq) = inexact
  generalize goesUp mode neg cut N 1 _ rng = up
  generalize (if (inexact && up) = true then N + 1 else N) = n
  generalize (if neg = true then -(n : Int) else n) = i
  obtain ⟨lo, hl⟩ : ∃ lo : Int, lo = if un = true then 0 else -2 ^ (w - 1) := ⟨_, rfl⟩
  obtain ⟨hi, hh⟩ : ∃ hi : Int, hi = if un = true then 2 ^ w - 1 else 2 ^ (w - 1) - 1 := ⟨_, rfl⟩
  have hlh : lo ≤ hi := by rw [hl, hh]; split <;> omega
  rw [← hl, ← hh]
  by_cases hout : i < lo ∨ hi < i
  · cases sat
    · simp [hout, ifSet, flNone]
    · have hc : max lo (min hi i) = if i < lo then lo else hi := by split <;> omega
      simp [hout, ifSet, flNone, hc]
  · have hc : max lo (min hi i) = i := by omega
    cases sat <;> simp [hout, ifSet, flNone, hc]

/-! ### Exact values -/

/-- The number that an exact value of the model stands for. -/
def Val.toQ (v : Val) : Quantity :=
  match v with
  | .nan => .nan
  | .inf n => .inf n
  | .fin n m e _ => .fin n ((if n then -1 else 1) * (m : Rat) * 2 ^ e)

/-- The value is no interval. -/
def Val.Sharp (v : Val) : Prop :=
  match v with
  | .fin _ _ _ st => st = false
  | _ => True

theorem ratAbs_eq (x : Rat) : x.abs = |x| := by
  unfold Rat.abs
  split_ifs with h
  · exact (abs_of_nonneg h).symm
  · exact (abs_of_neg (not_le.1 h)).symm

theorem exactOf_fin (n : Bool) (m : Nat) (e : Int) (st : Bool) :
    exactOf (Val.fin n m e st).toQ = if m = 0 then .zero n else .mag n (order ((m : Rat) * 2 ^ e)) := by
  have hp : (0 : Rat) < 2 ^ e := by positivity
  by_cases h0 : m = 0
  · simp [Val.toQ, exactOf, h0]
  · have hm : (0 : Rat) < (m : Rat) * 2 ^ e := mul_pos (Nat.cast_pos.2 (Nat.pos_of_ne_zero h0)) hp
    have habs : ((if n then -1 else 1) * (m : Rat) * 2 ^ e).abs = (m : Rat) * 2 ^ e := by
      rw [ratAbs_eq]; cases n <;> simp [abs_mul]
    have hneg : (if n then -1 else 1) * (m : Rat) * 2 ^ e < 0 ↔ n = true := by cases n <;> simp [hm, hm.le]
    have hne : (if n then -1 else 1) * (m : Rat) * 2 ^ e ≠ 0 := by cases n <;> simp [h0, hp.ne']
    simp only [Val.toQ, exactOf, if_neg hne, habs, hneg, if_neg h0, Bool.decide_eq_true]

/-! ### RoundTo -/

theorem roundTo_of_layout {f : Fmt} {L : Layout} (hL : f.layout = some L) (hf : f ≠ .acc48) (v : Val) (mode : RMode)
    (sat un flush : Bool) (rng : Word) : roundTo f v mode sat un flush rng = roundFloat L v mode sat flush rng := by
  cases f <;> simp only [Fmt.layout, Option.some.injEq, reduceCtorEq, ne_eq, not_true_eq_false] at hL hf <;> subst hL <;> rfl

/-- The formats without a floating-point layout that RoundTo takes. -/
theorem no_layout_iff {f : Fmt} (h1 : f ≠ .raw) (h2 : f ≠ .pl16) : f.layout = none ↔ f.isInt = true ∨ f = .mxi8 := by
  cases f <;> simp [Fmt.layout, Fmt.isInt] at *

theorem roundTo_of_isInt {f : Fmt} (h : f.isInt = true) (v : Val) (mode : RMode) (sat un flush : Bool) (rng : Word) :
    roundTo f v mode sat un flush rng = roundInt f.bits un v mode sat rng := by
  cases f <;> first | rfl | exact absurd h (by decide)

/-- A non-zero magnitude into a floating-point format. -/
theorem roundTo_mag_of_layout {f : Fmt} {L : Layout} (hL : f.layout = some L) {cut : Rat → Ordering} {m : Nat} {e g : Int} {st : Bool}
    (hm : m ≠ 0) (h : Encloses cut m e st g) (hg : g + 24 ≤ L.place m e) (neg : Bool) {k : RoundCtx} (hk : k.mode ≠ .dyn) (rng : Word) :
    RoundsTo f k (.mag neg cut) rng (roundTo f (.fin neg m e st) k.mode k.sat k.un (flushes k.fpmode f) rng) := by
  simp only [RoundsTo, floatOf_of_layout hL]
  by_cases hf : f = .acc48
  · subst hf
    cases hL
    rw [if_pos rfl]
    exact ⟨_, RoundsFloat.of_rne (roundFloat_rounds rfl hm h hg neg false false (by decide) 0#64), rfl⟩
  · rw [if_neg hf, roundTo_of_layout hL hf]
    exact roundFloat_rounds hL hm h hg neg k.sat _ hk rng

theorem roundFloat_zero (L : Layout) (n : Bool) (e : Int) (mode : RMode) (sat flush : Bool) (rng : Word) :
    roundFloat L (.fin n 0 e false) mode sat flush rng = ⟨L.signBit n, flNone, rng⟩ := by simp [roundFloat]

/-- An infinity, a NaN or a zero into a floating-point format. -/
theorem roundTo_special_of_layout {f : Fmt} {L : Layout} (hL : f.layout = some L) (k : RoundCtx) (rng : Word) :
    RoundsTo f k .nan rng (roundTo f .nan k.mode k.sat k.un (flushes k.fpmode f) rng) ∧
    (∀ n, RoundsTo f k (.inf n) rng (roundTo f (.inf n) k.mode k.sat k.un (flushes k.fpmode f) rng)) ∧
    ∀ n e, RoundsTo f k (.zero n) rng (roundTo f (.fin n 0 e false) k.mode k.sat k.un (flushes k.fpmode f) rng) := by
  refine ⟨?_, fun n => ?_, fun n e => ?_⟩
  · cases f <;> simp only [Fmt.layout, Option.some.injEq, reduceCtorEq] at hL <;> subst hL <;> rfl
  · cases f <;> simp only [Fmt.layout, Option.some.injEq, reduceCtorEq] at hL <;> subst hL <;> cases n <;> cases hs : k.sat <;>
      simp [RoundsTo, floatOf, hs, hasInf] <;> rfl
  · simp only [RoundsTo, floatOf_of_layout hL, Option.isSome_some, and_true]
    by_cases hf : f = .acc48
    · subst hf; simp only [roundTo, roundACC, Fmt.layout, roundFloat_zero]; rfl
    · rw [roundTo_of_layout hL hf, roundFloat_zero, Layout.signBit_eq hL]; rfl

/-- A magnitude into an integer format. -/
theorem roundTo_mag_of_isInt {f : Fmt} (hf : f.isInt = true) {cut : Rat → Ordering} {m : Nat} {e g : Int} {st : Bool}
    (h : Encloses cut m e st g) (hg : g + 24 ≤ 0) (neg : Bool) (k : RoundCtx) (rng : Word) :
    RoundsTo f k (.mag neg cut) rng (roundTo f (.fin neg m e st) k.mode k.sat k.un (flushes k.fpmode f) rng) := by
  have hL : floatOf f = none := by cases f <;> simp [Fmt.isInt] at hf <;> rfl
  have hx : f ≠ .mxi8 := by rintro rfl; cases hf
  simp only [RoundsTo, hL, if_neg hx, roundTo_of_isInt hf]
  exact roundInt_rounds h hg f.bits k.un neg k.sat k.mode rng

/-- A magnitude into MXI8, whose codes count sixty-fourths. -/
theorem roundTo_mag_mxi8 (neg : Bool) (m : Nat) (e : Int) (k : RoundCtx) (rng : Word) :
    RoundsTo .mxi8 k (.mag neg (order ((m : Rat) * 2 ^ e))) rng
      (roundTo .mxi8 (.fin neg m e false) k.mode k.sat k.un (flushes k.fpmode .mxi8) rng) := by
  have hcut : (fun q => order ((m : Rat) * 2 ^ e) (q / 64)) = order ((m : Rat) * 2 ^ (e + 6)) := by
    funext q
    have h64 : (m : Rat) * 2 ^ (e + 6) = (m : Rat) * 2 ^ e * 64 := by rw [zpow_add₀ (by norm_num)]; norm_num [mul_assoc]
    simp only [order, h64, lt_div_iff₀ (show (0 : Rat) < 64 by norm_num), eq_div_iff (show (64 : Rat) ≠ 0 by norm_num)]
  simp only [RoundsTo, floatOf, hcut, if_true]
  exact roundInt_rounds (Encloses.exact m (e + 6) (-24)) (by norm_num) 8 false neg k.sat k.mode rng

theorem wrapInt_zero (w : Nat) : wrapInt w 0 = 0 := by simp [wrapInt]

theorem roundInt_zero (w : Nat) (un n : Bool) (e : Int) (mode : RMode) (sat : Bool) (rng : Word) :
    roundInt w un (.fin n 0 e false) mode sat rng = ⟨0, 0, rng⟩ := by
  have hpow : (1 : Int) ≤ 2 ^ (w - 1) := one_le_pow₀ (by norm_num)
  have hpow' : (1 : Int) ≤ 2 ^ w := one_le_pow₀ (by norm_num)
  have hz : roundMag n 0 e false 0 mode rng = (0, false, rng) := by
    unfold roundMag; split_ifs <;> simp_all
  have hin : ¬ ((0 : Int) < (if un = true then 0 else -((2 ^ (w - 1) : Nat) : Int)) ∨
      (if un = true then ((2 ^ w : Nat) : Int) - 1 else ((2 ^ (w - 1) : Nat) : Int) - 1) < 0) := by
    push_cast; split <;> omega
  simp only [roundInt, hz, Nat.cast_zero, neg_zero, ite_self, hin, if_false, wrapInt_zero, flNone, Bool.false_eq_true, ite_self]
  rfl

/-- RoundTo of an exact value into an integer format. -/
theorem roundTo_of_integer {f : Fmt} (hf : f.isInt = true ∨ f = .mxi8) {v : Val} (hv : v.Sharp) (k : RoundCtx) (rng : Word) :
    RoundsTo f k (exactOf v.toQ) rng (roundTo f v k.mode k.sat k.un (flushes k.fpmode f) rng) := by
  cases v with
  | nan => cases f <;> simp [Fmt.isInt] at hf <;> rfl
  | inf n =>
    cases f <;> simp [Fmt.isInt] at hf <;> cases n <;> cases hs : k.sat <;> cases hu : k.un <;>
      simp [Val.toQ, exactOf, RoundsTo, floatOf, hs, hu] <;> rfl
  | fin n m e st =>
    obtain rfl : st = false := hv
    rw [exactOf_fin]
    by_cases hm : m = 0
    · subst hm
      rcases hf with hf | rfl
      · rw [roundTo_of_isInt hf, roundInt_zero]
        cases f <;> simp [Fmt.isInt] at hf <;> simp [RoundsTo, floatOf]
      · simp only [if_true, RoundsTo, floatOf, Option.isSome_none, Bool.false_eq_true, and_false, if_false]
        exact roundInt_zero 8 false n (e + 6) k.mode k.sat rng
    · rw [if_neg hm]
      rcases hf with hf | rfl
      · exact roundTo_mag_of_isInt hf (Encloses.exact m e (-24)) (by norm_num) n k rng
      · exact roundTo_mag_mxi8 n m e k rng

theorem roundTo_rounds {f : Fmt} (h1 : f ≠ .raw) (h2 : f ≠ .pl16) {v : Val} (hv : v.Sharp) {k : RoundCtx} (hk : k.mode ≠ .dyn)
    (rng : Word) : RoundsTo f k (exactOf v.toQ) rng (roundTo f v k.mode k.sat k.un (flushes k.fpmode f) rng) := by
  cases hL : f.layout with
  | none => exact roundTo_of_integer ((no_layout_iff h1 h2).1 hL) hv k rng
  | some L =>
    obtain ⟨hnan, hinf, hzero⟩ := roundTo_special_of_layout hL k rng
    cases v with
    | nan => exact hnan
    | inf n => exact hinf n
    | fin n m e st =>
      obtain rfl : st = false := hv
      rw [exactOf_fin]
      by_cases hm : m = 0
      · rw [if_pos hm, hm]; exact hzero n e
      · rw [if_neg hm]
        exact roundTo_mag_of_layout hL hm (Encloses.exact m e (L.place m e - 24)) (by omega) n hk rng

end Sys2Proof
end

section
/-!
SUPPORT. The values of element codes (spec/02 R32-R34, R36, R37, R53): the model's exact values are the numbers the statements name.
-/
namespace Sys2Proof
open Sys2Proof.Claims

/-! ### Codes of a layout -/

section
variable (L : Layout) (c : Nat)

/-- A code without sign, from its exponent and its fraction. -/
theorem Layout.code_fields : c % 2 ^ (L.eb + L.mb) = 2 ^ L.mb * (c / 2 ^ L.mb % 2 ^ L.eb) + c % 2 ^ L.mb ∧
    c % 2 ^ (L.eb + L.mb) / 2 ^ L.mb = c / 2 ^ L.mb % 2 ^ L.eb ∧ c % 2 ^ (L.eb + L.mb) % 2 ^ L.mb = c % 2 ^ L.mb := by
  have hq : c % 2 ^ (L.eb + L.mb) / 2 ^ L.mb = c / 2 ^ L.mb % 2 ^ L.eb := by
    rw [Nat.add_comm, pow_add, Nat.mod_mul_right_div_self]
  have hr : c % 2 ^ (L.eb + L.mb) % 2 ^ L.mb = c % 2 ^ L.mb := Nat.mod_mod_of_dvd c (pow_dvd_pow 2 (by omega))
  have hk := Nat.div_add_mod (c % 2 ^ (L.eb + L.mb)) (2 ^ L.mb)
  rw [hq, hr] at hk
  exact ⟨hk.symm, hq, hr⟩

variable {L}

/-- The finite codes are those below `top`. -/
theorem Layout.lt_top_iff : c % 2 ^ (L.eb + L.mb) < L.top ↔
    ¬ (L.spec = .ieee ∧ c / 2 ^ L.mb % 2 ^ L.eb = 2 ^ L.eb - 1) ∧
    ¬ (L.spec = .e4m3 ∧ c / 2 ^ L.mb % 2 ^ L.eb = 2 ^ L.eb - 1 ∧ c % 2 ^ L.mb = 2 ^ L.mb - 1) := by
  obtain ⟨hk, -, -⟩ := L.code_fields c
  have hE : c / 2 ^ L.mb % 2 ^ L.eb < 2 ^ L.eb := Nat.mod_lt _ (Nat.two_pow_pos _)
  have hF : c % 2 ^ L.mb < 2 ^ L.mb := Nat.mod_lt _ (Nat.two_pow_pos _)
  have hprod : 2 ^ (L.eb + L.mb) = 2 ^ L.mb * 2 ^ L.eb := by rw [Nat.add_comm, pow_add]
  obtain ⟨P, hP⟩ : ∃ P, 2 ^ L.eb = P + 1 := ⟨2 ^ L.eb - 1, by omega⟩
  generalize c % 2 ^ (L.eb + L.mb) = k at hk ⊢
  generalize c / 2 ^ L.mb % 2 ^ L.eb = E at hk hE ⊢
  generalize c % 2 ^ L.mb = F at hk hF ⊢
  unfold Layout.top
  rw [hprod, hP]
  rw [hP] at hE
  generalize 2 ^ L.mb = M at hk hF ⊢
  have below (h : E ≠ P) : k + M ≤ P * M + F := by
    have : M * (E + 1) ≤ M * P := Nat.mul_le_mul_left _ (by omega)
    rw [Nat.mul_add] at this; rw [Nat.mul_comm P]; omega
  have last (h : E = P) : k = P * M + F := by rw [hk, h, Nat.mul_comm]
  have hMP : M * (P + 1) = P * M + M := by ring
  simp only [Nat.add_sub_cancel, hMP]
  by_cases h : E = P
  · have := last h
    cases L.spec <;> simp [h] <;> omega
  · have := below h
    cases L.spec <;> simp [h] <;> omega

/-- The infinity's code is `top`. -/
theorem Layout.eq_top_iff (hs : L.spec = .ieee) : c % 2 ^ (L.eb + L.mb) = L.top ↔
    c / 2 ^ L.mb % 2 ^ L.eb = 2 ^ L.eb - 1 ∧ c % 2 ^ L.mb = 0 := by
  obtain ⟨hk, hq, hr⟩ := L.code_fields c
  have hpos : 0 < 2 ^ L.mb := Nat.two_pow_pos _
  simp only [Layout.top, hs]
  rw [← hq, ← hr]
  generalize c % 2 ^ (L.eb + L.mb) = k
  constructor
  · rintro rfl; exact ⟨Nat.mul_div_cancel _ hpos, Nat.mul_mod_left _ _⟩
  · rintro ⟨h1, h2⟩; rw [← h1, ← Nat.div_add_mod' k (2 ^ L.mb), h2]; simp

/-- A number with its sign. -/
theorem toQ_fin (n : Bool) (m : Nat) (e : Int) (st : Bool) :
    (Val.fin n m e st).toQ = .fin n (if n then -((m : Rat) * 2 ^ e) else (m : Rat) * 2 ^ e) := by
  cases n <;> simp [Val.toQ]

/-- The number of a code of a layout (Table 2.2). -/
theorem Layout.value_toQ :
    (L.value c).toQ =
      (let k := c % 2 ^ (L.eb + L.mb)
      let neg := c.testBit (L.eb + L.mb)
      if k < L.top then .fin neg (if neg then -magnitude L.mb L.bias k else magnitude L.mb L.bias k)
      else if decide (L.spec = .ieee) && decide (k = L.top) then .inf neg else .nan) := by
  obtain ⟨hk, hq, hr⟩ := L.code_fields c
  by_cases hi : L.spec = .ieee ∧ c / 2 ^ L.mb % 2 ^ L.eb = 2 ^ L.eb - 1
  · have hnt : ¬ c % 2 ^ (L.eb + L.mb) < L.top := fun h => ((Layout.lt_top_iff c).1 h).1 hi
    have hv : L.value c = if c % 2 ^ L.mb = 0 then .inf (c.testBit (L.eb + L.mb)) else .nan := if_pos hi
    have ht := Layout.eq_top_iff c hi.1
    simp only [hv, hnt, if_false, decide_eq_true hi.1, Bool.true_and, decide_eq_true_eq, ht, hi.2, true_and]
    split_ifs <;> rfl
  by_cases he : L.spec = .e4m3 ∧ c / 2 ^ L.mb % 2 ^ L.eb = 2 ^ L.eb - 1 ∧ c % 2 ^ L.mb = 2 ^ L.mb - 1
  · have hnt : ¬ c % 2 ^ (L.eb + L.mb) < L.top := fun h => ((Layout.lt_top_iff c).1 h).2 he
    have hv : L.value c = .nan := (if_neg hi).trans (if_pos he)
    have hs : L.spec ≠ .ieee := by rw [he.1]; decide
    simp only [hv, hnt, if_false, decide_eq_false hs, Bool.false_and, Bool.false_eq_true]
    rfl
  · have hv : L.value c = if c / 2 ^ L.mb % 2 ^ L.eb = 0 then
        .fin (c.testBit (L.eb + L.mb)) (c % 2 ^ L.mb) (1 - (L.bias : Int) - L.mb) false else
        .fin (c.testBit (L.eb + L.mb)) (2 ^ L.mb + c % 2 ^ L.mb) (((c / 2 ^ L.mb % 2 ^ L.eb : Nat) : Int) - L.bias - L.mb) false :=
      (if_neg hi).trans (if_neg he)
    simp only [hv, if_pos ((Layout.lt_top_iff c).2 ⟨hi, he⟩), magnitude, hq, hr]
    by_cases h0 : c / 2 ^ L.mb % 2 ^ L.eb = 0
    · rw [if_pos h0, if_pos h0, toQ_fin, hk, h0, Nat.mul_zero, Nat.zero_add]
    · rw [if_neg h0, if_neg h0, toQ_fin]

theorem Layout.value_sharp (L : Layout) : (L.value c).Sharp := by
  simp only [Layout.value]
  split_ifs <;> trivial

/-- A subnormal or a zero is below the smallest normal. -/
theorem Layout.subnormal_iff (L : Layout) : L.subnormal c = true ↔
    c % 2 ^ (L.eb + L.mb) < 2 ^ L.mb ∧ c % 2 ^ (L.eb + L.mb) ≠ 0 := by
  obtain ⟨hk, hq, hr⟩ := L.code_fields c
  have hF : c % 2 ^ L.mb < 2 ^ L.mb := Nat.mod_lt _ (Nat.two_pow_pos _)
  rw [Layout.subnormal, Bool.and_eq_true, beq_iff_eq, bne_iff_ne, hk]
  generalize c / 2 ^ L.mb % 2 ^ L.eb = E
  rcases Nat.eq_zero_or_pos E with h | h
  · simp [h, hF]
  · have : 2 ^ L.mb * 1 ≤ 2 ^ L.mb * E := Nat.mul_le_mul_left _ h
    omega

end

/-! ### Codes of a format -/

theorem readInt_eq_intOf (w : Nat) (un : Bool) (c : Nat) : readInt w un c = intOf w un c := by
  unfold readInt intOf signedOf
  cases un <;> simp

theorem toQ_ofInt (i : Int) : (Val.ofInt i).toQ = Claims.ofInt i := by
  have hx : ((i.natAbs : Nat) : Rat) = |(i : Rat)| := by
    rw [← Int.cast_abs, Int.abs_eq_natAbs]; rfl
  rw [Val.ofInt, toQ_fin, zpow_zero, mul_one, hx, Claims.ofInt]
  by_cases h : i < 0
  · rw [decide_eq_true h, if_pos rfl, abs_of_neg (Int.cast_lt_zero.2 h), neg_neg]
  · rw [decide_eq_false h, if_neg Bool.false_ne_true, abs_of_nonneg (Int.cast_nonneg (not_lt.1 h))]

theorem toQ_scale (v : Val) (e : Int) : (v.scale e).toQ = v.toQ.times e := by
  cases v with
  | nan => rfl
  | inf n => rfl
  | fin n m x st => simp only [Val.scale, Val.toQ, Quantity.times, zpow_add₀ (show (2 : Rat) ≠ 0 by norm_num), mul_assoc]

theorem Val.Sharp.scale {v : Val} (h : v.Sharp) (e : Int) : (v.scale e).Sharp := by cases v <;> exact h

/-- Every code has the number of its format. -/
theorem Fmt.value_toQ (f : Fmt) (un flush : Bool) (c : Nat) : (f.value un flush c).toQ = numOf f un flush c := by
  cases hL : f.layout with
  | some L =>
    have hs := Fmt.layout_sound hL
    have htop := (Layout.top_le hs).1
    simp only [Fmt.value, hL, numOf, floatOf_of_layout hL, topCode_of_layout hL, hasInf_of_layout hL]
    by_cases hf : (flush && L.subnormal c) = true
    · obtain ⟨rfl, hsub⟩ := Bool.and_eq_true_iff.1 hf
      rw [Layout.subnormal_iff] at hsub
      have : c % 2 ^ (L.eb + L.mb) < L.top := by omega
      simp [hf, hsub.1, this, Val.zero, toQ_fin]
    · rw [if_neg hf, Layout.value_toQ c]
      by_cases hz : flush = true ∧ c % 2 ^ (L.eb + L.mb) < 2 ^ L.mb
      · have h0 : c % 2 ^ (L.eb + L.mb) = 0 := by
          by_contra h
          exact hf (Bool.and_eq_true_iff.2 ⟨hz.1, (L.subnormal_iff c).2 ⟨hz.2, h⟩⟩)
        simp [h0]
      · have : (flush && decide (c % 2 ^ (L.eb + L.mb) < 2 ^ L.mb)) = false := by
          cases flush
          · rfl
          · simpa using hz
        simp [this]
  | none =>
    simp only [Fmt.value, hL, numOf, floatOf_of_no_layout hL, readInt_eq_intOf]
    by_cases hx : f = .mxi8
    · rw [if_pos hx, if_pos hx, toQ_scale, toQ_ofInt]
      simp only [Claims.ofInt, Quantity.times, intOf, Bool.false_eq_true, if_false]
      norm_num [div_eq_mul_inv]
    · rw [if_neg hx, if_neg hx, toQ_ofInt]

theorem Fmt.value_sharp (f : Fmt) (un flush : Bool) (c : Nat) : (f.value un flush c).Sharp := by
  unfold Fmt.value
  cases f.layout with
  | some L => simp only; split_ifs; exacts [rfl, Layout.value_sharp c L]
  | none => simp only; split_ifs; exacts [rfl, rfl]

/-! ### Values that a format holds -/

/-- A code of a layout is its sign and the code of its magnitude. -/
theorem Layout.eq_signBit_add {L : Layout} {c : Nat} (hc : c < 2 ^ (L.eb + L.mb + 1)) :
    c = L.signBit (c.testBit (L.eb + L.mb)) + c % 2 ^ (L.eb + L.mb) := by
  have hpow : 2 ^ (L.eb + L.mb + 1) = 2 * 2 ^ (L.eb + L.mb) := by rw [pow_succ]; omega
  have h := Nat.div_add_mod c (2 ^ (L.eb + L.mb))
  have hd : c / 2 ^ (L.eb + L.mb) < 2 := Nat.div_lt_of_lt_mul (by rw [Nat.mul_comm]; exact hpow ▸ hc)
  rw [Layout.signBit, Nat.testBit_eq_decide_div_mod_eq]
  obtain h0 | h1 : c / 2 ^ (L.eb + L.mb) = 0 ∨ c / 2 ^ (L.eb + L.mb) = 1 := Nat.le_one_iff_eq_zero_or_eq_one.1 (Nat.lt_succ_iff.1 hd)
  · rw [h0] at h ⊢; simpa using h.symm
  · rw [h1] at h ⊢; simpa using h.symm

/-- RoundTo gives the magnitude of a finite code its own code. -/
theorem Layout.roundFloat_value {L : Layout} (hL : L.Sound) {m k : Nat} {e : Int} (hm : m ≠ 0)
    (hk : (m : Rat) * 2 ^ e = magnitude L.mb L.bias k) (ht : k < L.top) (neg sat : Bool) (mode : RMode) (rng : Word) :
    roundFloat L (.fin neg m e false) mode sat false rng = ⟨L.signBit neg + k, 0, rng⟩ := by
  obtain ⟨j, hlo, hup, hj⟩ := Layout.exists_roundFloat hL hm (Encloses.exact m e (L.place m e - 24)) (by omega) neg sat false mode rng
  have hmono := magnitude_strictMono L.mb (L.bias : Int)
  rw [order_ne_lt, hk, hmono.le_iff_le] at hlo
  rw [order_eq_lt, hk, hmono.lt_iff_lt] at hup
  obtain rfl : j = k := by omega
  have hx : decide (order ((m : Rat) * 2 ^ e) (magnitude L.mb L.bias j) ≠ .eq) = false := by
    rw [decide_eq_false_iff_not, not_not, order_eq_eq, hk]
  simp only [hj, roundedCode, hx, Bool.false_and, Bool.false_eq_true, if_false, Layout.deliver, not_le.2 ht, ifSet]
  rfl

/-- A value that a floating-point format holds is brought to its own code, a NaN to the canonical one. -/
theorem roundTo_value {f : Fmt} {L : Layout} (hL : f.layout = some L) (hf : f ≠ .acc48) {c : Nat} (hc : c < 2 ^ f.bits) (un : Bool)
    (hinf : ∀ n, f.value un false c ≠ .inf n) (mode : RMode) (sat : Bool) (rng : Word) :
    roundTo f (f.value un false c) mode sat un false rng =
      if (f.value un false c).isNan then ⟨f.nanCode, 0, rng⟩ else ⟨c, 0, rng⟩ := by
  have hv : f.value un false c = L.value c := by simp [Fmt.value, hL]
  have hq := Layout.value_toQ c (L := L)
  rw [bits_of_layout hL] at hc
  rw [roundTo_of_layout hL hf]
  rw [hv] at hinf ⊢
  have hnc : f.nanCode = L.nanCode := by simp [Fmt.nanCode, hL]
  by_cases ht : c % 2 ^ (L.eb + L.mb) < L.top
  · obtain ⟨n, m, e, hfin⟩ : ∃ n m e, L.value c = .fin n m e false := by
      have hs := Layout.value_sharp c L
      cases h : L.value c <;> simp_all [Val.toQ, Val.Sharp]
    simp only [if_pos ht, hfin, toQ_fin, Quantity.fin.injEq] at hq
    obtain ⟨rfl, hr⟩ := hq
    have hmag : (m : Rat) * 2 ^ e = magnitude L.mb L.bias (c % 2 ^ (L.eb + L.mb)) := by
      cases h : c.testBit (L.eb + L.mb) <;> simpa [h] using hr
    have hcode := Layout.eq_signBit_add hc
    simp only [hfin, Val.isNan, Bool.false_eq_true, if_false]
    by_cases hm : m = 0
    · have h0 : c % 2 ^ (L.eb + L.mb) = 0 := by
        rw [hm] at hmag
        by_contra h
        have := magnitude_pos (mb := L.mb) (bias := (L.bias : Int)).2 (Nat.pos_of_ne_zero h)
        rw [← hmag] at this; simp at this
      rw [hm, roundFloat_zero]
      rw [h0, Nat.add_zero] at hcode
      rw [← hcode]; rfl
    · rw [Layout.roundFloat_value (Fmt.layout_sound hL) hm hmag ht, ← hcode]
  · have hnan : L.value c = .nan := by
      cases h : L.value c with
      | nan => rfl
      | inf n => exact absurd h (hinf n)
      | fin n m e st => rw [h] at hq; simp only [if_neg ht, toQ_fin] at hq; split_ifs at hq
    have hs : L.spec ≠ .none_ := fun h => ht (by
      rw [Layout.lt_top_iff, h]; simp)
    rw [hnan, hnc]
    simp [roundFloat, Val.isNan, hs, flNone]

end Sys2Proof
end

section
/-!
PROOF. RoundTo of exact values, and the values of codes (spec/02 R33, R34, R37-R39, R47, R49, R51, R53, R54).
-/
open Sys2Proof Sys2Proof.Claims

/-- Settles O24: RoundTo's result is what it delivers for the neighbour that the mode chooses, and a code's own value lies on no
open interval. -/
theorem roundToExact : Obligations.RoundToExact := by
  refine ⟨fun f un flush c _ => ?_, fun f x k rng h1 h2 hk => ?_, fun f L c mode sat un rng hL hf hc hinf =>
    roundTo_value hL hf hc un hinf mode sat rng⟩
  · have hq := Fmt.value_toQ f un flush c
    have hs := Fmt.value_sharp f un flush c
    cases hv : f.value un flush c with
    | nan => rw [hv] at hq; rw [← hq]; trivial
    | inf n => rw [hv] at hq; rw [← hq]; rfl
    | fin n m e st => rw [hv] at hq hs; rw [← hq]; exact ⟨hs, rfl, rfl⟩
  · cases x with
    | nan => exact roundTo_rounds h1 h2 (v := .nan) trivial hk rng
    | inf n => exact roundTo_rounds h1 h2 (v := .inf n) trivial hk rng
    | fin n m e st =>
      cases st with
      | true => trivial
      | false =>
        have h := roundTo_rounds h1 h2 (v := .fin n m e false) rfl hk rng
        rwa [exactOf_fin] at h
end

section
/-!
SUPPORT. Exact arithmetic (spec/02 R36, R37, R52, R54, R55, spec/07 R152, R155): the model's sums, products, comparisons and scales
are those of the numbers.
-/
namespace Sys2Proof
open Sys2Proof.Claims

theorem Val.isNan_iff (v : Val) : v.isNan = true ↔ v.toQ = .nan := by cases v <;> simp [Val.isNan, Val.toQ]

theorem Val.isNan_eq (v : Val) : v.isNan = decide (v.toQ = .nan) := by cases v <;> simp [Val.isNan, Val.toQ]

theorem Val.eq_inf_iff (v : Val) (n : Bool) : v = .inf n ↔ v.toQ = .inf n := by cases v <;> simp [Val.toQ]

theorem Val.negate_toQ (v : Val) : v.negate.toQ = v.toQ.neg := by
  cases v with
  | nan => rfl
  | inf n => rfl
  | fin n m e st => cases n <;> simp [Val.negate, Val.toQ, Quantity.neg]

theorem Val.Sharp.negate {v : Val} (h : v.Sharp) : v.negate.Sharp := by cases v <;> exact h

theorem applyScale_toQ (s : BitVec 8) (v : Val) : (applyScale s v).toQ = v.toQ.scaled s := by
  unfold applyScale Quantity.scaled
  show (if s = 255#8 then Val.nan else v.scale ((s.toNat : Int) - 127)).toQ = if s = 255#8 then _ else _
  by_cases h : s = 255#8
  · rw [if_pos h, if_pos h]; rfl
  · rw [if_neg h, if_neg h, toQ_scale]

theorem Val.Sharp.applyScale {v : Val} (h : v.Sharp) (s : BitVec 8) : (applyScale s v).Sharp := by
  unfold Sys2Proof.applyScale; split
  · trivial
  · exact h.scale _

theorem fin_toQ_eq_zero {n : Bool} {m : Nat} {e : Int} {st : Bool} (b : Bool) :
    (Val.fin n m e st).toQ = .fin b 0 ↔ n = b ∧ m = 0 := by
  have hp : (2 : Rat) ^ e ≠ 0 := by positivity
  cases n <;> simp [toQ_fin, hp]

/-! ### Products -/

/-- The model's product of exact values is that of their numbers. -/
theorem Val.mul_toQ {a b : Val} (ha : a.Sharp) (hb : b.Sharp) : ((a.mul b).1.toQ, (a.mul b).2) = mulNum a.toQ b.toQ := by
  have real_eq_zero (n : Bool) (m : Nat) (e : Int) : (if n then -((m : Rat) * 2 ^ e) else (m : Rat) * 2 ^ e) = 0 ↔ m = 0 := by
    have hp : (2 : Rat) ^ e ≠ 0 := by positivity
    cases n <;> simp [hp]
  cases a with
  | nan => cases b <;> rfl
  | inf n =>
    cases b with
    | nan => rfl
    | inf n' => rfl
    | fin n' m' e' st' =>
      obtain rfl : st' = false := hb
      by_cases h : m' = 0 <;> simp [Val.mul, mulNum, real_eq_zero, Val.isZero, h, Val.isNeg, Val.toQ, flNone]
  | fin n m e st =>
    obtain rfl : st = false := ha
    cases b with
    | nan => rfl
    | inf n' =>
      by_cases h : m = 0 <;> simp [Val.mul, mulNum, real_eq_zero, Val.isZero, h, Val.isNeg, Val.toQ, flNone]
      cases n <;> cases n' <;> rfl
    | fin n' m' e' st' =>
      obtain rfl : st' = false := hb
      simp only [Val.mul, mulNum, toQ_fin, Bool.or_false, Bool.false_eq_true, if_false, flNone, zpow_add₀ (show (2 : Rat) ≠ 0 by norm_num),
        Nat.cast_mul]
      cases n <;> cases n' <;> simp <;> ring_nf

theorem Val.mul_sharp {a b : Val} (ha : a.Sharp) (hb : b.Sharp) : (a.mul b).1.Sharp := by
  cases a with
  | nan => cases b <;> trivial
  | inf n =>
    cases b with
    | fin n' m' e' st' => simp only [Val.mul]; split <;> trivial
    | _ => trivial
  | fin n m e st =>
    obtain rfl : st = false := ha
    cases b with
    | nan => trivial
    | inf n' => simp only [Val.mul]; split <;> trivial
    | fin n' m' e' st' => obtain rfl : st' = false := hb; rfl

/-! ### Sums -/

theorem minExp_le (ts : List Val) (e : Int) : minExp ts e ≤ e ∧ ∀ n m ex st, Val.fin n m ex st ∈ ts → minExp ts e ≤ ex := by
  induction ts generalizing e with
  | nil => exact ⟨le_refl _, by simp⟩
  | cons v ts ih =>
    cases v with
    | fin n m ex st =>
      obtain ⟨h1, h2⟩ := ih (if ex < e then ex else e)
      refine ⟨h1.trans (by split <;> omega), fun n' m' ex' st' h => ?_⟩
      rcases List.mem_cons.1 h with h | h
      · cases h; exact h1.trans (by split <;> omega)
      · exact h2 _ _ _ _ h
    | _ =>
      obtain ⟨h1, h2⟩ := ih e
      exact ⟨h1, fun n' m' ex' st' h => h2 _ _ _ _ ((List.mem_cons.1 h).resolve_left (by simp))⟩

/-- The terms' sum, in units of a power of two that none of them is finer than. -/
theorem sumAt_real (e : Int) (ts : List Val) (h : ∀ n m ex st, Val.fin n m ex st ∈ ts → e ≤ ex) :
    ((sumAt e ts : Int) : Rat) * 2 ^ e = ((ts.map Val.toQ).map Quantity.real).sum := by
  induction ts with
  | nil => simp [sumAt]
  | cons v ts ih =>
    have iht := ih (fun n m ex st hm => h n m ex st (List.mem_cons_of_mem _ hm))
    cases v with
    | fin n m ex st =>
      have he := h n m ex st List.mem_cons_self
      simp only [sumAt, List.map_cons, List.sum_cons, Int.cast_add, add_mul, iht, toQ_fin, Quantity.real, zpow_split e ex he,
        Nat.shiftLeft_eq]
      cases n <;> simp <;> ring
    | _ => simpa [sumAt, Val.toQ, Quantity.real] using iht

/-- The sign of a zero sum (R52). -/
def zeroSum (ts : List Val) (mode : RMode) : Val :=
  let allZero := ts.all Val.isZero
  if allZero && ts.all (fun v => !v.isNeg) then .zero false
  else if allZero && ts.all Val.isNeg then .zero true
  else .zero (decide (mode = .rdn))

/-- A sum of finite terms is taken in units of a power of two that none of them is finer than. -/
theorem sumVals_of_fin {ts : List Val} (h : ∀ v ∈ ts, ∃ n m e st, v = Val.fin n m e st) (mode : RMode) :
    ∃ e, (∀ n m ex st, Val.fin n m ex st ∈ ts → e ≤ ex) ∧ sumVals ts mode =
      (if sumAt e ts = 0 then zeroSum ts mode else .fin (decide (sumAt e ts < 0)) (sumAt e ts).natAbs e false, flNone) := by
  have hnan : ts.any Val.isNan = false := by
    rw [List.any_eq_false]; intro v hv; obtain ⟨n, m, e, st, rfl⟩ := h v hv; simp [Val.isNan]
  have hinf (b : Bool) : ts.any (fun v => decide (v = .inf b)) = false := by
    rw [List.any_eq_false]; intro v hv; obtain ⟨n, m, e, st, rfl⟩ := h v hv; simp
  have hsplit (e : Int) : (if sumAt e ts = 0 then
      (if (ts.all Val.isZero && ts.all (fun v => !v.isNeg)) = true then (Val.zero false, flNone)
        else if (ts.all Val.isZero && ts.all Val.isNeg) = true then (Val.zero true, flNone)
        else (Val.zero (decide (mode = .rdn)), flNone))
      else (Val.fin (decide (sumAt e ts < 0)) (sumAt e ts).natAbs e false, flNone)) =
      (if sumAt e ts = 0 then zeroSum ts mode else .fin (decide (sumAt e ts < 0)) (sumAt e ts).natAbs e false, flNone) := by
    simp only [zeroSum]; split_ifs <;> rfl
  cases ts with
  | nil => exact ⟨0, by simp, by simp [sumVals, sumAt, zeroSum]⟩
  | cons v ts =>
    obtain ⟨n, m, ex, st, rfl⟩ := h v List.mem_cons_self
    refine ⟨minExp ts ex, fun n' m' ex' st' hm => ?_, ?_⟩
    · rcases List.mem_cons.1 hm with hm | hm
      · cases hm; exact (minExp_le ts ex).1
      · exact (minExp_le ts ex).2 _ _ _ _ hm
    · rw [← hsplit, sumVals]
      simp only [hnan, hinf, Bool.false_eq_true, if_false, Bool.and_self]

/-- The sign of a zero sum, in the numbers' words. -/
theorem zeroSum_toQ {ts : List Val} (h : ∀ v ∈ ts, ∃ n m e st, v = Val.fin n m e st) (hs : ∀ v ∈ ts, v.Sharp) (mode : RMode) :
    (zeroSum ts mode).toQ = if ∀ x ∈ ts.map Val.toQ, x = .fin false 0 then .fin false 0
      else if ∀ x ∈ ts.map Val.toQ, x = .fin true 0 then .fin true 0 else .fin (decide (mode = .rdn)) 0 := by
  have hzero (b : Bool) : (∀ x ∈ ts.map Val.toQ, x = .fin b 0) ↔ ∀ v ∈ ts, v.isZero = true ∧ v.isNeg = b := by
    simp only [List.mem_map, forall_exists_index, and_imp, forall_apply_eq_imp_iff₂]
    refine forall₂_congr (fun v hv => ?_)
    obtain ⟨n, m, ex, st, rfl⟩ := h v hv
    obtain rfl : st = false := hs _ hv
    rw [fin_toQ_eq_zero]; simp [Val.isZero, Val.isNeg, and_comm]
  have hf : (ts.all Val.isZero && ts.all (fun v => !v.isNeg)) = true ↔ ∀ x ∈ ts.map Val.toQ, x = .fin false 0 := by
    rw [hzero]; simp [List.all_eq_true, forall_and]
  have ht : (ts.all Val.isZero && ts.all Val.isNeg) = true ↔ ∀ x ∈ ts.map Val.toQ, x = .fin true 0 := by
    rw [hzero]; simp [List.all_eq_true, forall_and]
  have hz (b : Bool) : (Val.zero b).toQ = .fin b 0 := by simp [Val.zero, toQ_fin]
  simp only [zeroSum, hf, ht, ← hz]
  split_ifs <;> rfl

/-- An integer at an exponent. -/
theorem signed_toQ (i : Int) (e : Int) :
    (Val.fin (decide (i < 0)) i.natAbs e false).toQ = .fin (decide ((i : Rat) * 2 ^ e < 0)) ((i : Rat) * 2 ^ e) := by
  have hp : (0 : Rat) < 2 ^ e := by positivity
  have hlt : (i : Rat) * 2 ^ e < 0 ↔ i < 0 := by
    rw [mul_neg_iff]; simp [hp, not_lt.2 hp.le]
  have hx := toQ_ofInt i
  rw [Val.ofInt, toQ_fin] at hx
  simp only [Claims.ofInt, Quantity.fin.injEq, zpow_zero, mul_one, true_and] at hx
  rw [toQ_fin, ← hx]
  simp only [decide_eq_true_eq, Quantity.fin.injEq, decide_eq_decide] at *
  refine ⟨by rw [hx, hlt], by split <;> ring⟩

/-- The model's sum of exact values is that of their numbers. -/
theorem sumVals_toQ {ts : List Val} (hs : ∀ v ∈ ts, v.Sharp) (mode : RMode) :
    ((sumVals ts mode).1.toQ, (sumVals ts mode).2) = addNum mode (ts.map Val.toQ) := by
  have hnan : ts.any Val.isNan = true ↔ Quantity.nan ∈ ts.map Val.toQ := by
    simp [List.any_eq_true, Val.isNan_iff]
  have hinf (n : Bool) : ts.any (fun v => decide (v = .inf n)) = true ↔ Quantity.inf n ∈ ts.map Val.toQ := by
    simp [List.any_eq_true, Val.eq_inf_iff]
  by_cases h1 : Quantity.nan ∈ ts.map Val.toQ
  · simp only [sumVals, addNum, if_pos h1, if_pos (hnan.2 h1)]; rfl
  have h1' := mt hnan.1 h1
  by_cases h2 : Quantity.inf false ∈ ts.map Val.toQ ∧ Quantity.inf true ∈ ts.map Val.toQ
  · simp only [sumVals, addNum, if_neg h1, if_neg h1', Bool.and_eq_true, hinf, if_pos h2]; rfl
  by_cases h3 : Quantity.inf false ∈ ts.map Val.toQ
  · simp only [sumVals, addNum, if_neg h1, if_neg h1', Bool.and_eq_true, hinf, if_neg h2, if_pos h3]; rfl
  by_cases h4 : Quantity.inf true ∈ ts.map Val.toQ
  · simp only [sumVals, addNum, if_neg h1, if_neg h1', Bool.and_eq_true, hinf, if_neg h2, if_neg h3, if_pos h4]; rfl
  have hfin : ∀ v ∈ ts, ∃ n m ex st, v = Val.fin n m ex st := fun v hv => by
    have hm : v.toQ ∈ ts.map Val.toQ := List.mem_map_of_mem hv
    cases v with
    | nan => exact absurd hm h1
    | inf n => cases n <;> contradiction
    | fin n m e st => exact ⟨n, m, e, st, rfl⟩
  obtain ⟨e, hle, heq⟩ := sumVals_of_fin hfin mode
  have hsum := sumAt_real e ts hle
  have hp : (0 : Rat) < 2 ^ e := by positivity
  simp only [addNum, if_neg h1, if_neg h2, if_neg h3, if_neg h4, heq]
  generalize hi : sumAt e ts = i at hsum
  by_cases h0 : i = 0
  · have hr : ¬ ((ts.map Val.toQ).map Quantity.real).sum ≠ 0 := by rw [← hsum, h0]; simp
    rw [if_neg hr, if_pos h0, zeroSum_toQ hfin hs]
    split_ifs <;> rfl
  · have hr : ((ts.map Val.toQ).map Quantity.real).sum ≠ 0 := by
      rw [← hsum]; exact mul_ne_zero (Int.cast_ne_zero.2 h0) hp.ne'
    rw [if_pos hr, if_neg h0, ← hsum, signed_toQ]
    rfl

theorem sumVals_sharp (ts : List Val) (mode : RMode) : (sumVals ts mode).1.Sharp := by
  simp only [sumVals]; split_ifs <;> trivial

/-! ### Comparisons -/

/-- The model's comparison of exact values. -/
theorem Val.cmp_fin (n n' : Bool) (m m' : Nat) (e e' : Int) (st st' : Bool) :
    (Val.fin n m e st).cmp (.fin n' m' e' st') =
      some (order (Val.fin n m e st).toQ.real (Val.fin n' m' e' st').toQ.real) := by
  obtain ⟨b, hb, h1, h2⟩ : ∃ b : Int, (if e < e' then e else e') = b ∧ b ≤ e ∧ b ≤ e' := ⟨_, rfl, by split <;> omega, by split <;> omega⟩
  have hp : (0 : Rat) < 2 ^ b := by positivity
  have real_eq (n : Bool) (m : Nat) (e : Int) (st : Bool) (h : b ≤ e) : (Val.fin n m e st).toQ.real =
      (((if n then -((m <<< (e - b).toNat : Nat) : Int) else ((m <<< (e - b).toNat : Nat) : Int)) : Int) : Rat) * 2 ^ b := by
    simp only [toQ_fin, Quantity.real, zpow_split b e h, Nat.shiftLeft_eq]
    cases n <;> simp [mul_assoc]
  rw [real_eq n m e st h1, real_eq n' m' e' st' h2]
  simp only [Val.cmp, hb]
  generalize (if n = true then -((m <<< (e - b).toNat : Nat) : Int) else ((m <<< (e - b).toNat : Nat) : Int)) = x
  generalize (if n' = true then -((m' <<< (e' - b).toNat : Nat) : Int) else ((m' <<< (e' - b).toNat : Nat) : Int)) = y
  congr 1
  rcases lt_trichotomy x y with h | h | h
  · rw [compare_lt_iff_lt.2 h]
    exact (order_eq_lt.2 ((mul_lt_mul_iff_left₀ hp).2 (Int.cast_lt.2 h))).symm
  · rw [compare_eq_iff_eq.2 h, h]
    exact (order_eq_eq.2 rfl).symm
  · rw [compare_gt_iff_gt.2 h]
    exact (order_gt.2 ((mul_lt_mul_iff_left₀ hp).2 (Int.cast_lt.2 h))).symm

/-- The lesser of two numbers (R152). -/
theorem valLe_eq (x y : Val) : valLe x y = notAbove x.toQ y.toQ := by
  cases x with
  | nan => cases y <;> rfl
  | inf n =>
    cases y with
    | nan => rfl
    | inf n' => cases n <;> cases n' <;> rfl
    | fin n' m' e' st' => cases n <;> rfl
  | fin n m e st =>
    cases y with
    | nan => rfl
    | inf n' => cases n' <;> rfl
    | fin n' m' e' st' =>
      simp only [valLe, Val.cmp_fin, order, Val.isNeg]
      simp only [toQ_fin, notAbove, Quantity.real]
      generalize (if n = true then -((m : Rat) * 2 ^ e) else (m : Rat) * 2 ^ e) = a
      generalize (if n' = true then -((m' : Rat) * 2 ^ e') else (m' : Rat) * 2 ^ e') = b
      rcases lt_trichotomy a b with h | h | h
      · simp [h]
      · simp [h]
      · simp [h.not_gt, h.ne']

/-! ### Elements -/

theorem elemVal_toQ (k : RoundCtx) (f : Fmt) (c : Nat) : (elemVal k f c).toQ = numOf f k.un (flushes k.fpmode f) c := by
  rw [elemVal, Fmt.value_toQ, flushOf_eq_flushes]

theorem elemVal_sharp (k : RoundCtx) (f : Fmt) (c : Nat) : (elemVal k f c).Sharp := Fmt.value_sharp f _ _ c

theorem scaledVal_toQ (k : RoundCtx) (r : LaneReg) (i : Nat) : (scaledVal k r i).toQ = elemNum k r i := by
  simp only [scaledVal, elemNum]
  split
  · rw [applyScale_toQ, elemVal_toQ]
  · exact elemVal_toQ k r.tag _

theorem scaledVal_sharp (k : RoundCtx) (r : LaneReg) (i : Nat) : (scaledVal k r i).Sharp := by
  simp only [scaledVal]
  split
  · exact (elemVal_sharp k r.tag _).applyScale _
  · exact elemVal_sharp k r.tag _

/-- An element of a register whose tag uses no scale. -/
theorem elemNum_of_not_isMx {k : RoundCtx} {r : LaneReg} (h : r.tag.isMx = false) (i : Nat) :
    elemNum k r i = (elemVal k r.tag (subElem r.tag r.bits i)).toQ := by
  rw [elemVal_toQ]; simp [elemNum, h]

end Sys2Proof
end

section
/-!
SUPPORT. Lane registers as sequences of elements (spec/07 R143, R149, R152): what a register holds after its elements were joined,
and that the elements of a result are rounded in order.
-/
namespace Sys2Proof
open Sys2Proof.Claims

/-! ### Elements of a register -/

theorem Fmt.bits_le_stride (f : Fmt) : f.bits ≤ f.stride := by cases f <;> decide

theorem Fmt.stride_mul_count (f : Fmt) : f.stride * f.count = 64 := by cases f <;> decide

theorem Fmt.count_pos (f : Fmt) : 0 < f.count := by cases f <;> decide

theorem subElem_lt (f : Fmt) (b : Word) (i : Nat) : subElem f b i < 2 ^ f.bits := Nat.mod_lt _ (Nat.two_pow_pos _)

/-- The number that joins elements, from bit 0 up. -/
def joined (s w : Nat) (cs : List Nat) : Nat := cs.foldr (fun c acc => acc * 2 ^ s + c % 2 ^ w) 0

theorem joined_lt {s w : Nat} (h : w ≤ s) (cs : List Nat) : joined s w cs < 2 ^ (s * cs.length) := by
  induction cs with
  | nil => simp [joined]
  | cons c cs ih =>
    have hc : c % 2 ^ w < 2 ^ s := (Nat.mod_lt _ (Nat.two_pow_pos w)).trans_le (Nat.pow_le_pow_right (by omega) h)
    calc joined s w (c :: cs) = joined s w cs * 2 ^ s + c % 2 ^ w := rfl
      _ < (joined s w cs + 1) * 2 ^ s := by rw [Nat.add_mul]; omega
      _ ≤ 2 ^ (s * cs.length) * 2 ^ s := Nat.mul_le_mul_right _ ih
      _ = 2 ^ (s * (c :: cs).length) := by rw [← pow_add, List.length_cons, Nat.mul_succ]

theorem joined_shift {s w : Nat} (h : w ≤ s) (cs : List Nat) (i : Nat) (hi : i < cs.length) :
    (joined s w cs >>> (i * s)) % 2 ^ w = cs[i] % 2 ^ w := by
  induction cs generalizing i with
  | nil => simp at hi
  | cons c cs ih =>
    have hc : c % 2 ^ w < 2 ^ s := (Nat.mod_lt _ (Nat.two_pow_pos w)).trans_le (Nat.pow_le_pow_right (by omega) h)
    have hj : joined s w (c :: cs) = 2 ^ s * joined s w cs + c % 2 ^ w := by rw [Nat.mul_comm]; rfl
    cases i with
    | zero =>
      obtain ⟨d, hd⟩ : 2 ^ w ∣ 2 ^ s := pow_dvd_pow 2 h
      rw [Nat.zero_mul, Nat.shiftRight_zero, hj, hd, Nat.mul_assoc, Nat.mul_add_mod, Nat.mod_mod]; rfl
    | succ i =>
      have hd : joined s w (c :: cs) >>> s = joined s w cs := by
        rw [hj, Nat.shiftRight_eq_div_pow, Nat.mul_add_div (Nat.two_pow_pos s), Nat.div_eq_of_lt hc, Nat.add_zero]
      rw [Nat.succ_mul, Nat.add_comm, Nat.shiftRight_add, hd]
      exact ih i (Nat.lt_of_succ_lt_succ hi)

theorem joinElems_toNat {f : Fmt} {cs : List Nat} (h : cs.length ≤ f.count) : (joinElems f cs).toNat = joined f.stride f.bits cs := by
  have hlt := (joined_lt f.bits_le_stride cs).trans_le
    (Nat.pow_le_pow_right (by omega) ((Nat.mul_le_mul_left f.stride h).trans_eq f.stride_mul_count))
  exact (BitVec.toNat_ofNat _ _).trans (Nat.mod_eq_of_lt hlt)

/-- An element of joined elements. -/
theorem subElem_joinElems {f : Fmt} {cs : List Nat} (h : cs.length ≤ f.count) {i : Nat} (hi : i < cs.length) :
    subElem f (joinElems f cs) i = cs[i] % 2 ^ f.bits := by
  rw [subElem, joinElems_toNat h]; exact joined_shift f.bits_le_stride cs i hi

theorem subElem_joinElems_map {f : Fmt} {n : Nat} (hn : n ≤ f.count) (F : Nat → Nat) {i : Nat} (hi : i < n) :
    subElem f (joinElems f ((List.range n).map F)) i = F i % 2 ^ f.bits := by
  rw [subElem_joinElems (by simpa using hn) (by simpa using hi)]; simp

theorem joinElems_acc48_lt (cs : List Nat) (h : cs.length ≤ 1) : (joinElems .acc48 cs).toNat < 2 ^ 48 := by
  rw [joinElems_toNat h]
  match cs, h with
  | [], _ => decide
  | [c], _ => exact (Nat.mod_lt c (Nat.two_pow_pos 48)).trans_eq' (by simp [joined, Fmt.bits])

/-! ### Results of RoundTo are codes of the format -/

theorem nanOf_lt (f : Fmt) : nanOf f < 2 ^ f.bits := by cases f <;> decide

theorem topCode_le (f : Fmt) : topCode f ≤ 2 ^ (f.bits - 1) := by cases f <;> decide

theorem topCode_lt {f : Fmt} (h : hasNaN f = true) : topCode f < 2 ^ (f.bits - 1) := by
  cases f <;> first | decide | exact absurd h (by decide)

theorem two_pow_bits (f : Fmt) : 2 ^ f.bits = 2 * 2 ^ (f.bits - 1) := by cases f <;> rfl

theorem sign_le (f : Fmt) (neg : Bool) : (if neg then 2 ^ (f.bits - 1) else 0) ≤ 2 ^ (f.bits - 1) := by
  split
  · exact le_refl _
  · exact Nat.zero_le _

theorem RoundsFloat.code_lt {f : Fmt} {mb : Nat} {bias : Int} {mode : RMode} {sat flush neg : Bool} {cut : Rat → Ordering} {rng : Word}
    {out : Rounded} (h : RoundsFloat f mb bias mode sat flush neg cut rng out) : out.code < 2 ^ f.bits := by
  have htop := topCode_le f
  have hpow := two_pow_bits f
  have hsign := sign_le f neg
  have hone : 1 ≤ 2 ^ (f.bits - 1) := Nat.one_le_two_pow
  have finite {n m : Nat} (hm : m ≤ n) (hn : n < topCode f) : (if neg then 2 ^ (f.bits - 1) else 0) + m < 2 ^ f.bits := by omega
  have overflow {p : Prop} [Decidable p] : (if neg then 2 ^ (f.bits - 1) else 0) +
      (if sat = false ∧ p ∧ hasNaN f = true then topCode f else topCode f - 1) < 2 ^ f.bits := by
    by_cases hx : sat = false ∧ p ∧ hasNaN f = true
    · have := topCode_lt hx.2.2
      rw [if_pos hx]; omega
    · rw [if_neg hx]; omega
  obtain ⟨k, -, -, -, hover, hflush, hin⟩ := h
  rcases Nat.lt_or_ge _ (topCode f) with hn | hn
  · exact (Classical.em _).elim (fun hf => (hflush hn hf).1.trans_lt (finite (Nat.zero_le _) hn))
      (fun hf => (hin hn hf).1.trans_lt (finite (le_refl _) hn))
  · rw [(hover hn).1]; exact overflow

theorem RoundsInt.code_lt {w : Nat} {un sat neg : Bool} {mode : RMode} {cut : Rat → Ordering} {rng : Word} {out : Rounded}
    (h : RoundsInt w un sat mode neg cut rng out) : out.code < 2 ^ w := by
  obtain ⟨k, -, -, -, hc, -⟩ := h
  have hpos : (0 : Int) < 2 ^ w := by positivity
  rw [hc, Int.toNat_lt (Int.emod_nonneg _ hpos.ne')]
  exact (Int.emod_lt_of_pos _ hpos).trans_eq (by push_cast; rfl)

theorem RoundsTo.code_lt {f : Fmt} {k : RoundCtx} {x : Exact} {rng : Word} {out : Rounded} (h : RoundsTo f k x rng out)
    (hx : ∀ c, x = .code c → c < 2 ^ f.bits) : out.code < 2 ^ f.bits := by
  have hpow := two_pow_bits f
  have hone : 1 ≤ 2 ^ (f.bits - 1) := Nat.one_le_two_pow
  cases x with
  | code c => cases h; exact hx c rfl
  | zero neg => cases h; dsimp only; split <;> omega
  | nan => cases h; exact nanOf_lt f
  | inf neg =>
    have hsign := sign_le f neg
    have htop := topCode_le f
    simp only [RoundsTo] at h
    cases hf : floatOf f with
    | some _ =>
      simp only [hf] at h
      by_cases h2 : k.sat = true ∨ f = .mxe2m1
      · by_cases h1 : f = .acc48
        · have := topCode_lt (f := f) (by rw [h1]; rfl)
          rw [if_pos h1] at h; rw [h]; dsimp only; omega
        · rw [if_neg h1, if_pos h2] at h; rw [h]; dsimp only; omega
      · have := topCode_lt (f := f) (by cases f <;> simp_all [floatOf, hasNaN, hasInf])
        rw [if_neg h2] at h
        split at h <;> rw [h] <;> dsimp only <;> omega
    | none =>
      simp only [hf] at h
      split_ifs at h <;> subst h <;> dsimp only <;> omega
  | mag neg cut =>
    simp only [RoundsTo] at h
    split at h
    · split_ifs at h
      · obtain ⟨r, hr, rfl⟩ := h; exact RoundsFloat.code_lt (out := r) hr
      · exact RoundsFloat.code_lt h
    · split_ifs at h with h1
      · subst h1; exact RoundsInt.code_lt h
      · exact RoundsInt.code_lt h

/-! ### Results of a sequence of elements -/

/-- What one element delivers, with its flags. -/
def ElemRes.step (g : Fmt) (k : RoundCtx) (e : ElemRes) (rng : Word) : Rounded :=
  match e with
  | .code c fl => ⟨c, fl, rng⟩
  | .round v fl =>
    let r := roundTo g v k.mode k.sat k.un (flushOf k.fpmode g) rng
    ⟨r.code, fl ||| r.fl, r.rng⟩

theorem settle_cons (g : Fmt) (k : RoundCtx) (e : ElemRes) (es : List ElemRes) (fl : Flags) (rng : Word) :
    settle g k (e :: es) fl rng =
      let r := e.step g k rng
      let rest := settle g k es (fl ||| r.fl) r.rng
      (r.code :: rest.1, rest.2.1, rest.2.2) := by
  cases e with
  | code c f => rfl
  | round v f => simp only [settle, ElemRes.step, BitVec.or_assoc]

theorem settle_length (g : Fmt) (k : RoundCtx) (es : List ElemRes) (fl : Flags) (rng : Word) :
    (settle g k es fl rng).1.length = es.length := by
  induction es generalizing fl rng with
  | nil => rfl
  | cons e es ih => rw [settle_cons]; simp [ih]

/-- Flags are collected beside those that came before. -/
theorem settle_flags (g : Fmt) (k : RoundCtx) (es : List ElemRes) (fl : Flags) (rng : Word) :
    settle g k es fl rng =
      ((settle g k es flNone rng).1, fl ||| (settle g k es flNone rng).2.1, (settle g k es flNone rng).2.2) := by
  induction es generalizing fl rng with
  | nil => simp [settle, flNone]
  | cons e es ih =>
    simp only [settle_cons]
    rw [ih, ih (flNone ||| _)]
    simp only [flNone, BitVec.zero_or, BitVec.or_assoc]

/-- An element result of the model stands for an exact result and its flags. -/
def Realises (g : Fmt) (k : RoundCtx) (x : Exact × Flags) (e : ElemRes) : Prop :=
  ∀ rng, ∃ out, RoundsTo g k x.1 rng out ∧ out.code < 2 ^ g.bits ∧ e.step g k rng = ⟨out.code, x.2 ||| out.fl, out.rng⟩

theorem Elements.zero (f : Fmt) (k : RoundCtx) (x : Nat → Exact × Flags) (rng : Word) (code : Nat → Nat) :
    Elements f k 0 x rng code 0 rng :=
  ⟨fun _ => ⟨0, 0, rng⟩, fun _ => rng, rfl, rfl, fun i hi => absurd hi (Nat.not_lt_zero i), rfl⟩

/-- A further element in front. -/
theorem Elements.cons {f : Fmt} {k : RoundCtx} {n : Nat} {x : Nat → Exact × Flags} {rng : Word} {code : Nat → Nat} {fl : Flags}
    {rng' : Word} {r : Rounded} (h0 : RoundsTo f k (x 0).1 rng r) (hc : code 0 = r.code)
    (h : Elements f k n (fun i => x (i + 1)) r.rng (fun i => code (i + 1)) fl rng') :
    Elements f k (n + 1) x rng code ((x 0).2 ||| r.fl ||| fl) rng' := by
  obtain ⟨out, st, hs0, hsn, hall, hfl⟩ := h
  refine ⟨fun i => Nat.casesOn i r out, fun i => Nat.casesOn i rng st, rfl, hsn, fun i hi => ?_, ?_⟩
  · cases i with
    | zero => exact ⟨h0, hs0, hc⟩
    | succ i => exact hall i (Nat.lt_of_succ_lt_succ hi)
  · rw [hfl, List.range_succ_eq_map, List.map_cons, List.foldl_cons, List.map_map, show (0 : Flags) = 0#6 from rfl, BitVec.zero_or]
    exact (List.foldl_assoc (op := fun a b : Flags => a ||| b) (ha := ⟨BitVec.or_assoc⟩)
      (l := (List.range n).map (fun i => (x (i + 1)).2 ||| (out i).fl)) (a₁ := (x 0).2 ||| r.fl) (a₂ := 0)).symm.trans
        (by rw [show (0 : Flags) = 0#6 from rfl, BitVec.or_zero]; rfl)

/-- The codes may be named otherwise. -/
theorem Elements.congr {f : Fmt} {k : RoundCtx} {n : Nat} {x : Nat → Exact × Flags} {rng : Word} {code code' : Nat → Nat} {fl : Flags}
    {rng' : Word} (h : Elements f k n x rng code fl rng') (hc : ∀ i, i < n → code' i = code i) : Elements f k n x rng code' fl rng' := by
  obtain ⟨out, st, hs0, hsn, hall, hfl⟩ := h
  refine ⟨out, st, hs0, hsn, fun i hi => ?_, hfl⟩
  obtain ⟨h1, h2, h3⟩ := hall i hi
  exact ⟨h1, h2, (hc i hi).trans h3⟩

/-- Elements settled in order are rounded in order. -/
theorem settle_elements {g : Fmt} {k : RoundCtx} {es : List ElemRes} {x : Nat → Exact × Flags} (rng : Word)
    (h : ∀ i (hi : i < es.length), Realises g k (x i) es[i]) :
    let r := settle g k es flNone rng
    Elements g k es.length x rng (fun i => r.1.getD i 0) r.2.1 r.2.2 ∧ ∀ c ∈ r.1, c < 2 ^ g.bits := by
  induction es generalizing x rng with
  | nil => exact ⟨Elements.zero g k x rng _, by simp [settle]⟩
  | cons e es ih =>
    obtain ⟨out, hr, hlt, hstep⟩ := h 0 (by simp) rng
    rw [List.getElem_cons_zero] at hstep
    obtain ⟨hes, hcs⟩ := ih (x := fun i => x (i + 1)) out.rng (fun i hi => h (i + 1) (by simpa using hi))
    simp only [settle_cons, hstep]
    rw [settle_flags]
    refine ⟨?_, ?_⟩
    · simp only [flNone, BitVec.zero_or]
      exact Elements.cons hr rfl hes
    · intro c hc
      rcases List.mem_cons.1 hc with rfl | hc
      · exact hlt
      · exact hcs c hc

/-- The elements of a lane result whose element results are given by their places. -/
theorem laneOut_elements {g : Fmt} {k : RoundCtx} {n : Nat} (hn : n ≤ g.count) {F : Nat → ElemRes} {x : Nat → Exact × Flags} (rng : Word)
    (h : ∀ i, i < n → Realises g k (x i) (F i)) :
    let o := laneOut g k ((List.range n).map F) rng
    Elements g k n x rng (subElem g o.bits) o.fl o.rng := by
  obtain ⟨hes, hcs⟩ := settle_elements (es := (List.range n).map F) rng (fun i hi => by
    simpa using h i (by simpa using hi))
  have hlen := settle_length g k ((List.range n).map F) flNone rng
  rw [List.length_map, List.length_range] at hlen hes
  refine Elements.congr hes (fun i hi => ?_)
  have hi' : i < (settle g k ((List.range n).map F) flNone rng).1.length := hi.trans_eq hlen.symm
  have hc := subElem_joinElems (f := g) (hlen.trans_le hn) hi'
  rw [Nat.mod_eq_of_lt (hcs _ (List.getElem_mem hi'))] at hc
  rw [List.getD_eq_getElem _ _ hi']
  exact hc

/-- A lane result whose element results are given by their places. -/
theorem laneOut_laneElements {g : Fmt} {k : RoundCtx} {F : Nat → ElemRes} {x : Nat → Exact × Flags} (rng : Word)
    (h : ∀ i, i < g.count → Realises g k (x i) (F i)) :
    LaneElements g k x rng (laneOut g k ((List.range g.count).map F) rng) := by
  refine ⟨rfl, rfl, laneOut_elements (le_refl _) rng h, ?_⟩
  rintro rfl
  exact joinElems_acc48_lt _ (by rw [settle_length, List.length_map, List.length_range]; decide)

/-! ### Which element results stand for which exact results -/

theorem Realises.round {g : Fmt} (h1 : g ≠ .raw) (h2 : g ≠ .pl16) {k : RoundCtx} (hk : k.mode ≠ .dyn) {v : Val} (hv : v.Sharp)
    (fl : Flags) : Realises g k (exactOf v.toQ, fl) (.round v fl) := fun rng => by
  have h := roundTo_rounds h1 h2 hv hk rng
  refine ⟨_, h, RoundsTo.code_lt h (fun c hc => ?_), ?_⟩
  · cases hq : v.toQ with
    | fin n r => rw [hq] at hc; simp only [exactOf] at hc; split at hc <;> cases hc
    | _ => rw [hq] at hc; cases hc
  · simp only [ElemRes.step, flushOf_eq_flushes]

theorem Realises.nan {g : Fmt} (h : hasNaN g = true) (k : RoundCtx) (fl : Flags) : Realises g k (.nan, fl) (.code g.nanCode fl) :=
  fun rng => ⟨⟨nanOf g, 0, rng⟩, by simp [RoundsTo, h, ifSet], nanOf_lt g,
    by simp [ElemRes.step, nanCode_eq_nanOf]⟩

/-- A code that is delivered as it is. -/
theorem Realises.code {g : Fmt} {c : Nat} (hc : c < 2 ^ g.bits) (k : RoundCtx) (fl : Flags) :
    Realises g k (.code c, fl) (.code c fl) :=
  fun rng => ⟨⟨c, 0, rng⟩, rfl, hc, by simp [ElemRes.step]⟩

/-- An operation's exact value. -/
theorem Realises.ofVal {g : Fmt} (h1 : g ≠ .raw) (h2 : g ≠ .pl16) {k : RoundCtx} (hk : k.mode ≠ .dyn) {p : Val × Flags}
    (hv : p.1.Sharp) (hnan : p.1 = .nan → hasNaN g = true) : Realises g k (exactly (p.1.toQ, p.2)) (.ofVal g p) := by
  obtain ⟨v, fl⟩ := p
  cases v with
  | nan => exact Realises.nan (hnan rfl) k fl
  | inf n => exact Realises.round h1 h2 hk (v := .inf n) trivial fl
  | fin n m e st => exact Realises.round h1 h2 hk hv fl

end Sys2Proof
end

section
/-!
SUPPORT. What the element operations deliver (spec/07 R149, R152, R154, R157): integer results that no mode changes, the operations'
exact values in the numbers' words, and codes that are taken over.
-/
namespace Sys2Proof
open Sys2Proof.Claims

/-! ### Results that no mode changes -/

/-- The flags of a sequence of elements that a condition decides. -/
theorem foldl_ifSet (n : Nat) (p : Nat → Bool) (a : Flags) :
    ((List.range n).map (fun i => ifSet (p i) a)).foldl (· ||| ·) 0 = ifSet ((List.range n).any p) a := by
  induction n with
  | zero => rfl
  | succ n ih =>
    rw [List.range_succ, List.map_append, List.foldl_append, ih, List.any_append]
    cases (List.range n).any p <;> cases h : p n <;> simp [ifSet, h]

/-- Element results that need no rounding. -/
theorem settle_steady {g : Fmt} {k : RoundCtx} {n : Nat} {F : Nat → ElemRes} {c : Nat → Nat} {a : Nat → Flags} (fl : Flags) (rng : Word)
    (h : ∀ i, i < n → ∀ rng, (F i).step g k rng = ⟨c i, a i, rng⟩) :
    settle g k ((List.range n).map F) fl rng = ((List.range n).map c, ((List.range n).map a).foldl (· ||| ·) fl, rng) := by
  induction n generalizing F c a fl with
  | zero => rfl
  | succ n ih =>
    rw [List.range_succ_eq_map, List.map_cons, List.map_map, settle_cons, h 0 (Nat.succ_pos n) rng]
    simp only [ih (F := F ∘ Nat.succ) (c := c ∘ Nat.succ) (a := a ∘ Nat.succ) (fl ||| a 0)
      (fun i hi rng => h (i + 1) (Nat.succ_lt_succ hi) rng), List.map_cons, List.map_map, List.foldl_cons]

theorem laneOut_steady {g : Fmt} {k : RoundCtx} {F : Nat → ElemRes} {c : Nat → Nat} {a : Nat → Flags} (rng : Word)
    (h : ∀ i, i < g.count → ∀ rng, (F i).step g k rng = ⟨c i, a i, rng⟩) (hc : ∀ i, i < g.count → c i < 2 ^ g.bits) :
    let o := laneOut g k ((List.range g.count).map F) rng
    o.tag = g ∧ o.scale = none ∧ o.rng = rng ∧ (∀ i, i < g.count → subElem g o.bits i = c i) ∧
      o.fl = ((List.range g.count).map a).foldl (· ||| ·) 0 := by
  have hs := settle_steady (g := g) (k := k) (fl := flNone) rng h
  have ho : laneOut g k ((List.range g.count).map F) rng =
      ⟨joinElems g ((List.range g.count).map c), g, none, ((List.range g.count).map a).foldl (· ||| ·) 0, rng⟩ := by
    simp only [laneOut, hs]; rfl
  rw [ho]
  exact ⟨rfl, rfl, rfl, fun i hi => (subElem_joinElems_map (le_refl _) c hi).trans (Nat.mod_eq_of_lt (hc i hi)), rfl⟩

/-! ### Integer results -/

/-- An integer is brought to itself, wrapped or clamped, in every mode (R32, R51). -/
theorem roundInt_integer {v : Val} (hv : v.Sharp) {n : Bool} {i : Int} (hi : v.toQ = .fin n i) (w : Nat) (un sat : Bool) (mode : RMode)
    (rng : Word) :
    let lo : Int := if un then 0 else -(2 ^ (w - 1))
    let hi : Int := if un then 2 ^ w - 1 else 2 ^ (w - 1) - 1
    roundInt w un v mode sat rng =
      ⟨((if sat then max lo (min hi i) else i) % 2 ^ w).toNat, ifSet (sat && decide (i < lo ∨ hi < i)) flSat, rng⟩ := by
  cases v with
  | nan => cases hi
  | inf b => cases hi
  | fin b m e st =>
    obtain rfl : st = false := hv
    rw [toQ_fin, Quantity.fin.injEq] at hi
    obtain ⟨rfl, hi⟩ := hi
    obtain ⟨N, hlo, hup, -, -, hN⟩ := exists_roundMag (Encloses.exact m e (-24)) (q := 0) (by norm_num) b mode rng
    have habs : (m : Rat) * 2 ^ e = (i.natAbs : Rat) := by
      have h : |(i : Rat)| = (m : Rat) * 2 ^ e := by
        rw [← hi]; cases b <;> simp [abs_mul]
      rw [← h, ← Int.cast_abs, Int.abs_eq_natAbs]; rfl
    have hN' : N = i.natAbs := by
      simp only [zpow_zero, mul_one, habs, order_ne_lt, order_eq_lt, Nat.cast_le, Nat.cast_lt] at hlo hup
      omega
    have hx : decide (order ((m : Rat) * 2 ^ e) ((N : Rat) * 2 ^ (0 : Int)) ≠ .eq) = false := by
      rw [decide_eq_false_iff_not, not_not, order_eq_eq, habs, hN', zpow_zero, mul_one]
    have hsign : (if b = true then -(N : Int) else N) = i := by
      have : (0 : Rat) ≤ (m : Rat) * 2 ^ e := by positivity
      cases b with
      | false =>
        have h0 : (0 : Rat) ≤ i := by rw [← hi]; exact this
        have : 0 ≤ i := Int.cast_nonneg_iff.1 h0
        simp only [Bool.false_eq_true, if_false]; omega
      | true =>
        have h0 : (i : Rat) ≤ 0 := by rw [← hi]; simpa using this
        have : i ≤ 0 := Int.cast_nonpos.1 h0
        simp only [if_true]; omega
    have hpow : (1 : Int) ≤ 2 ^ (w - 1) := one_le_pow₀ (by norm_num)
    have hpow' : (1 : Int) ≤ 2 ^ w := one_le_pow₀ (by norm_num)
    simp only [roundInt, hN, roundedMul, hx, Bool.false_and, Bool.false_eq_true, if_false, hsign, wrapInt, Nat.cast_pow, Nat.cast_ofNat]
    obtain ⟨lo, hl⟩ : ∃ lo : Int, lo = if un = true then 0 else -2 ^ (w - 1) := ⟨_, rfl⟩
    obtain ⟨hi, hh⟩ : ∃ hi : Int, hi = if un = true then 2 ^ w - 1 else 2 ^ (w - 1) - 1 := ⟨_, rfl⟩
    have hlh : lo ≤ hi := by rw [hl, hh]; split <;> omega
    rw [← hl, ← hh]
    by_cases hout : i < lo ∨ hi < i
    · have hc : max lo (min hi i) = if i < lo then lo else hi := by split <;> omega
      cases sat <;> simp [hout, ifSet, flNone, hc]
    · have hc : max lo (min hi i) = i := by omega
      cases sat <;> simp [hout, ifSet, flNone, hc]

theorem toNat_emod_lt (i : Int) (w : Nat) : (i % 2 ^ w).toNat < 2 ^ w := by
  have hpos : (0 : Int) < 2 ^ w := by positivity
  rw [Int.toNat_lt (Int.emod_nonneg _ hpos.ne')]
  exact (Int.emod_lt_of_pos _ hpos).trans_eq (by push_cast; rfl)

/-- Rounding into an integer format asks nothing of the mode. -/
theorem Realises.roundInt {g : Fmt} (h : g.isInt = true) (k : RoundCtx) {v : Val} (hv : v.Sharp) (fl : Flags) :
    Realises g k (exactOf v.toQ, fl) (.round v fl) := fun rng => by
  have h := roundTo_of_integer (Or.inl h) hv k rng
  refine ⟨_, h, RoundsTo.code_lt h (fun c hc => ?_), ?_⟩
  · cases hq : v.toQ with
    | fin n r => rw [hq] at hc; simp only [exactOf] at hc; split at hc <;> cases hc
    | _ => rw [hq] at hc; cases hc
  · simp only [ElemRes.step, flushOf_eq_flushes]

/-! ### Finite numbers -/

/-- The number is neither NaN nor infinite. -/
def Quantity.Finite (x : Quantity) : Prop := ∃ n r, x = .fin n r

theorem Quantity.Finite.ne_nan {x : Quantity} (h : Quantity.Finite x) : x ≠ .nan := by
  obtain ⟨n, r, rfl⟩ := h; exact Quantity.noConfusion

theorem Quantity.Finite.neg {x : Quantity} (h : Quantity.Finite x) : Quantity.Finite x.neg := by
  obtain ⟨n, r, rfl⟩ := h; exact ⟨!n, -r, rfl⟩

/-- The sum of finite numbers. -/
theorem addNum_finite {mode : RMode} {xs : List Quantity} (h : ∀ x ∈ xs, Quantity.Finite x) :
    ∃ n, addNum mode xs = (.fin n (xs.map Quantity.real).sum, 0) := by
  have hnan : Quantity.nan ∉ xs := fun hx => (h _ hx).ne_nan rfl
  have hinf (b : Bool) : Quantity.inf b ∉ xs := fun hx => by obtain ⟨n, r, hr⟩ := h _ hx; cases hr
  simp only [addNum, hnan, hinf, if_false, false_and]
  by_cases hr : (xs.map Quantity.real).sum ≠ 0
  · exact ⟨_, by rw [if_pos hr]⟩
  · rw [if_neg hr, not_not.1 hr]
    split_ifs <;> exact ⟨_, rfl⟩

theorem addNum_of_nan {mode : RMode} {xs : List Quantity} (h : Quantity.nan ∈ xs) : addNum mode xs = (.nan, 0) := if_pos h

theorem mulNum_finite {x y : Quantity} (hx : Quantity.Finite x) (hy : Quantity.Finite y) :
    ∃ n, mulNum x y = (.fin n (x.real * y.real), 0) := by
  obtain ⟨n, r, rfl⟩ := hx
  obtain ⟨m, t, rfl⟩ := hy
  exact ⟨n != m, rfl⟩

theorem mulNum_of_nan {x y : Quantity} (h : x = .nan ∨ y = .nan) : mulNum x y = (.nan, 0) := by
  rcases h with rfl | rfl
  · cases y <;> rfl
  · cases x <;> rfl

/-- The codes of integer formats are integers. -/
theorem numOf_of_isInt {f : Fmt} (h : f.isInt = true) (un flush : Bool) (c : Nat) :
    numOf f un flush c = Claims.ofInt (intOf f.bits un c) := by
  cases f <;> simp only [Fmt.isInt, Bool.false_eq_true] at h <;> simp [numOf, floatOf, readInt_eq_intOf]

theorem elemVal_toQ_of_isInt {f : Fmt} (h : f.isInt = true) (k : RoundCtx) (c : Nat) :
    (elemVal k f c).toQ = Claims.ofInt (intOf f.bits k.un c) := by rw [elemVal_toQ, numOf_of_isInt h]

theorem ofInt_finite (i : Int) : Quantity.Finite (Claims.ofInt i) := ⟨_, _, rfl⟩

theorem ofInt_real (i : Int) : (Claims.ofInt i).real = i := rfl

/-! ### Formats -/

theorem arithFmt_iff (f : Fmt) : arithFmt f = true ↔ arithmetic f := by cases f <;> simp [arithFmt, arithmetic, Fmt.isInt, Fmt.isFloat]

theorem ne_raw_of_arithmetic {f : Fmt} (h : arithmetic f) : f ≠ .raw := by rintro rfl; simp [arithmetic, Fmt.isInt] at h

theorem ne_pl16_of_arithmetic {f : Fmt} (h : arithmetic f) : f ≠ .pl16 := by rintro rfl; simp [arithmetic, Fmt.isInt] at h

theorem not_isMx_of_arithmetic {f : Fmt} (h : arithmetic f) : f.isMx = false := by
  cases f <;> first | rfl | simp [arithmetic, Fmt.isInt] at h

theorem isInt_or_hasNaN_of_arithmetic {f : Fmt} (h : arithmetic f) : f.isInt = true ∨ hasNaN f = true := by
  cases f <;> first | exact .inl rfl | exact .inr rfl | simp [arithmetic, Fmt.isInt] at h

/-- An operation's result where a NaN operand passes as the canonical NaN without a flag (R152). -/
theorem Realises.guarded {g : Fmt} (h1 : g ≠ .raw) (h2 : g ≠ .pl16) {k : RoundCtx} (hk : k.mode ≠ .dyn) {b : Bool} {p : Val × Flags}
    {q : Quantity × Flags} (hs : p.1.Sharp) (hnan : q.1 = .nan → hasNaN g = true) (hb : b = true → q = (.nan, 0))
    (hp : b = false → q = (p.1.toQ, p.2)) : Realises g k (exactly q) (if b then .code g.nanCode flNone else .ofVal g p) := by
  cases b with
  | true =>
    rw [hb rfl]
    exact Realises.nan (hnan (by rw [hb rfl])) k 0
  | false =>
    have hq := hp rfl
    rw [hq]
    exact Realises.ofVal h1 h2 hk hs (fun h => hnan (by rw [hq, h]; rfl))

/-! ### Codes that are taken over -/

/-- The number of the code `k` without sign under a sign. -/
def Layout.number (L : Layout) (flush neg : Bool) (k : Nat) : Quantity :=
  if k < L.top then
    let r := if flush && decide (k < 2 ^ L.mb) then 0 else magnitude L.mb L.bias k
    .fin neg (if neg then -r else r)
  else if decide (L.spec = .ieee) && decide (k = L.top) then .inf neg else .nan

theorem numOf_of_layout {f : Fmt} {L : Layout} (hL : f.layout = some L) (un flush : Bool) (c : Nat) :
    numOf f un flush c = L.number flush (c.testBit (L.eb + L.mb)) (c % 2 ^ (L.eb + L.mb)) := by
  simp only [numOf, floatOf_of_layout hL, topCode_of_layout hL, hasInf_of_layout hL, Layout.number]

section
variable {L : Layout} {n : Bool} {k : Nat} (hk : k < 2 ^ (L.eb + L.mb))
include hk

theorem Layout.signBit_add_mod : (L.signBit n + k) % 2 ^ (L.eb + L.mb) = k := by
  cases n <;> simp [Layout.signBit, Nat.mod_eq_of_lt hk]

theorem Layout.signBit_add_testBit : (L.signBit n + k).testBit (L.eb + L.mb) = n := by
  cases n
  · simpa [Layout.signBit] using Nat.testBit_lt_two_pow hk
  · simp only [Layout.signBit, if_true, Nat.testBit_two_pow_add_eq, Nat.testBit_lt_two_pow hk, Bool.not_false]

theorem Layout.signBit_add_lt : L.signBit n + k < 2 ^ (L.eb + L.mb + 1) := by
  have : 2 ^ (L.eb + L.mb + 1) = 2 * 2 ^ (L.eb + L.mb) := by rw [pow_succ]; omega
  cases n <;> simp [Layout.signBit] <;> omega

/-- The code with the other sign. -/
theorem Layout.signBit_add_xor : (L.signBit n + k) ^^^ 2 ^ (L.eb + L.mb) = L.signBit (!n) + k := by
  have hx : k ^^^ 2 ^ (L.eb + L.mb) = 2 ^ (L.eb + L.mb) + k := by
    refine Nat.eq_of_testBit_eq (fun j => ?_)
    have h := Nat.testBit_two_pow_mul_add 1 hk j
    rw [Nat.mul_one] at h
    rw [h, Nat.testBit_xor, Nat.testBit_two_pow]
    rcases Nat.lt_trichotomy j (L.eb + L.mb) with hj | rfl | hj
    · simp [hj, hj.ne']
    · simp [Nat.testBit_lt_two_pow hk]
    · rw [if_neg (by omega), Nat.testBit_lt_two_pow (hk.trans_le (Nat.pow_le_pow_right (by omega) hj.le)), Nat.testBit_one_eq_true_iff_self_eq_zero.not.2 (by omega) |> Bool.eq_false_iff.2]
      simp [hj.ne]
  cases n
  · simpa [Layout.signBit] using hx
  · simp only [Layout.signBit, if_true, Bool.not_true, Bool.false_eq_true, if_false, Nat.zero_add]
    rw [← hx, Nat.xor_assoc, Nat.xor_self, Nat.xor_zero]

end

/-- A cleaned code of a number, as its sign and a code without sign. -/
theorem cleanCode_of_layout {k : RoundCtx} {f : Fmt} {L : Layout} (hL : f.layout = some L) {c : Nat} (hc : c < 2 ^ f.bits)
    (hn : (elemVal k f c).isNan = false) :
    ∃ m, m < 2 ^ (L.eb + L.mb) ∧ cleanCode k f c = L.signBit (c.testBit (L.eb + L.mb)) + m ∧
      ∀ b, L.number (flushes k.fpmode f) b (c % 2 ^ (L.eb + L.mb)) = L.number false b m ∧
        L.number (flushes k.fpmode f) b m = L.number false b m := by
  have hm : c % 2 ^ (L.eb + L.mb) < 2 ^ (L.eb + L.mb) := Nat.mod_lt _ (Nat.two_pow_pos _)
  have htop := (Layout.top_le (Fmt.layout_sound hL)).1
  have hmb : 0 < 2 ^ L.mb := Nat.two_pow_pos _
  rw [bits_of_layout hL] at hc
  have hv : (L.value c).isNan = false := by
    rw [elemVal, Fmt.value, hL] at hn
    by_cases h : (flushOf k.fpmode f && L.subnormal c) = true
    · have hsub := (L.subnormal_iff c).1 (Bool.and_eq_true_iff.1 h).2
      rw [Val.isNan_eq, Layout.value_toQ, if_pos (by omega)]; rfl
    · simpa [h] using hn
  simp only [cleanCode, hL, hv, Bool.false_eq_true, if_false, flushOf_eq_flushes]
  by_cases h : (flushes k.fpmode f && L.subnormal c) = true
  · obtain ⟨h1, h2⟩ := Bool.and_eq_true_iff.1 h
    have hsub := (L.subnormal_iff c).1 h2
    refine ⟨0, Nat.two_pow_pos _, by rw [if_pos h, Nat.add_zero], fun b => ?_⟩
    have hlt : c % 2 ^ (L.eb + L.mb) < L.top := by omega
    have h0 : 0 < L.top := by omega
    simp [Layout.number, h1, hsub.1, hlt, h0]
  · refine ⟨_, hm, by rw [if_neg h, ← Layout.eq_signBit_add hc], fun b => ?_⟩
    by_cases hz : flushes k.fpmode f = true ∧ c % 2 ^ (L.eb + L.mb) < 2 ^ L.mb
    · have h0 : c % 2 ^ (L.eb + L.mb) = 0 := by
        by_contra h0
        exact h (Bool.and_eq_true_iff.2 ⟨hz.1, (L.subnormal_iff c).2 ⟨hz.2, h0⟩⟩)
      simp [Layout.number, h0]
    · have : (flushes k.fpmode f && decide (c % 2 ^ (L.eb + L.mb) < 2 ^ L.mb)) = false := by
        cases hf : flushes k.fpmode f
        · rfl
        · simpa [hf] using hz
      simp [Layout.number, this]

/-- A cleaned code means, unflushed, what its code means under the class's flush bit, and is a code of the format. -/
theorem cleanCode_numOf (k : RoundCtx) {f : Fmt} {c : Nat} (hc : c < 2 ^ f.bits) (hn : (elemVal k f c).isNan = false) :
    numOf f k.un false (cleanCode k f c) = numOf f k.un (flushes k.fpmode f) c ∧ cleanCode k f c < 2 ^ f.bits ∧
      numOf f k.un (flushes k.fpmode f) (cleanCode k f c) = numOf f k.un false (cleanCode k f c) := by
  cases hL : f.layout with
  | none => simp only [cleanCode, hL, numOf, floatOf_of_no_layout hL]; exact ⟨trivial, hc, trivial⟩
  | some L =>
    obtain ⟨m, hm, hcode, hnum⟩ := cleanCode_of_layout hL hc hn
    simp only [numOf_of_layout hL, hcode, (hnum _).1, (hnum _).2, Layout.signBit_add_testBit hm, Layout.signBit_add_mod hm,
      bits_of_layout hL]
    exact ⟨trivial, Layout.signBit_add_lt hm, trivial⟩

end Sys2Proof
end

section
/-!
SUPPORT. The correctly rounded functions (spec/07 R153, Table 7.5): the intervals in which the model holds reciprocals and roots agree
with the true values at every point that a rounding looks at.
-/
namespace Sys2Proof
open Sys2Proof.Claims

/-! ### Integer square roots -/

theorem isqrtFrom_spec (n k r : Nat) (h1 : r * r ≤ n) (h2 : n < (r + 2 ^ k) * (r + 2 ^ k)) :
    isqrtFrom n k r * isqrtFrom n k r ≤ n ∧ n < (isqrtFrom n k r + 1) * (isqrtFrom n k r + 1) := by
  induction k generalizing r with
  | zero => exact ⟨h1, h2⟩
  | succ k ih =>
    rw [isqrtFrom]
    split_ifs with h
    · exact ih _ h (by rw [Nat.add_assoc, ← Nat.two_mul, ← pow_succ']; exact h2)
    · exact ih _ h1 (not_le.1 h)

theorem isqrt_spec (n : Nat) : isqrt n * isqrt n ≤ n ∧ n < (isqrt n + 1) * (isqrt n + 1) := by
  refine isqrtFrom_spec n _ 0 (Nat.zero_le _) ?_
  rw [Nat.zero_add, ← pow_add]
  rcases Nat.eq_zero_or_pos n with rfl | hn
  · exact Nat.two_pow_pos _
  · exact Nat.lt_log2_self.trans_le (Nat.pow_le_pow_right (by omega) (by omega))

theorem isqrt_lower {n a : Nat} (h : 2 ^ (2 * a) ≤ n) : 2 ^ a ≤ isqrt n := by
  by_contra hc
  have h1 : (isqrt n + 1) * (isqrt n + 1) ≤ 2 ^ a * 2 ^ a := Nat.mul_le_mul (by omega) (by omega)
  rw [← pow_add, ← Nat.two_mul] at h1
  exact absurd (isqrt_spec n).2 (by omega)

/-! ### Intervals -/

/-- A comparison that changes at a whole number of units, exactly or between two. -/
theorem encloses_of_nat {cut : Rat → Ordering} {m : Nat} {e : Int} {st : Bool} {A B : Nat → Nat}
    (hcut : ∀ p : Nat, cut ((p : Rat) * 2 ^ e) = order (A p) (B p))
    (hlow : ∀ p, p < m → B p < A p) (hup : ∀ p, m < p → A p < B p) (hle : B m ≤ A m) (hst : st = true ↔ B m ≠ A m) :
    Encloses cut m e st e := by
  refine ⟨fun p => ?_, fun _ => le_refl _⟩
  rw [hcut, cutOf_mul]
  rcases Nat.lt_trichotomy p m with h | rfl | h
  · rw [if_pos (.inl h), order_gt]; exact_mod_cast hlow p h
  · cases st with
    | true => rw [if_pos (.inr ⟨rfl, rfl⟩), order_gt]; exact_mod_cast lt_of_le_of_ne hle (hst.1 rfl)
    | false =>
      have : B p = A p := not_not.1 (fun hn => absurd (hst.2 hn) (by decide))
      rw [if_neg (by simp), if_pos rfl, order_eq_eq]; exact_mod_cast this.symm
  · rw [if_neg (by omega), if_neg (by omega), order_eq_lt]; exact_mod_cast hup p h

theorem order_mul {x y c : Rat} (hc : 0 < c) : order (x * c) (y * c) = order x y := by
  simp only [order, mul_lt_mul_iff_left₀ hc, mul_left_inj' hc.ne']

/-- The reciprocal. -/
theorem recipVal_encloses {m : Nat} (hm : m ≠ 0) (e : Int) :
    Encloses (fun q => order 1 ((m : Rat) * 2 ^ e * q)) (2 ^ 200 / m) (-200 - e) (2 ^ 200 % m != 0) (-200 - e) := by
  have hdm := Nat.div_add_mod (2 ^ 200) m
  have hlt := Nat.mod_lt (2 ^ 200) (Nat.pos_of_ne_zero hm)
  generalize hM : (2 : Nat) ^ 200 = M at *
  refine encloses_of_nat (A := fun _ => M) (B := fun p => m * p) (fun p => ?_) (fun p hp => ?_) (fun p hp => ?_) ?_ ?_
  · have h1 : (1 : Rat) = (M : Rat) * 2 ^ (-200 : Int) := by rw [← hM, zpow_neg]; norm_num
    have h2 : (m : Rat) * 2 ^ e * ((p : Rat) * 2 ^ (-200 - e)) = ((m * p : Nat) : Rat) * 2 ^ (-200 : Int) := by
      rw [sub_eq_add_neg, zpow_add₀ (by norm_num), zpow_neg (2 : Rat) e]; push_cast; field_simp
    simp only [h2]
    rw [h1, order_mul (by positivity)]
  · have : m * (p + 1) ≤ m * (M / m) := Nat.mul_le_mul_left m hp
    rw [Nat.mul_add] at this
    have := Nat.pos_of_ne_zero hm
    omega
  · have : m * (M / m + 1) ≤ m * p := Nat.mul_le_mul_left m hp
    rw [Nat.mul_add] at this
    omega
  · omega
  · rw [bne_iff_ne]; omega

/-- A number with an even exponent. -/
theorem even_exponent (m : Nat) (e : Int) : ∃ c : Int, (if e % 2 = 0 then e else e - 1) = 2 * c ∧
    (m : Rat) * 2 ^ e = ((if e % 2 = 0 then m else 2 * m : Nat) : Rat) * 2 ^ (2 * c) := by
  by_cases h : e % 2 = 0
  · exact ⟨e / 2, by rw [if_pos h]; omega, by rw [if_pos h, show 2 * (e / 2) = e by omega]⟩
  · refine ⟨(e - 1) / 2, by rw [if_neg h]; omega, ?_⟩
    rw [if_neg h, show 2 * ((e - 1) / 2) = e - 1 by omega, zpow_sub_one₀ (by norm_num)]
    push_cast; ring

/-- The square root. -/
theorem sqrtVal_encloses {m : Nat} (hm : m ≠ 0) (e : Int) : ∃ s E st, sqrtVal m e = .fin false s E st ∧ 2 ^ 64 ≤ s ∧
    Encloses (fun q => order ((m : Rat) * 2 ^ e) (q * q)) s E st E := by
  obtain ⟨c, he, hr⟩ := even_exponent m e
  generalize hm' : (if e % 2 = 0 then m else 2 * m) = m' at hr
  have hpos : 0 < m' := by rw [← hm']; split <;> omega
  refine ⟨isqrt (m' * 2 ^ 200), c - 100, isqrt (m' * 2 ^ 200) * isqrt (m' * 2 ^ 200) != m' * 2 ^ 200, ?_, ?_, ?_⟩
  · simp only [sqrtVal, hm', he]
    rw [Int.mul_ediv_cancel_left c (by norm_num)]
  · refine isqrt_lower ((Nat.pow_le_pow_right (by omega) (by omega : 2 * 64 ≤ 200)).trans ?_)
    exact Nat.le_mul_of_pos_left _ hpos
  · obtain ⟨hs1, hs2⟩ := isqrt_spec (m' * 2 ^ 200)
    generalize hn : m' * 2 ^ 200 = n at *
    refine encloses_of_nat (A := fun _ => n) (B := fun p => p * p) (fun p => ?_) (fun p hp => ?_) (fun p hp => ?_) hs1 ?_
    · have h1 : (m : Rat) * 2 ^ e = (n : Rat) * 2 ^ (2 * (c - 100)) := by
        rw [hr, ← hn, show 2 * (c - 100) = 2 * c - 200 by ring, zpow_sub₀ (by norm_num)]; push_cast; field_simp
      have h2 : (p : Rat) * 2 ^ (c - 100) * ((p : Rat) * 2 ^ (c - 100)) = ((p * p : Nat) : Rat) * 2 ^ (2 * (c - 100)) := by
        rw [two_mul, zpow_add₀ (by norm_num)]; push_cast; ring
      simp only [h1, h2]
      rw [order_mul (by positivity)]
    · exact (Nat.mul_self_lt_mul_self hp).trans_le hs1
    · exact hs2.trans_le (Nat.mul_self_le_mul_self hp)
    · rw [bne_iff_ne]

/-- The reciprocal square root. -/
theorem rsqrtVal_encloses {m : Nat} (hm : m ≠ 0) (hm2 : m < 2 ^ 100) (e : Int) : ∃ s E st, rsqrtVal m e = .fin false s E st ∧ 2 ^ 64 ≤ s ∧
    Encloses (fun q => order 1 ((m : Rat) * 2 ^ e * q * q)) s E st E := by
  obtain ⟨c, he, hr⟩ := even_exponent m e
  generalize hm' : (if e % 2 = 0 then m else 2 * m) = m' at hr
  have hpos : 0 < m' := by rw [← hm']; split <;> omega
  have hlt : m' < 2 ^ 101 := by rw [← hm', pow_succ]; split <;> omega
  refine ⟨isqrt (2 ^ 400 / m'), -200 - c, isqrt (2 ^ 400 / m') * isqrt (2 ^ 400 / m') * m' != 2 ^ 400, ?_, ?_, ?_⟩
  · simp only [rsqrtVal, hm', he]
    rw [Int.mul_ediv_cancel_left c (by norm_num)]
  · refine isqrt_lower ((Nat.le_div_iff_mul_le hpos).2 ?_)
    calc 2 ^ (2 * 64) * m' ≤ 2 ^ (2 * 64) * 2 ^ 101 := Nat.mul_le_mul_left _ hlt.le
      _ = 2 ^ (2 * 64 + 101) := (pow_add _ _ _).symm
      _ ≤ 2 ^ 400 := Nat.pow_le_pow_right (by omega) (by omega)
  · obtain ⟨hs1, hs2⟩ := isqrt_spec (2 ^ 400 / m')
    generalize isqrt (2 ^ 400 / m') = s at *
    rw [Nat.le_div_iff_mul_le hpos] at hs1
    rw [Nat.div_lt_iff_lt_mul hpos] at hs2
    generalize hM : (2 : Nat) ^ 400 = M at *
    refine encloses_of_nat (A := fun _ => M) (B := fun p => p * p * m') (fun p => ?_) (fun p hp => ?_) (fun p hp => ?_) hs1 ?_
    · have h1 : (1 : Rat) = (M : Rat) * 2 ^ (-400 : Int) := by rw [← hM, zpow_neg]; norm_num
      have h2 : (m : Rat) * 2 ^ e * ((p : Rat) * 2 ^ (-200 - c)) * ((p : Rat) * 2 ^ (-200 - c)) =
          ((p * p * m' : Nat) : Rat) * 2 ^ (-400 : Int) := by
        have hz : (2 : Rat) ^ (2 * c) * 2 ^ (-200 - c) * 2 ^ (-200 - c) = 2 ^ (-400 : Int) := by
          rw [← zpow_add₀ (by norm_num), ← zpow_add₀ (by norm_num)]; congr 1; ring
        rw [hr, ← hz]; push_cast; ring
      simp only [h2]
      rw [h1, order_mul (by positivity)]
    · exact (Nat.mul_lt_mul_of_pos_right (Nat.mul_self_lt_mul_self hp) hpos).trans_le hs1
    · exact hs2.trans_le (Nat.mul_le_mul_right m' (Nat.mul_self_le_mul_self hp))
    · rw [bne_iff_ne]

end Sys2Proof
end

section
/-!
SUPPORT. The functions' elements (spec/07 R153, Table 7.5; log entry 7): special operands, reciprocals, roots, and the powers of two
and logarithms that are rational.
-/
namespace Sys2Proof
open Sys2Proof.Claims

/-- A non-zero magnitude of a floating-point format. -/
theorem Realises.mag {f : Fmt} {L : Layout} (hL : f.layout = some L) {cut : Rat → Ordering} {m : Nat} {e g : Int} {st : Bool}
    (hm : m ≠ 0) (h : Encloses cut m e st g) (hg : g + 24 ≤ L.place m e) (neg : Bool) {k : RoundCtx} (hk : k.mode ≠ .dyn) (fl : Flags) :
    Realises f k (.mag neg cut, fl) (.round (.fin neg m e st) fl) := fun rng => by
  have h := roundTo_mag_of_layout hL hm h hg neg hk rng
  exact ⟨_, h, RoundsTo.code_lt h (fun c hc => by cases hc), by simp only [ElemRes.step, flushOf_eq_flushes]⟩

theorem Realises.zero {f : Fmt} {L : Layout} (hL : f.layout = some L) (k : RoundCtx) (n : Bool) (fl : Flags) :
    Realises f k (.zero n, fl) (.code (L.signBit n) fl) := fun rng => by
  have h : RoundsTo f k (.zero n) rng ⟨L.signBit n, 0, rng⟩ := by
    simp only [RoundsTo, floatOf_of_layout hL, Option.isSome_some, and_true, Layout.signBit_eq hL]
  exact ⟨_, h, RoundsTo.code_lt h (fun c hc => by cases hc), by simp [ElemRes.step]⟩

theorem Layout.le_place {L : Layout} {m : Nat} (e : Int) {a : Nat} (h : 2 ^ a ≤ m) : (a : Int) + e - L.mb ≤ L.place m e := by
  have : a ≤ Nat.log2 m := (Nat.le_log2 (by have := Nat.two_pow_pos a; omega)).2 h
  unfold Layout.place; omega

/-- The magnitude of a code has at most one bit more than its fraction. -/
theorem Layout.value_bound {L : Layout} {c : Nat} {n : Bool} {m : Nat} {e : Int} {st : Bool} (h : L.value c = .fin n m e st) :
    m < 2 ^ (L.mb + 1) := by
  have hF : c % 2 ^ L.mb < 2 ^ L.mb := Nat.mod_lt _ (Nat.two_pow_pos _)
  have hpow : 2 ^ (L.mb + 1) = 2 * 2 ^ L.mb := by rw [pow_succ]; omega
  simp only [Layout.value] at h
  split_ifs at h <;> cases h <;> omega

theorem elemVal_bound {f : Fmt} {L : Layout} (hL : f.layout = some L) {k : RoundCtx} {c : Nat} {n : Bool} {m : Nat} {e : Int} {st : Bool}
    (h : elemVal k f c = .fin n m e st) : m < 2 ^ (L.mb + 1) := by
  simp only [elemVal, Fmt.value, hL] at h
  split_ifs at h
  · cases h; exact Nat.two_pow_pos _
  · exact Layout.value_bound h

/-! ### Overflow of a power of two -/

/-- Powers of two past the largest magnitude are all delivered alike. -/
theorem Layout.roundFloat_two_pow {L : Layout} (hL : L.Sound) {N : Int} (hN : ((2 ^ L.eb : Nat) : Int) ≤ N + L.bias)
    (neg sat flush : Bool) (mode : RMode) (rng : Word) :
    roundFloat L (.fin neg 1 N false) mode sat flush rng = L.deliver neg sat flush mode L.top false rng := by
  obtain ⟨k, hlo, hup, hk⟩ := Layout.exists_roundFloat hL (m := 1) (by omega) (Encloses.exact 1 N (L.place 1 N - 24)) (by omega) neg sat
    flush mode rng
  obtain ⟨j, hj⟩ : ∃ j : Nat, N + L.bias = ((j + 1 : Nat) : Int) := ⟨(N + L.bias - 1).toNat, by
    have := Nat.two_pow_pos L.eb; omega⟩
  have hmag : magnitude L.mb L.bias (j * 2 ^ L.mb + 2 ^ L.mb) = ((1 : Nat) : Rat) * 2 ^ N := by
    rw [magnitude_line _ (Nat.pow_le_pow_right (by omega) (by omega)) (.inr (le_refl _))]
    have : N = L.mb + (1 - (L.bias : Int) - L.mb + j) := by omega
    rw [this, zpow_add₀ (by norm_num) (L.mb : Int)]; push_cast; simp
  have hmono := magnitude_strictMono L.mb (L.bias : Int)
  rw [← hmag, order_ne_lt, hmono.le_iff_le] at hlo
  rw [← hmag, order_eq_lt, hmono.lt_iff_lt] at hup
  obtain rfl : k = j * 2 ^ L.mb + 2 ^ L.mb := by omega
  have hx : decide (order (((1 : Nat) : Rat) * 2 ^ N) (magnitude L.mb L.bias (j * 2 ^ L.mb + 2 ^ L.mb)) ≠ .eq) = false := by
    rw [decide_eq_false_iff_not, not_not, order_eq_eq, hmag]
  have htop : L.top ≤ j * 2 ^ L.mb + 2 ^ L.mb := by
    have h1 : 2 ^ L.eb * 2 ^ L.mb ≤ (j + 1) * 2 ^ L.mb := Nat.mul_le_mul_right _ (by omega)
    rw [← pow_add, Nat.add_mul, Nat.one_mul] at h1
    exact (Layout.top_le hL).2.trans h1
  simp only [hk, roundedCode, hx, Bool.false_and, Bool.false_eq_true, if_false, Layout.deliver, htop, le_refl, if_true]

/-! ### Powers of two with whole exponents -/

theorem log2_mul_two_pow {n : Nat} (hn : n ≠ 0) (a : Nat) : Nat.log2 (n * 2 ^ a) = Nat.log2 n + a := by
  simp only [Nat.log2_eq_log_two]
  induction a with
  | zero => simp
  | succ a ih => rw [pow_succ, ← Nat.mul_assoc, Nat.log_mul_base (by omega) (Nat.mul_ne_zero hn (Nat.two_pow_pos a).ne'), ih]; rfl

section
variable {neg : Bool} {m : Nat} {e : Int} {r : Rat} (hm : m ≠ 0) (hr : r = if neg then -((m : Rat) * 2 ^ e) else (m : Rat) * 2 ^ e)
  (hd : r.den = 1)
include hr hd

/-- A whole number's magnitude. -/
theorem num_of_whole : (r.num.natAbs : Rat) = (m : Rat) * 2 ^ e ∧ (r.num : Rat) = r := by
  have hz : (r.num : Rat) = r := Rat.coe_int_num_of_den_eq_one hd
  refine ⟨?_, hz⟩
  have : ((r.num.natAbs : Nat) : Rat) = |(r.num : Rat)| := by rw [← Int.cast_abs, Int.abs_eq_natAbs]; rfl
  rw [this, hz, hr]
  cases neg <;> simp [abs_mul]

include hm in
theorem exp2Val_whole : (decide (0 ≤ e) || m % 2 ^ (-e).toNat == 0) = true ∧ 0 ≤ (Nat.log2 m : Int) + e ∧
    floorVal neg m e = r.num ∧ (12 ≤ (Nat.log2 m : Int) + e → 4096 ≤ r.num.natAbs) := by
  obtain ⟨habs, hz⟩ := num_of_whole hr hd
  have hpos : (0 : Rat) < (m : Rat) * 2 ^ e := mul_pos (Nat.cast_pos.2 (Nat.pos_of_ne_zero hm)) (by positivity)
  have hsign : r.num = if neg then -(r.num.natAbs : Int) else r.num.natAbs := by
    cases neg with
    | false =>
      have : (0 : Rat) ≤ r.num := by rw [hz, hr]; simpa using hpos.le
      have := Int.cast_nonneg_iff.1 this
      simp only [Bool.false_eq_true, if_false]; omega
    | true =>
      have : (r.num : Rat) ≤ 0 := by rw [hz, hr]; simpa using hpos.le
      have := Int.cast_nonpos.1 this
      simp only [if_true]; omega
  generalize hN : r.num.natAbs = N at habs hsign ⊢
  have hNpos : 0 < N := by
    rw [← habs] at hpos; exact Nat.cast_pos.1 hpos
  rcases le_or_gt 0 e with he | he
  · obtain ⟨a, rfl⟩ : ∃ a : Nat, e = a := ⟨e.toNat, by omega⟩
    have hNm : N = m * 2 ^ a := by rw [zpow_natCast] at habs; exact_mod_cast habs
    refine ⟨by simp, by omega, ?_, fun h => ?_⟩
    · simp only [floorVal, Int.toNat_natCast, if_pos (Int.natCast_nonneg a)]
      rw [hsign, hNm]; cases neg <;> simp
    · have h1 : 2 ^ (Nat.log2 m + a) ≤ N := by rw [hNm, pow_add]; exact Nat.mul_le_mul_right _ (Nat.log2_self_le hm)
      exact (Nat.pow_le_pow_right (n := 2) (by omega) (by omega : 12 ≤ Nat.log2 m + a)).trans h1
  · obtain ⟨a, rfl⟩ : ∃ a : Nat, e = -a := ⟨(-e).toNat, by omega⟩
    have hNm : m = N * 2 ^ a := by
      rw [zpow_neg, zpow_natCast, ← div_eq_mul_inv, eq_div_iff (by positivity)] at habs; exact_mod_cast habs.symm
    have hlog : Nat.log2 m = Nat.log2 N + a := by
      rw [hNm, log2_mul_two_pow hNpos.ne']
    refine ⟨?_, by omega, ?_, fun h => ?_⟩
    · simp [hNm]
    · simp only [floorVal, neg_neg, Int.toNat_natCast, if_neg (not_le.2 he)]
      rw [hsign, hNm]
      have h2 : ((2 ^ a : Nat) : Int) ≠ 0 := by positivity
      cases neg
      · simp only [Bool.false_eq_true, if_false, Nat.cast_mul]; exact Int.mul_ediv_cancel _ h2
      · simp only [if_true, Nat.cast_mul, ← neg_mul]; exact Int.mul_ediv_cancel _ h2
    · have h1 := Nat.log2_self_le (n := N) (by omega)
      exact (Nat.pow_le_pow_right (n := 2) (by omega) (by omega : 12 ≤ Nat.log2 N)).trans h1

end

/-! ### The functions -/

/-- The element result of a function, by its operand's value. -/
def funElem (op : FunOp) (L : Layout) (v : Val) : ElemRes :=
  match funSpecial op L v with
  | some (c, fl) => .code c fl
  | none => match v with
    | .fin n m e _ => .round (funVal op n m e) flNone
    | w => .round w flNone

theorem laneFun_eq {a : LaneReg} {L : Layout} (hf : a.tag.isFloat = true) (hL : a.tag.layout = some L) (op : FunOp) (k : RoundCtx)
    (rng : Word) : laneFun op k a rng = some (laneOut a.tag k ((List.range a.tag.count).map (fun i =>
      funElem op L (elemVal k a.tag (subElem a.tag a.bits i)))) rng) := by
  simp only [laneFun, hf, hL, subElems, List.map_map]
  rfl

theorem laneFun_isSome (op : FunOp) (k : RoundCtx) (a : LaneReg) (rng : Word) :
    (laneFun op k a rng).isSome = true ↔ a.tag.isFloat = true := by
  unfold laneFun
  cases h : a.tag <;> simp [Fmt.isFloat, Fmt.layout]

/-- What the formats of the functions have in common. -/
theorem Fmt.layout_of_isFloat {f : Fmt} (hf : f.isFloat = true) : ∃ L, f.layout = some L ∧ L.mb ≤ 23 ∧ -149 ≤ L.low ∧
    ((2 ^ L.eb : Nat) : Int) ≤ 4096 + L.bias ∧ (∀ n, L.infCode n = (if n then 2 ^ (f.bits - 1) else 0) + topCode f) ∧
    L.bias * 2 ^ L.mb = (if f = .fp32 then 0x3F800000 else if f = .bf16 then 0x3F80 else 0x3C00) ∧ hasNaN f = true := by
  cases f <;> simp only [Fmt.isFloat, Bool.false_eq_true] at hf <;>
    exact ⟨_, rfl, by decide, by decide, by decide, fun n => by cases n <;> rfl, rfl, rfl⟩

section
variable {f : Fmt} (hf : f.isFloat = true) {L : Layout} (hL : f.layout = some L) {k : RoundCtx} (hk : k.mode ≠ .dyn)
include hf hL hk

/-- An interval with many bits is far finer than any place a rounding looks at. -/
theorem Realises.mag_of_large {cut : Rat → Ordering} {m : Nat} {e : Int} {st : Bool} (hm : 2 ^ 64 ≤ m) (h : Encloses cut m e st e)
    (neg : Bool) (fl : Flags) : Realises f k (.mag neg cut, fl) (.round (.fin neg m e st) fl) := by
  obtain ⟨L', hL', hmb, -⟩ := Fmt.layout_of_isFloat hf
  obtain rfl : L' = L := Option.some.inj (hL'.symm.trans hL)
  have hplace := L'.le_place e hm
  exact Realises.mag hL (by have := Nat.two_pow_pos 64; omega) h (by omega) neg hk fl

/-- 2^a of a whole number. -/
theorem exp2_realises {neg : Bool} {m : Nat} {e : Int} {r : Rat} (hm : m ≠ 0)
    (hr : r = if neg then -((m : Rat) * 2 ^ e) else (m : Rat) * 2 ^ e) (hd : r.den = 1) :
    Realises f k (.mag false (order (2 ^ r.num)), 0) (.round (exp2Val neg m e) flNone) := by
  obtain ⟨L', hL', hmb, hlow, hbig, -⟩ := Fmt.layout_of_isFloat hf
  obtain rfl : L' = L := Option.some.inj (hL'.symm.trans hL)
  obtain ⟨hw, hlead, hfloor, hN⟩ := exp2Val_whole hm hr hd
  have exact (N : Int) : Realises f k (.mag false (order (2 ^ N)), 0) (.round (.fin false 1 N false) flNone) := by
    have h := Realises.mag hL (m := 1) (by omega) (Encloses.exact 1 N (L'.place 1 N - 24)) (by omega) false hk 0
    rwa [Nat.cast_one, one_mul] at h
  have hsign : neg = true ↔ r.num < 0 := by
    obtain ⟨-, hz⟩ := num_of_whole hr hd
    have hpos : (0 : Rat) < (m : Rat) * 2 ^ e := mul_pos (Nat.cast_pos.2 (Nat.pos_of_ne_zero hm)) (by positivity)
    rw [← Int.cast_lt_zero (R := Rat), hz, hr]
    cases neg <;> simp [hpos, hpos.le]
  simp only [exp2Val, if_neg hm, hw]
  by_cases h12 : 12 ≤ (Nat.log2 m : Int) + e
  · have hN := hN h12
    rw [if_pos h12]
    cases neg with
    | true =>
      have hneg := hsign.1 rfl
      refine Realises.mag hL (by omega) (g := -4000) ⟨fun p => ?_, fun _ => by norm_num⟩ ?_ false hk 0
      · rcases Nat.eq_zero_or_pos p with rfl | hp
        · have h1 : order (2 ^ r.num) (((0 : Nat) : Rat) * 2 ^ (-4000 : Int)) = .gt := by
            rw [order_gt, Nat.cast_zero, zero_mul]; positivity
          rw [h1, cutOf, if_pos (by rfl), if_pos]
          rw [Nat.cast_zero, zero_mul]; positivity
        · have hge : (2 : Rat) ^ (-4000 : Int) ≤ (p : Rat) * 2 ^ (-4000 : Int) :=
            le_mul_of_one_le_left (by positivity) (by exact_mod_cast hp)
          have h1 : (2 : Rat) ^ r.num < 2 ^ (-4000 : Int) := zpow_lt_zpow_right₀ (by norm_num) (by omega)
          have h2 : (2 : Rat) ^ (-5000 : Int) < 2 ^ (-4000 : Int) := zpow_lt_zpow_right₀ (by norm_num) (by norm_num)
          rw [order_eq_lt.2 (h1.trans_le hge), cutOf, if_pos (by rfl), if_neg]
          rw [Nat.cast_one, one_mul, not_le]
          exact h2.trans_le hge
      · simp only [Layout.place]; omega
    | false =>
      have hpos : ¬ r.num < 0 := fun h => by simpa using hsign.2 h
      have hov (N : Int) (hN : 4096 ≤ N) (rng : Word) : roundTo f (.fin false 1 N false) k.mode k.sat k.un (flushOf k.fpmode f) rng =
          L'.deliver false k.sat (flushOf k.fpmode f) k.mode L'.top false rng := by
        rw [roundTo_of_layout hL (by rintro rfl; cases hf)]
        exact Layout.roundFloat_two_pow (Fmt.layout_sound hL) (by omega) false _ _ _ _
      intro rng
      have h := exact r.num rng
      simp only [ElemRes.step, hov r.num (by omega)] at h
      simpa only [ElemRes.step, Bool.false_eq_true, if_false, Bool.not_true, Bool.or_self, hov 5000 (by norm_num)] using h
  · rw [if_neg h12, if_neg (by omega), if_pos trivial, hfloor]
    exact exact r.num

omit hf hL hk in
/-- A power of two's exponent. -/
theorem log2Val_of_two_pow {m : Nat} {e z : Int} (hm : m ≠ 0) (h : (m : Rat) * 2 ^ e = 2 ^ z) : log2Val m e = Val.ofInt z := by
  have h1 : ((2 ^ Nat.log2 m : Nat) : Rat) * 2 ^ e ≤ (m : Rat) * 2 ^ e :=
    mul_le_mul_of_nonneg_right (Nat.cast_le.2 (Nat.log2_self_le hm)) (by positivity)
  have h2 : (m : Rat) * 2 ^ e < ((2 ^ (Nat.log2 m + 1) : Nat) : Rat) * 2 ^ e :=
    mul_lt_mul_of_pos_right (Nat.cast_lt.2 Nat.lt_log2_self) (by positivity)
  have pow_log (a : Nat) : ((2 ^ a : Nat) : Rat) * 2 ^ e = 2 ^ ((a : Int) + e) := by
    rw [zpow_add₀ (by norm_num), zpow_natCast, Nat.cast_pow, Nat.cast_ofNat]
  rw [h, pow_log, zpow_le_zpow_iff_right₀ (by norm_num)] at h1
  rw [h, pow_log, zpow_lt_zpow_iff_right₀ (by norm_num)] at h2
  have hz : z = (Nat.log2 m : Int) + e := by push_cast at h2; omega
  have hp : m = 2 ^ Nat.log2 m := by
    rw [hz, ← pow_log, mul_left_inj' (by positivity)] at h
    exact_mod_cast h
  rw [log2Val, if_pos hp, hz]

/-- The logarithm of a power of two. -/
theorem log2_realises {m : Nat} {e : Int} {z : Int} (hm : m ≠ 0) (h : (m : Rat) * 2 ^ e = 2 ^ z) :
    Realises f k (exactOf (Claims.ofInt z), 0) (.round (log2Val m e) flNone) := by
  rw [log2Val_of_two_pow hm h, ← toQ_ofInt]
  exact Realises.round (v := Val.ofInt z) (by rintro rfl; cases hL) (by rintro rfl; cases hL) hk rfl 0

omit hL hk in
/-- Table 7.5's entries are codes of the format. -/
theorem Realises.special {n : Bool} {c : Nat} (hc : c ≤ topCode f) (fl : Flags) :
    Realises f k (.code ((if n then 2 ^ (f.bits - 1) else 0) + c), fl) (.code ((if n then 2 ^ (f.bits - 1) else 0) + c) fl) := by
  obtain ⟨-, -, -, -, -, -, -, hnan⟩ := Fmt.layout_of_isFloat hf
  have h1 := sign_le f n
  have h2 := topCode_lt hnan
  have h3 := two_pow_bits f
  exact Realises.code (by omega) k fl

/-- A function's element result, where Table 7.5 or the rational values fix it. -/
theorem funElem_realises (op : FunOp) {v : Val} (hv : v.Sharp) (hb : ∀ n m e st, v = .fin n m e st → m < 2 ^ (L.mb + 1))
    {x : Exact × Flags} (hx : funExact op f v.toQ = some x) : Realises f k x (funElem op L v) := by
  obtain ⟨L', hL', hmb, hlow, hbig, hinf, hone, hnan⟩ := Fmt.layout_of_isFloat hf
  obtain rfl : L' = L := Option.some.inj (hL'.symm.trans hL)
  have hnanc : L'.nanCode = f.nanCode := by simp [Fmt.nanCode, hL]
  have hsign (n : Bool) := Layout.signBit_eq hL n
  have hone_le : L'.bias * 2 ^ L'.mb ≤ topCode f := by
    rw [hone]; cases f <;> first | exact absurd hf (by decide) | decide
  have zero (n : Bool) (fl : Flags) : Realises f k (.zero n, fl) (.code (L'.signBit n) fl) := Realises.zero hL k n fl
  have nan (fl : Flags) : Realises f k (.nan, fl) (.code L'.nanCode fl) := hnanc ▸ Realises.nan hnan k fl
  have infinity (n : Bool) : Realises f k (.code ((if n then 2 ^ (f.bits - 1) else 0) + topCode f), 0) (.code (L'.infCode n) 0) := by
    rw [hinf]; exact Realises.special hf (le_refl _) 0
  have one (n : Bool) : Realises f k (.code ((if n then 2 ^ (f.bits - 1) else 0) + L'.bias * 2 ^ L'.mb), 0)
      (.code (L'.signBit n + L'.bias * 2 ^ L'.mb) 0) := by
    rw [hsign]; exact Realises.special hf hone_le 0
  have signF : L'.signBit false = 0 := rfl
  cases v with
  | nan => cases hx; exact nan 0
  | inf n =>
    cases n <;> cases op <;> simp only [Val.toQ, funExact, Option.some.injEq, ← hone] at hx <;> subst hx
    case false.rcp => exact zero false 0
    case false.rsq => exact zero false 0
    case false.sqrt => exact infinity false
    case false.exp2 => exact infinity false
    case false.log2 => exact infinity false
    case false.tanh =>
      have h := one false
      rw [signF, Nat.zero_add] at h
      exact h
    case true.rcp => exact zero true 0
    case true.rsq => exact nan flInvalid
    case true.sqrt => exact nan flInvalid
    case true.exp2 => exact zero false 0
    case true.log2 => exact nan flInvalid
    case true.tanh => exact one true
  | fin n m e st =>
    obtain rfl : st = false := hv
    have hm := hb n m e false rfl
    have hpos (h0 : m ≠ 0) : (0 : Rat) < (m : Rat) * 2 ^ e := mul_pos (Nat.cast_pos.2 (Nat.pos_of_ne_zero h0)) (by positivity)
    rw [toQ_fin] at hx
    by_cases h0 : m = 0
    · subst h0
      cases op <;> simp only [funExact, Nat.cast_zero, zero_mul, neg_zero, ite_self, if_true, Option.some.injEq, ← hone] at hx <;> subst hx
      case rcp => exact infinity n
      case rsq => exact infinity n
      case sqrt => exact zero n 0
      case exp2 =>
        have h := one false
        rw [signF, Nat.zero_add] at h
        exact h
      case log2 => exact infinity true
      case tanh => exact zero n 0
    generalize hr : (if n = true then -((m : Rat) * 2 ^ e) else (m : Rat) * 2 ^ e) = r at hx
    have hr0 : r ≠ 0 := by rw [← hr]; cases n <;> simpa using (hpos h0).ne'
    have hneg : r < 0 ↔ n = true := by rw [← hr]; cases n <;> simp [hpos h0, (hpos h0).le]
    have habs : r.abs = (m : Rat) * 2 ^ e := by
      rw [ratAbs_eq, ← hr]; cases n <;> simp [abs_mul]
    have hrp (h : n = false) : r = (m : Rat) * 2 ^ e := by rw [← hr, h]; rfl
    have hspecial : funSpecial op L' (.fin n m e false) = if n = true ∧ (op = .rsq ∨ op = .sqrt ∨ op = .log2) then
        some (L'.nanCode, flInvalid) else none := by
      cases n <;> cases op <;> simp [funSpecial, h0]
    have element (h : ¬ (n = true ∧ (op = .rsq ∨ op = .sqrt ∨ op = .log2))) :
        funElem op L' (.fin n m e false) = .round (funVal op n m e) flNone := by
      simp only [funElem, hspecial, if_neg h]
    have invalid (h : n = true ∧ (op = .rsq ∨ op = .sqrt ∨ op = .log2)) :
        funElem op L' (.fin n m e false) = .code L'.nanCode flInvalid := by
      simp only [funElem, hspecial, if_pos h]
    cases op <;> simp only [funExact, if_neg hr0] at hx
    case rcp =>
      rw [element (by simp)]
      cases hx
      simp only [habs, hneg, Bool.decide_eq_true]
      have hlarge : 2 ^ 64 ≤ 2 ^ 200 / m := (Nat.le_div_iff_mul_le (Nat.pos_of_ne_zero h0)).2
        ((Nat.mul_le_mul_left _ (hm.le.trans (Nat.pow_le_pow_right (by omega) (by omega : L'.mb + 1 ≤ 24)))).trans (by norm_num))
      exact Realises.mag_of_large hf hL hk hlarge (recipVal_encloses h0 e) n 0
    case rsq =>
      cases n with
      | true =>
        rw [invalid (by simp)]
        simp only [hneg, if_true, Option.some.injEq] at hx
        exact hx ▸ nan flInvalid
      | false =>
        rw [element (by simp)]
        obtain ⟨s, E, st, hs, hlarge, henc⟩ := rsqrtVal_encloses h0
          (hm.trans_le (Nat.pow_le_pow_right (by omega) (by omega : L'.mb + 1 ≤ 100))) e
        simp only [hneg, Bool.false_eq_true, if_false, Option.some.injEq] at hx
        rw [funVal, hs, ← hx, hrp rfl]
        exact Realises.mag_of_large hf hL hk hlarge henc false 0
    case sqrt =>
      cases n with
      | true =>
        rw [invalid (by simp)]
        simp only [hneg, if_true, Option.some.injEq] at hx
        exact hx ▸ nan flInvalid
      | false =>
        rw [element (by simp)]
        obtain ⟨s, E, st, hs, hlarge, henc⟩ := sqrtVal_encloses h0 e
        simp only [hneg, Bool.false_eq_true, if_false, Option.some.injEq] at hx
        rw [funVal, hs, ← hx, hrp rfl]
        exact Realises.mag_of_large hf hL hk hlarge henc false 0
    case exp2 =>
      rw [element (by simp)]
      split_ifs at hx with hd
      cases hx
      exact exp2_realises hf hL hk h0 hr.symm hd
    case log2 =>
      cases n with
      | true =>
        rw [invalid (by simp)]
        simp only [hneg, if_true, Option.some.injEq] at hx
        exact hx ▸ nan flInvalid
      | false =>
        rw [element (by simp)]
        rw [if_neg (by simp [hneg])] at hx
        split_ifs at hx with h1 h2
        · cases hx
          refine log2_realises hf hL hk h0 ?_
          rw [← hrp rfl, zpow_natCast, ← Rat.coe_int_num_of_den_eq_one h1.1]
          exact_mod_cast h1.2
        · cases hx
          refine log2_realises hf hL hk h0 ?_
          have hden : ((r.den : Nat) : Rat) = 2 ^ r.den.log2 := by exact_mod_cast h2.2
          have hnd := Rat.num_div_den r
          rw [h2.1, hden, Int.cast_one] at hnd
          rw [← hrp rfl, zpow_neg, zpow_natCast, ← one_div]
          exact hnd.symm
    case tanh => cases hx

end

end Sys2Proof
end

section
/-!
PROOF. What one lane computes (spec/07 R149, R152-R154, R157): element arithmetic, extremes, signs, functions, dot products and
shifts.
-/
namespace Sys2Proof
open Sys2Proof.Claims

/-! ### Arithmetic -/

/-- The operations' exact values, in the numbers' words. -/
theorem arithVal_toQ (op : ArithOp) (mode : RMode) {a b : Val} (ha : a.Sharp) (hb : b.Sharp) :
    (match op with
      | .add => addNum mode [a.toQ, b.toQ]
      | .sub => addNum mode [a.toQ, b.toQ.neg]
      | .mul => mulNum a.toQ b.toQ) = ((arithVal op mode a b).1.toQ, (arithVal op mode a b).2) ∧ (arithVal op mode a b).1.Sharp := by
  cases op with
  | add =>
    exact ⟨(sumVals_toQ (ts := [a, b]) (by simp [ha, hb]) mode).symm, sumVals_sharp _ _⟩
  | sub =>
    have h := (sumVals_toQ (ts := [a, b.negate]) (by simp [ha, hb.negate]) mode).symm
    simp only [List.map_cons, List.map_nil, Val.negate_toQ] at h
    exact ⟨h, sumVals_sharp _ _⟩
  | mul => exact ⟨(Val.mul_toQ ha hb).symm, Val.mul_sharp ha hb⟩

/-- On integers the operations give integers. -/
theorem arithVal_integer (op : ArithOp) (mode : RMode) {a b : Val} (ha : a.Sharp) (hb : b.Sharp) {x y : Int}
    (hx : a.toQ = Claims.ofInt x) (hy : b.toQ = Claims.ofInt y) :
    ∃ n, (arithVal op mode a b).1.toQ = .fin n ((match op with
      | .add => x + y
      | .sub => x - y
      | .mul => x * y : Int) : Rat) ∧ (arithVal op mode a b).2 = 0 := by
  have hv := (arithVal_toQ op mode ha hb).1
  rw [hx, hy] at hv
  cases op with
  | add =>
    obtain ⟨n, h⟩ := addNum_finite (mode := mode) (xs := [Claims.ofInt x, Claims.ofInt y]) (by simp [ofInt_finite])
    rw [show addNum mode [Claims.ofInt x, Claims.ofInt y] = _ from h, Prod.mk.injEq] at hv
    exact ⟨n, by rw [← hv.1]; simp [ofInt_real], hv.2.symm⟩
  | sub =>
    obtain ⟨n, h⟩ := addNum_finite (mode := mode) (xs := [Claims.ofInt x, (Claims.ofInt y).neg]) (by
      simp [ofInt_finite, (ofInt_finite y).neg])
    rw [show addNum mode [Claims.ofInt x, (Claims.ofInt y).neg] = _ from h, Prod.mk.injEq] at hv
    refine ⟨n, ?_, hv.2.symm⟩
    rw [← hv.1]
    simp only [List.map_cons, List.map_nil, List.sum_cons, List.sum_nil, Claims.ofInt, Quantity.neg, Quantity.real]
    push_cast; ring_nf
  | mul =>
    obtain ⟨n, h⟩ := mulNum_finite (ofInt_finite x) (ofInt_finite y)
    rw [show mulNum (Claims.ofInt x) (Claims.ofInt y) = _ from h, Prod.mk.injEq] at hv
    exact ⟨n, by rw [← hv.1, ofInt_real, ofInt_real]; push_cast; rfl, hv.2.symm⟩

/-- VADD, VSUB and VMUL on equal arithmetic tags. -/
theorem laneArith_eq (op : ArithOp) (k : RoundCtx) {a b : LaneReg} (ha : arithmetic a.tag) (hb : b.tag = a.tag) (rng : Word) :
    laneArith op k a b rng = some (laneOut a.tag k ((List.range a.tag.count).map (fun i =>
      if (elemVal k a.tag (subElem a.tag a.bits i)).isNan || (elemVal k a.tag (subElem a.tag b.bits i)).isNan then
        .code a.tag.nanCode flNone
      else .ofVal a.tag (arithVal op k.mode (elemVal k a.tag (subElem a.tag a.bits i)) (elemVal k a.tag (subElem a.tag b.bits i))))) rng) := by
  simp only [laneArith, (arithFmt_iff _).2 ha, hb, decide_true, Bool.and_self, if_true]

theorem laneArith_none (op : ArithOp) (k : RoundCtx) {a b : LaneReg} (h : ¬ arithmetic a.tag ∨ b.tag ≠ a.tag) (rng : Word) :
    laneArith op k a b rng = none := by
  simp only [laneArith]
  rw [if_neg]
  rw [Bool.and_eq_true, arithFmt_iff, decide_eq_true_eq]; tauto

/-- An integer element result. -/
theorem ElemRes.step_ofVal_integer {f : Fmt} (hf : f.isInt = true) (k : RoundCtx) {p : Val × Flags} (hs : p.1.Sharp) {n : Bool} {i : Int}
    (hp : p.1.toQ = .fin n i) (hfl : p.2 = 0) (rng : Word) :
    let lo : Int := if k.un then 0 else -(2 ^ (f.bits - 1))
    let hi : Int := if k.un then 2 ^ f.bits - 1 else 2 ^ (f.bits - 1) - 1
    (ElemRes.ofVal f p).step f k rng =
      ⟨((if k.sat then max lo (min hi i) else i) % 2 ^ f.bits).toNat, ifSet (k.sat && decide (i < lo ∨ hi < i)) flSat, rng⟩ := by
  obtain ⟨v, fl⟩ := p
  cases v with
  | nan => cases hp
  | inf b => cases hp
  | fin b m e st =>
    dsimp only at hfl
    simp only [ElemRes.ofVal, ElemRes.step, roundTo_of_isInt hf, roundInt_integer hs hp, hfl]
    simp

theorem intOf_elemVal {f : Fmt} (hf : f.isInt = true) (k : RoundCtx) (c : Nat) : (elemVal k f c).isNan = false := by
  rw [Val.isNan_eq, elemVal_toQ_of_isInt hf, decide_eq_false (ofInt_finite _).ne_nan]

/-- Integer arithmetic wraps or is clamped (R32, R51). -/
theorem laneArith_integer (op : ArithOp) (k : RoundCtx) {f : Fmt} (a b : Word) (sa sb : BitVec 8) (rng : Word) (hf : f.isInt = true) :
    let lo : Int := if k.un then 0 else -(2 ^ (f.bits - 1))
    let hi : Int := if k.un then 2 ^ f.bits - 1 else 2 ^ (f.bits - 1) - 1
    let exact (i : Nat) : Int :=
      let x := intOf f.bits k.un (subElem f a i)
      let y := intOf f.bits k.un (subElem f b i)
      match op with
      | .add => x + y
      | .sub => x - y
      | .mul => x * y
    ∃ o, laneArith op k ⟨a, f, sa⟩ ⟨b, f, sb⟩ rng = some o ∧ o.tag = f ∧ o.scale = none ∧ o.rng = rng ∧
      (∀ i, i < f.count → subElem f o.bits i = ((if k.sat then max lo (min hi (exact i)) else exact i) % 2 ^ f.bits).toNat) ∧
      (o.fl = if k.sat = true ∧ ∃ i, i < f.count ∧ (exact i < lo ∨ hi < exact i) then flSat else 0) := by
  intro lo hi exact
  refine ⟨_, laneArith_eq op k (a := ⟨a, f, sa⟩) (b := ⟨b, f, sb⟩) (.inl hf) rfl rng, ?_⟩
  obtain ⟨h1, h2, h3, h4, h5⟩ := laneOut_steady (g := f) (k := k) (F := fun i =>
      if (elemVal k f (subElem f a i)).isNan || (elemVal k f (subElem f b i)).isNan then .code f.nanCode flNone
      else .ofVal f (arithVal op k.mode (elemVal k f (subElem f a i)) (elemVal k f (subElem f b i))))
    (c := fun i => ((if k.sat then max lo (min hi (exact i)) else exact i) % 2 ^ f.bits).toNat)
    (a := fun i => ifSet (k.sat && decide (exact i < lo ∨ hi < exact i)) flSat) rng
    (fun i _ rng => by
      have hsa := elemVal_sharp k f (subElem f a i)
      have hsb := elemVal_sharp k f (subElem f b i)
      obtain ⟨n, hn, hfl⟩ := arithVal_integer op k.mode hsa hsb (elemVal_toQ_of_isInt hf k _) (elemVal_toQ_of_isInt hf k _)
      simp only [intOf_elemVal hf, Bool.or_self, Bool.false_eq_true, if_false]
      exact ElemRes.step_ofVal_integer hf k (arithVal_toQ op k.mode hsa hsb).2 hn hfl rng) (fun i _ => toNat_emod_lt _ _)
  refine ⟨h1, h2, h3, h4, ?_⟩
  rw [foldl_ifSet] at h5
  rw [show _ = _ from h5]
  have : (List.range f.count).any (fun i => k.sat && decide (exact i < lo ∨ hi < exact i)) = true ↔
      k.sat = true ∧ ∃ i, i < f.count ∧ (exact i < lo ∨ hi < exact i) := by
    simp only [List.any_eq_true, List.mem_range, Bool.and_eq_true, decide_eq_true_eq]
    constructor
    · rintro ⟨i, hi, hs, hx⟩; exact ⟨hs, i, hi, hx⟩
    · rintro ⟨hs, i, hi, hx⟩; exact ⟨i, hi, hs, hx⟩
  simp only [ifSet, this]

/-- Element arithmetic on every arithmetic tag: the exact result, rounded once. -/
theorem laneArith_elements (op : ArithOp) {k : RoundCtx} {f : Fmt} (a b : Word) (sa sb : BitVec 8) (rng : Word) (hf : arithmetic f)
    (hk : k.mode ≠ .dyn) :
    let x (i : Nat) := elemNum k ⟨a, f, sa⟩ i
    let y (i : Nat) := elemNum k ⟨b, f, sb⟩ i
    ∃ o, laneArith op k ⟨a, f, sa⟩ ⟨b, f, sb⟩ rng = some o ∧ LaneElements f k (fun i => exactly (match op with
      | .add => addNum k.mode [x i, y i]
      | .sub => addNum k.mode [x i, (y i).neg]
      | .mul => mulNum (x i) (y i))) rng o := by
  refine ⟨_, laneArith_eq op k (a := ⟨a, f, sa⟩) (b := ⟨b, f, sb⟩) hf rfl rng, laneOut_laneElements rng (fun i _ => ?_)⟩
  have hx := elemNum_of_not_isMx (k := k) (r := ⟨a, f, sa⟩) (not_isMx_of_arithmetic hf) i
  have hy := elemNum_of_not_isMx (k := k) (r := ⟨b, f, sb⟩) (not_isMx_of_arithmetic hf) i
  simp only [hx, hy]
  have hsa := elemVal_sharp k f (subElem f a i)
  have hsb := elemVal_sharp k f (subElem f b i)
  obtain ⟨hv, hs⟩ := arithVal_toQ op k.mode hsa hsb
  refine Realises.guarded (ne_raw_of_arithmetic hf) (ne_pl16_of_arithmetic hf) hk hs (fun hn => ?_) (fun hb => ?_) (fun _ => hv)
  · rcases isInt_or_hasNaN_of_arithmetic hf with hi | hi
    · obtain ⟨n, hn', -⟩ := arithVal_integer op k.mode hsa hsb (elemVal_toQ_of_isInt hi k _) (elemVal_toQ_of_isInt hi k _)
      rw [hv, hn'] at hn; cases hn
    · exact hi
  · rw [Bool.or_eq_true, Val.isNan_iff, Val.isNan_iff] at hb
    cases op with
    | add => exact addNum_of_nan (by simpa [eq_comm] using hb)
    | sub =>
      refine addNum_of_nan ?_
      rcases hb with h | h
      · simp [h]
      · simp [h, Quantity.neg]
    | mul => exact mulNum_of_nan hb

/-! ### Multiply and add -/

theorem fmaVal_toQ (sub : Bool) (mode : RMode) {a b c : Val} (ha : a.Sharp) (hb : b.Sharp) (hc : c.Sharp)
    (hn : (a.isNan || b.isNan || c.isNan) = false) :
    fmaNum sub mode a.toQ b.toQ c.toQ = ((fmaVal sub mode a b c).1.toQ, (fmaVal sub mode a b c).2) := by
  have hn' : ¬ (a.toQ = .nan ∨ b.toQ = .nan ∨ c.toQ = .nan) := by
    simpa only [Val.isNan_eq, Bool.or_eq_false_iff, decide_eq_false_iff_not, not_or, and_assoc] using hn
  have hm := Val.mul_toQ ha hb
  have hz : (if sub then c.negate else c).toQ = if sub then c.toQ.neg else c.toQ := by cases sub <;> simp [Val.negate_toQ]
  have hzs : (if sub then c.negate else c).Sharp := by cases sub <;> simp [hc, hc.negate]
  have hs := sumVals_toQ (ts := [(a.mul b).1, if sub then c.negate else c]) (by simp [Val.mul_sharp ha hb, hzs]) mode
  simp only [List.map_cons, List.map_nil, hz] at hs
  simp only [fmaNum, if_neg hn', fmaVal, ← hm, ← hs]

/-- On integers the exact result is a finite number. -/
theorem fmaNum_finite (sub : Bool) (mode : RMode) {x y z : Quantity} (hx : Quantity.Finite x) (hy : Quantity.Finite y)
    (hz : Quantity.Finite z) : Quantity.Finite (fmaNum sub mode x y z).1 := by
  obtain ⟨n, hm⟩ := mulNum_finite hx hy
  have hz' : Quantity.Finite (if sub then z.neg else z) := by cases sub <;> simp [hz, hz.neg]
  obtain ⟨b, ha⟩ := addNum_finite (mode := mode) (xs := [.fin n (x.real * y.real), if sub then z.neg else z]) (by
    simpa [hz'] using ⟨n, _, rfl⟩)
  simp only [fmaNum, hx.ne_nan, hy.ne_nan, hz.ne_nan, or_self, if_false, hm, ha]
  exact ⟨_, _, rfl⟩

theorem laneFma_elements (sub : Bool) {k : RoundCtx} {a b c : LaneReg} (rng : Word) (hk : k.mode ≠ .dyn) (hf : arithmetic a.tag)
    (hb : b.tag = a.tag) (hc : c.tag = a.tag) : ∃ o, laneFma sub k a b c rng = some o ∧
      LaneElements a.tag k (fun i => exactly (fmaNum sub k.mode (elemNum k a i) (elemNum k b i) (elemNum k c i))) rng o := by
  have hmx := not_isMx_of_arithmetic hf
  simp only [laneFma, (arithFmt_iff _).2 hf, hb, hc, decide_true, Bool.and_self, if_true]
  refine ⟨_, rfl, laneOut_laneElements rng (fun i _ => ?_)⟩
  have hx := elemNum_of_not_isMx (k := k) (r := a) hmx i
  have hy := elemNum_of_not_isMx (k := k) (r := b) (hb ▸ hmx) i
  have hz := elemNum_of_not_isMx (k := k) (r := c) (hc ▸ hmx) i
  rw [hb] at hy
  rw [hc] at hz
  simp only [hx, hy, hz]
  have hsa := elemVal_sharp k a.tag (subElem a.tag a.bits i)
  have hsb := elemVal_sharp k a.tag (subElem a.tag b.bits i)
  have hsc := elemVal_sharp k a.tag (subElem a.tag c.bits i)
  refine Realises.guarded (ne_raw_of_arithmetic hf) (ne_pl16_of_arithmetic hf) hk (sumVals_sharp _ _) (fun hn => ?_) (fun hb => ?_)
    (fun hb => fmaVal_toQ sub k.mode hsa hsb hsc hb)
  · refine (isInt_or_hasNaN_of_arithmetic hf).resolve_left (fun hi => (fmaNum_finite sub k.mode ?_ ?_ ?_).ne_nan hn) <;>
      exact elemVal_toQ_of_isInt hi k _ ▸ ofInt_finite _
  · rw [Bool.or_eq_true, Bool.or_eq_true, Val.isNan_iff, Val.isNan_iff, Val.isNan_iff, or_assoc] at hb
    exact if_pos hb

theorem laneFma_none (sub : Bool) (k : RoundCtx) {a b c : LaneReg} (h : ¬ arithmetic a.tag ∨ b.tag ≠ a.tag ∨ c.tag ≠ a.tag) (rng : Word) :
    laneFma sub k a b c rng = none := by
  simp only [laneFma]
  rw [if_neg]
  simp only [Bool.and_eq_true, arithFmt_iff, decide_eq_true_eq]; tauto

theorem laneMinMax_none (top : Bool) (k : RoundCtx) {a b : LaneReg} (h : ¬ arithmetic a.tag ∨ b.tag ≠ a.tag) (rng : Word) :
    laneMinMax top k a b rng = none := by
  simp only [laneMinMax]
  rw [if_neg]
  rw [Bool.and_eq_true, arithFmt_iff, decide_eq_true_eq]; tauto

/-! ### Extremes and signs -/

/-- The lesser or the greater of two codes, and that it is a code of the format. -/
theorem minMaxCode_spec (k : RoundCtx) (f : Fmt) (top : Bool) {c d : Nat} (hc : c < 2 ^ f.bits) (hd : d < 2 ^ f.bits) :
    let x := (elemVal k f c).toQ
    let y := (elemVal k f d).toQ
    let e := minMaxCode k f top c d
    e < 2 ^ f.bits ∧ (x = .nan ∨ y = .nan → e = nanOf f) ∧
      (x ≠ .nan → y ≠ .nan → numOf f k.un false e = (if notAbove x y = top then y else x) ∧
        numOf f k.un (flushes k.fpmode f) e = numOf f k.un false e) := by
  by_cases hn : (elemVal k f c).toQ = .nan ∨ (elemVal k f d).toQ = .nan
  · have hnan : ((elemVal k f c).isNan || (elemVal k f d).isNan) = true := by
      rwa [Bool.or_eq_true, Val.isNan_iff, Val.isNan_iff]
    simp only [minMaxCode, hnan, if_true, nanCode_eq_nanOf]
    exact ⟨nanOf_lt f, fun _ => trivial, fun h1 h2 => absurd hn (by tauto)⟩
  · have hx : (elemVal k f c).isNan = false := by rw [Val.isNan_eq]; exact decide_eq_false (fun h => hn (.inl h))
    have hy : (elemVal k f d).isNan = false := by rw [Val.isNan_eq]; exact decide_eq_false (fun h => hn (.inr h))
    obtain ⟨hc1, hc2, hc3⟩ := cleanCode_numOf k hc hx
    obtain ⟨hd1, hd2, hd3⟩ := cleanCode_numOf k hd hy
    rw [← elemVal_toQ] at hc1 hd1
    simp only [minMaxCode, hx, hy, Bool.or_self, Bool.false_eq_true, if_false, valLe_eq]
    by_cases h : notAbove (elemVal k f c).toQ (elemVal k f d).toQ = top
    · simp only [h, bne_self_eq_false, Bool.false_eq_true, if_false, if_true]
      exact ⟨hd2, fun h' => absurd h' hn, fun _ _ => ⟨hd1, hd3⟩⟩
    · have hb : (notAbove (elemVal k f c).toQ (elemVal k f d).toQ != top) = true := by rwa [bne_iff_ne]
      simp only [hb, if_true, if_neg h]
      exact ⟨hc2, fun h' => absurd h' hn, fun _ _ => ⟨hc1, hc3⟩⟩

theorem laneMinMax_elements (top : Bool) (k : RoundCtx) {a b : LaneReg} (rng : Word) (hf : arithmetic a.tag) (hb : b.tag = a.tag) :
    ∃ o, laneMinMax top k a b rng = some o ∧ o.tag = a.tag ∧ o.scale = none ∧ o.fl = 0 ∧ o.rng = rng ∧ ∀ i, i < a.tag.count →
      let x := elemNum k a i
      let y := elemNum k b i
      let e := subElem a.tag o.bits i
      (x = .nan ∨ y = .nan → e = nanOf a.tag) ∧
      (x ≠ .nan → y ≠ .nan → numOf a.tag k.un false e = if notAbove x y = top then y else x) := by
  have hmx := not_isMx_of_arithmetic hf
  simp only [laneMinMax, (arithFmt_iff _).2 hf, hb, decide_true, Bool.and_self, if_true]
  refine ⟨_, rfl, rfl, rfl, rfl, rfl, fun i hi => ?_⟩
  obtain ⟨hlt, h1, h2⟩ := minMaxCode_spec k a.tag top (subElem_lt a.tag a.bits i) (subElem_lt a.tag b.bits i)
  have hx := elemNum_of_not_isMx (k := k) (r := a) hmx i
  have hy := elemNum_of_not_isMx (k := k) (r := b) (hb ▸ hmx) i
  rw [hb] at hy
  dsimp only
  rw [subElem_joinElems_map (le_refl _) _ hi, Nat.mod_eq_of_lt hlt, hx, hy]
  exact ⟨h1, fun hx hy => (h2 hx hy).1⟩

/-- The sign operations on a code that is no NaN. -/
theorem signCode_numOf (neg : Bool) (k : RoundCtx) {f : Fmt} (hf : f.isFloat = true) {c : Nat} (hc : c < 2 ^ f.bits)
    (hn : (elemVal k f c).isNan = false) :
    let e := if neg then cleanCode k f c ^^^ 2 ^ (f.bits - 1) else cleanCode k f c % 2 ^ (f.bits - 1)
    e < 2 ^ f.bits ∧ match (elemVal k f c).toQ with
      | .nan => True
      | .inf n => numOf f false false e = .inf (neg && !n)
      | .fin n r => numOf f false false e = .fin (neg && !n) (if neg then -r else r.abs) := by
  obtain ⟨L, hL, -⟩ := Fmt.layout_of_isFloat hf
  obtain ⟨m, hm, hcode, hnum⟩ := cleanCode_of_layout hL hc hn
  have hs : 2 ^ (f.bits - 1) = 2 ^ (L.eb + L.mb) := by rw [bits_of_layout hL]; rfl
  obtain ⟨b, hb⟩ : ∃ b : Bool, b = (neg && !c.testBit (L.eb + L.mb)) := ⟨_, rfl⟩
  have he : (if neg then cleanCode k f c ^^^ 2 ^ (f.bits - 1) else cleanCode k f c % 2 ^ (f.bits - 1)) = L.signBit b + m := by
    rw [hs, hcode, hb]
    cases neg
    · simp only [Bool.false_eq_true, if_false, Bool.false_and]
      rw [Layout.signBit_add_mod hm]; exact (Nat.zero_add m).symm
    · simp only [if_true, Bool.true_and]
      exact Layout.signBit_add_xor hm
  simp only [he]
  refine ⟨bits_of_layout hL ▸ Layout.signBit_add_lt hm, ?_⟩
  rw [elemVal_toQ, numOf_of_layout hL, numOf_of_layout hL, (hnum _).1, Layout.signBit_add_testBit hm, Layout.signBit_add_mod hm]
  have hmag := magnitude_nonneg L.mb L.bias m
  by_cases ht : m < L.top
  · simp only [Layout.number, ht, if_true, Bool.false_and, Bool.false_eq_true, if_false, hb, ratAbs_eq]
    cases neg <;> cases c.testBit (L.eb + L.mb) <;> simp [abs_of_nonneg hmag]
  · by_cases hi : (decide (L.spec = .ieee) && decide (m = L.top)) = true
    · simp only [Layout.number, ht, if_false, hi, if_true, hb]
    · simp only [Layout.number, ht, if_false, hi, Bool.false_eq_true]

theorem laneSign_float (neg : Bool) {k : RoundCtx} {a : LaneReg} (rng : Word) (hf : a.tag.isFloat = true) :
    ∃ o, laneSign neg k a rng = some o ∧ o.tag = a.tag ∧ o.scale = none ∧ o.fl = 0 ∧ o.rng = rng ∧ ∀ i, i < a.tag.count →
      let e := subElem a.tag o.bits i
      match elemNum k a i with
      | .nan => e = nanOf a.tag
      | .inf n => numOf a.tag false false e = .inf (neg && !n)
      | .fin n r => numOf a.tag false false e = .fin (neg && !n) (if neg then -r else r.abs) := by
  have hmx : a.tag.isMx = false := by cases h : a.tag <;> first | rfl | (rw [h] at hf; cases hf)
  simp only [laneSign, hf, if_true]
  refine ⟨_, rfl, rfl, rfl, rfl, rfl, fun i hi => ?_⟩
  have hx := elemNum_of_not_isMx (k := k) (r := a) hmx i
  dsimp only
  rw [subElems, List.map_map, subElem_joinElems_map (le_refl _) _ hi, hx]
  simp only [Function.comp_apply]
  have hc := subElem_lt a.tag a.bits i
  generalize subElem a.tag a.bits i = c at hc
  cases hn : (elemVal k a.tag c).isNan with
  | true =>
    have hq := (Val.isNan_iff _).1 hn
    simp only [hq, if_true, nanCode_eq_nanOf]
    exact Nat.mod_eq_of_lt (nanOf_lt _)
  | false =>
    obtain ⟨hlt, hv⟩ := signCode_numOf neg k hf hc hn
    have hq : (elemVal k a.tag c).toQ ≠ .nan := by
      rw [Val.isNan_eq, decide_eq_false_iff_not] at hn; exact hn
    simp only [Bool.false_eq_true, if_false]
    rw [Nat.mod_eq_of_lt hlt]
    cases h : (elemVal k a.tag c).toQ with
    | nan => exact absurd h hq
    | inf n => rw [h] at hv; exact hv
    | fin n r => rw [h] at hv; exact hv

theorem laneSign_integer (neg : Bool) {k : RoundCtx} {a : LaneReg} (rng : Word) (hf : a.tag.isInt = true) :
    ∃ o, laneSign neg k a rng = some o ∧ LaneElements a.tag k (fun i =>
      let c := readInt a.tag.bits false (subElem a.tag a.bits i)
      (exactOf (Claims.ofInt (if neg then -c else c.natAbs)), 0)) rng o := by
  have hfl : a.tag.isFloat = false := by cases h : a.tag <;> first | rfl | (rw [h] at hf; cases hf)
  simp only [laneSign, hf, hfl, Bool.false_eq_true, if_false, if_true]
  refine ⟨_, rfl, ?_⟩
  rw [subElems, List.map_map]
  refine laneOut_laneElements rng (fun i _ => ?_)
  have habs (c : Int) : (if c < 0 then -c else c) = (c.natAbs : Int) := by split <;> omega
  simp only [Function.comp_apply, habs, readInt_eq_intOf, intOf, Bool.false_eq_true, if_false]
  rw [← toQ_ofInt]
  exact Realises.roundInt hf k (v := Val.ofInt _) rfl flNone

theorem laneSign_none (neg : Bool) (k : RoundCtx) {a : LaneReg} (h : ¬ arithmetic a.tag) (rng : Word) : laneSign neg k a rng = none := by
  rw [← arithFmt_iff, arithFmt, Bool.or_eq_true, not_or] at h
  simp only [laneSign, h.1, h.2, if_false, Bool.false_eq_true]

/-! ### Functions -/

theorem laneFun_elements (op : FunOp) {k : RoundCtx} {a : LaneReg} (rng : Word) (hk : k.mode ≠ .dyn) (hf : a.tag.isFloat = true)
    {x : Nat → Exact × Flags} (hx : ∀ i, i < a.tag.count → funExact op a.tag (elemNum k a i) = some (x i)) :
    ∃ o, laneFun op k a rng = some o ∧ LaneElements a.tag k x rng o := by
  obtain ⟨L, hL, -⟩ := Fmt.layout_of_isFloat hf
  have hmx : a.tag.isMx = false := by cases h : a.tag <;> first | rfl | (rw [h] at hf; cases hf)
  refine ⟨_, laneFun_eq hf hL op k rng, laneOut_laneElements rng (fun i hi => ?_)⟩
  refine funElem_realises hf hL hk op (elemVal_sharp k a.tag _) (fun n m e st h => elemVal_bound hL h) ?_
  rw [← elemNum_of_not_isMx hmx]
  exact hx i hi

/-! ### Dot products -/

theorem dotResult_eq (f : Fmt) : dotResult f = dotFormat f := by cases f <;> rfl

/-- The formats of VDOT's results. -/
theorem dotFormat_cases {f g : Fmt} (h : dotFormat f = some g) : (f.isInt = true ∧ g = .i32) ∨ (f.isInt = false ∧ g = .fp32) := by
  cases f <;> cases h <;> simp [Fmt.isInt]

/-- The exact products and their flags. -/
theorem products_toQ {xs : List (Val × Val)} (h : ∀ p ∈ xs, p.1.Sharp ∧ p.2.Sharp) :
    let ps := xs.map (fun p => mulNum p.1.toQ p.2.toQ)
    (products xs).1.map Val.toQ = ps.map Prod.fst ∧ (products xs).2 = (ps.map Prod.snd).foldl (· ||| ·) 0 ∧
      ∀ v ∈ (products xs).1, v.Sharp := by
  induction xs with
  | nil => simp [products]; rfl
  | cons p xs ih =>
    obtain ⟨h1, h2, h3⟩ := ih (fun q hq => h q (List.mem_cons_of_mem _ hq))
    obtain ⟨ha, hb⟩ := h p List.mem_cons_self
    have hm := Val.mul_toQ ha hb
    obtain ⟨x, y⟩ := p
    refine ⟨?_, ?_, ?_⟩
    · simp only [products, List.map_cons, h1, ← hm]
    · simp only [products, List.map_cons, h2, ← hm, List.foldl_cons]
      have := List.foldl_assoc (op := fun a b : Flags => a ||| b) (ha := ⟨BitVec.or_assoc⟩)
        (l := (xs.map (fun p => mulNum p.1.toQ p.2.toQ)).map Prod.snd) (a₁ := (x.mul y).2) (a₂ := 0)
      rw [← this, BitVec.or_comm _ 0]
    · intro v hv
      rcases List.mem_cons.1 hv with rfl | hv
      · exact Val.mul_sharp ha hb
      · exact h3 v hv

theorem dotNum_finite {mode : RMode} {z : Quantity} {xs : List (Quantity × Quantity)} (hz : Quantity.Finite z)
    (hx : ∀ p ∈ xs, Quantity.Finite p.1 ∧ Quantity.Finite p.2) : Quantity.Finite (dotNum mode z xs).1 := by
  have hn : ¬ (z = .nan ∨ ∃ p ∈ xs, p.1 = .nan ∨ p.2 = .nan) := by
    rintro (h | ⟨p, hp, h⟩)
    · exact hz.ne_nan h
    · exact h.elim (hx p hp).1.ne_nan (hx p hp).2.ne_nan
  obtain ⟨n, hs⟩ := addNum_finite (mode := mode) (xs := z :: (xs.map (fun p => mulNum p.1 p.2)).map Prod.fst) (by
    simp only [List.mem_cons, List.mem_map, forall_eq_or_imp]
    refine ⟨hz, ?_⟩
    rintro q ⟨r, ⟨p, hp, rfl⟩, rfl⟩
    obtain ⟨b, hm⟩ := mulNum_finite (hx p hp).1 (hx p hp).2
    rw [hm]; exact ⟨_, _, rfl⟩)
  simp only [dotNum, if_neg hn, hs]
  exact ⟨_, _, rfl⟩

/-- The exact value of a dot product and its further term. -/
theorem dotVal_toQ (mode : RMode) {z : Val} {xs : List (Val × Val)} (hz : z.Sharp) (hxs : ∀ p ∈ xs, p.1.Sharp ∧ p.2.Sharp)
    (hn : (z.isNan || xs.any (fun p => p.1.isNan || p.2.isNan)) = false) :
    dotNum mode z.toQ (xs.map (fun p => (p.1.toQ, p.2.toQ))) =
      ((sumVals (z :: (products xs).1) mode).1.toQ, (products xs).2 ||| (sumVals (z :: (products xs).1) mode).2) := by
  have hn' : ¬ (z.toQ = .nan ∨ ∃ p ∈ xs.map (fun p => (p.1.toQ, p.2.toQ)), p.1 = .nan ∨ p.2 = .nan) := by
    intro hc
    have : (z.isNan || xs.any (fun p => p.1.isNan || p.2.isNan)) = true := by simpa [Val.isNan_iff, List.any_eq_true] using hc
    rw [this] at hn; cases hn
  obtain ⟨hp1, hp2, hp3⟩ := products_toQ hxs
  have hs := sumVals_toQ (ts := z :: (products xs).1) (fun v hv => by
    rcases List.mem_cons.1 hv with rfl | hv
    · exact hz
    · exact hp3 v hv) mode
  rw [dotNum, if_neg hn']
  simp only [List.map_cons, hp1, List.map_map, Function.comp_def] at hs hp2 ⊢
  rw [← hs, hp2]

/-- One half of VDOT: its exact sum, rounded once. -/
theorem dot_realises {f g : Fmt} (hg : dotFormat f = some g) {k : RoundCtx} (hk : k.mode ≠ .dyn) {z : Val} {xs : List (Val × Val)}
    (hz : z.Sharp) (hxs : ∀ p ∈ xs, p.1.Sharp ∧ p.2.Sharp)
    (hfin : f.isInt = true → Quantity.Finite (dotNum k.mode z.toQ (xs.map (fun p => (p.1.toQ, p.2.toQ)))).1) :
    Realises g k (exactly (dotNum k.mode z.toQ (xs.map (fun p => (p.1.toQ, p.2.toQ)))))
      (if z.isNan || xs.any (fun p => p.1.isNan || p.2.isNan) then .code g.nanCode flNone
        else .ofVal g ((sumVals (z :: (products xs).1) k.mode).1, (products xs).2 ||| (sumVals (z :: (products xs).1) k.mode).2)) := by
  have hgf : g = .i32 ∨ g = .fp32 := (dotFormat_cases hg).imp And.right And.right
  refine Realises.guarded (by rcases hgf with rfl | rfl <;> decide) (by rcases hgf with rfl | rfl <;> decide) hk
    (sumVals_sharp _ _) (fun hn => ?_) (fun hb => if_pos ?_) (fun hb => dotVal_toQ k.mode hz hxs hb)
  · rcases dotFormat_cases hg with ⟨hi, -⟩ | ⟨-, rfl⟩
    · exact absurd hn (hfin hi).ne_nan
    · rfl
  · simpa [Val.isNan_iff, List.any_eq_true] using hb

theorem elemNum_finite_of_isInt {k : RoundCtx} {r : LaneReg} (hr : r.tag.isInt = true) (i : Nat) : Quantity.Finite (elemNum k r i) := by
  rw [elemNum_of_not_isMx (by cases h : r.tag <;> first | rfl | (rw [h] at hr; cases hr)), elemVal_toQ_of_isInt hr]
  exact ofInt_finite _

theorem laneDot_elements {k : RoundCtx} {a b c : LaneReg} (rng : Word) (hk : k.mode ≠ .dyn) {g : Fmt} (hg : dotFormat a.tag = some g)
    (hb : b.tag = a.tag) (hc : c.tag = g) :
    let m := a.tag.count / 2
    ∃ o, laneDot k a b c rng = some o ∧ o.tag = g ∧ o.scale = none ∧
      Elements g k 2 (fun h => exactly (dotNum k.mode (elemNum k c h)
        ((List.range m).map (fun i => (elemNum k a (h * m + i), elemNum k b (h * m + i)))))) rng (subElem g o.bits) o.fl o.rng := by
  intro m
  have hgf : g = .i32 ∨ g = .fp32 := (dotFormat_cases hg).imp And.right And.right
  have hmx : c.tag.isMx = false := by rw [hc]; rcases hgf with rfl | rfl <;> rfl
  simp only [laneDot, dotResult_eq, hg, hb, hc, and_self, if_true]
  refine ⟨_, rfl, rfl, rfl, laneOut_elements (n := 2) (by rcases hgf with rfl | rfl <;> decide) (F := fun h => _) rng (fun h _ => ?_)⟩
  have hz := elemNum_of_not_isMx (k := k) (r := c) hmx h
  rw [hc] at hz
  have hnum : (List.range m).map (fun i => (elemNum k a (h * m + i), elemNum k b (h * m + i))) =
      ((List.range m).map (fun i => (scaledVal k a (h * m + i), scaledVal k b (h * m + i)))).map (fun p => (p.1.toQ, p.2.toQ)) := by
    simp only [List.map_map]
    exact List.map_congr_left (fun i _ => by simp only [Function.comp_apply, scaledVal_toQ])
  have hfin (hi : a.tag.isInt = true) : Quantity.Finite (dotNum k.mode (elemNum k c h)
      ((List.range m).map (fun i => (elemNum k a (h * m + i), elemNum k b (h * m + i))))).1 := by
    refine dotNum_finite (elemNum_finite_of_isInt ?_ h) (fun p hp => ?_)
    · rcases dotFormat_cases hg with ⟨-, rfl⟩ | ⟨hf, -⟩
      · rw [hc]; rfl
      · rw [hi] at hf; cases hf
    · obtain ⟨i, -, rfl⟩ := List.mem_map.1 hp
      exact ⟨elemNum_finite_of_isInt hi _, elemNum_finite_of_isInt (hb ▸ hi) _⟩
  rw [hnum, hz] at *
  refine dot_realises hg hk (elemVal_sharp k g _) (fun p hp => ?_) hfin
  obtain ⟨i, -, rfl⟩ := List.mem_map.1 hp
  exact ⟨scaledVal_sharp k a _, scaledVal_sharp k b _⟩

theorem laneDot_none (k : RoundCtx) {a b c : LaneReg} (h : dotFormat a.tag = none ∨ b.tag ≠ a.tag ∨ dotFormat a.tag ≠ some c.tag)
    (rng : Word) : laneDot k a b c rng = none := by
  simp only [laneDot, dotResult_eq]
  cases hg : dotFormat a.tag with
  | none => rfl
  | some g =>
    rw [hg] at h
    have : ¬ (b.tag = a.tag ∧ c.tag = g) := by
      rintro ⟨h1, rfl⟩; simp [h1] at h
    simp only [if_neg this]

/-! ### Immediates and shifts -/

theorem subElem_splat (f : Fmt) (c : Nat) {j : Nat} (hj : j < f.count) : subElem f (splatElems f c) j = c % 2 ^ f.bits := by
  rw [splatElems, subElem_joinElems (by simp) (by simpa using hj), List.getElem_replicate]

/-- An immediate stands in every element (R72, R149). -/
theorem laneImm_elements (t : Fmt) (imm : BitVec 31) {j : Nat} (hj : j < t.count) :
    (arithmetic t ∨ t = .e4m3 ∨ t = .e5m2 →
      ∃ out, RoundsTo t ⟨0, .rne, false, false⟩ (exactOf (Claims.ofInt imm.toInt)) 0 out ∧
        subElem t (laneImm t imm).bits j = out.code) ∧
    (¬ (arithmetic t ∨ t = .e4m3 ∨ t = .e5m2) → subElem t (laneImm t imm).bits j = (imm.toInt % 2 ^ t.bits).toNat) := by
  have hcond : (arithFmt t || t.isNarrow) = true ↔ arithmetic t ∨ t = .e4m3 ∨ t = .e5m2 := by
    rw [Bool.or_eq_true, arithFmt_iff]; cases t <;> simp [Fmt.isNarrow]
  simp only [laneImm, subElem_splat _ _ hj]
  refine ⟨fun h => ?_, fun h => ?_⟩
  · have h1 : t ≠ .raw := by rintro rfl; simp [arithmetic, Fmt.isInt] at h
    have h2 : t ≠ .pl16 := by rintro rfl; simp [arithmetic, Fmt.isInt] at h
    have hr := roundTo_rounds h1 h2 (v := Val.ofInt imm.toInt) rfl (k := ⟨0, .rne, false, false⟩) (by decide) 0
    rw [toQ_ofInt] at hr
    have hfl : flushes 0 t = false := by cases t <;> rfl
    rw [hfl] at hr
    refine ⟨_, hr, ?_⟩
    rw [if_pos (hcond.2 h), Nat.mod_eq_of_lt]
    · rfl
    · exact RoundsTo.code_lt hr (fun c hc => by simp only [Claims.ofInt, exactOf] at hc; split at hc <;> cases hc)
  · rw [if_neg (mt hcond.1 h), wrapInt, Nat.cast_pow, Nat.cast_ofNat, Nat.mod_eq_of_lt (toNat_emod_lt _ _)]

theorem laneShift_saturated {k : RoundCtx} {a b : LaneReg} (rng : Word) (hf : a.tag.isInt = true) (hb : b.tag = a.tag)
    (hs : k.sat = true) : ∃ o, laneShift .shl k a b rng = some o ∧ LaneElements a.tag k (fun i =>
      (exactOf (Claims.ofInt (readInt a.tag.bits k.un (subElem a.tag a.bits i) * 2 ^ (subElem a.tag b.bits i % a.tag.bits))), 0)) rng o := by
  have hraw : a.tag ≠ .raw := by intro h; rw [h] at hf; cases hf
  simp only [laneShift, hf, hb, decide_true, Bool.true_or, Bool.and_self, if_true, hraw, hs, false_or, Bool.true_eq_false, if_false]
  refine ⟨_, rfl, laneOut_laneElements rng (fun i _ => ?_)⟩
  rw [readInt_eq_intOf, ← toQ_ofInt]
  have h := Realises.roundInt hf k (v := Val.ofInt (intOf a.tag.bits k.un (subElem a.tag a.bits i) *
    ((2 ^ (subElem a.tag b.bits i % a.tag.bits) : Nat) : Int))) rfl flNone
  push_cast at h ⊢
  exact h

theorem laneShift_none (op : ShiftOp) (k : RoundCtx) {a b : LaneReg} (h : (a.tag.isInt = false ∧ a.tag ≠ .raw) ∨ b.tag ≠ a.tag)
    (rng : Word) : laneShift op k a b rng = none := by
  simp only [laneShift]
  rw [if_neg]
  simp only [Bool.and_eq_true, Bool.or_eq_true, decide_eq_true_eq]
  rintro ⟨h1, h2⟩
  rcases h with ⟨h3, h4⟩ | h3
  · rcases h1 with h1 | h1
    · rw [h3] at h1; cases h1
    · exact h4 h1
  · exact h3 h2

/-- An element `x` shifted by `n` (R157). -/
def shifted (op : ShiftOp) (w x n : Nat) : Nat :=
  match op with
  | .shl => x * 2 ^ n % 2 ^ w
  | .shr => x / 2 ^ n
  | .sar => (signedOf w x / 2 ^ n % 2 ^ w).toNat

theorem shifted_lt (op : ShiftOp) {w x : Nat} (hx : x < 2 ^ w) (n : Nat) : shifted op w x n < 2 ^ w := by
  cases op with
  | shl => exact Nat.mod_lt _ (Nat.two_pow_pos _)
  | shr => exact (Nat.div_le_self _ _).trans_lt hx
  | sar => exact toNat_emod_lt _ _

theorem laneShift_codes (op : ShiftOp) {k : RoundCtx} {f : Fmt} (a b : Word) (sa sb : BitVec 8) (rng : Word)
    (hf : f.isInt = true ∨ f = .raw) (hs : k.sat = false ∨ f = .raw ∨ op ≠ .shl) :
    ∃ o, laneShift op k ⟨a, f, sa⟩ ⟨b, f, sb⟩ rng = some o ∧ o.tag = f ∧ o.fl = 0 ∧ o.rng = rng ∧
      ∀ i, i < f.count → subElem f o.bits i = shifted op f.bits (subElem f a i) (subElem f b i % f.bits) := by
  have hcond : (f.isInt || decide (f = .raw)) = true := by rwa [Bool.or_eq_true, decide_eq_true_eq]
  simp only [laneShift, hcond, decide_true, Bool.and_self, if_true]
  obtain ⟨h1, -, h3, h4, h5⟩ := laneOut_steady (g := f) (k := k)
    (F := fun i =>
      match op with
      | .shl => if f = .raw ∨ k.sat = false then .code ((subElem f a i * 2 ^ (subElem f b i % f.bits)) % 2 ^ f.bits) flNone
                else .round (Val.ofInt (intOf f.bits k.un (subElem f a i) * ((2 ^ (subElem f b i % f.bits) : Nat) : Int))) flNone
      | .shr => .code (subElem f a i / 2 ^ (subElem f b i % f.bits)) flNone
      | .sar => .code (wrapInt f.bits (signedOf f.bits (subElem f a i) / ((2 ^ (subElem f b i % f.bits) : Nat) : Int))) flNone)
    (c := fun i => shifted op f.bits (subElem f a i) (subElem f b i % f.bits))
    (a := fun _ => flNone) rng (fun i _ rng => by
      cases op with
      | shl => dsimp only; rw [if_pos (by tauto)]; rfl
      | shr => rfl
      | sar => simp only [ElemRes.step, shifted, wrapInt, Nat.cast_pow, Nat.cast_ofNat])
    (fun i _ => shifted_lt op (subElem_lt f a i) _)
  refine ⟨_, rfl, rfl, ?_, ?_, fun i hi => ?_⟩
  · refine Eq.trans ?_ (h5.trans ?_)
    · cases op <;> rfl
    · have := foldl_ifSet f.count (fun _ => false) 0
      simpa [ifSet, flNone] using this
  · refine Eq.trans ?_ h3
    cases op <;> rfl
  · refine Eq.trans ?_ (h4 i hi)
    cases op <;> rfl

end Sys2Proof
end

section
open Sys2Proof Sys2Proof.Claims

/-- Settles O23: each operation's element results stand for the exact values of its elements, and settling them rounds each once,
in element order. -/
theorem laneArithmetic : Obligations.LaneArithmetic := by
  refine ⟨fun op k f a b sa sb rng hf => ⟨laneArith_integer op k a b sa sb rng hf, fun g hg => ?_⟩,
    fun op k f a b sa sb rng hf hk => laneArith_elements op a b sa sb rng hf hk, fun sub k f a b c rng hk ha => ?_,
    fun top k f a b rng hf ha hb => ?_, fun neg k f a rng ha hu => ?_, fun op k a rng hk => ?_,
    fun k a b c rng hk => ⟨fun g hg hb hc => laneDot_elements rng hk hg hb hc, fun h => laneDot_none k h rng⟩,
    fun t imm j hj => ⟨rfl, rfl, laneImm_elements t imm hj⟩, fun k f a b rng ha => ?_,
    fun op k f a b sa sb rng hf hs => ?_⟩
  · exact laneArith_none op k (.inr hg) rng
  · subst ha
    exact ⟨fun hf hb hc => laneFma_elements sub rng hk hf hb hc, fun h => ⟨fun op => laneArith_none op k h rng,
      fun m => laneMinMax_none m k h rng, laneFma_none sub k (by tauto) rng⟩, fun h => laneFma_none sub k (.inr (.inr h)) rng⟩
  · subst ha
    exact laneMinMax_elements top k rng hf hb
  · subst ha
    exact ⟨laneSign_float neg rng, laneSign_integer neg rng, fun h => laneSign_none neg k h rng⟩
  · have hfl : a.tag = .fp32 ∨ a.tag = .fp16 ∨ a.tag = .bf16 ↔ a.tag.isFloat = true := by cases a.tag <;> simp [Fmt.isFloat]
    rw [laneFun_isSome]
    exact ⟨fun x hf hx => laneFun_elements op rng hk (hfl.1 hf) hx, hfl.symm⟩
  · subst ha
    exact ⟨fun hf hb hs => laneShift_saturated rng hf hb hs, fun h op => laneShift_none op k h rng⟩
  · obtain ⟨o, ho, htag, hfl, hrng, hx⟩ := laneShift_codes op a b sa sb rng hf hs
    exact ⟨o, ho, htag, hfl, hrng, fun i hi => (hx i hi).trans (by cases op <;> rfl)⟩
end

section
/-!
SUPPORT. Reductions and scans over element codes (spec/07 R158, R159): sums rounded once, extremes, and bitwise combinations.
-/
namespace Sys2Proof
open Sys2Proof.Claims

/-! ### The order of numbers -/

theorem notAbove_total {x y : Quantity} (hx : x ≠ .nan) (hy : y ≠ .nan) : notAbove x y = true ∨ notAbove y x = true := by
  cases x with
  | nan => exact absurd rfl hx
  | inf n => cases y <;> cases n <;> simp_all [notAbove]
  | fin n r =>
    cases y with
    | nan => exact absurd rfl hy
    | inf m => cases m <;> simp [notAbove]
    | fin m t => rcases lt_trichotomy r t with h | h | h <;> cases n <;> cases m <;> simp [notAbove, h]

theorem notAbove_trans {x y z : Quantity} (h1 : notAbove x y = true) (h2 : notAbove y z = true) : notAbove x z = true := by
  cases x with
  | nan => cases h1
  | inf n => cases y <;> cases z <;> cases n <;> simp_all [notAbove]
  | fin n r =>
    cases y with
    | nan => cases h1
    | inf m => cases z <;> cases m <;> simp_all [notAbove]
    | fin m t =>
      cases z with
      | nan => cases h2
      | inf b => exact h2
      | fin b u =>
        simp only [notAbove, Bool.or_eq_true, Bool.and_eq_true, decide_eq_true_eq, Bool.not_eq_true'] at *
        rcases h1 with h1 | ⟨rfl, h1⟩
        · rcases h2 with h2 | ⟨rfl, -⟩
          · exact .inl (h1.trans h2)
          · exact .inl h1
        · rcases h2 with h2 | ⟨rfl, h2⟩
          · exact .inl h2
          · refine .inr ⟨rfl, ?_⟩
            cases n <;> cases m <;> simp_all

/-- `x` is at least as low as `y`, or as high where the greatest is asked for. -/
def ahead (top : Bool) (x y : Quantity) : Bool := if top then notAbove y x else notAbove x y

theorem ahead_trans {top : Bool} {x y z : Quantity} (h1 : ahead top x y = true) (h2 : ahead top y z = true) : ahead top x z = true := by
  cases top
  · exact notAbove_trans h1 h2
  · exact notAbove_trans h2 h1

theorem ahead_refl (top : Bool) {x : Quantity} (hx : x ≠ .nan) : ahead top x x = true := by
  cases top <;> exact (notAbove_total hx hx).elim id id

/-- The choice between two numbers is ahead of both. -/
theorem ahead_choice (top : Bool) {x y : Quantity} (hx : x ≠ .nan) (hy : y ≠ .nan) :
    ahead top (if notAbove x y = top then y else x) x = true ∧ ahead top (if notAbove x y = top then y else x) y = true := by
  have htot := notAbove_total hx hy
  have h1 := ahead_refl top hx
  have h2 := ahead_refl top hy
  cases top <;> cases h : notAbove x y <;> simp_all [ahead]

/-! ### Extremes -/

/-- The canonical NaN means NaN in every format that has one. -/
theorem numOf_nanOf {f : Fmt} {un flush : Bool} {c : Nat} (h : numOf f un flush c = .nan) : numOf f un flush (nanOf f) = .nan := by
  have hfin (h : f.isInt = true) (c : Nat) : numOf f un flush c ≠ .nan := numOf_of_isInt h un flush c ▸ (ofInt_finite _).ne_nan
  cases f
  case fp16 | bf16 | fp32 | e4m3 | e5m2 | mxe4m3 | mxe5m2 | acc48 => rfl
  case i8 | i16 | i32 | i64 => exact absurd h (hfin rfl c)
  case raw | pl16 | mxi8 => simp [numOf, floatOf, Claims.ofInt] at h
  case mxe2m1 =>
    have : c % 2 ^ 3 < 8 := Nat.mod_lt _ (by decide)
    simp only [numOf, floatOf, topCode, this, if_true] at h
    cases h

/-- The least or the greatest of a list of codes. -/
theorem redMinMax_spec (k : RoundCtx) (f : Fmt) (top : Bool) {cs : List Nat} (h0 : cs ≠ []) (hc : ∀ c ∈ cs, c < 2 ^ f.bits) :
    let xs := cs.map (fun c => (elemVal k f c).toQ)
    let e := redMinMax k f top cs
    e < 2 ^ f.bits ∧ (.nan ∈ xs → e = nanOf f) ∧ (.nan ∉ xs → numOf f k.un false e ∈ xs ∧
      numOf f k.un (flushes k.fpmode f) e = numOf f k.un false e ∧ ∀ x ∈ xs, ahead top (numOf f k.un false e) x = true) := by
  match cs, h0 with
  | [c], _ =>
    have hlt := hc c List.mem_cons_self
    simp only [redMinMax, List.map_cons, List.map_nil, List.mem_singleton, forall_eq]
    cases hn : (elemVal k f c).isNan with
    | true =>
      have hq := (Val.isNan_iff _).1 hn
      simp only [hq, if_true, nanCode_eq_nanOf]
      exact ⟨nanOf_lt f, fun _ => trivial, fun h => absurd trivial h⟩
    | false =>
      obtain ⟨h1, h2, h3⟩ := cleanCode_numOf k hlt hn
      have hq : (elemVal k f c).toQ ≠ .nan := by rw [Val.isNan_eq, decide_eq_false_iff_not] at hn; exact hn
      rw [← elemVal_toQ] at h1
      simp only [Bool.false_eq_true, if_false, h1]
      exact ⟨h2, fun h => absurd h.symm hq, fun _ => ⟨trivial, h3.trans h1, ahead_refl top hq⟩⟩
  | c :: d :: t, _ =>
    obtain ⟨h1, h2, h3⟩ := redMinMax_spec k f top (cs := d :: t) (by simp) (fun c' h => hc c' (List.mem_cons_of_mem _ h))
    obtain ⟨m1, m2, m3⟩ := minMaxCode_spec k f top (hc c List.mem_cons_self) h1
    rw [redMinMax, List.map_cons]
    generalize hys : (d :: t).map (fun c => (elemVal k f c).toQ) = ys at h2 h3 ⊢
    generalize redMinMax k f top (d :: t) = r at h1 h2 h3 m1 m2 m3 ⊢
    refine ⟨m1, fun hn => m2 ?_, fun hn => ?_⟩
    · rcases List.mem_cons.1 hn with h | h
      · exact .inl h.symm
      · right
        rw [h2 h, elemVal_toQ]
        obtain ⟨c', -, hc'⟩ := List.mem_map.1 (hys ▸ h)
        exact numOf_nanOf ((elemVal_toQ k f c').symm.trans hc')
    · rw [List.mem_cons, not_or] at hn
      obtain ⟨hy1, hy2, hy3⟩ := h3 hn.2
      have hx := Ne.symm hn.1
      have hyq : (elemVal k f r).toQ = numOf f k.un false r := by rw [elemVal_toQ, hy2]
      have hy : (elemVal k f r).toQ ≠ .nan := by rw [hyq]; rintro h; exact hn.2 (h ▸ hy1)
      obtain ⟨n1, n2⟩ := m3 hx hy
      obtain ⟨a1, a2⟩ := ahead_choice top hx hy
      rw [← n1] at a1 a2
      refine ⟨?_, n2, fun x hxm => ?_⟩
      · rw [n1]
        split
        · rw [hyq]; exact List.mem_cons_of_mem _ hy1
        · exact List.mem_cons_self
      · rcases List.mem_cons.1 hxm with rfl | hxm
        · exact a1
        · exact ahead_trans a2 (hyq ▸ hy3 x hxm)

/-! ### Bitwise combinations -/

theorem testBit_foldl_and (cs : List Nat) (a i : Nat) :
    (cs.foldl (· &&& ·) a).testBit i = true ↔ a.testBit i = true ∧ ∀ c ∈ cs, c.testBit i = true := by
  induction cs generalizing a with
  | nil => simp
  | cons c cs ih => rw [List.foldl_cons, ih, Nat.testBit_and]; simp [and_assoc]

theorem testBit_foldl_or (cs : List Nat) (a i : Nat) :
    (cs.foldl (· ||| ·) a).testBit i = true ↔ a.testBit i = true ∨ ∃ c ∈ cs, c.testBit i = true := by
  induction cs generalizing a with
  | nil => simp
  | cons c cs ih => rw [List.foldl_cons, ih, Nat.testBit_or]; simp [or_assoc]

theorem testBit_foldl_xor (cs : List Nat) (a i : Nat) :
    (cs.foldl (· ^^^ ·) a).testBit i = true ↔ ((if a.testBit i then 1 else 0) + cs.countP (fun c => c.testBit i)) % 2 = 1 := by
  induction cs generalizing a with
  | nil => cases h : a.testBit i <;> simp [h]
  | cons c cs ih =>
    rw [List.foldl_cons, ih, Nat.testBit_xor, List.countP_cons]
    cases a.testBit i <;> cases c.testBit i <;> simp <;> omega

/-- A bitwise combination of codes, bit by bit. -/
theorem redBits_testBit (w : Nat) (cs : List Nat) {i : Nat} (hi : i < w) :
    ((redBits .and w cs).testBit i = true ↔ ∀ c ∈ cs, c.testBit i = true) ∧
    ((redBits .or w cs).testBit i = true ↔ ∃ c ∈ cs, c.testBit i = true) ∧
    ((redBits .xor w cs).testBit i = true ↔ cs.countP (fun c => c.testBit i) % 2 = 1) := by
  refine ⟨?_, ?_, ?_⟩
  · rw [redBits, testBit_foldl_and, Nat.testBit_two_pow_sub_one]; simp [hi]
  · rw [redBits, testBit_foldl_or]; simp
  · simp only [redBits]
    rw [testBit_foldl_xor]; simp

theorem redBits_lt {op : RedOp} {w : Nat} {cs : List Nat} (h : ∀ c ∈ cs, c < 2 ^ w) (hop : op = .and ∨ op = .or ∨ op = .xor) :
    redBits op w cs < 2 ^ w := by
  refine Nat.lt_pow_two_of_testBit _ (fun i hi => ?_)
  have hz (c : Nat) (hc : c ∈ cs) : c.testBit i = false := Nat.testBit_lt_two_pow ((h c hc).trans_le (Nat.pow_le_pow_right (by omega) hi))
  rw [← Bool.not_eq_true]
  rcases hop with rfl | rfl | rfl
  · rw [redBits, testBit_foldl_and, Nat.testBit_two_pow_sub_one]; simp [not_lt.2 hi]
  · rw [redBits, testBit_foldl_or]
    rintro (h1 | ⟨c, hc, h1⟩)
    · simp at h1
    · rw [hz c hc] at h1; cases h1
  · have hcount : cs.countP (fun c => c.testBit i) = 0 := List.countP_eq_zero.2 (fun c hc => by simp [hz c hc])
    simp only [redBits]
    rw [testBit_foldl_xor, hcount]; simp

/-! ### VRED -/

/-- The sums that VRED rounds (R158). -/
theorem redResult_add {k : RoundCtx} {f : Fmt} {cs : List Nat} (rng : Word) (hf : arithmetic f) (hk : k.mode ≠ .dyn) :
    let xs := cs.map (numOf f k.un (flushes k.fpmode f))
    let calm : RoundCtx := if k.mode = .sr ∨ f.isInt = true then { k with mode := .rne } else k
    ∃ out, RoundsTo (if f.isInt then .i64 else f) calm (exactly (addNum calm.mode xs)).1 rng out ∧
      redResult .add k f cs rng = (BitVec.ofNat 64 out.code, (addNum calm.mode xs).2 ||| out.fl) := by
  intro xs calm
  have hxs : (cs.map (elemVal k f)).map Val.toQ = xs := by
    rw [List.map_map]; exact List.map_congr_left (fun c _ => elemVal_toQ k f c)
  have hsharp : ∀ v ∈ cs.map (elemVal k f), v.Sharp := fun v hv => by
    obtain ⟨c, -, rfl⟩ := List.mem_map.1 hv; exact elemVal_sharp k f c
  have hcalm : calm.mode ≠ .dyn ∧ calm.sat = k.sat ∧ calm.un = k.un ∧ calm.fpmode = k.fpmode := by
    simp only [calm]; split <;> simp [hk]
  obtain ⟨hdyn, hsat, hun, hfp⟩ := hcalm
  have hsum := sumVals_toQ hsharp calm.mode
  rw [hxs] at hsum
  rw [exactly, ← hsum]
  rcases hf with hi | hfl
  · have hmode : calm.mode = .rne := by simp [calm, hi]
    have hnf : f.isFloat = false := by cases f <;> first | rfl | cases hi
    obtain ⟨n, hfin⟩ := addNum_finite (mode := calm.mode) (xs := xs) (fun x hx => by
      obtain ⟨c, -, rfl⟩ := List.mem_map.1 hx
      exact numOf_of_isInt hi _ _ c ▸ ofInt_finite _)
    have hfl0 : (sumVals (cs.map (elemVal k f)) calm.mode).2 = 0 := by rw [hfin] at hsum; exact (Prod.mk.injEq .. ▸ hsum).2
    have h := roundTo_rounds (f := .i64) (by decide) (by decide) (sumVals_sharp (cs.map (elemVal k f)) calm.mode) hdyn rng
    refine ⟨_, by rw [if_pos hi]; exact h, ?_⟩
    rw [hmode] at hfl0
    simp only [redResult, hnf, Bool.false_eq_true, if_false, hsat, hun, hmode, flushes, hfl0]
    exact Prod.ext rfl BitVec.zero_or.symm
  · have hfl' : f.isFloat = true := by rcases hfl with rfl | rfl | rfl <;> rfl
    have hni : f.isInt = false := by cases f <;> first | rfl | cases hfl'
    have hmode : calm.mode = if k.mode = .sr then .rne else k.mode := by
      simp only [calm, hni, Bool.false_eq_true, or_false]; split <;> rfl
    obtain ⟨L, hL, -, -, -, -, -, hnan⟩ := Fmt.layout_of_isFloat hfl'
    have hnanout : RoundsTo f calm .nan rng ⟨nanOf f, 0, rng⟩ := by simp [RoundsTo, hnan, ifSet]
    simp only [hni, Bool.false_eq_true, if_false, redResult, hfl', if_true, ← hmode]
    by_cases hany : (cs.map (elemVal k f)).any Val.isNan = true
    · have hs : sumVals (cs.map (elemVal k f)) calm.mode = (.nan, flNone) := if_pos hany
      refine ⟨_, by rw [hs]; exact hnanout, ?_⟩
      rw [if_pos hany, hs, nanCode_eq_nanOf]
      simp [flNone]
    · rw [if_neg hany]
      cases hv : (sumVals (cs.map (elemVal k f)) calm.mode).1 with
      | nan =>
        refine ⟨_, hnanout, ?_⟩
        simp [nanCode_eq_nanOf]
      | inf b =>
        have h := roundTo_rounds (f := f) (by rintro rfl; cases hfl') (by rintro rfl; cases hfl') (v := .inf b) trivial hdyn rng
        refine ⟨_, h, ?_⟩
        simp only [roundTo_of_layout hL (show f ≠ .acc48 by rintro rfl; cases hfl'), hsat, hfp, flushOf_eq_flushes]
      | fin n m e st =>
        have hs := sumVals_sharp (cs.map (elemVal k f)) calm.mode
        rw [hv] at hs
        have h := roundTo_rounds (f := f) (by rintro rfl; cases hfl') (by rintro rfl; cases hfl') hs hdyn rng
        refine ⟨_, h, ?_⟩
        simp only [roundTo_of_layout hL (show f ≠ .acc48 by rintro rfl; cases hfl'), hsat, hfp, flushOf_eq_flushes]

theorem sum_ofInt_real (is : List Int) : ((is.map Claims.ofInt).map Quantity.real).sum = ((is.sum : Int) : Rat) := by
  induction is with
  | nil => simp
  | cons i is ih => simp only [List.map_cons, List.sum_cons, ih, ofInt_real, Int.cast_add]

/-- Without SAT an integer sum is the sum modulo 2^64. -/
theorem redResult_add_wrap {k : RoundCtx} {f : Fmt} (cs : List Nat) (rng : Word) (hf : f.isInt = true) (hs : k.sat = false) :
    redResult .add k f cs rng = (BitVec.ofInt 64 (cs.map (intOf f.bits k.un)).sum, 0) := by
  have hnf : f.isFloat = false := by cases f <;> first | rfl | cases hf
  have hxs : (cs.map (elemVal k f)).map Val.toQ = (cs.map (intOf f.bits k.un)).map Claims.ofInt := by
    simp only [List.map_map]; exact List.map_congr_left (fun c _ => elemVal_toQ_of_isInt hf k c)
  have hsum := sumVals_toQ (ts := cs.map (elemVal k f)) (fun v hv => by
    obtain ⟨c, -, rfl⟩ := List.mem_map.1 hv; exact elemVal_sharp k f c) .rne
  obtain ⟨n, hfin⟩ := addNum_finite (mode := .rne) (xs := (cs.map (intOf f.bits k.un)).map Claims.ofInt) (fun x hx => by
    obtain ⟨c, -, rfl⟩ := List.mem_map.1 hx; exact ofInt_finite _)
  rw [hxs, hfin, sum_ofInt_real, Prod.mk.injEq] at hsum
  simp only [redResult, hnf, Bool.false_eq_true, if_false, roundTo_of_isInt (f := .i64) rfl,
    roundInt_integer (sumVals_sharp _ _) hsum.1, hs, Bool.false_and, ifSet]
  refine Prod.ext ?_ rfl
  refine BitVec.eq_of_toNat_eq ?_
  rw [BitVec.toNat_ofNat, BitVec.toNat_ofInt, show Fmt.i64.bits = 64 from rfl, Nat.mod_eq_of_lt (toNat_emod_lt _ 64), Nat.cast_pow,
    Nat.cast_ofNat]

/-- An extreme element of integers is one of them. -/
theorem redMinMax_integer {k : RoundCtx} {f : Fmt} {cs : List Nat} (hf : f.isInt = true) (top : Bool) (h0 : cs ≠ [])
    (hc : ∀ c ∈ cs, c < 2 ^ f.bits) : ∃ c ∈ cs, intOf f.bits k.un (redMinMax k f top cs) = intOf f.bits k.un c ∧
      ∀ e ∈ cs, if top then intOf f.bits k.un e ≤ intOf f.bits k.un c else intOf f.bits k.un c ≤ intOf f.bits k.un e := by
  obtain ⟨-, -, h⟩ := redMinMax_spec k f top h0 hc
  have hxs : cs.map (fun c => (elemVal k f c).toQ) = cs.map (fun c => Claims.ofInt (intOf f.bits k.un c)) :=
    List.map_congr_left (fun c _ => elemVal_toQ_of_isInt hf k c)
  rw [hxs, numOf_of_isInt hf] at h
  obtain ⟨hm, -, hall⟩ := h (fun hn => by obtain ⟨c, -, hc⟩ := List.mem_map.1 hn; cases hc)
  obtain ⟨c, hcm, hce⟩ := List.mem_map.1 hm
  have hinj {x y : Int} (h : Claims.ofInt x = Claims.ofInt y) : x = y := by
    simp only [Claims.ofInt, Quantity.fin.injEq] at h; exact Int.cast_injective h.2
  refine ⟨c, hcm, (hinj hce).symm, fun e he => ?_⟩
  have := hall _ (List.mem_map.2 ⟨e, he, rfl⟩)
  rw [← hce] at this
  have hle {x y : Int} (h : notAbove (Claims.ofInt x) (Claims.ofInt y) = true) : x ≤ y := by
    simp only [notAbove, Claims.ofInt, Bool.or_eq_true, Bool.and_eq_true, decide_eq_true_eq, Int.cast_lt, Int.cast_inj] at h
    omega
  cases top
  · exact hle this
  · exact hle this

/-- VRED of floating-point extremes. -/
theorem redResult_extreme (k : RoundCtx) {f : Fmt} (cs : List Nat) (rng : Word) (hf : f.isInt = false) (h0 : cs ≠ [])
    (hc : ∀ c ∈ cs, c < 2 ^ f.bits) (op : RedOp) (hop : op = .min ∨ op = .max) :
    let xs := cs.map (numOf f k.un (flushes k.fpmode f))
    (redResult op k f cs rng).2 = 0 ∧
    (.nan ∈ xs → (redResult op k f cs rng).1 = BitVec.ofNat 64 (nanOf f)) ∧
    (.nan ∉ xs → ∃ c, c < 2 ^ f.bits ∧ (redResult op k f cs rng).1 = BitVec.ofNat 64 c ∧ numOf f k.un false c ∈ xs ∧
      ∀ x ∈ xs, if op = .min then notAbove (numOf f k.un false c) x = true else notAbove x (numOf f k.un false c) = true) := by
  have hxs : cs.map (fun c => (elemVal k f c).toQ) = cs.map (numOf f k.un (flushes k.fpmode f)) :=
    List.map_congr_left (fun c _ => elemVal_toQ k f c)
  obtain ⟨h1, h2, h3⟩ := redMinMax_spec k f (decide (op = .max)) h0 hc
  rw [hxs] at h2 h3
  have hres : redResult op k f cs rng = (BitVec.ofNat 64 (redMinMax k f (decide (op = .max)) cs), flNone) := by
    rcases hop with rfl | rfl <;> simp [redResult, hf]
  simp only [hres]
  refine ⟨rfl, fun hn => by rw [h2 hn], fun hn => ?_⟩
  obtain ⟨hm, -, hall⟩ := h3 hn
  refine ⟨_, h1, rfl, hm, fun x hx => ?_⟩
  have := hall x hx
  rcases hop with rfl | rfl
  · exact this
  · exact this

/-- VRED's bitwise combinations and extremes of integers. -/
theorem redResult_integer (k : RoundCtx) {f : Fmt} (cs : List Nat) (rng : Word) (hf : f.isInt = true) (hc : ∀ c ∈ cs, c < 2 ^ f.bits)
    (h0 : cs ≠ []) :
    (∀ i, i < f.bits → ((redResult .and k f cs rng).1.getLsbD i = true ↔ ∀ c ∈ cs, c.testBit i = true) ∧
      ((redResult .or k f cs rng).1.getLsbD i = true ↔ ∃ c ∈ cs, c.testBit i = true) ∧
      ((redResult .xor k f cs rng).1.getLsbD i = true ↔ (cs.countP (fun c => c.testBit i)) % 2 = 1)) ∧
    (∀ op, op ≠ .add → (redResult op k f cs rng).2 = 0) ∧
    (∀ op, op = .and ∨ op = .or ∨ op = .xor → ∀ i, f.bits ≤ i → (redResult op k f cs rng).1.getLsbD i = false) ∧
    (∃ c ∈ cs, (redResult .max k f cs rng).1 = BitVec.ofInt 64 (intOf f.bits k.un c) ∧
      ∀ e ∈ cs, intOf f.bits k.un e ≤ intOf f.bits k.un c) ∧
    (∃ c ∈ cs, (redResult .min k f cs rng).1 = BitVec.ofInt 64 (intOf f.bits k.un c) ∧
      ∀ e ∈ cs, intOf f.bits k.un c ≤ intOf f.bits k.un e) := by
  have h64 : f.bits ≤ 64 := by cases f <;> decide
  have bit (op : RedOp) {i : Nat} (hi : i < 64) : (BitVec.ofNat 64 (redBits op f.bits cs)).getLsbD i = (redBits op f.bits cs).testBit i := by
    rw [BitVec.getLsbD_ofNat, decide_eq_true hi, Bool.true_and]
  refine ⟨fun i hi => ?_, fun op hop => ?_, fun op hop i hi => ?_, ?_, ?_⟩
  · simp only [redResult, bit _ (hi.trans_le h64)]
    exact redBits_testBit f.bits cs hi
  · cases op <;> first | rfl | exact absurd rfl hop
  · have hres : (redResult op k f cs rng).1 = BitVec.ofNat 64 (redBits op f.bits cs) := by rcases hop with rfl | rfl | rfl <;> rfl
    rw [hres, BitVec.getLsbD_ofNat, Nat.testBit_lt_two_pow ((redBits_lt hc hop).trans_le (Nat.pow_le_pow_right (by omega) hi)),
      Bool.and_false]
  · obtain ⟨c, hm, he, hall⟩ := redMinMax_integer (k := k) hf true h0 hc
    exact ⟨c, hm, by simp [redResult, hf, he], fun e h => by simpa using hall e h⟩
  · obtain ⟨c, hm, he, hall⟩ := redMinMax_integer (k := k) hf false h0 hc
    exact ⟨c, hm, by simp [redResult, hf, he], fun e h => by simpa using hall e h⟩

/-! ### VSCAN -/

theorem redTakes_eq (op : RedOp) (f : Fmt) : redTakes op f = redFmt op f := by
  cases op <;> cases f <;> rfl

theorem arithmetic_of_redTakes {op : RedOp} {f : Fmt} (h : redTakes op f = true) : arithmetic f := by
  cases op <;> cases f <;> first | exact absurd h (by decide) | simp [arithmetic, Fmt.isInt]

theorem scanIdentity_eq {op : RedOp} {f : Fmt} (h : redTakes op f = true) (un : Bool) :
    scanIdentity op f un = identityOf op f un ∧ identityOf op f un < 2 ^ f.bits := by
  cases op <;> cases f <;> first | exact absurd h (by decide) | (cases un <;> exact ⟨rfl, by decide⟩)

/-- One element of a scan that is no sum: a code, taken as it is. -/
theorem scanElem_code {op : RedOp} (k : RoundCtx) {f : Fmt} (hop : op ≠ .add) {cs : List Nat} (h0 : cs ≠ [])
    (hf : redTakes op f = true) (hc : ∀ c ∈ cs, c < 2 ^ f.bits) :
    ∃ e, scanElem op k f cs = .code e flNone ∧ e < 2 ^ f.bits ∧
      (op = .min ∨ op = .max → e = redMinMax k f (decide (op = .max)) cs) ∧
      (op = .and ∨ op = .or ∨ op = .xor → e = redBits op f.bits cs) := by
  cases op with
  | add => exact absurd rfl hop
  | min | max =>
    refine ⟨_, by simp only [scanElem, h0, if_false], (redMinMax_spec k f _ h0 hc).1, fun _ => rfl, ?_⟩
    rintro (h | h | h) <;> cases h
  | and | or | xor =>
    refine ⟨_, by simp only [scanElem, h0, if_false], redBits_lt hc (by simp), ?_, fun _ => rfl⟩
    rintro (h | h) <;> cases h

theorem elemNum_of_tag {k : RoundCtx} {r : LaneReg} {f : Fmt} (hf : arithmetic f) (hr : r.tag = f) (i : Nat) :
    elemNum k r i = (elemVal k f (subElem f r.bits i)).toQ := by
  rw [← hr]; exact elemNum_of_not_isMx (hr ▸ not_isMx_of_arithmetic hf) i

/-- Sums of a scan: each running sum rounded once (R159). -/
theorem laneScan_add {k : RoundCtx} {f : Fmt} {rs : List LaneReg} (rng : Word) (hf : arithmetic f) (hk : k.mode ≠ .dyn)
    (hr : ∀ r ∈ rs, r.tag = f) (h0 : rs ≠ []) :
    let calm : RoundCtx := if f.isInt then { k with mode := .rne } else k
    LaneElements f calm (fun i => exactly (addNum calm.mode (rs.map (fun r => elemNum k r i)))) rng (laneScan .add k f rs rng) := by
  intro calm
  have hscan : laneScan .add k f rs rng = laneOut f calm ((List.range f.count).map (fun i =>
      scanElem .add calm f (rs.map (fun r => subElem f r.bits i)))) rng := by simp [laneScan, calm]
  have hdyn : calm.mode ≠ .dyn := by simp only [calm]; split <;> simp [hk]
  have hval (c : Nat) : elemVal calm f c = elemVal k f c := by simp only [calm]; split <;> rfl
  rw [hscan]
  refine laneOut_laneElements rng (fun i _ => ?_)
  have hxs : rs.map (fun r => elemNum k r i) = ((rs.map (fun r => subElem f r.bits i)).map (elemVal calm f)).map Val.toQ := by
    simp only [List.map_map]
    exact List.map_congr_left (fun r hm => by simp only [Function.comp_apply, hval, elemNum_of_tag hf (hr r hm)])
  have hne : rs.map (fun r => subElem f r.bits i) ≠ [] := by simpa using h0
  rw [hxs]
  simp only [scanElem, hne, if_false]
  generalize rs.map (fun r => subElem f r.bits i) = cs
  refine Realises.guarded (ne_raw_of_arithmetic hf) (ne_pl16_of_arithmetic hf) hdyn (sumVals_sharp _ _) (fun hn => ?_) (fun hb => ?_)
    (fun _ => (sumVals_toQ (fun v hv => ?_) calm.mode).symm)
  · refine (isInt_or_hasNaN_of_arithmetic hf).resolve_left (fun hi => ?_)
    obtain ⟨n, hfin⟩ := addNum_finite (mode := calm.mode) (xs := (cs.map (elemVal calm f)).map Val.toQ) (fun x hx => by
      obtain ⟨v, hv, rfl⟩ := List.mem_map.1 hx
      obtain ⟨c, -, rfl⟩ := List.mem_map.1 hv
      exact elemVal_toQ_of_isInt hi calm c ▸ ofInt_finite _)
    rw [hfin] at hn; cases hn
  · refine addNum_of_nan ?_
    obtain ⟨v, hv, hn⟩ := List.any_eq_true.1 hb
    exact List.mem_map.2 ⟨v, hv, (Val.isNan_iff v).1 hn⟩
  · obtain ⟨c, -, rfl⟩ := List.mem_map.1 hv; exact elemVal_sharp calm f c

/-- A scan before its first lane: the operation's identity (R159). -/
theorem laneScan_nil {op : RedOp} {f : Fmt} (hf : redTakes op f = true) (k : RoundCtx) (rng : Word) :
    let o := laneScan op k f [] rng
    o.tag = f ∧ o.scale = none ∧ o.fl = 0 ∧ o.rng = rng ∧ ∀ i, i < f.count → subElem f o.bits i = identityOf op f k.un := by
  have hun : (if (f.isInt && decide (op = .add)) = true then { k with mode := .rne } else k).un = k.un := by split <;> rfl
  obtain ⟨h1, h2⟩ := scanIdentity_eq hf k.un
  obtain ⟨a1, a2, a3, a4, a5⟩ := laneOut_steady (g := f) (k := if (f.isInt && decide (op = .add)) = true then { k with mode := .rne } else k)
    (F := fun i => scanElem op (if (f.isInt && decide (op = .add)) = true then { k with mode := .rne } else k) f
      (([] : List LaneReg).map (fun r => subElem f r.bits i)))
    (c := fun _ => identityOf op f k.un) (a := fun _ => flNone) rng (fun i _ rng => by
      simp only [scanElem, List.map_nil, if_true, ElemRes.step, hun, h1]) (fun i _ => h2)
  refine ⟨a1, a2, a5.trans ?_, a3, a4⟩
  simpa [ifSet, flNone] using foldl_ifSet f.count (fun _ => false) 0

/-- The other scans: extremes and bitwise combinations of the lanes so far, taken as they are (R159). -/
theorem laneScan_other {op : RedOp} {k : RoundCtx} {f : Fmt} {rs : List LaneReg} (rng : Word) (hf : redTakes op f = true)
    (hr : ∀ r ∈ rs, r.tag = f) (h0 : rs ≠ []) (hop : op ≠ .add) :
    let o := laneScan op k f rs rng
    let cs (i : Nat) := rs.map (fun r => subElem f r.bits i)
    o.tag = f ∧ o.scale = none ∧ o.fl = 0 ∧ o.rng = rng ∧ ∀ i, i < f.count →
      let e := subElem f o.bits i
      let xs := rs.map (fun r => elemNum k r i)
      (op = .min ∨ op = .max → (.nan ∈ xs → e = nanOf f) ∧ (.nan ∉ xs → numOf f k.un false e ∈ xs ∧
        ∀ x ∈ xs, if op = .min then notAbove (numOf f k.un false e) x = true else notAbove x (numOf f k.un false e) = true)) ∧
      ∀ j, j < f.bits → (op = .and → (e.testBit j = true ↔ ∀ c ∈ cs i, c.testBit j = true)) ∧
        (op = .or → (e.testBit j = true ↔ ∃ c ∈ cs i, c.testBit j = true)) ∧
        (op = .xor → (e.testBit j = true ↔ (cs i).countP (fun c => c.testBit j) % 2 = 1)) := by
  intro o cs
  have hcalm : (if (f.isInt && decide (op = RedOp.add)) = true then { k with mode := .rne } else k) = k := by simp [hop]
  have hlt (i : Nat) : ∀ c ∈ cs i, c < 2 ^ f.bits := fun c hc => by
    obtain ⟨r, -, rfl⟩ := List.mem_map.1 hc; exact subElem_lt f r.bits i
  have hne (i : Nat) : cs i ≠ [] := by simpa [cs] using h0
  choose e he hel hext hbit using fun i => scanElem_code k hop (hne i) hf (hlt i)
  have ho : o = laneOut f k ((List.range f.count).map (fun i => scanElem op k f (cs i))) rng := by
    simp only [o, laneScan, hcalm, cs]
  obtain ⟨a1, a2, a3, a4, a5⟩ := laneOut_steady (g := f) (k := k) (F := fun i => scanElem op k f (cs i)) (c := e) (a := fun _ => flNone)
    rng (fun i _ rng => by simp only [he, ElemRes.step]) (fun i _ => hel i)
  rw [← ho] at a1 a2 a3 a4 a5
  refine ⟨a1, a2, a5.trans ?_, a3, fun i hi => ?_⟩
  · simpa [ifSet, flNone] using foldl_ifSet f.count (fun _ => false) 0
  · have hxs : rs.map (fun r => elemNum k r i) = (cs i).map (fun c => (elemVal k f c).toQ) := by
      simp only [cs, List.map_map]
      exact List.map_congr_left (fun r hm => elemNum_of_tag (arithmetic_of_redTakes hf) (hr r hm) i)
    rw [a4 i hi, hxs]
    refine ⟨fun hmm => ?_, fun j hj => ⟨fun h => ?_, fun h => ?_, fun h => ?_⟩⟩
    · obtain ⟨-, h2, h3⟩ := redMinMax_spec k f (decide (op = .max)) (hne i) (hlt i)
      rw [← hext i hmm] at h2 h3
      refine ⟨h2, fun hn => ?_⟩
      obtain ⟨hm, -, hall⟩ := h3 hn
      refine ⟨hm, fun x hx => ?_⟩
      have := hall x hx
      rcases hmm with rfl | rfl <;> exact this
    · rw [hbit i (.inl h), h]; exact (redBits_testBit f.bits (cs i) hj).1
    · rw [hbit i (.inr (.inl h)), h]; exact (redBits_testBit f.bits (cs i) hj).2.1
    · rw [hbit i (.inr (.inr h)), h]; exact (redBits_testBit f.bits (cs i) hj).2.2

end Sys2Proof
end

section
/-!
SUPPORT. How a lane word completes or traps: the checks it passes, the one slot it changes, and the trap that its row takes
(spec/03 R70, spec/07 R122, R145, spec/16 R387).
-/
namespace Sys2Proof.Machine
open Sys2Proof.Claims

/-! ### One slot changes -/

/-- From `u` to `t` nothing has changed but slot `k`, of which `P` relates the old to the new. -/
def SlotChanged (k : Nat) (P : Slot → Slot → Prop) (u t : State) : Prop :=
  t = { u with slots := t.slots } ∧ (∀ j, j ≠ k → t.slot j = u.slot j) ∧ P (u.slot k) (t.slot k)

theorem SlotChanged.modSlot {k : Nat} {P : Slot → Slot → Prop} {u : State} {f : Slot → Slot} (h : P (u.slot k) (f (u.slot k))) :
    SlotChanged k P u (u.modSlot k f) :=
  ⟨rfl, fun _ hj => State.slot_modSlot_other u f hj, by rwa [State.slot_modSlot_same]⟩

theorem SlotChanged.refl {k : Nat} {P : Slot → Slot → Prop} {u : State} (h : P (u.slot k) (u.slot k)) : SlotChanged k P u u :=
  ⟨rfl, fun _ _ => rfl, h⟩

theorem SlotChanged.trans {k : Nat} {P Q : Slot → Slot → Prop} {s t u : State} (h : SlotChanged k P s t)
    (h' : SlotChanged k Q t u) : SlotChanged k (fun c c' => ∃ c1, P c c1 ∧ Q c1 c') s u := by
  obtain ⟨ht, hot, hP⟩ := h
  obtain ⟨hu, hou, hQ⟩ := h'
  refine ⟨?_, fun j hj => (hou j hj).trans (hot j hj), t.slot k, hP, hQ⟩
  rw [ht] at hu; exact hu

theorem SlotChanged.mono {k : Nat} {P Q : Slot → Slot → Prop} {u t : State} (h : SlotChanged k P u t)
    (hPQ : ∀ c', P (u.slot k) c' → Q (u.slot k) c') : SlotChanged k Q u t :=
  ⟨h.1, h.2.1, hPQ _ h.2.2⟩

/-- A word completes where its effect is performed and changes one slot of the state its sources have been read in. -/
theorem actsIn_of_ok {i : Instr} {s u : State} {size : Nat} {e : Nat → State → Effect} {w : State → State} {P : Slot → Slot → Prop}
    (hc : CanIssue s) (hi : exec i s = s.issue size e) (he : e s.cur s = .ok w) (hb : ∀ loc, u.byte loc = s.byte loc)
    (hw : SlotChanged s.cur P u (w (s.issued s.cur size))) : ActsIn i s u P := by
  obtain ⟨ht, ho, hP⟩ := hw
  refine ⟨_, hi.trans (State.issue_ok hc.1 hc.2 he), ht, ho, fun loc => ?_, hP⟩
  rw [← hb loc, State.byte, ht]; rfl

/-! ### The state after the sources are read -/

@[simp] theorem State.byte_issued (s : State) (k size loc : Nat) : (s.issued k size).byte loc = s.byte loc := rfl

theorem State.mem_northTake (s : State) (k : Nat) : (s.northTake k).mem = s.mem := by
  unfold State.northTake
  split
  · split
    · rw [State.modBandOf]; split
      · rw [State.modBand]; split <;> rfl
      · rfl
    · rfl
  · rfl

theorem State.mem_takes (s : State) (k : Nat) (us : List Use) : (s.takes k us).mem = s.mem := by
  unfold State.takes
  split
  · exact State.mem_northTake _ _
  · rfl

theorem State.mem_takesMasked (s : State) (k : Nat) (us : List Use) (m : Mask) : (s.takesMasked k us m).mem = s.mem := by
  unfold State.takesMasked
  split
  · rfl
  · exact State.mem_takes s k us

theorem byte_sourced (s : State) (us : List Use) (size loc : Nat) : (sourced s us size).byte loc = s.byte loc := by
  rw [State.byte, sourced, State.mem_takes]; rfl

theorem byte_sourcedLanes (s : State) (us : List Use) (m : Mask) (size loc : Nat) :
    (sourcedLanes s us m size).byte loc = s.byte loc := by
  rw [State.byte, sourcedLanes, State.mem_takesMasked]; rfl

/-- A lane word completes where, its sources read, it changes its own slot. -/
theorem laneActs_of_ok {i : Instr} {s : State} {us : List Use} {m : Mask} {size : Nat} {e : Nat → State → Effect}
    {w : State → State} {P : Slot → Slot → Prop} (hc : CanIssue s) (hi : exec i s = s.issue size e)
    (he : e s.cur s = .ok (fun t => w (t.takesMasked s.cur us m)))
    (hw : SlotChanged s.cur P (sourcedLanes s us m size) (w (sourcedLanes s us m size))) : LaneActs i s us m size P :=
  actsIn_of_ok hc hi he (byte_sourcedLanes s us m size) hw

/-- The same of a word that is not masked. -/
theorem acts_of_ok {i : Instr} {s : State} {us : List Use} {size : Nat} {e : Nat → State → Effect} {w : State → State}
    {P : Slot → Slot → Prop} (hc : CanIssue s) (hi : exec i s = s.issue size e)
    (he : e s.cur s = .ok (fun t => w (t.takes s.cur us)))
    (hw : SlotChanged s.cur P (sourced s us size) (w (sourced s us size))) : Acts i s us size P :=
  actsIn_of_ok hc hi he (byte_sourced s us size) hw

/-- A lane word that writes its own slot and nothing else. -/
theorem laneActs_modSlot {i : Instr} {s : State} {us : List Use} {m : Mask} {size : Nat} {e : Nat → State → Effect} {f : Slot → Slot}
    {P : Slot → Slot → Prop} (hc : CanIssue s) (hi : exec i s = s.issue size e)
    (he : e s.cur s = .ok (fun t => (t.takesMasked s.cur us m).modSlot s.cur f)) (hP : ∀ c, P c (f c)) : LaneActs i s us m size P :=
  laneActs_of_ok (w := fun t => t.modSlot s.cur f) hc hi he (.modSlot (hP _))

/-- The same of a word that is not masked. -/
theorem acts_modSlot {i : Instr} {s : State} {us : List Use} {size : Nat} {e : Nat → State → Effect} {f : Slot → Slot}
    {P : Slot → Slot → Prop} (hc : CanIssue s) (hi : exec i s = s.issue size e)
    (he : e s.cur s = .ok (fun t => (t.takes s.cur us).modSlot s.cur f)) (hP : ∀ c, P c (f c)) : Acts i s us size P :=
  acts_of_ok (w := fun t => t.modSlot s.cur f) hc hi he (.modSlot (hP _))

theorem ActsIn.mono {i : Instr} {s u : State} {P Q : Slot → Slot → Prop} (h : ActsIn i s u P) (hPQ : ∀ c c', P c c' → Q c c') :
    ActsIn i s u Q := by
  obtain ⟨t, hx, ht, ho, hb, hP⟩ := h
  exact ⟨t, hx, ht, ho, hb, hPQ _ _ hP⟩

/-! ### The checks that pass -/

theorem State.ready_of {s : State} {us : List Use} {ds : List Nat} (h : Ready s us ds) : s.ready s.cur us ds = .ok () :=
  State.ready_ok h.1 h.2

theorem State.checkNorth_of {s : State} {k : Nat} {us : List Use} (h : (∃ u ∈ us, u.code = codeN) → s.northUnbound k = none) :
    s.checkNorth k us = .ok () := by
  unfold State.checkNorth
  split
  case isTrue hn => rw [h (by simpa using hn)]
  case isFalse => rfl

theorem State.checkSouthBound_of {s : State} {k : Nat} {b : Bool} (h : b = true → s.southUnbound k = none) :
    s.checkSouthBound k b = .ok () := by
  unfold State.checkSouthBound
  cases b
  · rfl
  · rw [if_pos rfl, h rfl]

theorem State.checkSouth_of {s : State} {k : Nat} {kind : PortKind} (h : s.southFull k = false ∧ s.southKindOk k kind = true) :
    s.checkSouth k kind = .ok () := by
  simp [State.checkSouth, h.1, h.2]

theorem State.checkKind_of {s : State} {k : Nat} {us : List Use} {kind : PortKind}
    (h : ∀ u ∈ us, u.code = codeN → (s.northVal k u.mode).body.kind = kind) : s.checkKind k us kind = .ok () := by
  unfold State.checkKind
  cases hf : us.find? (fun u => decide (u.code = codeN)) with
  | none => rfl
  | some u =>
    have hc := List.find?_some hf
    simp only [decide_eq_true_eq] at hc
    exact if_pos (h u (List.mem_of_find?_eq_some hf) hc)

theorem State.portReady_of {s : State} {us : List Use} {ds : List Nat} {south : Option PortKind} {north : PortKind} {m : Mask}
    (hr : Ready s us ds) (hp : PortsOk s us south north m) : s.portReady s.cur us ds south north m = .ok () := by
  obtain ⟨hn, hs, hm⟩ := hp
  unfold State.portReady
  rw [State.checkNorth_of hn, State.checkSouthBound_of hs, State.ready_of hr]
  by_cases h0 : m = 0#64
  · simp [h0, bind, Except.bind]
  · obtain ⟨hk, hv⟩ := hm h0
    rw [State.checkKind_of hv]
    cases south with
    | none => simp [h0, bind, Except.bind]
    | some kind => simp [h0, bind, Except.bind, State.checkSouth_of (hk kind rfl)]

theorem State.laneReady_none {s : State} {us : List Use} {ds : List Nat} {m : Mask} (hr : Ready s us ds)
    (hp : PortsOk s us none .vv m) : s.laneReady s.cur us ds false m = .ok () :=
  State.portReady_of hr hp

theorem State.laneReady_of {s : State} {us : List Use} {d : VDst} {ds : List Nat} {m : Mask} (hr : Ready s us ds)
    (hp : PortsOk s us (southOf d .vv) .vv m) : s.laneReady s.cur us ds (dstIsS d) m = .ok () := by
  cases d
  · exact State.portReady_of hr hp
  · exact State.portReady_of hr hp

/-- A word that names no port asks nothing of them. -/
theorem PortsOk_local {s : State} {us : List Use} (h : ∀ u ∈ us, u.code ≠ codeN) (north : PortKind) (m : Mask) :
    PortsOk s us none north m :=
  ⟨fun ⟨u, hu, hc⟩ => absurd hc (h u hu), nofun, fun _ => ⟨nofun, fun u hu hc => absurd hc (h u hu)⟩⟩

/-! ### Traps in the row -/

theorem Slot.stamp_eq_stamped (s : State) (c : Slot) : c.stamp (s.issueClk + 1) = stamped s c := by
  unfold Slot.stamp stamped
  cases c.selected <;> rfl

theorem State.slot_tookIssue_same (s : State) (k : Nat) : (s.tookIssue k).slot k = stamped s (s.slot k) := by
  rw [State.tookIssue, State.slot_modSlot_same]
  exact Slot.stamp_eq_stamped s (s.slot k)

theorem State.slot_tookIssue_other (s : State) {k j : Nat} (h : j ≠ k) : (s.tookIssue k).slot j = s.slot j := by
  rw [State.tookIssue, State.slot_modSlot_other _ _ h]; rfl

theorem stamped_shape (s : State) (c : Slot) :
    stamped s c = { c with lastIssue := (stamped s c).lastIssue, blocked := [], selected := false } := by
  unfold stamped
  split <;> simp_all

theorem State.policy_of_regions {s t : State} (h : t.regions = s.regions) (r : Nat) (c : Cause) : t.policy r c = s.policy r c := by
  have hr (i : Nat) : t.region i = s.region i := by rw [State.region, h]; rfl
  have hpath (n i : Nat) : regionPathFrom t n i = regionPathFrom s n i := by
    induction n generalizing i with
    | zero => rfl
    | succ n ih => rw [regionPathFrom, regionPathFrom, ih, hr]
  simp only [State.policy, State.regionPath, hpath, hr]

/-- The trap of a slot whose policy for it is in-row (R387). -/
theorem State.takeTrap_inRow {s : State} {k b : Nat} {v : Band} {cause : Cause} (info pc : Word) (hk : (s.slot k).band = some b)
    (hv : s.band? b = some v) (hs : v.status ≠ .killing) (hp : s.policy v.region cause = .inRow) (ht : (s.slot k).tvec ≠ 0)
    (hh : (s.slot k).handler = false) : s.takeTrap k cause info pc =
      (s.evField (slotField k) 0x12 cause.code.toNat).modSlot k (fun c => c.enterHandler cause info pc) := by
  have hb : s.bandOf k = some v := by rw [State.bandOf, hk]; exact hv
  have hpol : s.trapPolicy k v.region cause = .inRow := by
    rw [State.trapPolicy, hp]
    exact if_neg (by simp [hh]; simpa using ht)
  unfold State.takeTrap
  rw [hb]
  simp only [hpol]
  unfold State.trapAs
  rw [hb, hk]
  simp only [hs, if_false]

/-- A word that finds a trap of its row's own handler takes it and does nothing else. -/
theorem traps_of_error {i : Instr} {s : State} {size : Nat} {e : Nat → State → Effect} {cause : Cause} {info : Word}
    (h : InRow s cause) (hca : cause ≠ .asyncfault) (hi : exec i s = s.issue size e)
    (he : e s.cur s = .error (.trap cause info)) : Traps i s cause info (here s).pc := by
  obtain ⟨v, hv, hst, hp, ht, hh, hd⟩ := h
  obtain ⟨b, hb, hvb⟩ := Option.bind_eq_some_iff.1 hv
  have hslot : ((s.tookIssue s.cur).modSlot s.cur (fun t => t.clearAsync cause)).slot s.cur = stamped s (here s) := by
    rw [State.slot_modSlot_same, Slot.clearAsync, if_neg hca, State.slot_tookIssue_same]; rfl
  have hrun : s.issue size e = .next ((((s.tookIssue s.cur).modSlot s.cur (fun t => t.clearAsync cause)).evField
      (slotField s.cur) 0x12 cause.code.toNat).modSlot s.cur (fun c => c.enterHandler cause info (here s).pc)) := by
    rw [State.issue_finish (by rw [hv]; rfl) (.inl hd), he]
    refine congrArg Host.Outcome.next (State.takeTrap_inRow (b := b) (v := v) info _ ?_ hvb hst ?_ ?_ ?_)
    · rw [hslot, stamped_shape]; exact hb
    · refine (State.policy_of_regions (s := s) ?_ _ _).trans hp
      rfl
    · rw [hslot, stamped_shape]; exact ht
    · rw [hslot, stamped_shape]; exact hh
  refine ⟨_, hi.trans hrun, rfl, fun j hj => ?_, fun _ => rfl, ?_⟩
  · rw [State.slot_modSlot_other _ _ hj, State.slot_evField, State.slot_modSlot_other _ _ hj, State.slot_tookIssue_other _ hj]
  · rw [State.slot_modSlot_same, State.slot_evField, hslot, took, Slot.enterHandler]
    rw [stamped_shape]

/-! ### What the sources read -/

theorem lanesOn_eq (s : State) (g : Option Guard) : (s.slot s.cur).active g = lanesOn s g := by cases g <;> rfl

theorem vval_eq (s : State) (a : VSrc) (l : Nat) : s.vval s.cur a l = va s a l := by
  unfold State.vval va
  cases a.name <;> rfl

theorem xval_eq (s : State) (a : XSrc) : (s.slot s.cur).xval s.cur a = xv s a := by
  unfold Slot.xval xv
  cases a.name <;> rfl

theorem opval_eq (s : State) (b : XOp) : (s.slot s.cur).opval s.cur b = ov s b := by
  cases b with
  | reg a => exact xval_eq s a
  | imm i => rfl
  | lit w => rfl

end Sys2Proof.Machine
end

section
/-!
SUPPORT. Results of the active lanes: the lanes of a mask, and what writing results leaves in registers and in a port value
(spec/03 R61, spec/07 R145, R148).
-/
namespace Sys2Proof.Machine
open Sys2Proof.Claims

/-! ### Masks and their lanes -/

theorem actives_eq (m : Mask) : actives m = lanesOf m := rfl

theorem lanesOf_nodup (m : Mask) : (lanesOf m).Nodup := List.nodup_range.filter _

theorem lanesOf_lt {m : Mask} {l : Nat} (h : l ∈ lanesOf m) : l < 64 := (mem_lanesOf.1 h).1

theorem lanesOf_eq_nil {m : Mask} : lanesOf m = [] ↔ m = 0 := by
  constructor
  · intro h
    refine BitVec.eq_of_getLsbD_eq (fun l hl => ?_)
    rw [show (0 : Mask).getLsbD l = false from BitVec.getLsbD_zero]
    by_contra hb
    have : l ∈ lanesOf m := mem_lanesOf.2 ⟨hl, by simpa using hb⟩
    rw [h] at this
    exact List.not_mem_nil this
  · rintro rfl
    exact List.filter_eq_nil_iff.2 (by simp)

theorem length_lanesOf {m : Mask} : (lanesOf m).length = 64 ↔ m = BitVec.allOnes 64 := by
  constructor
  · intro h
    have hall : lanesOf m = List.range 64 := List.filter_sublist.eq_of_length (by rw [List.length_range]; exact h)
    refine BitVec.eq_of_getLsbD_eq (fun l hl => ?_)
    have : l ∈ lanesOf m := by rw [hall]; exact List.mem_range.2 hl
    rw [(mem_lanesOf.1 this).2, BitVec.getLsbD_allOnes]
    simp [hl]
  · rintro rfl
    have : lanesOf (BitVec.allOnes 64) = List.range 64 := List.filter_eq_self.2 (fun l hl => by
      rw [BitVec.getLsbD_allOnes]; simpa using hl)
    rw [this, List.length_range]

theorem getLsbD_maskOf (ls : List Nat) {l : Nat} (hl : l < 64) : (maskOf ls).getLsbD l = decide (l ∈ ls) := by
  suffices h : ∀ m : Mask, (ls.foldl (fun m l => m ||| (1#64 <<< l)) m).getLsbD l = (m.getLsbD l || decide (l ∈ ls)) by
    rw [maskOf, h]; simp
  induction ls with
  | nil => simp
  | cons j ls ih =>
    intro m
    rw [List.foldl_cons, ih, BitVec.getLsbD_or, BitVec.getLsbD_shiftLeft]
    by_cases hj : l = j
    · subst hj; simp [hl]
    · have h1 : (decide (l < 64) && !decide (l < j) && (1#64).getLsbD (l - j)) = false := by
        by_cases hlj : l < j
        · simp [hlj]
        · have : l - j ≠ 0 := by omega
          simp [BitVec.getLsbD_one, this]
      rw [h1]; simp [hj]

theorem maskOf_eq_iff {ls : List Nat} {w : Mask} : maskOf ls = w ↔ ∀ l, l < 64 → (w.getLsbD l = true ↔ l ∈ ls) := by
  constructor
  · rintro rfl l hl
    rw [getLsbD_maskOf ls hl, decide_eq_true_iff]
  · intro h
    refine BitVec.eq_of_getLsbD_eq (fun l hl => ?_)
    rw [getLsbD_maskOf ls hl, Bool.eq_iff_iff, decide_eq_true_iff, h l hl]

/-! ### A lane function over the active lanes -/

theorem runLanes_of {α : Type} {m : Mask} {f : Nat → Option α} {g : Nat → α} (h : ∀ l ∈ lanesOf m, f l = some (g l)) :
    tagCheck (runLanes m f) = .ok ((lanesOf m).map (fun l => (l, g l))) := by
  have hmap : (lanesOf m).map (fun l => (l, f l)) = (lanesOf m).map (fun l => (l, some (g l))) :=
    List.map_congr_left (fun l hl => by rw [h l hl])
  have hbad : ((((lanesOf m).map (fun l => (l, some (g l)))).filter (fun p => p.2.isNone)).map Prod.fst) = [] := by
    rw [List.map_eq_nil_iff, List.filter_eq_nil_iff]
    simp
  rw [runLanes, hmap]
  simp only [hbad, if_true, tagCheck]
  rw [List.filterMap_map]
  exact congrArg Except.ok (List.filterMap_eq_map (f := fun l => (l, g l)) ▸ rfl)

/-! ### Results in registers -/

/-- Flags collected over a list of lanes. -/
def gathered (ls : List Nat) (fl : Nat → Flags) (w : Word) : Word := ls.foldl (fun w l => w ||| (fl l).setWidth 64) w

theorem stat_some (m : Mask) (out : Nat → LaneOut) (old : Word) :
    stat m (fun l => some (out l)) old = gathered (lanesOf m) (fun l => (out l).fl) old := by
  rw [stat, gathered, lanesOf, List.foldl_filter]
  rfl

/-- The results of a lane in `q` consecutive registers from `d`. -/
def Slot.putColumn (c : Slot) (d l q : Nat) (out : Nat → LaneOut) : Slot :=
  (List.range q).foldl (fun c i => c.putLane (d + i) l (out i)) c

theorem Slot.putColumn_succ (c : Slot) (d l q : Nat) (out : Nat → LaneOut) :
    c.putColumn d l (q + 1) out = (c.putColumn d l q out).putLane (d + q) l (out q) := by
  rw [Slot.putColumn, List.range_succ, List.foldl_append]; rfl

theorem Slot.putLane_vr (c : Slot) {i j l n : Nat} (hl : l < 64) (hn : n < 64) (o : LaneOut) :
    (c.putLane i l o).vr j n = if j = i ∧ n = l then laneReg o (c.vr i l).scale else c.vr j n := by
  show Tab.get _ (Tab.set _ _ _ _) _ = _
  rw [Tab.get_set]
  have : 64 * j + n = 64 * i + l ↔ j = i ∧ n = l := by omega
  simp only [this]; rfl

theorem Slot.putLane_rngOf (c : Slot) (i l n : Nat) (o : LaneOut) :
    (c.putLane i l o).rngOf n = if n = l then o.rng else c.rngOf n := Tab.get_set _ _ _ _ _

theorem Slot.putLane_shape (c : Slot) (i l : Nat) (o : LaneOut) : c.putLane i l o =
    { c with v := (c.putLane i l o).v, rng := (c.putLane i l o).rng, lanestat := c.lanestat ||| o.fl.setWidth 64 } := rfl

/-- A column written: its lane's registers from `d`, its lane's RNG state, its flags. -/
theorem Slot.putColumn_spec (c : Slot) (d : Nat) {l q : Nat} (hl : l < 64) (hq : 0 < q) {out : Nat → LaneOut} {fl : Flags} {r : Word}
    (hout : ∀ i, (out i).fl = fl ∧ (out i).rng = r) :
    c.putColumn d l q out = { c with v := (c.putColumn d l q out).v, rng := (c.putColumn d l q out).rng,
                                     lanestat := c.lanestat ||| fl.setWidth 64 } ∧
    (∀ j n, n < 64 → (c.putColumn d l q out).vr j n =
      if n = l ∧ d ≤ j ∧ j < d + q then laneReg (out (j - d)) (c.vr j n).scale else c.vr j n) ∧
    ∀ n, (c.putColumn d l q out).rngOf n = if n = l then r else c.rngOf n := by
  induction q, hq using Nat.le_induction with
  | base =>
    have h1 : c.putColumn d l (0 + 1) out = c.putLane d l (out 0) := rfl
    rw [h1]
    refine ⟨by rw [Slot.putLane_shape, (hout 0).1], fun j n hn => ?_, fun n => by rw [Slot.putLane_rngOf, (hout 0).2]⟩
    rw [Slot.putLane_vr _ hl hn]
    by_cases h : n = l ∧ d ≤ j ∧ j < d + (0 + 1)
    · obtain rfl : j = d := by omega
      simp [h.1]
    · rw [if_neg h, if_neg (by omega)]
  | succ q hq ih =>
    obtain ⟨ihs, ihv, ihr⟩ := ih
    rw [Slot.putColumn_succ]
    refine ⟨?_, fun j n hn => ?_, fun n => ?_⟩
    · rw [Slot.putLane_shape, (hout q).1]
      generalize c.putColumn d l q out = c1 at ihs ⊢
      rw [ihs]
      simp [BitVec.or_assoc]
    · rw [Slot.putLane_vr _ hl hn, ihv _ _ hl, ihv _ _ hn]
      by_cases hn : n = l
      · subst hn
        by_cases hj : j = d + q
        · subst hj
          simp
        · by_cases hr : d ≤ j ∧ j < d + q
          · rw [if_neg (by omega), if_pos ⟨rfl, hr⟩, if_pos ⟨rfl, by omega⟩]
          · rw [if_neg (by omega), if_neg (by omega), if_neg (by omega)]
      · simp [hn]
    · rw [Slot.putLane_rngOf, ihr, (hout q).2]
      split <;> rfl

/-- Columns written in the lanes of a list. -/
theorem Slot.putColumns_spec (c : Slot) (d : Nat) {q : Nat} (hq : 0 < q) {out : Nat → Nat → LaneOut} {fl : Nat → Flags}
    {r : Nat → Word} (hout : ∀ l i, (out l i).fl = fl l ∧ (out l i).rng = r l) {ls : List Nat} (hls : ∀ l ∈ ls, l < 64)
    (hn : ls.Nodup) : let c' := ls.foldl (fun c l => c.putColumn d l q (out l)) c
    c' = { c with v := c'.v, rng := c'.rng, lanestat := gathered ls fl c.lanestat } ∧
    (∀ j n, n < 64 → c'.vr j n =
      if n ∈ ls ∧ d ≤ j ∧ j < d + q then laneReg (out n (j - d)) (c.vr j n).scale else c.vr j n) ∧
    ∀ n, c'.rngOf n = if n ∈ ls then r n else c.rngOf n := by
  induction ls generalizing c with
  | nil => exact ⟨rfl, by simp, by simp⟩
  | cons l ls ih =>
    obtain ⟨hl, hls⟩ := List.forall_mem_cons.1 hls
    obtain ⟨hnl, hn⟩ := List.nodup_cons.1 hn
    obtain ⟨hs, hv, hr⟩ := c.putColumn_spec d hl hq (hout l)
    obtain ⟨is, iv, ir⟩ := ih (c.putColumn d l q (out l)) hls hn
    simp only [List.foldl_cons]
    refine ⟨?_, fun j n hn => ?_, fun n => ?_⟩
    · generalize (List.foldl (fun c l => c.putColumn d l q (out l)) (c.putColumn d l q (out l)) ls) = c2 at is ⊢
      generalize c.putColumn d l q (out l) = c1 at hs is
      rw [hs] at is
      exact is
    · rw [iv j n hn, hv j n hn]
      by_cases hnl' : n = l
      · subst hnl'; simp [hnl]
      · simp [hnl']
    · rw [ir, hr]
      by_cases hnl' : n = l
      · subst hnl'; simp [hnl]
      · simp [hnl']

/-- A write of the whole register clears its soft error (R386). -/
theorem Slot.clearErr_eq (c : Slot) (code : Nat) :
    c.clearErr code = { c with softErr := c.softErr.filter (· ≠ BitVec.ofNat 7 code) } := by
  unfold Slot.clearErr
  split
  · next h => cases c; subst h; rfl
  · rfl

/-- Full/empty bits and soft errors of registers that are written whole or in part. -/
theorem Slot.fill_shape (c : Slot) (i : Nat) (hi : i < 64) (full : Prop) [Decidable full] :
    let c1 := c.setEmpty (codeV i) false
    (if full then c1.clearErr (codeV i) else c1) = { c with
      vEmpty := setBit c.vEmpty i false
      softErr := if full then c.softErr.filter (· ≠ BitVec.ofNat 7 (codeV i)) else c.softErr } := by
  rw [Slot.setEmpty_codeV c hi]
  split
  · exact Slot.clearErr_eq _ _
  · rfl

theorem hasEmpty_codeV {i : Nat} (h : i < 64) : hasEmpty (codeV i) = true := by
  unfold hasEmpty codeV
  simp only [Bool.or_eq_true, Bool.and_eq_true, decide_eq_true_eq]
  omega

/-- The results of the active lanes in v register `d` (R61, R122, R148). -/
theorem Slot.putLanes_written (c : Slot) (d : Fin 64) (m : Mask) (out : Nat → LaneOut) :
    LanesWritten d m (fun l => some (out l)) c (c.putLanes d ((lanesOf m).map (fun l => (l, out l)))) := by
  obtain ⟨hs, hv, hr⟩ := c.putColumns_spec d (q := 1) Nat.one_pos (out := fun l _ => out l) (fl := fun l => (out l).fl)
    (r := fun l => (out l).rng) (fun _ _ => ⟨rfl, rfl⟩) (fun _ h => lanesOf_lt h) (lanesOf_nodup m)
  have hfold : ((lanesOf m).map (fun l => (l, out l))).foldl (fun c p => c.putLane d p.1 p.2) c =
      (lanesOf m).foldl (fun c l => c.putColumn d l 1 (fun _ => out l)) c := by
    rw [List.foldl_map]; rfl
  rw [← hfold] at hs hv hr
  rw [Slot.putLanes]
  generalize ((lanesOf m).map (fun l => (l, out l))).foldl (fun c p => c.putLane d p.1 p.2) c = c1 at hs hv hr ⊢
  rw [Slot.fill_shape _ _ d.isLt]
  simp only [List.length_map, length_lanesOf]
  have hE (i : Nat) : ({ c1 with vEmpty := setBit c1.vEmpty d false } : Slot).isEmpty i = (c1.setEmpty (codeV d) false).isEmpty i := by
    rw [Slot.setEmpty_codeV c1 d.isLt]
  have hE' (i : Fin 64) : ({ c1 with
      vEmpty := setBit c1.vEmpty d false
      softErr := if m = BitVec.allOnes 64 then c1.softErr.filter (· ≠ BitVec.ofNat 7 (codeV d)) else c1.softErr } : Slot).isEmpty
        (codeV i) = if i = d then false else c.isEmpty (codeV i) := by
    refine (hE (codeV i)).trans ?_
    rw [Slot.isEmpty_setEmpty, hs]
    have h1 : hasEmpty (codeV d) = true := hasEmpty_codeV d.isLt
    have h2 : codeV i = codeV d ↔ i = d := by
      rw [Fin.ext_iff]; unfold codeV; omega
    simp only [h1, h2, true_and]; rfl
  refine ⟨?_, fun l hl => ?_, fun i hi => ⟨fun l hl => ?_, ?_⟩, ?_, ?_, fun l hl => ?_⟩
  · rw [hs]
  · refine (hv d l hl).trans ?_
    simp [mem_lanesOf, hl]
  · refine (hv i l hl).trans (if_neg ?_)
    have : (i : Nat) ≠ d := fun h => hi (Fin.ext h)
    omega
  · rw [hE', if_neg hi]
  · rw [hE', if_pos rfl]
  · rw [stat_some, hs]
  · refine (hr l).trans ?_
    simp [mem_lanesOf, hl]

/-! ### Results to the south port -/

theorem Slot.laneEffects_spec (c : Slot) (m : Mask) (out : Nat → LaneOut) :
    let c' := c.laneEffects ((lanesOf m).map (fun l => (l, out l)))
    c' = { c with rng := c'.rng, lanestat := c'.lanestat } ∧ LaneState m (fun l => some (out l)) c c' := by
  have h : c.laneEffects ((lanesOf m).map (fun l => (l, out l))) = { c with
      rng := (lanesOf m).foldl (fun t l => Tab.set 0#64 t (0 + l) (out l).rng) c.rng
      lanestat := gathered (lanesOf m) (fun l => (out l).fl) c.lanestat } := by
    rw [Slot.laneEffects, List.foldl_map]
    generalize lanesOf m = ls
    induction ls generalizing c with
    | nil => rfl
    | cons l ls ih => rw [List.foldl_cons, ih, gathered, gathered, List.foldl_cons, List.foldl_cons, Nat.zero_add]
  refine ⟨by rw [h], by rw [h, stat_some], fun l hl => ?_⟩
  have hg := Tab.get_foldl_set 0#64 c.rng 0 (fun l => (out l).rng) (lanesOf m) l
  rw [Nat.zero_add] at hg
  rw [Slot.rngOf, h]
  refine hg.trans ?_
  simp [mem_lanesOf, hl, Slot.rngOf]

theorem portOfLanes_eq (m : Mask) (out : Nat → LaneOut) :
    portOfLanes ((lanesOf m).map (fun l => (l, out l))) = portValue m (fun l => laneReg (out l) 127) := by
  rw [portOfLanes, portValue, List.map_map]; rfl

/-- The results of the active lanes of a lane word reach D (R61, R122, R145, R184). -/
theorem State.putV_lanes (u : State) (k lat : Nat) (d : VDst) (m : Mask) (out : Nat → LaneOut) :
    SlotChanged k (LanesTo d lat m (fun l => some (out l))) u (u.putV k lat d ((lanesOf m).map (fun l => (l, out l)))) := by
  cases d with
  | v i =>
    exact SlotChanged.modSlot (P := LanesWritten i m (fun l => some (out l)))
      (f := fun c => c.putLanes i ((lanesOf m).map (fun l => (l, out l)))) (Slot.putLanes_written _ i m out)
  | s =>
    by_cases hm : m = 0
    · subst hm
      rw [State.putV, if_pos (by rw [List.map_eq_nil_iff]; exact lanesOf_eq_nil.2 rfl)]
      exact .refl (by rw [LanesTo, LanesSent, if_pos rfl])
    · rw [State.putV, if_neg (by rw [List.map_eq_nil_iff]; exact fun h => hm (lanesOf_eq_nil.1 h))]
      refine (SlotChanged.trans (.modSlot (P := fun c c' => c' = c.laneEffects _) rfl) (.modSlot (P := fun c c' =>
        c' = { c with reserved := c.reserved ++ [⟨none, lat, _⟩] }) rfl)).mono ?_
      rintro c' ⟨c1, rfl, rfl⟩
      obtain ⟨hs, hl⟩ := (u.slot k).laneEffects_spec m out
      rw [LanesTo, LanesSent, if_neg hm, portOfLanes_eq]
      refine ⟨portValue m (fun l => laneReg (out l) 127), ?_, rfl, rfl, rfl, fun l h => ?_, hl⟩
      · generalize (u.slot k).laneEffects ((lanesOf m).map (fun l => (l, out l))) = c1 at hs
        rw [hs]
      · rw [portValue_lane _ _ h]; rfl

/-- A lane word whose results go to D. -/
theorem laneActs_putV {i : Instr} {s : State} {us : List Use} {m : Mask} {size lat : Nat} {d : VDst} {e : Nat → State → Effect}
    {out : Nat → LaneOut} (hc : CanIssue s) (hi : exec i s = s.issue size e) (he : e s.cur s = .ok (fun t =>
      (t.takesMasked s.cur us m).putV s.cur lat d ((lanesOf m).map (fun l => (l, out l))))) :
    LaneActs i s us m size (LanesTo d lat m (fun l => some (out l))) :=
  laneActs_of_ok (w := fun t => t.putV s.cur lat d ((lanesOf m).map (fun l => (l, out l)))) hc hi he (State.putV_lanes _ _ _ _ _ _)

/-! ### Results in x registers -/

theorem Slot.setX_wrote (c : Slot) (d : Fin 32) (v : Word) : WroteX d v c (c.setX d v) := by
  by_cases h0 : d = 0
  · subst h0
    have h : c.setX (0 : Fin 32) v = c := rfl
    rw [h]
    refine ⟨rfl, rfl, fun _ _ => rfl, fun i => ?_⟩
    split
    · subst_vars; rfl
    · rfl
  · have hd : (d : Nat) ≠ 0 := fun h => h0 (Fin.ext h)
    have hs : c.setX d v = { c with
        x := Tab.set 0#64 c.x d v, xEmpty := setBit c.xEmpty d false
        softErr := c.softErr.filter (· ≠ BitVec.ofNat 7 d) } := by
      rw [Slot.setX, if_neg hd, Slot.clearErr_eq]
    refine ⟨?_, ?_, fun i hi => ?_, fun i => ?_⟩
    · rw [hs, if_neg h0]
    · rw [if_neg h0, Slot.xr, if_neg hd, hs]
      exact Tab.get_set_same _ _ _ _
    · have hid : (i : Nat) ≠ d := fun h => hi (Fin.ext h)
      rw [Slot.xr, Slot.xr, hs]
      split
      · rfl
      · exact Tab.get_set_other _ _ _ hid
    · have hid : (i : Nat) = d ↔ i = d := Fin.ext_iff.symm
      have h1 : (c.setX d v).isEmpty (codeX i) = (c.setEmpty (codeX d) false).isEmpty (codeX i) := by
        rw [hs, Slot.setEmpty_codeX c d.isLt hd]; rfl
      rw [h1, Slot.isEmpty_setEmpty]
      have h2 : hasEmpty (codeX d) = true := by
        unfold hasEmpty codeX
        simp only [Bool.or_eq_true, Bool.and_eq_true, decide_eq_true_eq]
        have := d.isLt
        omega
      rw [h2]
      simp only [codeX, hid, true_and]

theorem Slot.raise_setX (c : Slot) (d : Fin 32) (v : Word) (fl : Flags) : WroteXFlags d v fl c ((c.raise fl).setX d v) :=
  Slot.setX_wrote _ d v

end Sys2Proof.Machine
end

section
/-!
PROOF. Reductions and scans (statement O26): the tags of the active lanes, then the words' results.
-/
namespace Sys2Proof.Machine
open Sys2Proof.Claims

/-- A lane's register in lane `l` is the lowest active one. -/
theorem lanesOf_lowest {m : Mask} {l : Nat} (hl : l < 64) (hm : m.getLsbD l = true) (h : ∀ j, j < l → m.getLsbD j = false) :
    ∃ t, lanesOf m = l :: t := by
  have hs : (lanesOf m).Pairwise (· < ·) := List.pairwise_lt_range.filter _
  cases hc : lanesOf m with
  | nil => exact absurd (mem_lanesOf.2 ⟨hl, hm⟩) (by rw [hc]; exact List.not_mem_nil)
  | cons j t =>
    have hj : m.getLsbD j = true := (mem_lanesOf.1 (show j ∈ lanesOf m by rw [hc]; exact List.mem_cons_self)).2
    have hle : ¬ j < l := fun hlt => by rw [h j hlt] at hj; exact Bool.noConfusion hj
    have hmem : l ∈ j :: t := by rw [← hc]; exact mem_lanesOf.2 ⟨hl, hm⟩
    rcases List.mem_cons.1 hmem with rfl | ht
    · exact ⟨t, rfl⟩
    · rw [hc] at hs
      exact absurd ((List.pairwise_cons.1 hs).1 l ht) (by omega)

theorem redBad_zero (op : RedOp) (r : Nat → LaneReg) : redBad op 0 r = 0 := by
  rw [redBad, lanesOf_eq_nil.2 rfl]; rfl

/-- Active lanes of one format that the operation takes pass a reduction's tag rule. -/
theorem redBad_of_same {op : RedOp} {m : Mask} {r : Nat → LaneReg} {f : Fmt} (hf : redTakes op f = true)
    (h : ∀ l, l < 64 → m.getLsbD l = true → (r l).tag = f) : redBad op m r = 0 := by
  have htag : ∀ l ∈ lanesOf m, (r l).tag = f := fun l hl => h l (mem_lanesOf.1 hl).1 (mem_lanesOf.1 hl).2
  rw [redBad]
  cases hc : lanesOf m with
  | nil => rfl
  | cons l t =>
    rw [hc] at htag
    obtain ⟨hl, ht⟩ := List.forall_mem_cons.1 htag
    simp only [hl, ← redTakes_eq, hf, if_true]
    rw [List.filter_eq_nil_iff.2 (fun j hj => by simp [ht j hj])]
    rfl

/-- The lanes that fail the tag rule: all where the lowest active lane's format is none of the operation's, else those of other
formats. -/
theorem redBad_of_lowest {op : RedOp} {m : Mask} {r : Nat → LaneReg} {l : Nat} {t : List Nat} (h : lanesOf m = l :: t) :
    (redTakes op (r l).tag = false → redBad op m r = m) ∧
    (redTakes op (r l).tag = true → ∀ w : Word, (∀ j, j < 64 → (w.getLsbD j = true ↔ m.getLsbD j = true ∧ (r j).tag ≠ (r l).tag)) →
      redBad op m r = w) := by
  rw [redBad, h]
  simp only [← redTakes_eq]
  refine ⟨fun hf => by simp [hf], fun hf w hw => ?_⟩
  rw [if_pos hf, maskOf_eq_iff]
  intro j hj
  rw [hw j hj, List.mem_filter]
  have hmem : m.getLsbD j = true ↔ j = l ∨ j ∈ t := by
    rw [← List.mem_cons, ← h, mem_lanesOf]
    exact ⟨fun hb => ⟨hj, hb⟩, fun hb => hb.2⟩
  rw [hmem]
  simp only [decide_eq_true_eq]
  constructor
  · rintro ⟨rfl | hb, hne⟩
    · exact absurd rfl hne
    · exact ⟨hb, hne⟩
  · rintro ⟨hb, hne⟩
    exact ⟨.inr hb, hne⟩

/-- What VRED does once its source is ready. -/
theorem vredEffect_eq {g : Option Guard} {d : Fin 32} {a : VSrc} {op : RedOp} {rm : RMode} {sat un : Bool} {s : State}
    (hr : Ready s (vUse 0 a) [codeX d]) (hp : PortsOk s (vUse 0 a) none .vv (lanesOn s g)) :
    vredEffect g d a op rm sat un s.cur s = (do
      let r ← tagCheck (if redBad op (lanesOn s g) (va s a) ≠ 0#64 then .error (redBad op (lanesOn s g) (va s a))
        else match lanesOf (lanesOn s g) with
          | [] => .ok (0#64, flNone)
          | l :: t => .ok (redResult op (roundBy s rm sat un) (va s a l).tag
              ((l :: t).flatMap (fun j => subElems (va s a l).tag (va s a j).bits)) 0#64))
      .ok (fun t => (t.takesMasked s.cur (vUse 0 a) (lanesOn s g)).modSlot s.cur (fun c => (c.raise r.2).setX d r.1))) := by
  have hva : s.vval s.cur a = va s a := funext (vval_eq s a)
  unfold vredEffect laneToX
  rw [lanesOn_eq]
  dsimp only
  rw [State.laneReady_none hr hp, hva]
  rfl

/-- VRED writes its result and collects its flags. -/
theorem vred_acts {g : Option Guard} {d : Fin 32} {a : VSrc} {op : RedOp} {rm : RMode} {sat un : Bool} {s : State} {v : Word}
    {fl : Flags} (hc : CanIssue s) (he : vredEffect g d a op rm sat un s.cur s = .ok (fun t =>
      (t.takesMasked s.cur (vUse 0 a) (lanesOn s g)).modSlot s.cur (fun c => (c.raise fl).setX d v))) :
    LaneActs (.vred g d a op rm sat un) s (vUse 0 a) (lanesOn s g) 8 (WroteXFlags d v fl) :=
  laneActs_modSlot hc rfl he (fun c => c.raise_setX d v fl)

/-- No flag raised leaves LANESTAT as it was. -/
theorem wroteXFlags_zero {d : Fin 32} {v : Word} {c c' : Slot} : WroteXFlags d v 0 c c' ↔ WroteX d v c c' := by
  have : ({ c with lanestat := c.lanestat ||| (0 : Flags).setWidth 64 } : Slot) = c := by
    rw [show (0 : Flags).setWidth 64 = 0#64 from rfl, BitVec.or_zero]
  rw [WroteXFlags, this]

/-- With no active lane VRED writes 0 (R158). -/
theorem vred_empty {g : Option Guard} {d : Fin 32} {a : VSrc} {op : RedOp} {rm : RMode} {sat un : Bool} {s : State}
    (hc : CanIssue s) (hr : Ready s (vUse 0 a) [codeX d]) (hp : PortsOk s (vUse 0 a) none .vv (lanesOn s g)) (hm : lanesOn s g = 0) :
    LaneActs (.vred g d a op rm sat un) s (vUse 0 a) (lanesOn s g) 8 (WroteX d 0) := by
  refine ActsIn.mono (vred_acts (v := 0) (fl := 0) hc ?_) (fun _ _ => wroteXFlags_zero.1)
  rw [vredEffect_eq hr hp, hm, redBad_zero, lanesOf_eq_nil.2 rfl]
  rfl

/-- Active lanes of one format are reduced (R158). -/
theorem vred_same {g : Option Guard} {d : Fin 32} {a : VSrc} {op : RedOp} {rm : RMode} {sat un : Bool} {s : State} {f : Fmt}
    (hc : CanIssue s) (hr : Ready s (vUse 0 a) [codeX d]) (hp : PortsOk s (vUse 0 a) none .vv (lanesOn s g)) (hm : lanesOn s g ≠ 0)
    (hf : sameFormat s a op (lanesOn s g) f) :
    let r := redResult op (roundBy s rm sat un) f ((actives (lanesOn s g)).flatMap (fun l => subElems f (va s a l).bits)) 0
    LaneActs (.vred g d a op rm sat un) s (vUse 0 a) (lanesOn s g) 8 (WroteXFlags d r.1 r.2) := by
  obtain ⟨hop, htag⟩ := hf
  refine vred_acts hc ?_
  rw [vredEffect_eq hr hp, redBad_of_same hop htag, if_neg (by simp), actives_eq]
  cases h : lanesOf (lanesOn s g) with
  | nil => exact absurd (lanesOf_eq_nil.1 h) hm
  | cons l t =>
    have hl := mem_lanesOf.1 (show l ∈ lanesOf (lanesOn s g) by rw [h]; exact List.mem_cons_self)
    simp only [htag l hl.1 hl.2]
    rfl

/-- Lanes that fail the tag rule trap (R147, R158). -/
theorem vred_traps {g : Option Guard} {d : Fin 32} {a : VSrc} {op : RedOp} {rm : RMode} {sat un : Bool} {s : State} {w : Word}
    (hr : Ready s (vUse 0 a) [codeX d]) (hp : PortsOk s (vUse 0 a) none .vv (lanesOn s g)) (hi : InRow s .tagmismatch)
    (hb : redBad op (lanesOn s g) (va s a) = w) (hw : w ≠ 0) :
    Traps (.vred g d a op rm sat un) s .tagmismatch w (here s).pc := by
  refine traps_of_error (e := vredEffect g d a op rm sat un) hi (by decide) rfl ?_
  rw [vredEffect_eq hr hp, hb, if_pos (show w ≠ 0#64 from hw)]
  rfl

/-- What a scan gives a lane (R159). -/
def scanned (s : State) (a : VSrc) (op : RedOp) (k : RoundCtx) (f : Fmt) (m : Mask) (excl : Bool) (l : Nat) : LaneOut :=
  laneScan op k f (((actives m).filter (fun j => if excl then decide (j < l) else decide (j ≤ l))).map (va s a)) (drawn s l)

/-- What VSCAN does once its source is ready and its active lanes have one format. -/
theorem vscanEffect_eq {g : Option Guard} {d : VDst} {a : VSrc} {op : RedOp} {rm : RMode} {sat un excl : Bool} {s : State} {f : Fmt}
    (hr : Ready s (vUse 0 a) (dstCodes d)) (hp : PortsOk s (vUse 0 a) (southOf d .vv) .vv (lanesOn s g))
    (hf : sameFormat s a op (lanesOn s g) f) : vscanEffect g d a op rm sat un excl s.cur s = .ok (fun t =>
      (t.takesMasked s.cur (vUse 0 a) (lanesOn s g)).putV s.cur 6 d
        ((lanesOf (lanesOn s g)).map (fun l => (l, scanned s a op (roundBy s rm sat un) f (lanesOn s g) excl l)))) := by
  obtain ⟨hop, htag⟩ := hf
  have hva : s.vval s.cur a = va s a := funext (vval_eq s a)
  have houts : (lanesOf (lanesOn s g)).map (fun l =>
        (l, scanned s a op (roundBy s rm sat un) (va s a ((lanesOf (lanesOn s g)).headD 0)).tag (lanesOn s g) excl l)) =
      (lanesOf (lanesOn s g)).map (fun l => (l, scanned s a op (roundBy s rm sat un) f (lanesOn s g) excl l)) := by
    cases h : lanesOf (lanesOn s g) with
    | nil => rfl
    | cons l t =>
      have hl := mem_lanesOf.1 (show l ∈ lanesOf (lanesOn s g) by rw [h]; exact List.mem_cons_self)
      simp only [List.headD_cons, htag l hl.1 hl.2]
  rw [← houts]
  unfold vscanEffect
  rw [lanesOn_eq]
  dsimp only
  rw [State.laneReady_of hr hp, hva, redBad_of_same hop htag]
  rfl

end Sys2Proof.Machine
end

section
open Sys2Proof Sys2Proof.Claims Sys2Proof.Machine

/-- Settles O26: the tag rule of a reduction splits on the lowest active lane's format; the results are sums rounded once, extreme
elements and bitwise combinations. -/
theorem reductionsAndScans : Obligations.ReductionsAndScans := by
  refine ⟨fun g d a op rm sat un s hc hr hp => ⟨vred_empty hc hr hp, fun f => vred_same hc hr hp, fun l hl hm hlow hi => ?_⟩,
    fun k f cs rng hf hk h0 hb => ⟨redResult_add rng hf hk, fun hi op => redResult_extreme k cs rng hi h0 hb op⟩,
    fun k f cs rng hf hb h0 => ⟨redResult_add_wrap cs rng hf, redResult_integer k cs rng hf hb h0⟩,
    fun g d a op rm sat un excl f s hc hr hp hf => laneActs_putV hc rfl (vscanEffect_eq hr hp hf),
    fun op k f rs rng hf hk hr => ⟨?_, fun h0 ho => ?_, laneScan_other rng hf hr⟩⟩
  · obtain ⟨t, ht⟩ := lanesOf_lowest hl hm hlow
    obtain ⟨hall, hother⟩ := redBad_of_lowest (op := op) (r := va s a) ht
    have hm0 : lanesOn s g ≠ 0 := fun h => by rw [h] at hm; simp at hm
    exact ⟨fun h => vred_traps hr hp hi (hall h) hm0, fun h w hw => vred_traps hr hp hi (hother h w hw)⟩
  · rintro rfl
    exact laneScan_nil hf k rng
  · subst ho
    exact laneScan_add rng (arithmetic_of_redTakes hf) hk hr h0
end

section
/-!
PROOF. Lane structure (statement O15): a table of counters written whole, the lanes it opens, and the counters that overflow.
-/
namespace Sys2Proof.Machine
open Sys2Proof.Claims

/-- A word without sources that writes its own slot and nothing else. -/
theorem acts_nil {i : Instr} {s : State} {size : Nat} {e : Nat → State → Effect} {f : Slot → Slot} {P : Slot → Slot → Prop}
    (hc : CanIssue s) (hi : exec i s = s.issue size e) (he : e s.cur s = .ok (fun t => t.modSlot s.cur f)) (hP : ∀ c, P c (f c)) :
    Acts i s [] size P := by
  have hs : sourced s [] size = (s.issued s.cur size).modSlot s.cur (fun c => c.takes []) := rfl
  refine actsIn_of_ok hc hi he (byte_sourced s [] size) ⟨rfl, fun j hj => ?_, ?_⟩
  · rw [State.slot_modSlot_other _ _ hj, hs, State.slot_modSlot_other _ _ hj]
  · rw [hs, State.slot_modSlot_same, State.slot_modSlot_same]
    exact hP _

/-! ### Counters of all lanes -/

/-- Counters for all 64 lanes, as the model lists them. -/
def counters (n : Nat → Nat) : List (Nat × Nat) := (List.range 64).map (fun l => (l, n l))

theorem nestMap_eq (c : Slot) (f : Nat → Nat → Nat) : c.nestMap f = counters (fun l => f l (c.nestOf l).toNat) := rfl

theorem Slot.nestOf_setNest (c : Slot) (n : Nat → Nat) {l : Nat} (hl : l < 64) :
    (c.setNest (counters n)).nestOf l = BitVec.ofNat 6 (n l) := by
  have h := Tab.get_foldl_set 0#6 [] 0 (fun l => BitVec.ofNat 6 (n l)) (List.range 64) l
  rw [← Tab.setAll_map, Nat.zero_add, if_pos (List.mem_range.2 hl)] at h
  rw [← h, Slot.nestOf, Slot.setNest, counters, List.map_map]
  rfl

/-- The open lanes are those whose counter is 0 (R59). -/
theorem Slot.getLsbD_openLanes (c : Slot) {l : Nat} (hl : l < 64) : c.openLanes.getLsbD l = true ↔ c.nestOf l = 0 := by
  unfold Slot.openLanes
  split
  · next h => rw [BitVec.getLsbD_allOnes]; simp [hl, Slot.nestOf, h, Tab.get]
  · rw [getLsbD_maskOf _ hl]
    simp [hl]

/-- Counters that fit are written, and the lanes at 0 are open. -/
theorem Slot.setNest_nested (c : Slot) {n : Nat → Nat} (h : ∀ l, l < 64 → n l ≤ 63) : Nested n c (c.setNest (counters n)) := by
  refine ⟨rfl, fun l hl => ?_⟩
  have hn := h l hl
  rw [Slot.getLsbD_openLanes _ hl, Slot.nestOf_setNest _ _ hl]
  have : (BitVec.ofNat 6 (n l)).toNat = n l := by rw [BitVec.toNat_ofNat]; omega
  refine ⟨this, BitVec.toNat_eq.trans ?_⟩
  rw [this]; rfl

theorem getLsbD_overflowing (n : Nat → Nat) {l : Nat} (hl : l < 64) : (overflowing (counters n)).getLsbD l = true ↔ 63 < n l := by
  rw [overflowing, getLsbD_maskOf _ hl, decide_eq_true_iff]
  simp [counters, hl]

theorem overflowing_eq_zero {n : Nat → Nat} : overflowing (counters n) = 0#64 ↔ ∀ l, l < 64 → n l ≤ 63 := by
  constructor
  · intro h l hl
    have := getLsbD_overflowing n hl
    rw [h, BitVec.getLsbD_zero] at this
    simpa using this
  · intro h
    refine BitVec.eq_of_getLsbD_eq (fun l hl => ?_)
    rw [BitVec.getLsbD_zero, ← Bool.not_eq_true, getLsbD_overflowing n hl]
    exact Nat.not_lt.2 (h l hl)

/-! ### The instructions -/

/-- The new counter of each lane as the instruction's word computes it (R132). -/
theorem exec_nestRule {i : Instr} {p : PSrc} {f : Bool → Nat → Nat} (h : nestRule i = some (p, f)) (s : State) :
    ∃ F, exec i s = s.issue 8 (nestEffect F) ∧ ∀ c l n, F c l n = f ((c.pr p.reg).getLsbD l) n := by
  cases i <;> simp only [nestRule, reduceCtorEq, Option.some.injEq, Prod.mk.injEq] at h
  case lif q =>
    obtain ⟨rfl, rfl⟩ := h
    exact ⟨lifNest q, rfl, fun c l n => by rw [lifNest]; cases (c.pr q.reg).getLsbD l <;> rfl⟩
  case lelse =>
    obtain ⟨rfl, rfl⟩ := h
    exact ⟨lelseNest, rfl, fun _ _ _ => rfl⟩
  case lendif =>
    obtain ⟨rfl, rfl⟩ := h
    exact ⟨lendifNest, rfl, fun _ _ n => by show n - 1 = if n > 0 then n - 1 else 0; split <;> omega⟩
  case lloop =>
    obtain ⟨rfl, rfl⟩ := h
    exact ⟨lloopNest, rfl, fun _ _ _ => rfl⟩
  case lbreak q k =>
    obtain ⟨rfl, rfl⟩ := h
    exact ⟨leaveNest 2 q k, rfl, fun _ _ _ => rfl⟩
  case lcont q k =>
    obtain ⟨rfl, rfl⟩ := h
    exact ⟨leaveNest 1 q k, rfl, fun _ _ _ => rfl⟩

/-- The effect of a lane-structure word, from the counters it computes. -/
theorem nestEffect_eq {F : Slot → Nat → Nat → Nat} {s : State} {n : Nat → Nat}
    (hF : ∀ l, F (here s) l ((here s).nestOf l).toNat = n l) : nestEffect F s.cur s =
      if overflowing (counters n) ≠ 0#64 then .error (.trap .nestovf (overflowing (counters n)))
      else .ok (fun u => u.modSlot s.cur (fun c => c.setNest (counters n))) := by
  rw [show counters n = (s.slot s.cur).nestMap (F (s.slot s.cur)) from
    (congrArg counters (funext fun l => (hF l).symm)).trans (nestMap_eq _ _).symm]
  rfl

theorem lendlNest_eq (p : PSrc) (c : Slot) (l n : Nat) : lendlNest p c l n =
    if n = 0 then (if (c.pr p.reg).getLsbD l then 0 else 2) else if n = 1 then 0 else n := by
  unfold lendlNest
  cases (c.pr p.reg).getLsbD l <;> by_cases h : n = 0 <;> simp [h]

/-- Lowering a counter that is not 1 by 2. -/
theorem ite_sub_two {n : Nat} (h : n ≠ 1) : (if 2 ≤ n then n - 2 else n) = n - 2 := by
  split <;> omega

theorem lendlNest_ne_one (p : PSrc) (c : Slot) (l n : Nat) : lendlNest p c l n ≠ 1 := by
  rw [lendlNest_eq]
  split_ifs <;> omega

end Sys2Proof.Machine
end

section
open Sys2Proof Sys2Proof.Claims Sys2Proof.Machine

/-- Settles O15: the words write the counters of all lanes at once; those over 63 are the mask of NESTOVF. -/
theorem laneNesting : Obligations.LaneNesting := by
  refine ⟨fun i p f s hi hc hn => ?_, fun i p f s hi ht hn => ?_, fun p back s hc => ?_⟩
  · obtain ⟨F, hx, hF⟩ := exec_nestRule hi s
    refine acts_nil hc hx ?_ (fun c => c.setNest_nested hn)
    rw [nestEffect_eq (fun l => hF _ _ _), if_neg (not_not.2 (overflowing_eq_zero.2 hn))]
  · obtain ⟨F, hx, hF⟩ := exec_nestRule hi s
    refine ⟨_, fun l hl => getLsbD_overflowing _ hl, traps_of_error ht (by decide) hx ?_⟩
    rw [nestEffect_eq (fun l => hF _ _ _), if_pos]
    rw [ne_eq, overflowing_eq_zero]
    obtain ⟨l, hl, h⟩ := hn
    exact fun hall => absurd (hall l hl) (Nat.not_le.2 h)
  · have hle : ∀ l, lendlNest p (here s) l ((here s).nestOf l).toNat ≤ 63 := fun l => by
      have := ((here s).nestOf l).isLt
      rw [lendlNest_eq]
      split_ifs <;> omega
    simp only [← lendlNest_eq]
    refine ⟨fun h => ?_, fun h => ?_⟩
    · refine acts_nil hc rfl (e := lendlEffect p back) (f := fun c =>
        (c.setNest (counters _)).goto _) (if_pos ?_) (fun c => ⟨_, c.setNest_nested (fun l _ => hle l), Slot.goto_eq_goesTo _ _⟩)
      simpa [nestMap_eq, counters, here] using h
    · refine acts_nil hc rfl (e := lendlEffect p back) (f := fun c => c.setNest (counters _)) ((if_neg ?_).trans ?_)
        (fun c => c.setNest_nested (fun l _ => (Nat.sub_le _ _).trans (hle l)))
      · simpa [nestMap_eq, counters, here] using h
      · rw [nestMap_eq, counters, List.map_map]
        refine congrArg (fun ns => Except.ok fun u : State => u.modSlot s.cur fun c => c.setNest ns) (List.map_congr_left fun l _ => ?_)
        exact Prod.ext rfl (ite_sub_two (lendlNest_ne_one _ _ _ _))
end

section
/-!
SUPPORT. Accumulators: their eight elements, one rounding to ACC48, the flags collected over lanes and columns, and what a write of
an accumulator or of column scales leaves (spec/02 R38, R39, spec/08 R177, R186).
-/
namespace Sys2Proof.Machine
open Sys2Proof.Claims

/-! ### Elements -/

theorem accElem_eq (r : BitVec 384) (n : Nat) : accElem r n = element r n := rfl

theorem accVal_toQ (c : Nat) : (accVal c).toQ = numOf .acc48 false false c := Fmt.value_toQ _ _ _ _

theorem accVal_sharp (c : Nat) : (accVal c).Sharp := Fmt.value_sharp _ _ _ _

/-- Rounding to ACC48 (R38, R39). -/
theorem roundACC_rounds {v : Val} (hv : v.Sharp) : RoundsACC v.toQ (roundACC v).1 (roundACC v).2 :=
  roundTo_rounds (k := ⟨0, .rne, false, false⟩) (by decide) (by decide) hv (by decide) 0

theorem RoundsACC.code_lt {x : Quantity} {code : Nat} {fl : Flags} (h : RoundsACC x code fl) : code < 2 ^ 48 := by
  refine RoundsTo.code_lt (f := .acc48) h (fun c hc => ?_)
  cases x with
  | fin n r => simp only [exactOf] at hc; split at hc <;> cases hc
  | _ => cases hc

theorem element_accOf {es : List Nat} (hlen : es.length = 8) {n : Nat} (hn : n < 8) (hlt : es.getD n 0 < 2 ^ 48) :
    element (accOf es) n = es.getD n 0 := by
  have hj : (accOf es).toNat = joined 48 48 es := by
    rw [accOf, BitVec.toNat_ofNat]
    rw [show 384 = 48 * es.length by rw [hlen]]
    exact Nat.mod_eq_of_lt (joined_lt (le_refl 48) es)
  have hn' : n < es.length := by omega
  rw [element, hj, Nat.mul_comm 48 n, ← Nat.shiftRight_eq_div_pow, joined_shift (le_refl 48) es n hn']
  rw [List.getD_eq_getElem _ _ hn'] at hlt ⊢
  exact Nat.mod_eq_of_lt hlt

/-- An accumulator of eight rounded columns holds them as its elements. -/
theorem element_accOf_map {F : Nat → Nat} {n : Nat} (hn : n < 8) (h : F n < 2 ^ 48) :
    element (accOf ((List.range 8).map F)) n = F n := by
  have hg : ((List.range 8).map F).getD n 0 = F n := by simp [hn]
  rw [element_accOf (by simp) hn (by rwa [hg]), hg]

/-! ### Flags -/

/-- All flags of a list. -/
def orAll (fls : List Flags) : Flags := fls.foldl (· ||| ·) 0

theorem foldl_or (fls : List Flags) (fl : Flags) : fls.foldl (· ||| ·) fl = fl ||| orAll fls := by
  induction fls generalizing fl with
  | nil => exact BitVec.or_zero.symm
  | cons a fls ih =>
    rw [List.foldl_cons, ih, BitVec.or_assoc, ← ih a]
    exact congrArg (fl ||| ·) (congrArg (fls.foldl (· ||| ·)) BitVec.zero_or.symm)

theorem orAll_cons (a : Flags) (fls : List Flags) : orAll (a :: fls) = a ||| orAll fls := by
  rw [← foldl_or fls a]
  exact congrArg (fls.foldl (· ||| ·)) BitVec.zero_or

theorem orAll_append (xs ys : List Flags) : orAll (xs ++ ys) = orAll xs ||| orAll ys := by
  rw [orAll, List.foldl_append, foldl_or]; rfl

theorem orAll_flatMap {α : Type} (ls : List α) (f : α → List Flags) : orAll (ls.flatMap f) = orAll (ls.map (fun l => orAll (f l))) := by
  induction ls with
  | nil => rfl
  | cons l ls ih =>
    rw [List.flatMap_cons, orAll_append, ih, List.map_cons, orAll_cons]

theorem flagged_eq (w : Word) (fls : List Flags) : flagged w fls = w ||| (orAll fls).setWidth 64 := by
  induction fls generalizing w with
  | nil => simp [flagged, orAll]
  | cons a fls ih =>
    rw [flagged, List.foldl_cons]
    refine (ih _).trans ?_
    rw [orAll_cons, BitVec.setWidth_or, BitVec.or_assoc]

/-- Raising all flags of a list of lanes' results is collecting them one by one. -/
theorem Slot.raise_eq_withFlags (c : Slot) (fls : List Flags) : c.raise (orAll fls) = withFlags c fls := by
  rw [Slot.raise, withFlags, flagged_eq]

/-! ### Writing accumulators -/

theorem Slot.setEmpty_codeA (c : Slot) {i : Nat} (h : i < 4) (b : Bool) :
    c.setEmpty (codeA i) b = { c with aEmpty := setBit c.aEmpty i b } := by
  unfold Slot.setEmpty codeA
  repeat rw [if_neg (by omega)]
  rw [if_pos (by omega), Nat.add_sub_cancel_left]

theorem Slot.foldl_setA (c : Slot) (d : Nat) (f : Nat → BitVec 384) (ls : List Nat) :
    ls.foldl (fun c l => c.setA d l (f l)) c =
      { c with a := ls.foldl (fun t l => Tab.set 0#384 t (64 * d + l) (f l)) c.a } := by
  induction ls generalizing c with
  | nil => rfl
  | cons l ls ih => rw [List.foldl_cons, ih]; rfl

theorem hasEmpty_codeA {i : Nat} (h : i < 4) : hasEmpty (codeA i) = true := by
  unfold hasEmpty codeA
  simp only [Bool.or_eq_true, Bool.and_eq_true, decide_eq_true_eq]
  omega

/-- Values in the active lanes of an accumulator (R61, R122). -/
theorem Slot.putAccs_written (c : Slot) (d : Fin 4) (m : Mask) (new : Nat → BitVec 384) :
    AccWritten d m new c (c.putAccs d ((lanesOf m).map (fun l => (l, new l)))) := by
  have hs : c.putAccs d ((lanesOf m).map (fun l => (l, new l))) = { c with
      a := (lanesOf m).foldl (fun t l => Tab.set 0#384 t (64 * d + l) (new l)) c.a
      aEmpty := setBit c.aEmpty d false
      softErr := if m = BitVec.allOnes 64 then c.softErr.filter (· ≠ BitVec.ofNat 7 (codeA d)) else c.softErr } := by
    rw [Slot.putAccs, List.foldl_map, Slot.foldl_setA, Slot.setEmpty_codeA _ d.isLt]
    simp only [List.length_map, length_lanesOf, Slot.clearErr_eq]
    split <;> rfl
  have hE (i : Fin 4) : (c.putAccs d ((lanesOf m).map (fun l => (l, new l)))).isEmpty (codeA i) =
      if i = d then false else c.isEmpty (codeA i) := by
    have h1 : (c.putAccs d ((lanesOf m).map (fun l => (l, new l)))).isEmpty (codeA i) = (c.setEmpty (codeA d) false).isEmpty (codeA i) := by
      rw [hs, Slot.setEmpty_codeA c d.isLt]; rfl
    have h2 : codeA i = codeA d ↔ i = d := by
      rw [Fin.ext_iff]; unfold codeA; omega
    rw [h1, Slot.isEmpty_setEmpty, hasEmpty_codeA d.isLt]
    simp only [h2, true_and]
  refine ⟨by rw [hs], fun l hl => ?_, fun i hi => ⟨fun l hl => ?_, by rw [hE, if_neg hi]⟩, by rw [hE, if_pos rfl]⟩
  · rw [Slot.ar, hs]
    refine (Tab.get_lanes _ _ _ _ _ hl).trans ?_
    simp [Slot.ar]
  · rw [Slot.ar, hs]
    refine (Tab.get_lanes _ _ _ _ _ hl).trans (if_neg ?_)
    exact fun h => hi (Fin.ext h.1)

/-! ### Column scales -/

/-- Registers changed lane by lane, from what each lane held before. -/
theorem Slot.foldl_modW (c c0 : Slot) (d : Nat) (f : Nat → WReg → WReg) {ls : List Nat} (hn : ls.Nodup)
    (hc : ∀ l ∈ ls, c.wr d l = c0.wr d l) : ls.foldl (fun c l => c.setW d l (f l (c.wr d l))) c =
      ls.foldl (fun c l => c.setW d l (f l (c0.wr d l))) c := by
  induction ls generalizing c with
  | nil => rfl
  | cons l ls ih =>
    obtain ⟨hl, hls⟩ := List.forall_mem_cons.1 hc
    obtain ⟨hnl, hn⟩ := List.nodup_cons.1 hn
    rw [List.foldl_cons, List.foldl_cons, hl]
    refine ih _ hn (fun j hj => (Tab.get_set_other _ _ _ ?_).trans (hls j hj))
    have : j ≠ l := fun h => hnl (h ▸ hj)
    omega

/-- Column scales of the active lanes (R193). -/
theorem Slot.scaled_written (c : Slot) (d : Fin 4) (m : Mask) (new : Nat → Word) :
    let c' := (((lanesOf m).map (fun l => (l, new l))).foldl (fun c p => c.setW d p.1 { c.wr d p.1 with scales := p.2 }) c).setEmpty
      (codeW d) false
    c' = { c with w := c'.w, wEmpty := c'.wEmpty } ∧
    (∀ l, l < 64 → c'.wr d l = if m.getLsbD l then { c.wr d l with scales := new l } else c.wr d l) ∧
    (∀ i : Fin 4, i ≠ d → ∀ l, l < 64 → c'.wr i l = c.wr i l) ∧ c'.isEmpty (codeW d) = false := by
  intro c'
  have hs : c' = { c with
      w := (lanesOf m).foldl (fun t l => Tab.set WReg.zero t (64 * d + l) { c.wr d l with scales := new l }) c.w
      wEmpty := setBit c.wEmpty d false } := by
    show (List.foldl _ c _).setEmpty _ _ = _
    rw [List.foldl_map, Slot.foldl_modW c c d (fun l r => { r with scales := new l }) (lanesOf_nodup m) (fun _ _ => rfl),
      Slot.foldl_setW, Slot.setEmpty_codeW _ d.isLt]
  refine ⟨by rw [hs], fun l hl => ?_, fun i hi l hl => ?_, ?_⟩
  · rw [Slot.wr, hs]
    refine (Tab.get_lanes _ _ _ _ _ hl).trans ?_
    simp [Slot.wr]
  · rw [Slot.wr, hs]
    refine (Tab.get_lanes _ _ _ _ _ hl).trans (if_neg ?_)
    exact fun h => hi (Fin.ext h.1)
  · have h1 : c'.isEmpty (codeW d) = (c.setEmpty (codeW d) false).isEmpty (codeW d) := by
      rw [hs, Slot.setEmpty_codeW c d.isLt]; rfl
    have h2 : hasEmpty (codeW d) = true := by
      have := d.isLt
      unfold hasEmpty codeW
      simp only [Bool.or_eq_true, Bool.and_eq_true, decide_eq_true_eq]
      omega
    rw [h1, Slot.isEmpty_setEmpty, h2, if_pos ⟨rfl, rfl⟩]

end Sys2Proof.Machine
end

section
/-!
PROOF. ACCZ, ACCADD and WSCL (statement O31).
-/
namespace Sys2Proof.Machine
open Sys2Proof.Claims

/-- One column of ACCADD: the exact sum, rounded once (R39, R189). -/
theorem sumVals_acc (x y : Nat) :
    let r := sumVals [accVal x, accVal y] .rne
    let q := addNum .rne [numOf .acc48 false false x, numOf .acc48 false false y]
    r.2 = q.2 ∧ RoundsACC q.1 (roundACC r.1).1 (roundACC r.1).2 := by
  intro r q
  have h : (r.1.toQ, r.2) = q := by
    have := sumVals_toQ (ts := [accVal x, accVal y]) (by simp [accVal_sharp]) .rne
    simpa [accVal_toQ] using this
  rw [← h]
  exact ⟨rfl, roundACC_rounds (sumVals_sharp _ _)⟩

/-- A column of ACCADD: its element and its flags. -/
def addColumn (a b : BitVec 384) (n : Nat) : Nat × Flags :=
  let s := sumVals [accVal (accElem a n), accVal (accElem b n)] .rne
  let r := roundACC s.1
  (r.1, s.2 ||| r.2)

theorem accAddCell_eq (a b : BitVec 384) : accAddCell a b = (accOf ((List.range 8).map (fun n => (addColumn a b n).1)),
    orAll ((List.range 8).map (fun n => (addColumn a b n).2))) := by
  rw [accAddCell]
  simp only [List.map_map]
  rfl

/-- The sums of ACCADD in the active lanes, and their flags. -/
theorem addColumn_rounds (a b : BitVec 384) (n : Nat) :
    let q := addNum .rne [numOf .acc48 false false (element a n), numOf .acc48 false false (element b n)]
    ∃ fl, (addColumn a b n).2 = q.2 ||| fl ∧ RoundsACC q.1 (addColumn a b n).1 fl := by
  obtain ⟨h1, h2⟩ := sumVals_acc (element a n) (element b n)
  exact ⟨_, congrArg (· ||| _) h1, h2⟩

theorem accaddEffect_eq {g : Option Guard} {d : Fin 4} {a : ASrc} {b : AccOp} {s : State}
    (hr : Ready s (aUse 0 a ++ accOpUse b) [codeA d]) (hp : PortsOk s (aUse 0 a ++ accOpUse b) none .acc (lanesOn s g)) :
    let x (l : Nat) := (here s).ar a.reg l
    let y (l : Nat) := s.accOpVal s.cur b l
    accaddEffect g d a b s.cur s = .ok (fun t => (t.takesMasked s.cur (aUse 0 a ++ accOpUse b) (lanesOn s g)).modSlot s.cur (fun c =>
      (withFlags c ((lanesOf (lanesOn s g)).flatMap (fun l => (List.range 8).map (fun n => (addColumn (x l) (y l) n).2)))).putAccs d
        ((lanesOf (lanesOn s g)).map (fun l => (l, accOf ((List.range 8).map (fun n => (addColumn (x l) (y l) n).1))))))) := by
  intro x y
  simp only [← Slot.raise_eq_withFlags, orAll_flatMap]
  unfold accaddEffect
  dsimp only
  rw [lanesOn_eq, State.portReady_of hr hp, List.map_map, List.map_map]
  simp only [Function.comp_def, accAddCell_eq]
  rfl

/-- ACCADD (R189). -/
theorem accadd_acts {g : Option Guard} {d : Fin 4} {a : ASrc} {b : AccOp} {s : State} (hc : CanIssue s)
    (hr : Ready s (aUse 0 a ++ accOpUse b) [codeA d]) (hp : PortsOk s (aUse 0 a ++ accOpUse b) none .acc (lanesOn s g)) :
    let m := lanesOn s g
    let sum (l n : Nat) := addNum .rne [numOf .acc48 false false (element ((here s).ar a.reg l) n),
      numOf .acc48 false false (element (s.accOpVal s.cur b l) n)]
    LaneActs (.accadd g d a b) s (aUse 0 a ++ accOpUse b) m 8 (fun c c' =>
      ∃ (new : Nat → BitVec 384) (fl : Nat → Nat → Flags),
        (∀ l, l < 64 → m.getLsbD l = true → ∀ n, n < 8 → RoundsACC (sum l n).1 (element (new l) n) (fl l n)) ∧
        AccWritten d m new (withFlags c ((actives m).flatMap (fun l => (List.range 8).map (fun n => (sum l n).2 ||| fl l n)))) c') := by
  intro m sum
  refine laneActs_modSlot hc rfl (accaddEffect_eq hr hp) (fun c => ?_)
  choose fl hfl hround using fun l n => addColumn_rounds ((here s).ar a.reg l) (s.accOpVal s.cur b l) n
  refine ⟨fun l => accOf ((List.range 8).map (fun n => (addColumn ((here s).ar a.reg l) (s.accOpVal s.cur b l) n).1)), fl,
    fun l _ _ n hn => ?_, ?_⟩
  · rw [element_accOf_map hn (RoundsACC.code_lt (hround l n))]
    exact hround l n
  · simp only [sum, ← hfl]
    exact Slot.putAccs_written _ d m _

end Sys2Proof.Machine
end

section
open Sys2Proof Sys2Proof.Claims Sys2Proof.Machine

/-- Settles O31: each word writes the lanes of one register; a column of ACCADD is one rounding of an exact sum. -/
theorem accumulators : Obligations.Accumulators := by
  refine ⟨⟨fun g d s hc hr => ?_, fun g d a b s hc hr hp => ?_⟩, fun g d a s hc hr => ?_⟩
  · refine acts_nil hc rfl ?_ (fun c => c.putAccs_written d (lanesOn s g) (fun _ => 0))
    unfold acczEffect
    dsimp only
    rw [lanesOn_eq, State.ready_of hr]
    rfl
  · have h := accadd_acts (g := g) (d := d) (a := a) (b := b) hc (by cases b <;> exact hr) (by cases b <;> exact hp)
    cases b <;> exact h
  · have hp : PortsOk s (rUse 0 a) none .vv (lanesOn s g) := PortsOk_local (by simp [rUse, codeV, codeN]; omega) _ _
    refine laneActs_modSlot hc rfl (e := wsclEffect g d a) ?_ (fun c => c.scaled_written d (lanesOn s g) (fun l => ((here s).vr a.reg l).bits))
    unfold wsclEffect
    dsimp only
    rw [lanesOn_eq, State.laneReady_none hr hp]
    rfl
end

section
/-!
SUPPORT. Results that take several consecutive registers in each lane: what they leave in registers, full/empty bits, RNG states and
flags (spec/07 R169, spec/08 R187).
-/
namespace Sys2Proof.Machine
open Sys2Proof.Claims

/-! ### Results given for the active lanes only -/

theorem stat_congr {m : Mask} {out out' : Nat → Option LaneOut} (old : Word)
    (h : ∀ l, l < 64 → m.getLsbD l = true → (out l).map (fun o => o.fl) = (out' l).map (fun o => o.fl)) :
    stat m out old = stat m out' old := by
  refine List.foldl_ext _ _ old (fun w l hl => ?_)
  by_cases hm : m.getLsbD l = true
  · show (if m.getLsbD l = true then _ ||| BitVec.setWidth 64 (((out l).map (fun o => o.fl)).getD 0) else _) = _
    rw [h l (List.mem_range.1 hl) hm]
  · simp [hm]

theorem LaneState.congr {m : Mask} {out out' : Nat → Option LaneOut} {c c' : Slot} (hs : LaneState m out c c')
    (h : ∀ l, l < 64 → m.getLsbD l = true → (out l).map (fun o => (o.fl, o.rng)) = (out' l).map (fun o => (o.fl, o.rng))) :
    LaneState m out' c c' := by
  have hfl (l : Nat) (hl : l < 64) (hm : m.getLsbD l = true) : (out l).map (fun o => o.fl) = (out' l).map (fun o => o.fl) := by
    simpa [Option.map_map, Function.comp_def] using congrArg (Option.map Prod.fst) (h l hl hm)
  have hrng (l : Nat) (hl : l < 64) (hm : m.getLsbD l = true) : (out l).map (fun o => o.rng) = (out' l).map (fun o => o.rng) := by
    simpa [Option.map_map, Function.comp_def] using congrArg (Option.map Prod.snd) (h l hl hm)
  refine ⟨hs.1.trans (stat_congr _ hfl), fun l hl => (hs.2 l hl).trans ?_⟩
  by_cases hm : m.getLsbD l = true
  · rw [if_pos hm, if_pos hm]
    exact congrArg (Option.getD · (c.rngOf l)) (hrng l hl hm)
  · rw [if_neg hm, if_neg hm]

theorem LanesSent.congr {lat : Nat} {m : Mask} {out out' : Nat → Option LaneOut} {c c' : Slot} (hs : LanesSent lat m out c c')
    (h : ∀ l, l < 64 → m.getLsbD l = true → out l = out' l) : LanesSent lat m out' c c' := by
  unfold LanesSent at hs ⊢
  by_cases h0 : m = 0
  · rwa [if_pos h0] at hs ⊢
  · rw [if_neg h0] at hs ⊢
    obtain ⟨v, hc, hrel, hbad, hkind, hv, hst⟩ := hs
    refine ⟨v, hc, hrel, hbad, hkind, fun l hl => (hv l hl).trans ?_, LaneState.congr hst (fun l hl hm => by rw [h l hl hm])⟩
    by_cases hm : m.getLsbD l = true
    · rw [if_pos hm, if_pos hm, h l hl hm]
    · rw [if_neg hm, if_neg hm]

/-! ### Registers that end full -/

/-- Registers `d` to `d + q - 1` end full; a write of all lanes clears their soft errors. -/
def Slot.fillRange (c : Slot) (d q : Nat) (full : Prop) [Decidable full] : Slot :=
  (List.range q).foldl (fun c i => if full then (c.setEmpty (codeV (d + i)) false).clearErr (codeV (d + i))
    else c.setEmpty (codeV (d + i)) false) c

theorem Slot.fillRange_spec (c : Slot) {d q : Nat} (h : d + q ≤ 64) (full : Prop) [Decidable full] :
    let c' := c.fillRange d q full
    c' = { c with vEmpty := c'.vEmpty, softErr := c'.softErr } ∧
    ∀ i, i < 64 → c'.isEmpty (codeV i) = if d ≤ i ∧ i < d + q then false else c.isEmpty (codeV i) := by
  induction q with
  | zero => exact ⟨rfl, fun i _ => (if_neg (by omega)).symm⟩
  | succ q ih =>
    obtain ⟨ihs, ihe⟩ := ih (by omega)
    have hq : c.fillRange d (q + 1) full = if full then ((c.fillRange d q full).setEmpty (codeV (d + q)) false).clearErr (codeV (d + q))
        else (c.fillRange d q full).setEmpty (codeV (d + q)) false := by
      unfold Slot.fillRange
      rw [List.range_succ, List.foldl_append]; rfl
    have hfill := (c.fillRange d q full).fill_shape (d + q) (by omega) full
    rw [hq]
    refine ⟨?_, fun i hi => ?_⟩
    · rw [hfill]
      generalize c.fillRange d q full = c1 at ihs ⊢
      rw [ihs]
    · have h1 : (if full then ((c.fillRange d q full).setEmpty (codeV (d + q)) false).clearErr (codeV (d + q))
          else (c.fillRange d q full).setEmpty (codeV (d + q)) false).isEmpty (codeV i) =
          ((c.fillRange d q full).setEmpty (codeV (d + q)) false).isEmpty (codeV i) := by
        split
        · rw [Slot.clearErr_eq]; rfl
        · rfl
      have h2 : codeV i = codeV (d + q) ↔ i = d + q := by unfold codeV; omega
      rw [h1, Slot.isEmpty_setEmpty, hasEmpty_codeV (show d + q < 64 by omega), ihe i hi]
      simp only [h2, true_and]
      by_cases hid : i = d + q
      · rw [if_pos hid, if_pos (by omega)]
      · rw [if_neg hid]
        by_cases hr : d ≤ i ∧ i < d + q
        · rw [if_pos hr, if_pos (by omega)]
        · rw [if_neg hr, if_neg (by omega)]

/-- Results in consecutive registers of the active lanes. -/
def ColumnsWritten (d q : Nat) (m : Mask) (f : Fmt) (bits : Nat → Nat → Word) (fl : Nat → Flags) (r : Nat → Word) (c c' : Slot) : Prop :=
  (∀ l, l < 64 → ∀ i, i < 64 → c'.vr i l =
    if m.getLsbD l = true ∧ d ≤ i ∧ i < d + q then ⟨bits l (i - d), f, (c.vr i l).scale⟩ else c.vr i l) ∧
  (∀ i, i < 64 → c'.isEmpty (codeV i) = if d ≤ i ∧ i < d + q then false else c.isEmpty (codeV i)) ∧
  LaneState m (fun l => some ⟨0, f, none, fl l, r l⟩) c c' ∧
  c' = { c with v := c'.v, rng := c'.rng, lanestat := c'.lanestat, vEmpty := c'.vEmpty, softErr := c'.softErr }

/-- Columns written in the active lanes, and their registers filled. -/
theorem Slot.putColumns_written (c : Slot) {d q : Nat} (hq : 0 < q) (h : d + q ≤ 64) (m : Mask) (f : Fmt) (bits : Nat → Nat → Word)
    (fl : Nat → Flags) (r : Nat → Word) (full : Prop) [Decidable full] :
    ColumnsWritten d q m f bits fl r c
      (((lanesOf m).foldl (fun c l => c.putColumn d l q (fun i => ⟨bits l i, f, none, fl l, r l⟩)) c).fillRange d q full) := by
  obtain ⟨hs, hv, hr⟩ := c.putColumns_spec d hq (out := fun l i => ⟨bits l i, f, none, fl l, r l⟩) (fl := fl) (r := r)
    (fun _ _ => ⟨rfl, rfl⟩) (fun _ h => lanesOf_lt h) (lanesOf_nodup m)
  generalize (lanesOf m).foldl (fun c l => c.putColumn d l q (fun i => ⟨bits l i, f, none, fl l, r l⟩)) c = c1 at hs hv hr ⊢
  obtain ⟨fs, fe⟩ := c1.fillRange_spec h full
  generalize c1.fillRange d q full = c2 at fs fe ⊢
  have hstat : c2.lanestat = gathered (lanesOf m) fl c.lanestat := by rw [fs, hs]
  have hvr (i l : Nat) : c2.vr i l = c1.vr i l := by rw [fs]; rfl
  have hrng (l : Nat) : c2.rngOf l = c1.rngOf l := by rw [fs]; rfl
  refine ⟨fun l hl i _ => ?_, fun i hi => ?_, ⟨?_, fun l hl => ?_⟩, ?_⟩
  · rw [hvr, hv i l hl]
    simp only [mem_lanesOf, hl, true_and]; rfl
  · rw [fe i hi]
    have : c1.isEmpty (codeV i) = c.isEmpty (codeV i) := by rw [hs]; rfl
    rw [this]
  · rw [hstat, stat_some]
  · rw [hrng, hr]
    simp [mem_lanesOf, hl]
  · rw [show c2.v = c1.v by rw [fs], show c2.rng = c1.rng by rw [fs], hstat]
    rw [hs] at fs
    exact fs

end Sys2Proof.Machine
end

section
/-!
PROOF. ACCRD and ACCWR (statement O29).
-/
namespace Sys2Proof.Machine
open Sys2Proof.Claims

/-! ### ACCRD in a lane -/

theorem accRdCell_none (g : Fmt) (k : RoundCtx) (a : BitVec 384) {post : List LaneReg} (rng : Word) (h : ∃ r ∈ post, r.tag ≠ .fp32) :
    accRdCell g k a post rng = none := by
  refine if_neg (fun hall => ?_)
  obtain ⟨r, hr, hne⟩ := h
  exact hne (by simpa using List.all_eq_true.1 hall r hr)

/-- The post-scale of column `n`: 1 without post-scale registers (R187). -/
def postVal (post : List LaneReg) (n : Nat) : Val :=
  match post[n / 2]? with
  | some r => Fmt.fp32.value false false (subElem .fp32 r.bits (n % 2))
  | none => Val.ofInt 1

theorem postVal_sharp (post : List LaneReg) (n : Nat) : (postVal post n).Sharp := by
  unfold postVal
  split
  · exact Fmt.value_sharp _ _ _ _
  · exact rfl

theorem postVal_toQ {post : List LaneReg} (h : post = [] ∨ post.length = 4) {n : Nat} (hn : n < 8) : (postVal post n).toQ =
    if post = [] then .fin false 1 else numOf .fp32 false false (subElem .fp32 (post.getD (n / 2) LaneReg.zero).bits (n % 2)) := by
  unfold postVal
  rcases h with rfl | h
  · rw [if_pos rfl]
    exact (toQ_ofInt 1).trans (by simp [Claims.ofInt])
  · have hi : n / 2 < post.length := by omega
    have h0 : post ≠ [] := fun h0 => by rw [h0] at h; cases h
    rw [if_neg h0, List.getElem?_eq_getElem hi, List.getD_eq_getElem _ _ hi]
    exact Fmt.value_toQ _ _ _ _

/-- The result of ACCRD in a column before it is rounded. -/
def readElem (g : Fmt) (a : BitVec 384) (post : List LaneReg) (n : Nat) : ElemRes :=
  if (accVal (accElem a n)).isNan || (postVal post n).isNan then .code g.nanCode flNone
  else .ofVal g ((accVal (accElem a n)).mul (postVal post n))

theorem accRdCell_some {g : Fmt} {k : RoundCtx} {a : BitVec 384} {post : List LaneReg} {rng : Word} (h : ∀ r ∈ post, r.tag = .fp32) :
    accRdCell g k a post rng = some (settle g k ((List.range 8).map (readElem g a post)) flNone rng) :=
  if_pos (List.all_eq_true.2 (fun r hr => decide_eq_true (h r hr)))

/-- Each column stands for the exact product of its element and its post-scale (R187). -/
theorem readElem_realises {g : Fmt} (hg : g = .fp32 ∨ g = .fp16 ∨ g = .bf16 ∨ g = .e4m3 ∨ g = .e5m2) {k : RoundCtx} (hk : k.mode ≠ .dyn)
    (a : BitVec 384) (post : List LaneReg) (n : Nat) :
    Realises g k (exactly (mulNum (numOf .acc48 false false (element a n)) (postVal post n).toQ)) (readElem g a post n) := by
  have hnan : hasNaN g = true := by rcases hg with rfl | rfl | rfl | rfl | rfl <;> rfl
  have hraw : g ≠ .raw := by rintro rfl; simp at hg
  have hpl : g ≠ .pl16 := by rintro rfl; simp at hg
  rw [← accElem_eq, ← accVal_toQ]
  unfold readElem
  split
  · next h =>
    rw [Bool.or_eq_true, Val.isNan_iff, Val.isNan_iff] at h
    rw [mulNum_of_nan h]
    exact Realises.nan hnan k 0
  · rw [← Val.mul_toQ (accVal_sharp _) (postVal_sharp _ _)]
    exact Realises.ofVal hraw hpl hk (Val.mul_sharp (accVal_sharp _) (postVal_sharp _ _)) (fun _ => hnan)

/-- ACCRD in a lane: eight elements, each rounded once (R56, R187). -/
theorem accRdCell_elements {g : Fmt} (hg : g = .fp32 ∨ g = .fp16 ∨ g = .bf16 ∨ g = .e4m3 ∨ g = .e5m2) {k : RoundCtx} (hk : k.mode ≠ .dyn)
    (a : BitVec 384) {post : List LaneReg} (rng : Word) (hlen : post = [] ∨ post.length = 4) (h : ∀ r ∈ post, r.tag = .fp32) :
    ∃ cs fl rng', accRdCell g k a post rng = some (cs, fl, rng') ∧ cs.length = 8 ∧
      Elements g k 8 (fun n => exactly (mulNum (numOf .acc48 false false (element a n)) (if post = [] then .fin false 1
        else numOf .fp32 false false (subElem .fp32 (post.getD (n / 2) LaneReg.zero).bits (n % 2))))) rng (fun n => cs.getD n 0) fl rng' := by
  refine ⟨_, _, _, accRdCell_some h, by simp [settle_length], ?_⟩
  have hes := (settle_elements (g := g) (k := k) (es := (List.range 8).map (readElem g a post)) rng
    (x := fun n => exactly (mulNum (numOf .acc48 false false (element a n)) (if post = [] then .fin false 1
        else numOf .fp32 false false (subElem .fp32 (post.getD (n / 2) LaneReg.zero).bits (n % 2))))) (fun n hn => by
      have hn' : n < 8 := by simpa using hn
      have hr := readElem_realises hg hk a post n
      rw [postVal_toQ hlen hn'] at hr
      simpa using hr)).1
  rw [List.length_map, List.length_range] at hes
  exact hes

end Sys2Proof.Machine
end

section
/-!
PROOF. ACCRD and ACCWR as words (statement O29).
-/
namespace Sys2Proof.Machine
open Sys2Proof.Claims

/-! ### ACCRD -/

/-- The post-scale registers of a lane. -/
def postRegs (s : State) (b : Option RSrc) (l : Nat) : List LaneReg :=
  b.elim [] (fun r => (List.range 4).map (fun i => (here s).vr (r.reg + i) l))

/-- What ACCRD reads in a lane: the codes, the flags and the RNG state. -/
def readOut (s : State) (a : ASrc) (b : Option RSrc) (f : Fmt) (k : RoundCtx) (l : Nat) : List Nat × Flags × Word :=
  settle f k ((List.range 8).map (readElem f ((here s).ar a.reg l) (postRegs s b l))) flNone (drawn s l)

theorem readOut_length (s : State) (a : ASrc) (b : Option RSrc) (f : Fmt) (k : RoundCtx) (l : Nat) : (readOut s a b f k l).1.length = 8 := by
  rw [readOut, settle_length, List.length_map, List.length_range]

/-- The bits of a lane's register `i` among those that ACCRD writes. -/
def readBits (f : Fmt) (o : List Nat × Flags × Word) (i : Nat) : Word := joinElems f ((o.1.drop (i * f.count)).take f.count)

/-- ACCRD's results in D. -/
theorem State.putReads_v (u : State) (k : Nat) (d : Fin 64) (f : Fmt) (m : Mask) (o : Nat → List Nat × Flags × Word)
    (hq : 0 < 8 / f.count) (hd : d.val + 8 / f.count ≤ 64) :
    SlotChanged k (ColumnsWritten d (8 / f.count) m f (fun l => readBits f (o l)) (fun l => (o l).2.1) (fun l => (o l).2.2)) u
      (u.putReads k (.v d) f ((lanesOf m).map (fun l => (l, o l)))) := by
  have h : u.putReads k (.v d) f ((lanesOf m).map (fun l => (l, o l))) = u.modSlot k (fun c =>
      ((lanesOf m).foldl (fun c l => c.putColumn d l (8 / f.count)
        (fun i => ⟨readBits f (o l) i, f, none, (o l).2.1, (o l).2.2⟩)) c).fillRange d (8 / f.count)
        (((lanesOf m).map (fun l => (l, o l))).length = 64)) := by
    simp only [State.putReads, List.foldl_map]
    rfl
  rw [h]
  exact .modSlot (Slot.putColumns_written _ hq hd m f _ _ _ _)

/-- ACCRD's results to the south port. -/
theorem State.putReads_s (u : State) (k : Nat) (f : Fmt) (m : Mask) (o : Nat → List Nat × Flags × Word) :
    SlotChanged k (LanesSent 4 m (fun l => some (readLane f (o l)))) u (u.putReads k .s f ((lanesOf m).map (fun l => (l, o l)))) := by
  have h : u.putReads k .s f ((lanesOf m).map (fun l => (l, o l))) = u.putV k 4 .s ((lanesOf m).map (fun l => (l, readLane f (o l)))) := by
    simp only [State.putReads, List.map_map]
    rfl
  rw [h]
  exact State.putV_lanes u k 4 .s m _

/-- The registers that a read-out fills. -/
def readDsts (d : VDst) (q : Nat) : List Nat :=
  match d with
  | .v d => (List.range q).map (fun i => codeV (d + i))
  | .s => []

/-- A check that passes hands on its result. -/
theorem Except.bind_of_ok {ε α β : Type} {x : Except ε α} {a : α} {f : α → Except ε β} (h : x = .ok a) : (x >>= f) = f a := by
  rw [h]; rfl

theorem accrdEffect_eq {g : Option Guard} {d : VDst} {a : ASrc} {b : Option RSrc} {f : Fmt} {rm : RMode} {sat clr : Bool} {s : State}
    (hr : Ready s (aUse 0 a ++ b.elim [] (rUses 1 4)) (readDsts d (8 / f.count)))
    (hp : PortsOk s (aUse 0 a ++ b.elim [] (rUses 1 4)) (southOf d .vv) .vv (lanesOn s g))
    (hpost : ∀ l ∈ lanesOf (lanesOn s g), ∀ r ∈ postRegs s b l, r.tag = .fp32) :
    accrdEffect g d a b f rm sat clr s.cur s = .ok (fun t =>
      let t := (t.takesMasked s.cur (aUse 0 a ++ b.elim [] (rUses 1 4)) (lanesOn s g)).putReads s.cur d f
        ((lanesOf (lanesOn s g)).map (fun l => (l, readOut s a b f (roundBy s rm sat false) l)))
      if clr then t.modSlot s.cur (fun c => c.putAccs a.reg ((lanesOf (lanesOn s g)).map (fun l => (l, 0#384)))) else t) := by
  have hrun : tagCheck (runLanes (lanesOn s g) (fun l => accRdCell f ((s.slot s.cur).ctx rm sat false) ((s.slot s.cur).ar a.reg l)
      (postRegs s b l) (s.rngAt s.cur l))) = _ :=
    runLanes_of (g := readOut s a b f (roundBy s rm sat false)) (fun l hl => accRdCell_some (hpost l hl))
  have hready := State.laneReady_of hr hp
  unfold accrdEffect
  dsimp only
  rw [lanesOn_eq]
  cases d <;> exact (Except.bind_of_ok hready).trans (Except.bind_of_ok hrun)

theorem count_of_readable {f : Fmt} (hf : f = .fp32 ∨ f = .fp16 ∨ f = .bf16 ∨ f = .e4m3 ∨ f = .e5m2) : 0 < 8 / f.count := by
  rcases hf with rfl | rfl | rfl | rfl | rfl <;> decide

/-- ACCRD's results, and the accumulator that CLR then clears (R187). -/
theorem accrd_changes (u : State) (k : Nat) (d : VDst) (f : Fmt) (m : Mask) (o : Nat → List Nat × Flags × Word) (clr : Bool) (a : Fin 4)
    {P : Slot → Slot → Prop} (h : SlotChanged k P u (u.putReads k d f ((lanesOf m).map (fun l => (l, o l))))) :
    SlotChanged k (fun c c' => ∃ c1, P c c1 ∧ if clr then AccWritten a m (fun _ => 0) c1 c' else c' = c1) u
      (let t := u.putReads k d f ((lanesOf m).map (fun l => (l, o l)))
       if clr then t.modSlot k (fun c => c.putAccs a ((lanesOf m).map (fun l => (l, 0#384)))) else t) := by
  cases clr with
  | false => exact h.mono (fun c' hc => ⟨c', hc, rfl⟩)
  | true =>
    have hz (t : State) : SlotChanged k (AccWritten a m (fun _ => 0)) t (t.modSlot k (fun c =>
        c.putAccs a ((lanesOf m).map (fun l => (l, 0#384))))) := .modSlot (Slot.putAccs_written _ a m (fun _ => 0))
    exact h.trans (hz _)

/-- ACCRD completes (R187). -/
theorem accrd_acts {g : Option Guard} {d : VDst} {a : ASrc} {b : Option RSrc} {f : Fmt} {rm : RMode} {sat clr : Bool} {s : State}
    {P : Slot → Slot → Prop} (hc : CanIssue s)
    (hr : Ready s (aUse 0 a ++ b.elim [] (rUses 1 4)) (readDsts d (8 / f.count)))
    (hp : PortsOk s (aUse 0 a ++ b.elim [] (rUses 1 4)) (southOf d .vv) .vv (lanesOn s g))
    (hpost : ∀ l ∈ lanesOf (lanesOn s g), ∀ r ∈ postRegs s b l, r.tag = .fp32)
    (hP : ∀ u : State, SlotChanged s.cur P u (u.putReads s.cur d f
      ((lanesOf (lanesOn s g)).map (fun l => (l, readOut s a b f (roundBy s rm sat false) l))))) :
    LaneActs (.accrd g d a b f rm sat clr) s (aUse 0 a ++ b.elim [] (rUses 1 4)) (lanesOn s g) 8 (fun c c' => ∃ c1, P c c1 ∧
      if clr then AccWritten a.reg (lanesOn s g) (fun _ => 0) c1 c' else c' = c1) :=
  laneActs_of_ok hc rfl (accrdEffect_eq hr hp hpost)
    (w := fun t =>
      let t := t.putReads s.cur d f ((lanesOf (lanesOn s g)).map (fun l => (l, readOut s a b f (roundBy s rm sat false) l)))
      if clr then t.modSlot s.cur (fun c => c.putAccs a.reg ((lanesOf (lanesOn s g)).map (fun l => (l, 0#384)))) else t)
    (accrd_changes _ _ d f _ _ clr a.reg (hP _))

/-- All eight codes are those of one register where the format has eight elements. -/
theorem readBits_of_eight {f : Fmt} (hf : f.count = 8) {o : List Nat × Flags × Word} (hlen : o.1.length = 8) :
    joinElems f o.1 = readBits f o 0 := by
  rw [readBits, Nat.zero_mul, List.drop_zero, hf, List.take_of_length_le hlen.le]

/-! ### ACCWR -/

/-- The registers that eight elements of a tag take (R188). -/
theorem accRegs_eq_some {f : Fmt} {n : Nat} : accRegs f = some n ↔
    ((f = .fp32 ∨ f = .i32) ∧ n = 4 ∨ (f = .fp16 ∨ f = .bf16) ∧ n = 2 ∨ f = .acc48 ∧ n = 8) := by
  cases f <;> simp [accRegs, eq_comm]

theorem accRegs_count {f : Fmt} {n : Nat} (h : accRegs f = some n) : n * f.count = 8 := by
  rcases accRegs_eq_some.1 h with ⟨rfl | rfl, rfl⟩ | ⟨rfl | rfl, rfl⟩ | ⟨rfl, rfl⟩ <;> rfl

theorem foldl_max_eq {ls : List Nat} {q a : Nat} (hq : q ∈ ls ∨ q = a) (ha : a ≤ q) (hle : ∀ x ∈ ls, x ≤ q) : ls.foldl max a = q := by
  induction ls generalizing a with
  | nil => exact (hq.resolve_left List.not_mem_nil).symm
  | cons x ls ih =>
    obtain ⟨hx, hls⟩ := List.forall_mem_cons.1 hle
    refine ih ?_ (Nat.max_le.2 ⟨ha, hx⟩) hls
    rcases hq with hq | rfl
    · rcases List.mem_cons.1 hq with rfl | hq
      · exact .inr (Nat.max_eq_right ha).symm
      · exact .inl hq
    · exact .inr (Nat.max_eq_left hx).symm

/-- The largest group of the active lanes (R188). -/
theorem accwrSpan_eq {s : State} {a : RSrc} {m : Mask} {q : Nat}
    (hq : m = 0 ∧ q = 1 ∨ ∃ l, l < 64 ∧ m.getLsbD l = true ∧ accRegs ((here s).vr a.reg l).tag = some q)
    (hle : ∀ l, l < 64 → m.getLsbD l = true → ∃ n, accRegs ((here s).vr a.reg l).tag = some n ∧ n ≤ q) :
    accwrSpan s s.cur a m = q := by
  have hmem : ∀ x ∈ (lanesOf m).map (fun l => (accRegs ((s.slot s.cur).vr a.reg l).tag).getD 1), x ≤ q := by
    intro x hx
    obtain ⟨l, hl, rfl⟩ := List.mem_map.1 hx
    obtain ⟨n, hn, hnq⟩ := hle l (mem_lanesOf.1 hl).1 (mem_lanesOf.1 hl).2
    rw [here] at hn
    rw [hn]; exact hnq
  refine foldl_max_eq ?_ ?_ hmem
  · rcases hq with ⟨-, rfl⟩ | ⟨l, hl, hm, h⟩
    · exact .inr rfl
    · rw [here] at h
      exact .inl (List.mem_map.2 ⟨l, mem_lanesOf.2 ⟨hl, hm⟩, by rw [h]; rfl⟩)
  · rcases hq with ⟨-, rfl⟩ | ⟨l, hl, hm, h⟩
    · exact le_refl 1
    · rcases accRegs_eq_some.1 h with ⟨-, rfl⟩ | ⟨-, rfl⟩ | ⟨-, rfl⟩ <;> decide

/-- The accumulator that ACCWR writes in a lane. -/
def writtenAcc (s : State) (a : RSrc) (l : Nat) : BitVec 384 :=
  let f := ((here s).vr a.reg l).tag
  accWrCell f ((List.range ((accRegs f).getD 0)).map (fun i => (here s).vr (a.reg + i) l))

/-- Each element of ACCWR's accumulator is one rounding of a register's element (R188). -/
theorem element_accWrCell (f : Fmt) (regs : List LaneReg) {j : Nat} (hj : j < 8) : ∃ fl,
    RoundsACC (numOf f false false (subElem f (regs.getD (j / f.count) LaneReg.zero).bits (j % f.count))) (element (accWrCell f regs) j) fl := by
  have hr (j : Nat) := roundACC_rounds (Fmt.value_sharp f false false (subElem f (regs.getD (j / f.count) LaneReg.zero).bits (j % f.count)))
  have he : element (accWrCell f regs) j = _ := element_accOf_map hj (RoundsACC.code_lt (hr j))
  rw [he, ← Fmt.value_toQ]
  exact ⟨_, hr j⟩

theorem writtenAcc_elements {s : State} {a : RSrc} {l n : Nat} (h : accRegs ((here s).vr a.reg l).tag = some n) {j : Nat} (hj : j < 8) :
    let f := ((here s).vr a.reg l).tag
    ∃ fl, RoundsACC (numOf f false false (subElem f ((here s).vr (a.reg + j / f.count) l).bits (j % f.count)))
      (element (writtenAcc s a l) j) fl := by
  intro f
  have hlt : j / f.count < n := Nat.div_lt_of_lt_mul (by rw [Nat.mul_comm, accRegs_count h]; exact hj)
  have hr := element_accWrCell f ((List.range n).map (fun i => (here s).vr (a.reg + i) l)) hj
  rw [List.getD_eq_getElem _ _ (by simpa using hlt)] at hr
  have hw : writtenAcc s a l = accWrCell f ((List.range n).map (fun i => (here s).vr (a.reg + i) l)) := by
    rw [writtenAcc, h]; rfl
  rw [hw]
  simpa using hr

/-- A group of registers is read like its first one and all the others. -/
theorem Ready_rUse {s : State} {q : Nat} {a : RSrc} {ds : List Nat} (hq : 0 < q) (h : Ready s (rUses 0 q a) ds) : Ready s (rUse 0 a) ds :=
  ⟨fun u hu => h.1 u (List.mem_map.2 ⟨0, List.mem_range.2 hq, (List.mem_singleton.1 hu).symm⟩), h.2⟩

theorem accwrEffect_eq {g : Option Guard} {d : Fin 4} {a : RSrc} {v : Band} {q : Nat} {s : State} (hv : s.bandOf s.cur = some v)
    (hspan : accwrSpan s s.cur a (lanesOn s g) = q) (hq : 0 < q)
    (htag : ∀ l ∈ lanesOf (lanesOn s g), ∃ n, accRegs ((here s).vr a.reg l).tag = some n ∧
      ∀ i, i < n → ((here s).vr (a.reg + i) l).tag = ((here s).vr a.reg l).tag)
    (h64 : a.reg.val + q ≤ 64) (hregs : a.reg.val + q ≤ v.vregs) (hr : Ready s (rUses 0 q a) [codeA d]) :
    accwrEffect g d a s.cur s = .ok (fun t => (t.takes s.cur (rUses 0 q a)).modSlot s.cur (fun c =>
      c.putAccs d ((lanesOf (lanesOn s g)).map (fun l => (l, writtenAcc s a l))))) := by
  have hrun : tagCheck (runLanes (lanesOn s g) (fun l =>
      match accRegs ((here s).vr a.reg l).tag with
      | some n =>
        if ((List.range n).map (fun i => (here s).vr (a.reg + i) l)).all (fun r => r.tag = ((here s).vr a.reg l).tag) then
          some (accWrCell ((here s).vr a.reg l).tag ((List.range n).map (fun i => (here s).vr (a.reg + i) l))) else none
      | none => none)) = _ := runLanes_of (g := writtenAcc s a) (fun l hl => by
    obtain ⟨n, hn, hall⟩ := htag l hl
    rw [hn, writtenAcc, hn]
    refine if_pos ?_
    rw [List.all_map, List.all_eq_true]
    exact fun i hi => decide_eq_true (hall i (List.mem_range.1 hi)))
  have hvregs : s.vregsOf s.cur = v.vregs := by rw [State.vregsOf, hv]
  unfold accwrEffect
  dsimp only
  rw [lanesOn_eq, hspan, hvregs, if_neg (by omega)]
  exact (Except.bind_of_ok (State.ready_of (Ready_rUse hq hr))).trans ((Except.bind_of_ok (State.ready_of ⟨hr.1, by simp⟩)).trans
    (Except.bind_of_ok hrun))

end Sys2Proof.Machine
end

section
open Sys2Proof Sys2Proof.Claims Sys2Proof.Machine

/-- Settles O29: ACCRD settles eight products in each lane and writes them to a column of registers; ACCWR rounds each element of its
group of registers. -/
theorem accumulatorReadsAndWrites : Obligations.AccumulatorReadsAndWrites := by
  refine ⟨fun g d a b f rm sat clr s hc hf hd hs hr hp hb => ?_, fun g d a v q s hc hv hq htag h64 hregs hr => ?_,
    fun g k a post rng hg hk hlen => ⟨accRdCell_elements hg hk a rng hlen, accRdCell_none g k a rng⟩⟩
  · have hpost : ∀ l ∈ lanesOf (lanesOn s g), ∀ r ∈ postRegs s b l, r.tag = .fp32 := by
      intro l hl r hr
      cases b with
      | none => exact absurd hr List.not_mem_nil
      | some p =>
        obtain ⟨i, hi, rfl⟩ := List.mem_map.1 hr
        exact hb p rfl l (mem_lanesOf.1 hl).1 (mem_lanesOf.1 hl).2 i (List.mem_range.1 hi)
    have hout (l : Nat) (hl : l < 64) (hm : (lanesOn s g).getLsbD l = true) :
        accRdCell f (roundBy s rm sat false) ((here s).ar a.reg l) (postRegs s b l) (drawn s l) =
          some (readOut s a b f (roundBy s rm sat false) l) := accRdCell_some (hpost l (mem_lanesOf.2 ⟨hl, hm⟩))
    have hcodes (l : Nat) (hl : l < 64) (hm : (lanesOn s g).getLsbD l = true) (i : Nat) :
        joinElems f (((((accRdCell f (roundBy s rm sat false) ((here s).ar a.reg l) (postRegs s b l) (drawn s l)).map Prod.fst).getD
          []).drop (i * f.count)).take f.count) = readBits f (readOut s a b f (roundBy s rm sat false) l) i := by
      rw [hout l hl hm]; rfl
    cases d with
    | v d =>
      refine ActsIn.mono (accrd_acts hc hr hp hpost (fun u => State.putReads_v u s.cur d f _ _ (count_of_readable hf) (hd d rfl))) ?_
      rintro c c' ⟨c1, ⟨hv, he, hl, hs⟩, hclr⟩
      refine ⟨c1, ⟨fun l hl i hi => (hv l hl i hi).trans ?_, he, LaneState.congr hl (fun l hl hm => ?_), hs⟩, hclr⟩
      · split
        · next h => exact congrArg (fun w => (⟨w, f, (c.vr i l).scale⟩ : LaneReg)) (hcodes l hl h.1 (i - d)).symm
        · rfl
      · rw [Option.map_map]
        exact congrArg (Option.map (fun o : List Nat × Flags × Word => (o.2.1, o.2.2))) (hout l hl hm).symm
    | s =>
      have h8 : f.count = 8 := by rcases hs rfl with rfl | rfl <;> rfl
      refine ActsIn.mono (accrd_acts hc hr hp hpost (fun u => State.putReads_s u s.cur f _ _)) ?_
      rintro c c' ⟨c1, h, hclr⟩
      refine ⟨c1, LanesSent.congr h (fun l hl hm => ?_), hclr⟩
      refine Eq.trans ?_ (congrArg (Option.map _) (hout l hl hm).symm)
      rw [readLane, readBits_of_eight h8 (readOut_length s a b f _ l)]
      exact congrArg (fun w => some (⟨w, f, none, _, _⟩ : LaneOut)) (hcodes l hl hm 0).symm
  · have hq0 : 0 < q := by
      rcases hq with ⟨-, rfl⟩ | ⟨l, -, -, h⟩
      · exact Nat.one_pos
      · rcases h with ⟨-, rfl⟩ | ⟨-, rfl⟩ | ⟨-, rfl⟩ <;> decide
    simp only [← accRegs_eq_some] at hq htag
    have hspan := accwrSpan_eq hq (fun l hl hm => by
      obtain ⟨n, hn, hnq, -⟩ := htag l hl hm
      exact ⟨n, hn, hnq⟩)
    refine acts_modSlot hc rfl (accwrEffect_eq hv hspan hq0 (fun l hl => ?_) h64 hregs hr) (fun c =>
      ⟨writtenAcc s a, fun l hl hm n hn => ?_, Slot.putAccs_written c d _ (writtenAcc s a)⟩)
    · obtain ⟨n, hn, -, hall⟩ := htag l (mem_lanesOf.1 hl).1 (mem_lanesOf.1 hl).2
      exact ⟨n, hn, hall⟩
    · obtain ⟨k, hk, -, -⟩ := htag l hl hm
      exact writtenAcc_elements hk hn
end

section
/-!
SUPPORT. Pleiad words: the coordinates that the model holds doubled are those of Tables 2.3 to 2.5 (spec/02 R40 to R43).
-/
namespace Sys2Proof
open Sys2Proof.Claims

/-- A rational that is half an integer over two is whole where the integer divides by 4. -/
theorem den_quarter (n : Int) : ((n : Rat) / 4).den = 1 ↔ n % 4 = 0 := by
  rw [show (4 : Rat) = ((4 : Int) : Rat) by norm_num, ← Int.dvd_iff_emod_eq_zero]
  constructor
  · intro h
    obtain ⟨k, hk⟩ : ∃ k : Int, (n : Rat) / (4 : Int) = k := ⟨_, (Rat.coe_int_num_of_den_eq_one h).symm⟩
    refine ⟨k, ?_⟩
    have : (n : Rat) = (4 : Int) * k := by rw [← hk]; field_simp
    exact_mod_cast this
  · rintro ⟨k, rfl⟩
    have : (((4 * k : Int)) : Rat) / (4 : Int) = (k : Rat) := by push_cast; field_simp
    rw [this]
    exact Rat.den_intCast k

/-- A code's coordinate, doubled (Table 2.4). -/
def halfCoord (h : Bool) (c : Nat) : Rat :=
  match c with
  | 0 => if h then 1 / 2 else 0
  | 1 => if h then 3 / 2 else 1
  | 2 => if h then -1 / 2 else -1
  | _ => if h then -3 / 2 else 2

theorem plCoord_eq (h : Bool) (c : Nat) : (plCoord h c : Rat) = 2 * halfCoord h c := by
  match c with
  | 0 => cases h <;> norm_num [plCoord, halfCoord]
  | 1 => cases h <;> norm_num [plCoord, halfCoord]
  | 2 => cases h <;> norm_num [plCoord, halfCoord]
  | n + 3 =>
    have hc : halfCoord h (n + 3) = if h then -3 / 2 else 2 := rfl
    rw [hc]
    cases h <;> norm_num [plCoord] <;> rw [if_neg (by omega), if_neg (by omega)]

/-- The model's coordinates are the word's, doubled. -/
theorem plDecode_coordinate (w : Nat) {i : Nat} (hi : i < 8) : (((plDecode w).getD i 0 : Int) : Rat) = 2 * coordinate w i := by
  have hc : coordinate w i = if i < 7 then halfCoord (w.testBit 15) (w / 4 ^ i % 4) else
      let sum := ((List.range 7).map (fun j => halfCoord (w.testBit 15) (w / 4 ^ j % 4))).sum
      let even (r : Rat) : Bool := decide ((r / 2).den = 1)
      if w.testBit 15 then
        (if even (sum + 1 / 2) then (if w.testBit 14 then -3 / 2 else 1 / 2) else if w.testBit 14 then 3 / 2 else -1 / 2)
      else if even sum then (if w.testBit 14 then 2 else 0) else if w.testBit 14 then -1 else 1 := rfl
  have hsum : ((((List.range 7).map (fun j => plCoord (w.testBit 15) (w / 4 ^ j % 4))).sum : Int) : Rat) =
      2 * ((List.range 7).map (fun j => halfCoord (w.testBit 15) (w / 4 ^ j % 4))).sum := by
    simp only [List.range, List.range.loop, List.map_cons, List.map_nil, List.sum_cons, List.sum_nil, Int.cast_add, plCoord_eq, Int.cast_zero]
    ring
  rw [hc]
  by_cases h7 : i < 7
  · rw [if_pos h7, plDecode, List.getD_append _ _ _ _ (by simpa using h7), List.getD_eq_getElem _ _ (by simpa using h7)]
    simp [plCoord_eq]
  · obtain rfl : i = 7 := by omega
    have hl : (plDecode w).getD 7 0 = plLast (w.testBit 15) (w.testBit 14)
        ((List.range 7).map (fun j => plCoord (w.testBit 15) (w / 4 ^ j % 4))).sum := by
      rw [plDecode, List.getD_append_right _ _ _ _ (by simp)]
      simp
    rw [hl, if_neg h7]
    generalize ((List.range 7).map (fun j => plCoord (w.testBit 15) (w / 4 ^ j % 4))).sum = S at hsum
    dsimp only
    generalize ((List.range 7).map (fun j => halfCoord (w.testBit 15) (w / 4 ^ j % 4))).sum = r at hsum
    have h1 : (r + 1 / 2) / 2 = ((S + 1 : Int) : Rat) / 4 := by push_cast; rw [hsum]; ring
    have h2 : r / 2 = (S : Rat) / 4 := by rw [hsum]; ring
    simp only [h1, h2, den_quarter, decide_eq_true_eq, plLast]
    cases w.testBit 15 <;> cases w.testBit 14 <;> simp only [if_true, if_false, Bool.false_eq_true] <;> split_ifs <;> norm_num

theorem plDecode_length (w : Nat) : (plDecode w).length = 8 := by simp [plDecode]

/-- A Pleiad word's value at a place, under a scale that is no NaN or 2^0 (R43). -/
theorem decodePL16_toQ (w : Nat) (sc : BitVec 8) {i : Nat} (hi : i < 8) : ((decodePL16 w sc).getD i .nan).toQ =
    (Quantity.fin (decide (coordinate w i < 0)) (coordinate w i)).scaled sc := by
  have hget : (decodePL16 w sc).getD i .nan = applyScale sc ((Val.ofInt ((plDecode w).getD i 0)).scale (-1)) := by
    have h8 := plDecode_length w
    rw [decodePL16, List.getD_eq_getElem _ _ (by simpa [h8] using hi), List.getD_eq_getElem _ _ (by simpa [h8] using hi)]
    simp
  have hx := plDecode_coordinate w hi
  have hneg : (plDecode w).getD i 0 < 0 ↔ coordinate w i < 0 := by
    rw [← Int.cast_lt_zero (R := Rat), hx]
    constructor <;> intro h <;> linarith
  rw [hget, applyScale_toQ, toQ_scale, toQ_ofInt, Claims.ofInt, Quantity.times, hx]
  simp only [hneg]
  rw [show (2 * coordinate w i) * (2 : Rat) ^ (-1 : Int) = coordinate w i by rw [zpow_neg_one]; ring]

theorem decodePL16_sharp (w : Nat) (sc : BitVec 8) (i : Nat) : ((decodePL16 w sc).getD i .nan).Sharp := by
  rw [List.getD_eq_getElem?_getD]
  cases h : (decodePL16 w sc)[i]? with
  | none => exact trivial
  | some v =>
    obtain ⟨x, -, rfl⟩ := List.mem_map.1 (List.mem_of_getElem? h)
    exact Val.Sharp.applyScale (Val.Sharp.scale (show (Val.ofInt x).Sharp from rfl) _) _

theorem scaled_127 (x : Quantity) : x.scaled 127 = x := by
  have h : (127 : BitVec 8) ≠ 255 := by decide
  rw [Quantity.scaled, if_neg h]
  cases x with
  | fin n r => simp [Quantity.times]
  | _ => rfl

end Sys2Proof
end

section
/-!
SUPPORT. One column of a tensor step: operands, weights under their column scales, and the sum of the products, rounded once
(spec/02 R55, spec/08 R175, R176, R181, R182).
-/
namespace Sys2Proof.Machine
open Sys2Proof.Claims

/-! ### Pairs of formats (Table 8.6) -/

theorem tensorWidth_eq (f t : Fmt) (sparse : Bool) : tensorWidth f t sparse = widthOf f t sparse := by
  cases f <;> cases t <;> cases sparse <;> rfl

theorem tensorSlices_eq (f t : Fmt) : tensorSlices f t = slicesOf f t := by
  unfold tensorSlices slicesOf
  by_cases ht : t = .pl16
  · rw [if_pos ht, if_neg (not_not.2 ht)]
    cases f <;> rfl
  · rw [if_neg ht, if_pos ht]

/-! ### Operands -/

/-- Element `k` of operand A (R182). -/
theorem tensorA_toQ {regs : List LaneReg} (h : regs ≠ []) (k : Nat) : (tensorA regs k).toQ = stepA regs k := by
  obtain ⟨r, t, rfl⟩ := List.exists_cons_of_ne_nil h
  have hd : t.headD r = t.getD 0 r := by cases t <;> rfl
  simp only [tensorA, stepA, List.getD_cons_zero, List.getD_cons_succ, ← hd]
  generalize (if k < r.tag.count then r else t.headD r) = q
  split
  · rw [applyScale_toQ, Fmt.value_toQ]
  · rw [Fmt.value_toQ]

theorem tensorA_sharp (regs : List LaneReg) (k : Nat) : (tensorA regs k).Sharp := by
  cases regs with
  | nil => trivial
  | cons r t =>
    simp only [tensorA]
    generalize (if k < r.tag.count then r else t.headD r) = q
    split
    · exact (Fmt.value_sharp _ _ _ _).applyScale _
    · exact Fmt.value_sharp _ _ _ _

/-! ### Weights -/

/-- A stored element of a weight register. -/
theorem weightElem_eq (w : WReg) (i : Nat) : weightElem w i = w.data.toNat / 2 ^ (i * w.tag.bits) % 2 ^ w.tag.bits := by
  rw [weightElem, Nat.shiftRight_eq_div_pow]

theorem metaCode_eq (w : BitVec 128) (g n : Nat) : metaCode w g n = w.toNat / 2 ^ (4 * (8 * g + n)) % 16 := by
  rw [metaCode, Nat.shiftRight_eq_div_pow]

/-- The weight of a row and column before its column scale (R175, R176). -/
def weightNum (w : WReg) (slice K k n : Nat) : Quantity :=
  let stored (i : Nat) : Quantity := numOf w.tag false false (w.data.toNat / 2 ^ (i * w.tag.bits) % 2 ^ w.tag.bits)
  let code := w.mdata.toNat / 2 ^ (4 * (8 * (k / 4) + n)) % 16
  if w.sparse then
    if k % 4 = code % 4 then stored (8 * (2 * (k / 4)) + n)
    else if k % 4 = code / 4 then stored (8 * (2 * (k / 4) + 1) + n) else .fin false 0
  else if w.tag = .pl16 then
    let v := coordinate (w.data.toNat / 2 ^ (16 * (slice * K + k)) % 2 ^ 16) n
    .fin (decide (v < 0)) v
  else stored (8 * k + n)

theorem weightAt_toQ (w : WReg) (slice K k : Nat) {n : Nat} (hn : n < 8) : (weightAt w slice K k n).toQ = weightNum w slice K k n := by
  have hz : (Val.zero false).toQ = .fin false 0 := by simp [Val.zero, toQ_fin]
  simp only [weightAt, weightNum, metaCode_eq, weightElem_eq, Nat.shiftRight_eq_div_pow]
  split_ifs
  · rw [Fmt.value_toQ]
  · rw [Fmt.value_toQ]
  · exact hz
  · exact (decodePL16_toQ _ _ hn).trans (scaled_127 _)
  · rw [Fmt.value_toQ]

theorem weightAt_sharp (w : WReg) (slice K k n : Nat) : (weightAt w slice K k n).Sharp := by
  simp only [weightAt]
  split_ifs
  · exact Fmt.value_sharp _ _ _ _
  · exact Fmt.value_sharp _ _ _ _
  · rfl
  · exact decodePL16_sharp _ _ _
  · exact Fmt.value_sharp _ _ _ _

/-- The weight under its column scale (R55). -/
theorem scaledWeight_toQ (w : WReg) (slice K k : Nat) {n : Nat} (hn : n < 8) : (scaledWeight w slice K k n).toQ = stepW w slice K k n := by
  have hs : stepW w slice K k n = if w.tag.isMx = true ∨ w.tag = .pl16 then
      (weightNum w slice K k n).scaled (BitVec.ofNat 8 (w.scales.toNat / 256 ^ n)) else weightNum w slice K k n := rfl
  have hu : w.tag.usesScale = true ↔ w.tag.isMx = true ∨ w.tag = .pl16 := by simp [Fmt.usesScale]
  rw [scaledWeight, hs]
  simp only [hu]
  split_ifs
  · rw [applyScale_toQ, weightAt_toQ w slice K k hn]; rfl
  · exact weightAt_toQ w slice K k hn

theorem scaledWeight_sharp (w : WReg) (slice K k n : Nat) : (scaledWeight w slice K k n).Sharp := by
  unfold scaledWeight
  split
  · exact (weightAt_sharp _ _ _ _ _).applyScale _
  · exact weightAt_sharp _ _ _ _ _

/-! ### Sums that hold both infinities -/

/-- Both infinities among the terms of a sum are invalid (log entry 51). -/
theorem infClash_eq (ts : List Val) : infClash ts =
    if .inf false ∈ ts.map Val.toQ ∧ .inf true ∈ ts.map Val.toQ then flInvalid else 0 := by
  have h (n : Bool) : ts.contains (.inf n) = true ↔ .inf n ∈ ts.map Val.toQ := by
    rw [List.contains_iff_mem, List.mem_map]
    constructor
    · exact fun hm => ⟨_, hm, rfl⟩
    · rintro ⟨v, hv, hq⟩
      rwa [(Val.eq_inf_iff v n).2 hq] at hv
  unfold infClash
  simp only [Bool.and_eq_true, h]
  rfl

/-- A sum's own flag says no more. -/
theorem clash_or_addNum (mode : RMode) (xs : List Quantity) :
    (if .inf false ∈ xs ∧ .inf true ∈ xs then flInvalid else 0) ||| (addNum mode xs).2 =
      if .inf false ∈ xs ∧ .inf true ∈ xs then flInvalid else 0 := by
  have h0 (x : Flags) : x ||| 0 = x := BitVec.or_zero
  by_cases h : .inf false ∈ xs ∧ .inf true ∈ xs
  · rw [if_pos h, addNum, if_pos h]
    split
    · exact h0 _
    · exact BitVec.or_self
  · rw [if_neg h, addNum, if_neg h]
    dsimp only
    split_ifs <;> exact h0 _

/-! ### A column -/

/-- The terms of a column: the element added to, then the products of the step's rows. -/
def columnTerms (regs : List LaneReg) (w : WReg) (rows K slice acc n : Nat) : List Val :=
  accVal acc :: (products ((List.range rows).map (fun k => (tensorA regs k, scaledWeight w slice K k n)))).1

theorem tensorColumn_eq (regs : List LaneReg) (w : WReg) (kw K slice acc n : Nat) :
    let rows := if kw = 0 then K else kw
    let ts := columnTerms regs w rows K slice acc n
    let r := roundACC (sumVals ts .rne).1
    tensorColumn regs w kw K slice acc n = (r.1,
      (products ((List.range rows).map (fun k => (tensorA regs k, scaledWeight w slice K k n)))).2 ||| infClash ts |||
        (sumVals ts .rne).2 ||| r.2) := rfl

/-- The terms are the exact products and the element added to (R55). -/
theorem columnTerms_toQ {regs : List LaneReg} (hr : regs ≠ []) (w : WReg) (rows K slice acc : Nat) {n : Nat} (hn : n < 8) :
    let ps := (List.range rows).map (fun k => mulNum (stepA regs k) (stepW w slice K k n))
    (columnTerms regs w rows K slice acc n).map Val.toQ = numOf .acc48 false false acc :: ps.map Prod.fst ∧
    (products ((List.range rows).map (fun k => (tensorA regs k, scaledWeight w slice K k n)))).2 = (ps.map Prod.snd).foldl (· ||| ·) 0 ∧
    ∀ v ∈ columnTerms regs w rows K slice acc n, v.Sharp := by
  intro ps
  obtain ⟨h1, h2, h3⟩ := products_toQ (xs := (List.range rows).map (fun k => (tensorA regs k, scaledWeight w slice K k n)))
    (fun p hp => by
      obtain ⟨k, -, rfl⟩ := List.mem_map.1 hp
      exact ⟨tensorA_sharp regs k, scaledWeight_sharp w slice K k n⟩)
  have hps : ((List.range rows).map (fun k => (tensorA regs k, scaledWeight w slice K k n))).map (fun p => mulNum p.1.toQ p.2.toQ) = ps := by
    rw [List.map_map]
    exact List.map_congr_left (fun k _ => by simp [tensorA_toQ hr, scaledWeight_toQ w slice K k hn])
  rw [hps] at h1 h2
  refine ⟨by rw [columnTerms, List.map_cons, accVal_toQ, h1], h2, fun v hv => ?_⟩
  rcases List.mem_cons.1 hv with rfl | hv
  · exact accVal_sharp acc
  · exact h3 v hv

/-- Column `n` of a step in one lane: the products of its rows and the element added to, rounded once to ACC48. -/
theorem tensorColumn_rounds {regs : List LaneReg} (hr : regs ≠ []) (w : WReg) (kw K slice acc : Nat) {n : Nat} (hn : n < 8) :
    let rows := if kw = 0 then K else kw
    let ps := (List.range rows).map (fun k => mulNum (stepA regs k) (stepW w slice K k n))
    let terms := numOf .acc48 false false acc :: ps.map Prod.fst
    ∃ fl', RoundsACC (addNum .rne terms).1 (tensorColumn regs w kw K slice acc n).1 fl' ∧
      (tensorColumn regs w kw K slice acc n).2 = (ps.map Prod.snd).foldl (· ||| ·) 0 |||
        (if .inf false ∈ terms ∧ .inf true ∈ terms then flInvalid else 0) ||| fl' := by
  intro rows ps terms
  obtain ⟨hq, hfl, hsharp⟩ := columnTerms_toQ hr w rows K slice acc hn
  have hs := sumVals_toQ hsharp .rne
  rw [hq] at hs
  refine ⟨(roundACC (sumVals (columnTerms regs w rows K slice acc n) .rne).1).2, ?_, ?_⟩
  · rw [← hs, tensorColumn_eq]
    exact roundACC_rounds (sumVals_sharp _ _)
  · rw [tensorColumn_eq, ← hfl, ← clash_or_addNum .rne terms, ← hs, infClash_eq, hq]
    simp only [BitVec.or_assoc]
    rfl

end Sys2Proof.Machine
end

section
/-!
PROOF. MSTEP, MSTEPN and MSTEPS (statement O28).
-/
namespace Sys2Proof.Machine
open Sys2Proof.Claims

/-- The effect of a tensor step, by its form (R181, R182). -/
theorem exec_stepForm {i : Instr} {f : StepForm} (h : stepForm i = some f) (s : State) :
    ∃ (e : Nat → State → Effect) (b : WSrc) (kw : BitVec 5) (slice : Fin 8), exec i s = s.issue 8 e ∧
      e s.cur s = tensorEffect f.sparse f.g f.d f.us f.north b kw slice (f.a s) (f.acc s) s.cur s ∧
      b.reg = f.w ∧ kw.toNat = f.kw ∧ slice.val = f.slice ∧ ∀ l, f.a s l ≠ [] := by
  cases i <;> simp only [stepForm, reduceCtorEq, Option.some.injEq] at h
  case mstep g d a b kw sl =>
    subst h
    refine ⟨_, b, kw, sl, rfl, ?_, rfl, rfl, rfl, fun _ => List.cons_ne_nil _ _⟩
    have hva : (fun l => [s.vval s.cur a l]) = fun l => [va s a l] := funext fun l => by rw [vval_eq]
    rw [mstepEffect, hva]
    rfl
  case mstepn g d a b m kw sl =>
    subst h
    exact ⟨_, b, kw, sl, rfl, rfl, rfl, rfl, rfl, fun _ => List.cons_ne_nil _ _⟩
  case msteps g d a b kw sl =>
    subst h
    exact ⟨_, b, kw, sl, rfl, rfl, rfl, rfl, rfl, fun _ => List.cons_ne_nil _ _⟩

/-- The pair and modifier checks of a lane (R181). -/
theorem pairOk_checks {f : StepForm} {s : State} {l : Nat} (h : PairOk f s l) :
    tensorPairOk f.sparse (f.a s l) ((here s).wr f.w l) = true ∧
    tensorModOk ((f.a s l).headD LaneReg.zero).tag ((here s).wr f.w l).tag f.sparse f.kw f.slice = true := by
  obtain ⟨hsp, r, t, K, hr, ht, hK, hkw, hs0, hsl⟩ := h
  rw [hsp] at hK
  rw [hr]
  refine ⟨?_, ?_⟩
  · simp only [tensorPairOk, hsp, tensorWidth_eq, hK, Option.isSome_some, beq_self_eq_true, Bool.and_true, List.all_eq_true,
      decide_eq_true_eq]
    exact ht
  · rw [List.headD_cons, tensorModOk, tensorWidth_eq, hK, tensorSlices_eq]
    have hkz : (f.sparse && f.kw != 0) = false := by
      cases hf : f.sparse
      · rfl
      · simp [hs0 hf]
    simp [hkw, hkz, hsl]

theorem allLanes_eq : lanesOf (BitVec.allOnes 64) = List.range 64 :=
  List.filter_eq_self.2 (fun l hl => by rw [BitVec.getLsbD_allOnes]; simpa using hl)

/-- The column of a lane in a step. -/
def stepColumn (f : StepForm) (s : State) (l n : Nat) : Nat × Flags :=
  let w := (here s).wr f.w l
  tensorColumn (f.a s l) w f.kw ((tensorWidth ((f.a s l).headD LaneReg.zero).tag w.tag w.sparse).getD 0) f.slice (accElem (f.acc s l) n) n

theorem stepColumn_column {f : StepForm} {s : State} {l : Nat} (ha : f.a s l ≠ []) {n : Nat} (hn : n < 8) :
    Column f s l n (stepColumn f s l n).1 (stepColumn f s l n).2 := by
  have h := tensorColumn_rounds ha ((here s).wr f.w l) f.kw
    ((tensorWidth ((f.a s l).headD LaneReg.zero).tag ((here s).wr f.w l).tag ((here s).wr f.w l).sparse).getD 0) f.slice
    (accElem (f.acc s l) n) hn
  rw [← stepColumn] at h
  rw [tensorWidth_eq] at h
  exact h

theorem tensorCell_eq (f : StepForm) (s : State) (l : Nat) : tensorCell (f.a s l) ((here s).wr f.w l) f.kw f.slice (f.acc s l) =
    (accOf ((List.range 8).map (fun n => (stepColumn f s l n).1)), orAll ((List.range 8).map (fun n => (stepColumn f s l n).2))) := by
  rw [tensorCell]
  simp only [List.map_map]
  rfl

/-- What a tensor step does once its sources and ports are ready and every lane has a permitted pair. -/
theorem tensorEffect_ok {f : StepForm} {s : State} {b : WSrc} {kw : BitVec 5} {slice : Fin 8} (hb : b.reg = f.w) (hkw : kw.toNat = f.kw)
    (hsl : slice.val = f.slice) (hm : lanesOn s f.g = BitVec.allOnes 64) (hr : Ready s f.us (accDstCodes f.d))
    (hp : PortsOk s f.us (accDstKind f.d) f.north (BitVec.allOnes 64)) (hpair : ∀ l, l < 64 → PairOk f s l) :
    tensorEffect f.sparse f.g f.d f.us f.north b kw slice (f.a s) (f.acc s) s.cur s = .ok (fun t =>
      (((t.takes s.cur f.us).evField (slotField s.cur) 0x04 (slotQual s.cur)).modSlot s.cur (fun c => withFlags c
        ((List.range 64).flatMap (fun l => (List.range 8).map (fun n => (stepColumn f s l n).2))))).putAcc s.cur f.d
        ((List.range 64).map (fun l => (l, accOf ((List.range 8).map (fun n => (stepColumn f s l n).1)))))) := by
  obtain ⟨hn, hs, hk⟩ := hp
  obtain ⟨hkind, hv⟩ := hk (by decide)
  have hbad : maskOf ((List.range 64).filter (fun l => !tensorPairOk f.sparse (f.a s l) ((s.slot s.cur).wr b.reg l))) = 0#64 := by
    rw [List.filter_eq_nil_iff.2 (fun l hl => ?_)]
    · rfl
    · have := (pairOk_checks (hpair l (List.mem_range.1 hl))).1
      rw [here] at this
      rw [hb, this]; decide
  have hmod : ((List.range 64).any (fun l => !tensorModOk ((f.a s l).headD LaneReg.zero).tag ((s.slot s.cur).wr b.reg l).tag f.sparse
      kw.toNat slice)) = false := by
    rw [List.any_eq_false]
    intro l hl
    have := (pairOk_checks (hpair l (List.mem_range.1 hl))).2
    rw [here] at this
    rw [hb, hkw, hsl, this]; decide
  have hcell (l : Nat) : tensorCell (f.a s l) ((s.slot s.cur).wr b.reg l) kw.toNat slice (f.acc s l) =
      (accOf ((List.range 8).map (fun n => (stepColumn f s l n).1)), orAll ((List.range 8).map (fun n => (stepColumn f s l n).2))) := by
    rw [hb, hkw, hsl]
    exact tensorCell_eq f s l
  simp only [← Slot.raise_eq_withFlags, orAll_flatMap]
  unfold tensorEffect
  dsimp only
  rw [State.checkNorth_of hn, State.checkSouthBound_of hs, lanesOn_eq, hm, if_neg (by decide), hbad, hmod, State.checkKind_of hv,
    State.ready_of hr]
  simp only [hcell, List.map_map, Function.comp_def]
  cases hd : f.d with
  | a d => rfl
  | s => exact Except.bind_of_ok (State.checkSouth_of (hkind .acc (by rw [hd]; rfl)))

/-- An ACC vector holds the values it was made from. -/
theorem accVector_acc (new : Nat → BitVec 384) {l : Nat} (hl : l < 64) :
    (accVector ((List.range 64).map (fun l => (l, new l)))).acc l = new l := by
  have h := Tab.get_foldl_set 0#384 [] 0 new (List.range 64) l
  rw [← Tab.setAll_map, Nat.zero_add, if_pos (List.mem_range.2 hl)] at h
  exact h

/-- What a step leaves in its own slot: its flags, and its accumulators in D or as one value for the south port. -/
def StepDone (d : ADst) (fls : List Flags) (new : Nat → BitVec 384) (c c' : Slot) : Prop :=
  match d with
  | .a d => AccWritten d (BitVec.allOnes 64) new (withFlags c fls) c'
  | .s => ∃ v, c' = { withFlags c fls with reserved := c.reserved ++ [⟨none, 4, v⟩] } ∧ v.rel = false ∧ v.bad = false ∧
      v.body.kind = .acc ∧ ∀ l, l < 64 → v.acc l = new l

theorem State.putAcc_done (u : State) (k : Nat) (d : ADst) (fls : List Flags) (new : Nat → BitVec 384) :
    SlotChanged k (StepDone d fls new) u ((u.modSlot k (fun c => withFlags c fls)).putAcc k d ((List.range 64).map (fun l => (l, new l)))) := by
  have hfl : SlotChanged k (fun c c' => c' = withFlags c fls) u (u.modSlot k (fun c => withFlags c fls)) := .modSlot rfl
  cases d with
  | a d =>
    have hput (t : State) : SlotChanged k (AccWritten d (BitVec.allOnes 64) new) t
        (t.putAcc k (.a d) ((List.range 64).map (fun l => (l, new l)))) := by
      rw [← allLanes_eq]
      exact SlotChanged.modSlot (P := AccWritten d (BitVec.allOnes 64) new)
        (f := fun c => c.putAccs d ((lanesOf (BitVec.allOnes 64)).map (fun l => (l, new l)))) (Slot.putAccs_written _ d _ new)
    refine (hfl.trans (hput _)).mono ?_
    rintro c' ⟨c1, rfl, h⟩
    exact h
  | s =>
    have hput (t : State) : SlotChanged k (fun c c' => c' = { c with
        reserved := c.reserved ++ [⟨none, 4, accVector ((List.range 64).map (fun l => (l, new l)))⟩] }) t
        (t.putAcc k .s ((List.range 64).map (fun l => (l, new l)))) :=
      SlotChanged.modSlot (f := fun c => { c with
        reserved := c.reserved ++ [⟨none, 4, accVector ((List.range 64).map (fun l => (l, new l)))⟩] }) rfl
    refine (hfl.trans (hput _)).mono ?_
    rintro c' ⟨c1, rfl, rfl⟩
    exact ⟨_, rfl, rfl, rfl, rfl, fun l hl => accVector_acc new hl⟩

/-- A step with an inactive lane stops before it reads (R180, R182). -/
theorem tensorEffect_partial {f : StepForm} {s : State} {b : WSrc} {kw : BitVec 5} {slice : Fin 8}
    (hm : lanesOn s f.g ≠ BitVec.allOnes 64) (hp : PortsOk s f.us (accDstKind f.d) f.north 0) :
    tensorEffect f.sparse f.g f.d f.us f.north b kw slice (f.a s) (f.acc s) s.cur s =
      .error (.trap .partialmask (~~~lanesOn s f.g)) := by
  obtain ⟨hn, hs, -⟩ := hp
  unfold tensorEffect
  dsimp only
  rw [State.checkNorth_of hn, State.checkSouthBound_of hs, lanesOn_eq, if_pos (show lanesOn s f.g ≠ allLanes from hm)]
  rfl

theorem accDstKind_eq (d : ADst) : accDstKind d = if d = .s then some .acc else none := by cases d <;> rfl

end Sys2Proof.Machine
end

section
open Sys2Proof Sys2Proof.Claims Sys2Proof.Machine

/-- Settles O28: each column of each lane is one rounding of its element and its products; with an inactive lane the word stops
before its sources. -/
theorem tensorSteps : Obligations.TensorSteps := by
  refine ⟨fun i f s hi hc hm hr hp hpair => ?_, fun i f s hi hrow hm hp => ?_⟩
  · obtain ⟨e, b, kw, slice, hx, he, hb, hkw, hsl, ha⟩ := exec_stepForm hi s
    rw [← accDstKind_eq] at hp
    have hr' : Ready s f.us (accDstCodes f.d) := by
      cases hd : f.d <;> rw [hd] at hr <;> exact hr
    have hdone := State.putAcc_done ((sourced s f.us 8).evField (slotField s.cur) 0x04 (slotQual s.cur)) s.cur f.d
      ((List.range 64).flatMap (fun l => (List.range 8).map (fun n => (stepColumn f s l n).2)))
      (fun l => accOf ((List.range 8).map (fun n => (stepColumn f s l n).1)))
    refine ActsIn.mono (actsIn_of_ok hc hx (he.trans (tensorEffect_ok hb hkw hsl hm hr' hp hpair)) (byte_sourced s f.us 8) hdone) ?_
    intro c c' h
    refine ⟨fun l => accOf ((List.range 8).map (fun n => (stepColumn f s l n).1)), fun l n => (stepColumn f s l n).2,
      fun l hl n hn => ?_, ?_⟩
    · have hcol := stepColumn_column (ha l) hn
      rw [element_accOf_map hn (RoundsACC.code_lt hcol.choose_spec.1)]
      exact hcol
    · cases hd : f.d <;> rw [hd] at h <;> exact h
  · obtain ⟨e, b, kw, slice, hx, he, -⟩ := exec_stepForm hi s
    rw [← accDstKind_eq] at hp
    exact traps_of_error hrow (by decide) hx (he.trans (tensorEffect_partial hm hp))
end

section
/-!
PROOF. VMOVX, VINS, VDEQ and VSEED (statement O27): what they leave in registers, in the south port and in the lane RNGs.
-/
namespace Sys2Proof.Machine
open Sys2Proof.Claims

/-! ### Sources that are no port -/

theorem xUse_local (bit : Nat) (a : XSrc) : ∀ u ∈ xUse bit a, u.code ≠ codeN := by
  intro u hu
  unfold xUse at hu
  split at hu
  · next i _ =>
    split at hu
    · exact absurd hu List.not_mem_nil
    · rw [List.mem_singleton.1 hu]
      have := i.isLt
      show codeX i ≠ codeN
      unfold codeX codeN
      omega
  · exact absurd hu List.not_mem_nil

theorem opUse_local (b : XOp) : ∀ u ∈ opUse b, u.code ≠ codeN := by
  cases b with
  | reg a => exact xUse_local 1 a
  | imm i => exact fun _ hu => absurd hu List.not_mem_nil
  | lit w => exact fun _ hu => absurd hu List.not_mem_nil

theorem rUse_local (bit : Nat) (a : RSrc) : ∀ u ∈ rUse bit a, u.code ≠ codeN := by
  intro u hu
  rw [List.mem_singleton.1 hu]
  have := a.reg.isLt
  show codeV a.reg ≠ codeN
  unfold codeV codeN
  omega

/-- Sources that are no port leave the lane RNGs as they were. -/
theorem sourcedLanes_rngOf {s : State} {us : List Use} (h : ∀ u ∈ us, u.code ≠ codeN) (m : Mask) (size l : Nat) :
    ((sourcedLanes s us m size).slot s.cur).rngOf l = drawn s l := by
  have ht : sourcedLanes s us m size = (s.issued s.cur size).modSlot s.cur (fun c => c.takes us) := by
    rw [sourcedLanes, State.takesMasked, State.takes_local h, ite_self]
  rw [ht, State.slot_modSlot_same, Slot.rngOf, Slot.takes_rng, State.slot_issued_same]
  rfl

/-! ### VMOVX -/

theorem vmovx_acts {g : Option Guard} {d : Fin 32} {a : VSrc} {b : XOp} {s : State} (hc : CanIssue s)
    (hr : Ready s (vUse 0 a ++ opUse b) [codeX d]) (hp : PortsOk s (vUse 0 a ++ opUse b) none .vv (lanesOn s g)) :
    let l := (ov s b).toNat % 64
    LaneActs (.vmovx g d a b) s (vUse 0 a ++ opUse b) (lanesOn s g) (opSize b)
      (WroteX d (if (lanesOn s g).getLsbD l then heldAs (va s a l).tag (va s a l).bits else 0)) := by
  intro l
  have he : vmovxEffect g d a b s.cur s = .ok (fun t => (t.takesMasked s.cur (vUse 0 a ++ opUse b) (lanesOn s g)).modSlot s.cur
      (fun c => (c.raise 0).setX d (if (lanesOn s g).getLsbD l then heldAs (va s a l).tag (va s a l).bits else 0))) := by
    unfold vmovxEffect laneToX
    dsimp only
    rw [lanesOn_eq, State.laneReady_none hr hp, opval_eq, vval_eq, laneBitsOf_eq_heldAs]
    rfl
  exact laneActs_modSlot hc rfl he (fun c => wroteXFlags_zero.1 (c.raise_setX d _ 0))

/-! ### VINS -/

/-- The one result of VINS, if its lane is active. -/
def insOuts (s : State) (m : Mask) (n : Nat) (bits : Word) (f : Fmt) : List (Nat × LaneOut) :=
  if m.getLsbD n then [(n, ⟨heldAs f bits, f, none, 0, drawn s n⟩)] else []

theorem vinsEffect_eq {g : Option Guard} {d : VDst} {a : XSrc} {b : XOp} {f : Fmt} {s : State}
    (hr : Ready s (xUse 0 a ++ opUse b) (dstCodes d)) (hp : PortsOk s (xUse 0 a ++ opUse b) (southOf d .vv) .vv (lanesOn s g)) :
    vinsEffect g d a b f s.cur s = .ok (fun t => (t.takesMasked s.cur (xUse 0 a ++ opUse b) (lanesOn s g)).putIns s.cur d (lanesOn s g)
      (insOuts s (lanesOn s g) ((ov s b).toNat % 64) (xv s a) f)) := by
  unfold vinsEffect
  dsimp only
  rw [lanesOn_eq, State.laneReady_of hr hp, opval_eq, xval_eq, moved, laneBitsOf_eq_heldAs]
  rfl

/-- The lane of a mask and of a place. -/
theorem getLsbD_and_one (m : Mask) {n l : Nat} (hn : n < 64) : (m &&& (1#64 <<< n)).getLsbD l = (m.getLsbD n && decide (l = n)) := by
  rw [BitVec.getLsbD_and, BitVec.getLsbD_shiftLeft]
  by_cases h : l = n
  · subst h; simp [hn]
  · by_cases hl : l < n
    · simp [h, hl]
    · have : l - n ≠ 0 := by omega
      simp [h, BitVec.getLsbD_one, this]

theorem lanesOf_and_one (m : Mask) {n : Nat} (hn : n < 64) : lanesOf (m &&& (1#64 <<< n)) = if m.getLsbD n then [n] else [] := by
  unfold lanesOf
  simp only [getLsbD_and_one m hn]
  cases m.getLsbD n
  · simp
  · rw [if_pos rfl]
    refine List.perm_singleton.1 ((List.perm_ext_iff_of_nodup (List.nodup_range.filter _) (List.nodup_singleton n)).2 fun l => ?_)
    rw [List.mem_filter, List.mem_range, List.mem_singleton]
    simp only [Bool.true_and, decide_eq_true_eq]
    exact ⟨fun h => h.2, fun h => ⟨h ▸ hn, h⟩⟩

theorem insOuts_eq (s : State) (m : Mask) {n : Nat} (hn : n < 64) (bits : Word) (f : Fmt) : insOuts s m n bits f =
    (lanesOf (m &&& (1#64 <<< n))).map (fun l => (l, ⟨heldAs f bits, f, none, 0, drawn s l⟩)) := by
  rw [lanesOf_and_one m hn, insOuts]
  split <;> rfl

theorem vins_acts {g : Option Guard} {d : Fin 64} {a : XSrc} {b : XOp} {f : Fmt} {s : State} (hc : CanIssue s)
    (hr : Ready s (xUse 0 a ++ opUse b) [codeV d]) :
    LaneActs (.vins g (.v d) a b f) s (xUse 0 a ++ opUse b) (lanesOn s g) (opSize b)
      (LanesWritten d (lanesOn s g &&& (1#64 <<< ((ov s b).toNat % 64))) (fun l => bitsOut s l (xv s a) f)) := by
  have hlocal : ∀ u ∈ xUse 0 a ++ opUse b, u.code ≠ codeN := fun u hu =>
    (List.mem_append.1 hu).elim (xUse_local 0 a u) (opUse_local b u)
  have he := vinsEffect_eq (d := .v d) (f := f) hr (PortsOk_local hlocal .vv (lanesOn s g))
  rw [insOuts_eq s _ (Nat.mod_lt _ (by decide))] at he
  exact laneActs_modSlot (f := fun c => c.putLanes d _) hc rfl he (fun c => Slot.putLanes_written c d _ _)

/-- VINS's value to the south port. -/
theorem vins_sends {g : Option Guard} {a : XSrc} {b : XOp} {f : Fmt} {s : State} (hc : CanIssue s)
    (hr : Ready s (xUse 0 a ++ opUse b) []) (hp : PortsOk s (xUse 0 a ++ opUse b) (some .vv) .vv (lanesOn s g)) (hm : lanesOn s g ≠ 0) :
    let n := (ov s b).toNat % 64
    LaneActs (.vins g .s a b f) s (xUse 0 a ++ opUse b) (lanesOn s g) (opSize b) (fun c c' => ∃ v,
       c' = { c with rng := c'.rng, reserved := c.reserved ++ [⟨none, 2, v⟩] } ∧ v.rel = false ∧ v.bad = false ∧ v.body.kind = .vv ∧
       (∀ l, l < 64 → c'.rngOf l = c.rngOf l) ∧
       ∀ l, l < 64 → v.lane l = if l = n ∧ (lanesOn s g).getLsbD l = true then ⟨heldAs f (xv s a), f, 127⟩ else LaneReg.zero) := by
  intro n
  have hn : n < 64 := Nat.mod_lt _ (by decide)
  have hlocal : ∀ u ∈ xUse 0 a ++ opUse b, u.code ≠ codeN := fun u hu =>
    (List.mem_append.1 hu).elim (xUse_local 0 a u) (opUse_local b u)
  refine laneActs_of_ok (w := fun t => t.putIns s.cur .s (lanesOn s g) (insOuts s (lanesOn s g) n (xv s a) f)) hc rfl
    (vinsEffect_eq hr hp) ?_
  have hrng := sourcedLanes_rngOf (s := s) hlocal (lanesOn s g) (opSize b)
  generalize sourcedLanes s (xUse 0 a ++ opUse b) (lanesOn s g) (opSize b) = u at hrng ⊢
  rw [State.putIns, if_neg (show lanesOn s g ≠ 0#64 from hm), insOuts_eq s _ hn]
  refine (SlotChanged.trans (.modSlot (P := fun c c' => c' = c.laneEffects _) rfl) (.modSlot (P := fun c c' =>
    c' = { c with reserved := c.reserved ++ [⟨none, 2, _⟩] }) rfl)).mono ?_
  rintro c' ⟨c1, rfl, rfl⟩
  obtain ⟨hs, hstat, hl⟩ := (u.slot s.cur).laneEffects_spec (lanesOn s g &&& (1#64 <<< n))
    (fun l => ⟨heldAs f (xv s a), f, none, 0, drawn s l⟩)
  have hstat' : stat (lanesOn s g &&& (1#64 <<< n)) (fun l => some (⟨heldAs f (xv s a), f, none, 0, drawn s l⟩ : LaneOut))
      (u.slot s.cur).lanestat = (u.slot s.cur).lanestat := by
    rw [stat_some, gathered, lanesOf_and_one _ hn]
    split
    · simp
    · rfl
  rw [hstat'] at hstat
  refine ⟨portOfLanes ((lanesOf (lanesOn s g &&& (1#64 <<< n))).map (fun l => (l, ⟨heldAs f (xv s a), f, none, 0, drawn s l⟩))),
    ?_, rfl, rfl, rfl, fun l hl64 => ?_, fun l hl64 => ?_⟩
  · generalize (u.slot s.cur).laneEffects _ = c1 at hs hstat
    rw [hs, hstat]
  · refine (hl l hl64).trans ?_
    split
    · exact (hrng l).symm
    · rfl
  · rw [portOfLanes_eq, portValue_lane _ _ hl64, getLsbD_and_one _ hn]
    by_cases hln : l = n
    · subst hln; simp [laneReg]
    · simp [hln]

/-! ### VSEED -/

theorem vseed_acts {g : Option Guard} {a : VSrc} {s : State} (hc : CanIssue s) (hr : Ready s (vUse 0 a) [])
    (hp : PortsOk s (vUse 0 a) none .vv (lanesOn s g)) :
    LaneActs (.vseed g a) s (vUse 0 a) (lanesOn s g) 8 (fun c c' => c' = { c with rng := c'.rng } ∧
       ∀ l, l < 64 → c'.rngOf l = if (lanesOn s g).getLsbD l then (va s a l).bits else c.rngOf l) := by
  have he : vseedEffect g a s.cur s = .ok (fun t => (t.takesMasked s.cur (vUse 0 a) (lanesOn s g)).modSlot s.cur (fun c =>
      { c with rng := Tab.setAll 0#64 c.rng ((lanesOf (lanesOn s g)).map (fun l => (l, (va s a l).bits))) })) := by
    have hva : s.vval s.cur a = va s a := funext (vval_eq s a)
    unfold vseedEffect
    dsimp only
    rw [lanesOn_eq, State.laneReady_none hr hp, hva]
    rfl
  refine laneActs_modSlot hc rfl he (fun c => ⟨rfl, fun l hl => ?_⟩)
  have h := Tab.get_foldl_set 0#64 c.rng 0 (fun l => (va s a l).bits) (lanesOf (lanesOn s g)) l
  rw [← Tab.setAll_map, Nat.zero_add] at h
  exact h.trans (by simp [mem_lanesOf, hl, Slot.rngOf])

/-! ### VDEQ -/

theorem laneDeq_some {g : Fmt} {k : RoundCtx} {a : LaneReg} {b : Word} {word : Nat} {rng : Word} (h : a.tag = .pl16) :
    ∃ o, laneDeq g k a b word rng = some o ∧ o.1.length = 8 / g.count := by
  refine ⟨_, if_pos h, ?_⟩
  rw [List.length_map, List.length_range]

/-- A list with its places. -/
theorem zipIdx_eq_map_range (ws : List Word) : ws.zipIdx = (List.range ws.length).map (fun i => (ws.getD i 0, i)) := by
  refine List.ext_getElem (by simp) (fun i h1 h2 => ?_)
  rw [List.length_zipIdx] at h1
  simp [h1]

/-- One lane of VDEQ is a column of results. -/
theorem Slot.putDeq_eq (c : Slot) (d l : Nat) (f : Fmt) {q : Nat} {o : List Word × Flags × Word} (h : o.1.length = q) :
    c.putDeq d l f o = c.putColumn d l q (fun i => ⟨o.1.getD i 0, f, none, o.2.1, o.2.2⟩) := by
  rw [Slot.putDeq, zipIdx_eq_map_range, h, List.foldl_map]
  rfl

/-- What VDEQ computes in a lane. -/
def deqOut (s : State) (a : RSrc) (b : XOp) (f : Fmt) (k : RoundCtx) (word l : Nat) : List Word × Flags × Word :=
  (laneDeq f k ((here s).vr a.reg l) (ov s b) word (drawn s l)).getD ([], 0, 0)

theorem deqOut_spec {s : State} {a : RSrc} {b : XOp} {f : Fmt} {k : RoundCtx} {word l : Nat} (h : ((here s).vr a.reg l).tag = .pl16) :
    laneDeq f k ((here s).vr a.reg l) (ov s b) word (drawn s l) = some (deqOut s a b f k word l) ∧
      (deqOut s a b f k word l).1.length = 8 / f.count := by
  obtain ⟨o, ho, hlen⟩ := laneDeq_some (g := f) (k := k) (b := ov s b) (word := word) (rng := drawn s l) h
  rw [deqOut, ho]
  exact ⟨rfl, hlen⟩

theorem vdeqEffect_eq {g : Option Guard} {d : Fin 64} {a : RSrc} {b : XOp} {f : Fmt} {rm : RMode} {sat : Bool} {word : Fin 4} {s : State}
    (hr : Ready s (rUse 0 a ++ opUse b) ((List.range (8 / f.count)).map (fun i => codeV (d + i))))
    (htag : ∀ l ∈ lanesOf (lanesOn s g), ((here s).vr a.reg l).tag = .pl16) :
    vdeqEffect g d a b f rm sat word s.cur s = .ok (fun t =>
      (t.takesMasked s.cur (rUse 0 a ++ opUse b) (lanesOn s g)).modSlot s.cur (fun c =>
        ((lanesOf (lanesOn s g)).foldl (fun c l => c.putColumn d l (8 / f.count) (fun i =>
          ⟨(deqOut s a b f (roundBy s rm sat false) word l).1.getD i 0, f, none, (deqOut s a b f (roundBy s rm sat false) word l).2.1,
            (deqOut s a b f (roundBy s rm sat false) word l).2.2⟩)) c).fillRange d (8 / f.count)
          ((lanesOf (lanesOn s g)).length = 64))) := by
  have hlocal : ∀ u ∈ rUse 0 a ++ opUse b, u.code ≠ codeN := fun u hu =>
    (List.mem_append.1 hu).elim (rUse_local 0 a u) (opUse_local b u)
  have hready := State.laneReady_none hr (PortsOk_local hlocal .vv (lanesOn s g))
  have hrun : tagCheck (runLanes (lanesOn s g) (fun l => laneDeq f ((s.slot s.cur).ctx rm sat false) ((s.slot s.cur).vr a.reg l)
      ((s.slot s.cur).opval s.cur b) word (s.rngAt s.cur l))) = _ :=
    runLanes_of (g := deqOut s a b f (roundBy s rm sat false) word) (fun l hl => by
      rw [opval_eq]
      exact (deqOut_spec (htag l hl)).1)
  have hcols (c : Slot) : ((lanesOf (lanesOn s g)).map (fun l => (l, deqOut s a b f (roundBy s rm sat false) word l))).foldl
      (fun c p => c.putDeq d p.1 f p.2) c = (lanesOf (lanesOn s g)).foldl (fun c l => c.putColumn d l (8 / f.count) (fun i =>
        ⟨(deqOut s a b f (roundBy s rm sat false) word l).1.getD i 0, f, none, (deqOut s a b f (roundBy s rm sat false) word l).2.1,
          (deqOut s a b f (roundBy s rm sat false) word l).2.2⟩)) c := by
    rw [List.foldl_map]
    exact List.foldl_ext _ _ c (fun c l hl => Slot.putDeq_eq c d l f (deqOut_spec (htag l hl)).2)
  unfold vdeqEffect
  dsimp only
  rw [lanesOn_eq]
  refine (Except.bind_of_ok hready).trans ((Except.bind_of_ok hrun).trans ?_)
  simp only [hcols, List.length_map, List.foldl_map]
  rfl

theorem vdeq_acts {g : Option Guard} {d : Fin 64} {a : RSrc} {b : XOp} {f : Fmt} {rm : RMode} {sat : Bool} {word : Fin 4} {s : State}
    (hc : CanIssue s) (hf : f = .fp32 ∨ f = .fp16 ∨ f = .bf16) (hd : d.val + 8 / f.count ≤ 64)
    (hr : Ready s (rUse 0 a ++ opUse b) ((List.range (8 / f.count)).map (fun i => codeV (d + i))))
    (htag : ∀ l ∈ lanesOf (lanesOn s g), ((here s).vr a.reg l).tag = .pl16) :
    LaneActs (.vdeq g d a b f rm sat word) s (rUse 0 a ++ opUse b) (lanesOn s g) (opSize b)
      (ColumnsWritten d (8 / f.count) (lanesOn s g) f (fun l i => (deqOut s a b f (roundBy s rm sat false) word l).1.getD i 0)
        (fun l => (deqOut s a b f (roundBy s rm sat false) word l).2.1) (fun l => (deqOut s a b f (roundBy s rm sat false) word l).2.2)) := by
  have hq : 0 < 8 / f.count := by rcases hf with rfl | rfl | rfl <;> decide
  exact laneActs_modSlot hc rfl (vdeqEffect_eq hr htag) (fun c => Slot.putColumns_written c hq hd _ f _ _ _ _)

end Sys2Proof.Machine
end

section
/-!
PROOF. Conversions (statement O27): each element is one rounding of its source's value, in its place of Table 7.6.
-/
namespace Sys2Proof
open Sys2Proof.Claims

theorem convFmt_iff (f : Fmt) : convFmt f = true ↔ convertible f := by cases f <;> simp [convFmt, convertible]

theorem hasNan_eq (g : Fmt) : hasNan g = hasNaN g := by cases g <;> rfl

/-- A converted element: a NaN is delivered as the format's, any other value is rounded under D's scale (R164). -/
theorem convElem_realises {g : Fmt} (h1 : g ≠ .raw) (h2 : g ≠ .pl16) {k : RoundCtx} (hk : k.mode ≠ .dyn) (sd : BitVec 8) {v : Val}
    (hv : v.Sharp) : Realises g k (convNum g sd v.toQ) (convElem g sd v) := by
  unfold convElem
  split
  · next h =>
    rw [Bool.and_eq_true, hasNan_eq, Val.isNan_iff] at h
    have hx : convNum g sd v.toQ = (.nan, 0) := by
      rw [convNum, h.1]
      cases g.isMx <;> rfl
    rw [hx]
    exact Realises.nan h.2 k 0
  · have hx : convNum g sd v.toQ = (exactOf (if g.isMx then v.scale (127 - (sd.toNat : Int)) else v).toQ, 0) := by
      rw [convNum]
      cases g.isMx
      · rfl
      · rw [if_pos rfl, if_pos rfl, toQ_scale]
    rw [hx]
    refine Realises.round h1 h2 hk ?_ 0
    split
    · exact hv.scale _
    · exact hv

section
variable {g : Fmt} (h1 : g ≠ .raw) (h2 : g ≠ .pl16) {k : RoundCtx} (hk : k.mode ≠ .dyn) {a b : LaneReg} (sd : BitVec 8) (rng : Word)
include h1 h2 hk

/-- The element of a register, converted. -/
theorem convElem_elemNum (r : LaneReg) (i : Nat) : Realises g k (convNum g sd (elemNum k r i)) (convElem g sd (scaledVal k r i)) := by
  rw [← scaledVal_toQ]
  exact convElem_realises h1 h2 hk sd (scaledVal_sharp k r i)

theorem laneCvt_elements (ha : convertible a.tag) (hn : a.tag.count ≤ g.count) : ∃ o, laneCvt g k a sd rng = some o ∧
    LaneElements g k (fun i => if i < a.tag.count then convNum g sd (elemNum k a i) else (.code 0, 0)) rng o := by
  refine ⟨_, if_pos (by rw [(convFmt_iff a.tag).2 ha]; simpa using hn), laneOut_laneElements rng (fun i _ => ?_)⟩
  split
  · exact convElem_elemNum h1 h2 hk sd a i
  · exact Realises.code (Nat.two_pow_pos _) k 0

theorem lanePack_elements (ha : convertible a.tag) (hn : g.count = 2 * a.tag.count) (hb : b.tag = a.tag) :
    ∃ o, lanePack g k a b sd rng = some o ∧ LaneElements g k
      (fun i => convNum g sd (if i < a.tag.count then elemNum k a i else elemNum k b (i - a.tag.count))) rng o := by
  refine ⟨_, if_pos (by rw [(convFmt_iff a.tag).2 ha]; simp [hn, hb]), laneOut_laneElements rng (fun i _ => ?_)⟩
  split
  · exact convElem_elemNum h1 h2 hk sd a i
  · exact convElem_elemNum h1 h2 hk sd b (i - a.tag.count)

theorem laneUnpk_elements {part : Nat} (ha : convertible a.tag) (hn : g.count < a.tag.count) (hp : part * g.count < a.tag.count) :
    ∃ o, laneUnpk g part k a sd rng = some o ∧ LaneElements g k
      (fun i => convNum g sd (elemNum k a (part * g.count + i))) rng o :=
  ⟨_, if_pos (by rw [(convFmt_iff a.tag).2 ha]; simp [hn, hp]),
    laneOut_laneElements rng (fun i _ => convElem_elemNum h1 h2 hk sd a (part * g.count + i))⟩

end

theorem laneCvt_none {g : Fmt} (k : RoundCtx) {a : LaneReg} (sd : BitVec 8) (rng : Word)
    (h : ¬ convertible a.tag ∨ g.count < a.tag.count) : laneCvt g k a sd rng = none := by
  refine if_neg fun hc => ?_
  rw [Bool.and_eq_true, convFmt_iff, decide_eq_true_eq] at hc
  exact h.elim (fun h => h hc.1) (fun h => by omega)

theorem lanePack_none {g : Fmt} (k : RoundCtx) {a b : LaneReg} (sd : BitVec 8) (rng : Word)
    (h : ¬ convertible a.tag ∨ g.count ≠ 2 * a.tag.count ∨ b.tag ≠ a.tag) : lanePack g k a b sd rng = none := by
  refine if_neg fun hc => ?_
  simp only [Bool.and_eq_true, convFmt_iff, decide_eq_true_eq] at hc
  exact h.elim (fun h => h hc.1.1) (fun h => h.elim (fun h => h hc.1.2) (fun h => h hc.2))

theorem laneUnpk_none {g : Fmt} (k : RoundCtx) {a : LaneReg} (sd : BitVec 8) {part : Nat} (rng : Word)
    (h : ¬ convertible a.tag ∨ a.tag.count ≤ g.count ∨ a.tag.count ≤ part * g.count) : laneUnpk g part k a sd rng = none := by
  refine if_neg fun hc => ?_
  simp only [Bool.and_eq_true, convFmt_iff, decide_eq_true_eq] at hc
  exact h.elim (fun h => h hc.1.1) (fun h => by omega)

end Sys2Proof
end

section
/-!
PROOF. VDEQ's values (statement O27): exponents past every format's range round alike, so that the model's bound on them changes
nothing.
-/
namespace Sys2Proof
open Sys2Proof.Claims

/-! ### Magnitudes past the range -/

/-- A number of few bits past the range is a code's magnitude past the range. -/
theorem Layout.exists_code_of_large {L : Layout} (hL : L.Sound) {m : Nat} (hm : m ≠ 0) (hmb : m < 2 ^ (L.mb + 1)) {e : Int}
    (he : ((2 ^ L.eb : Nat) : Int) ≤ e + L.bias) : ∃ k, L.top ≤ k ∧ (m : Rat) * 2 ^ e = magnitude L.mb L.bias k := by
  have hlog : Nat.log2 m ≤ L.mb := Nat.lt_succ_iff.1 ((Nat.log2_lt hm).2 hmb)
  obtain ⟨s, hs⟩ : ∃ s, L.mb = Nat.log2 m + s := ⟨L.mb - Nat.log2 m, by omega⟩
  obtain ⟨j, hj⟩ : ∃ j : Nat, e + Nat.log2 m + L.bias = ((j + 1 : Nat) : Int) := ⟨(e + Nat.log2 m + L.bias - 1).toNat, by
    have := Nat.two_pow_pos L.eb; omega⟩
  have hN : 2 ^ L.mb ≤ m * 2 ^ s := by
    rw [hs, pow_add]; exact Nat.mul_le_mul_right _ (Nat.log2_self_le hm)
  have hN' : m * 2 ^ s ≤ 2 ^ (L.mb + 1) := by
    rw [hs, show Nat.log2 m + s + 1 = Nat.log2 m + 1 + s by omega, pow_add]
    exact Nat.mul_le_mul_right _ Nat.lt_log2_self.le
  refine ⟨j * 2 ^ L.mb + m * 2 ^ s, ?_, ?_⟩
  · have h1 : 2 ^ L.eb * 2 ^ L.mb ≤ (j + 1) * 2 ^ L.mb := Nat.mul_le_mul_right _ (by omega)
    rw [← pow_add, Nat.add_mul, Nat.one_mul] at h1
    exact (Layout.top_le hL).2.trans (h1.trans (Nat.add_le_add_left hN _))
  · rw [magnitude_line _ hN' (.inr hN), show e = s + (1 - (L.bias : Int) - L.mb + j) by omega, zpow_add₀ (by norm_num) (s : Int)]
    rw [zpow_natCast]; push_cast; ring

/-- Codes' magnitudes past the range are all delivered alike. -/
theorem RoundsFloat.of_top {f : Fmt} {mb : Nat} {bias : Int} {mode : RMode} {sat flush neg : Bool} {rng : Word} {out : Rounded}
    {k k' : Nat} (hk : topCode f ≤ k) (hk' : topCode f ≤ k')
    (h : RoundsFloat f mb bias mode sat flush neg (order (magnitude mb bias k)) rng out) :
    RoundsFloat f mb bias mode sat flush neg (order (magnitude mb bias k')) rng out := by
  have hmono := magnitude_strictMono mb bias
  have hx (k : Nat) : decide (order (magnitude mb bias k) (magnitude mb bias k) ≠ .eq) = false := by
    rw [decide_eq_false_iff_not, not_not, order_eq_eq]
  obtain ⟨i, hlo, hup, hr⟩ := h
  rw [order_ne_lt, hmono.le_iff_le] at hlo
  rw [order_eq_lt, hmono.lt_iff_lt] at hup
  obtain rfl : i = k := by omega
  refine ⟨k', order_ne_lt.2 (le_refl _), order_eq_lt.2 (hmono (Nat.lt_succ_self k')), ?_⟩
  simp only [hx, Bool.false_and, Bool.false_eq_true, if_false] at hr ⊢
  obtain ⟨hrng, htop, -⟩ := hr
  exact ⟨hrng, fun _ => htop hk, fun h => absurd hk' (Nat.not_le.2 h), fun h => absurd hk' (Nat.not_le.2 h)⟩

/-- Magnitudes below every place that a rounding looks at are rounded alike. -/
theorem Encloses.tiny {x : Rat} {m : Nat} {e g : Int} (hx : 0 < x) (hxg : x < 2 ^ g) (hm : m ≠ 0) (hmg : (m : Rat) * 2 ^ e < 2 ^ g) :
    Encloses (order x) m e false g := by
  refine ⟨fun p => ?_, nofun⟩
  have hpos : (0 : Rat) < (m : Rat) * 2 ^ e := mul_pos (Nat.cast_pos.2 (Nat.pos_of_ne_zero hm)) (by positivity)
  show order x _ = order ((m : Rat) * 2 ^ e) _
  rcases Nat.eq_zero_or_pos p with rfl | hp
  · rw [Nat.cast_zero, zero_mul, order_gt.2 hx, order_gt.2 hpos]
  · have hle : (2 : Rat) ^ g ≤ (p : Rat) * 2 ^ g := le_mul_of_one_le_left (by positivity) (Nat.one_le_cast.2 hp)
    rw [order_eq_lt.2 (hxg.trans_le hle), order_eq_lt.2 (hmg.trans_le hle)]

/-! ### The bound on the exponent -/

/-- An element of a Pleiad word under its scale: small, at a middling exponent. -/
def Val.Middling (v : Val) : Prop := v = .nan ∨ ∃ n m e, v = .fin n m e false ∧ m ≤ 4 ∧ -128 ≤ e ∧ e ≤ 127

theorem plDecode_bound {w : Nat} {x : Int} (h : x ∈ plDecode w) : x.natAbs ≤ 4 := by
  rw [plDecode, List.mem_append, List.mem_map, List.mem_singleton] at h
  rcases h with ⟨i, -, rfl⟩ | rfl
  · unfold plCoord; split_ifs <;> decide
  · unfold plLast; split_ifs <;> decide

theorem decodePL16_middling {w : Nat} {sc : BitVec 8} {v : Val} (h : v ∈ decodePL16 w sc) : v.Middling := by
  obtain ⟨x, hx, rfl⟩ := List.mem_map.1 h
  unfold applyScale
  split
  · exact .inl rfl
  · next hs =>
    have hs' : sc.toNat ≠ 255 := fun h => hs (BitVec.eq_of_toNat_eq h)
    have := sc.isLt
    exact .inr ⟨_, _, _, rfl, plDecode_bound hx, by omega, by omega⟩

/-- What the formats of VDEQ have in common. -/
theorem Fmt.range_of_isFloat {f : Fmt} (hf : f.isFloat = true) {L : Layout} (hL : f.layout = some L) : 2 ≤ L.mb ∧ -149 ≤ L.low ∧
    ((2 ^ L.eb : Nat) : Int) ≤ 3000 + L.bias := by
  cases f <;> simp only [Fmt.isFloat, Bool.false_eq_true] at hf <;> cases hL <;> exact ⟨by decide, by decide, by decide⟩

/-- Bounding the exponent leaves the rounded element as it is. -/
theorem Realises.bounded {g : Fmt} (hg : g.isFloat = true) {k : RoundCtx} (hk : k.mode ≠ .dyn) {n : Bool} {m : Nat} {e : Int}
    (hm : m ≤ 4) (he : -128 ≤ e) (he' : e ≤ 127) (b : Int) : Realises g k (exactOf ((Val.fin n m e false).scale b).toQ, 0)
      (.round ((Val.fin n m e false).scale (max (-4096) (min b 4096))) flNone) := by
  have h1 : g ≠ .raw := by rintro rfl; exact absurd hg (by decide)
  have h2 : g ≠ .pl16 := by rintro rfl; exact absurd hg (by decide)
  have hround (b : Int) : Realises g k (exactOf ((Val.fin n m e false).scale b).toQ, 0) (.round ((Val.fin n m e false).scale b) flNone) :=
    Realises.round h1 h2 hk (Val.Sharp.scale (show (Val.fin n m e false).Sharp from rfl) b) 0
  have hexact (b : Int) : exactOf ((Val.fin n m e false).scale b).toQ = if m = 0 then .zero n else .mag n (order ((m : Rat) * 2 ^ (e + b))) :=
    exactOf_fin n m (e + b) false
  by_cases hm0 : m = 0
  · have h := hround (max (-4096) (min b 4096))
    rw [hexact, if_pos hm0] at h ⊢
    exact h
  obtain ⟨L, hL, -⟩ := Fmt.layout_of_isFloat hg
  obtain ⟨hmb, hlow, hbig⟩ := Fmt.range_of_isFloat hg hL
  rcases lt_or_ge 4096 b with hb | hb
  · have hmb' : m < 2 ^ (L.mb + 1) := by
      have := Nat.pow_le_pow_right (n := 2) (by omega) (Nat.succ_le_succ hmb)
      omega
    obtain ⟨i, hi, hki⟩ := Layout.exists_code_of_large (Fmt.layout_sound hL) hm0 hmb' (e := e + b) (by omega)
    obtain ⟨i', hi', hki'⟩ := Layout.exists_code_of_large (Fmt.layout_sound hL) hm0 hmb' (e := e + 4096) (by omega)
    rw [← topCode_of_layout hL] at hi hi'
    intro rng
    obtain ⟨out, hr, hlt, hstep⟩ := hround 4096 rng
    rw [hexact, if_neg hm0, hki'] at hr
    refine ⟨out, ?_, hlt, by rwa [show max (-4096) (min b 4096) = 4096 by omega]⟩
    rw [hexact, if_neg hm0, hki]
    simp only [RoundsTo, floatOf_of_layout hL] at hr ⊢
    have hacc : g ≠ .acc48 := by rintro rfl; exact absurd hg (by decide)
    rw [if_neg hacc] at hr ⊢
    exact RoundsFloat.of_top hi' hi hr
  rcases lt_or_ge b (-4096) with hb' | hb'
  · rw [hexact, if_neg hm0, show max (-4096) (min b 4096) = -4096 by omega]
    have hlt (c : Int) (hc : c ≤ -4096) : (m : Rat) * 2 ^ (e + c) < 2 ^ (-173 : Int) := by
      calc (m : Rat) * 2 ^ (e + c) ≤ 2 ^ (2 : Int) * 2 ^ (e + c) := by
            refine mul_le_mul_of_nonneg_right ?_ (by positivity)
            exact_mod_cast hm
        _ = 2 ^ (2 + (e + c)) := (zpow_add₀ (by norm_num) _ _).symm
        _ < 2 ^ (-173 : Int) := zpow_lt_zpow_right₀ (by norm_num) (by omega)
    have hpos (c : Int) : (0 : Rat) < (m : Rat) * 2 ^ (e + c) := mul_pos (Nat.cast_pos.2 (Nat.pos_of_ne_zero hm0)) (by positivity)
    exact Realises.mag hL hm0 (Encloses.tiny (hpos b) (hlt b (by omega)) hm0 (hlt (-4096) (by omega)))
      (by unfold Layout.place; omega) n hk 0
  · rw [show max (-4096) (min b 4096) = b by omega]
    exact hround b

/-! ### VDEQ in a lane -/

/-- Codes joined by groups, read back. -/
theorem subElem_chunks {g : Fmt} {cs : List Nat} (hcs : ∀ c ∈ cs, c < 2 ^ g.bits) {q : Nat} (hlen : cs.length = q * g.count) {i : Nat}
    (hi : i < cs.length) : subElem g (((List.range q).map (fun j => joinElems g ((cs.drop (j * g.count)).take g.count))).getD
      (i / g.count) 0) (i % g.count) = cs.getD i 0 := by
  have hn := g.count_pos
  have hq : i / g.count < q := Nat.div_lt_of_lt_mul (by rw [Nat.mul_comm, ← hlen]; exact hi)
  have hmod : i % g.count < g.count := Nat.mod_lt _ hn
  have hdm : i / g.count * g.count + i % g.count = i := by rw [Nat.mul_comm]; exact Nat.div_add_mod i _
  have hle : (i / g.count + 1) * g.count ≤ q * g.count := Nat.mul_le_mul_right _ hq
  have hlt : i % g.count < ((cs.drop (i / g.count * g.count)).take g.count).length := by
    rw [List.length_take, List.length_drop, hlen, Nat.succ_mul] at *
    omega
  rw [List.getD_eq_getElem _ _ (by simpa using hq), List.getElem_map, List.getElem_range,
    subElem_joinElems (List.length_take_le _ _) hlt, List.getElem_take, List.getElem_drop, List.getD_eq_getElem _ _ hi]
  simp only [hdm]
  exact Nat.mod_eq_of_lt (hcs _ (List.getElem_mem hi))

/-- An element of a Pleiad word before it is rounded. -/
def deqElem (g : Fmt) (b : Int) (v : Val) : ElemRes :=
  if v.isNan then .code g.nanCode flNone else .round (v.scale (max (-4096) (min b 4096))) flNone

theorem deqElem_realises {g : Fmt} (hg : g = .fp32 ∨ g = .fp16 ∨ g = .bf16) {k : RoundCtx} (hk : k.mode ≠ .dyn) (b : Int) {v : Val}
    (hv : v.Middling) : Realises g k (exactOf (v.toQ.times b), 0) (deqElem g b v) := by
  rcases hv with rfl | ⟨n, m, e, rfl, hm, he, he'⟩
  · exact Realises.nan (by rcases hg with rfl | rfl | rfl <;> rfl) k 0
  · rw [← toQ_scale]
    exact Realises.bounded (by rcases hg with rfl | rfl | rfl <;> rfl) hk hm he he' b

/-- VDEQ in a lane: eight coordinates times both powers of two, each rounded once (R43, R169). -/
theorem laneDeq_elements {g : Fmt} (hg : g = .fp32 ∨ g = .fp16 ∨ g = .bf16) {k : RoundCtx} (hk : k.mode ≠ .dyn) {a : LaneReg} (b : Word)
    (word : Nat) (rng : Word) (ha : a.tag = .pl16) :
    let w := a.bits.toNat / 2 ^ (16 * word) % 2 ^ 16
    ∃ rs fl rng', laneDeq g k a b word rng = some (rs, fl, rng') ∧ rs.length = 8 / g.count ∧
       Elements g k 8 (fun i => (exactOf (((Quantity.fin (decide (coordinate w i < 0)) (coordinate w i)).scaled a.scale).times b.toInt), 0)) rng
         (fun i => subElem g (rs.getD (i / g.count) 0) (i % g.count)) fl rng' := by
  intro w
  have hw : subElem .pl16 a.bits word = w := by
    rw [subElem, Nat.shiftRight_eq_div_pow, Nat.mul_comm]; rfl
  have h8 : ((decodePL16 w a.scale).map (deqElem g b.toInt)).length = 8 := by rw [List.length_map, decodePL16, List.length_map, plDecode_length]
  obtain ⟨hes, hcs⟩ := settle_elements (g := g) (k := k) (es := (decodePL16 w a.scale).map (deqElem g b.toInt)) rng
    (x := fun i => (exactOf (((Quantity.fin (decide (coordinate w i < 0)) (coordinate w i)).scaled a.scale).times b.toInt), 0))
    (fun i hi => by
      rw [← decodePL16_toQ w a.scale (h8 ▸ hi)]
      rw [List.length_map] at hi
      rw [List.getD_eq_getElem _ _ hi, List.getElem_map]
      exact deqElem_realises hg hk b.toInt (decodePL16_middling (List.getElem_mem hi)))
  have hlen := settle_length g k ((decodePL16 w a.scale).map (deqElem g b.toInt)) flNone rng
  rw [h8] at hes hlen
  have hq : 8 = 8 / g.count * g.count := by rcases hg with rfl | rfl | rfl <;> rfl
  refine ⟨_, _, _, (if_pos ha).trans (by rw [hw]; rfl), by rw [List.length_map, List.length_range],
    Elements.congr hes (fun i hi => subElem_chunks hcs (hlen.trans hq) (hlen ▸ hi))⟩

theorem laneDeq_none {g : Fmt} (k : RoundCtx) {a : LaneReg} (b : Word) (word : Nat) (rng : Word) (h : a.tag ≠ .pl16) :
    laneDeq g k a b word rng = none := if_neg h

end Sys2Proof
end

section
/-!
SUPPORT. CosetRound (spec/02 R45): the model's roundings over numbers in units of `1/u` are those of the rationals that they stand
for.
-/
namespace Sys2Proof
open Sys2Proof.Claims

/-! ### The nearest integer -/

/-- The nearest integer to a number in units of `1/u`. -/
theorem nearestEven_eq (z : Int) {u : Nat} (hu : 0 < u) : nearestEven z u = nearest ((z : Rat) / u) := by
  have hu' : (0 : Rat) < u := Nat.cast_pos.2 hu
  have hfl : ((z : Rat) / u).floor = z / (u : Int) := Rat.floor_intCast_div_natCast z u
  have hr0 : 0 ≤ z % (u : Int) := Int.emod_nonneg _ (by omega)
  have hfrac : (z : Rat) / u - ((z / (u : Int) : Int) : Rat) = ((z % (u : Int) : Int) : Rat) / u := by
    have h : (((u : Int) * (z / (u : Int)) + z % (u : Int) : Int) : Rat) = z := by rw [Int.mul_ediv_add_emod]
    push_cast at h
    field_simp
    linarith
  have hlt : ((z % (u : Int) : Int) : Rat) / u < 1 / 2 ↔ 2 * (z % (u : Int)) < u := by
    rw [div_lt_div_iff₀ hu' (by norm_num), ← Int.cast_lt (R := Rat)]
    push_cast
    constructor <;> intro h <;> linarith
  have heq : ((z % (u : Int) : Int) : Rat) / u = 1 / 2 ↔ 2 * (z % (u : Int)) = u := by
    rw [div_eq_div_iff hu'.ne' (by norm_num), ← Int.cast_inj (α := Rat)]
    push_cast
    constructor <;> intro h <;> linarith
  rw [nearest, hfl]
  simp only [hfrac, hlt, heq]
  unfold nearestEven
  dsimp only
  generalize z / (u : Int) = q
  generalize z % (u : Int) = r at hr0 ⊢
  obtain ⟨r, rfl⟩ := Int.eq_ofNat_of_zero_le hr0
  rw [Int.toNat_natCast]
  split_ifs <;> omega

/-- The nearest integer lies between any two integers that the number lies between. -/
theorem nearest_bounds {z : Rat} {lo hi : Int} (h1 : (lo : Rat) ≤ z) (h2 : z ≤ hi) : lo ≤ nearest z ∧ nearest z ≤ hi := by
  have hle : (z.floor : Rat) ≤ z := Int.floor_le z
  have hlo : lo ≤ z.floor := Int.le_floor.2 h1
  have hhi : z.floor ≤ hi := Int.cast_le.1 (hle.trans h2)
  have hup : ¬ z - z.floor < 1 / 2 → z.floor + 1 ≤ hi := fun h => by
    have : ((z.floor : Int) : Rat) < (hi : Int) := by linarith
    exact Int.cast_lt.1 this
  unfold nearest
  dsimp only
  split_ifs with h
  · exact ⟨hlo, hhi⟩
  · exact ⟨hlo, hhi⟩
  · exact ⟨by omega, hup h⟩

/-! ### The coordinate that is moved -/

section
variable (z : Nat → Rat) (lo hi : Int) (boxed : Bool)

/-- A rounded coordinate on the other side of its input (R45). -/
def flipped (i : Nat) : Int := if z i < nearest (z i) then nearest (z i) - 1 else nearest (z i) + 1

/-- The error of a rounded coordinate. -/
def roundError (i : Nat) : Rat := (z i - nearest (z i)).abs

/-- A coordinate that may be moved: its other side lies in the box. -/
def mayFlip (i : Nat) : Bool := !boxed || (decide (lo ≤ flipped z i) && decide (flipped z i ≤ hi))

/-- The coordinate to move: of those that may be the first with the largest error. -/
def flipsFirst (i : Nat) : Bool := mayFlip z lo hi boxed i && (List.range 8).all (fun j => !mayFlip z lo hi boxed j ||
  decide (roundError z j < roundError z i) || (decide (roundError z j = roundError z i) && decide (i ≤ j)))

theorem rounded_eq (i : Nat) : rounded z lo hi boxed i =
    if ((List.range 8).map (fun i => nearest (z i))).sum % 2 ≠ 0 ∧ (List.range 8).find? (flipsFirst z lo hi boxed) = some i
      then flipped z i else nearest (z i) := rfl

/-- What the model has picked among the first `n` coordinates. -/
def Picked (n : Nat) (best : Option Nat) : Prop :=
  match best with
  | none => ∀ j, j < n → mayFlip z lo hi boxed j = false
  | some i => i < n ∧ mayFlip z lo hi boxed i = true ∧ ∀ j, j < n → mayFlip z lo hi boxed j = true →
      roundError z j < roundError z i ∨ (roundError z j = roundError z i ∧ i ≤ j)

variable {z lo hi boxed}

/-- A further coordinate that may not be moved. -/
theorem Picked.succ_of_not {n : Nat} {best : Option Nat} (h : Picked z lo hi boxed n best) (hn : mayFlip z lo hi boxed n = false) :
    Picked z lo hi boxed (n + 1) best := by
  have hall (j : Nat) (hj : j < n + 1) (hok : mayFlip z lo hi boxed j = true) : j < n := by
    refine lt_of_le_of_ne (Nat.le_of_lt_succ hj) ?_
    rintro rfl
    exact Bool.noConfusion (hn.symm.trans hok)
  cases best with
  | none =>
    intro j hj
    by_contra hok
    rw [Bool.not_eq_false] at hok
    exact Bool.noConfusion ((h j (hall j hj hok)).symm.trans hok)
  | some i =>
    obtain ⟨hi, hok, hmax⟩ := h
    exact ⟨hi.trans (Nat.lt_succ_self n), hok, fun j hj hj' => hmax j (hall j hj hj') hj'⟩

/-- The first coordinate that may be moved. -/
theorem Picked.succ_first {n : Nat} (h : Picked z lo hi boxed n none) (hn : mayFlip z lo hi boxed n = true) :
    Picked z lo hi boxed (n + 1) (some n) := by
  refine ⟨Nat.lt_succ_self n, hn, fun j hj hok => ?_⟩
  rcases Nat.lt_succ_iff_lt_or_eq.1 hj with hlt | rfl
  · exact Bool.noConfusion ((h j hlt).symm.trans hok)
  · exact .inr ⟨rfl, le_refl _⟩

/-- A coordinate with a larger error than all before it. -/
theorem Picked.succ_larger {n i : Nat} (h : Picked z lo hi boxed n (some i)) (hn : mayFlip z lo hi boxed n = true)
    (hlt : roundError z i < roundError z n) : Picked z lo hi boxed (n + 1) (some n) := by
  obtain ⟨-, -, hmax⟩ := h
  refine ⟨Nat.lt_succ_self n, hn, fun j hj hok => ?_⟩
  rcases Nat.lt_succ_iff_lt_or_eq.1 hj with hjn | rfl
  · rcases hmax j hjn hok with h' | ⟨h', -⟩
    · exact .inl (h'.trans hlt)
    · exact .inl (h' ▸ hlt)
  · exact .inr ⟨rfl, le_refl _⟩

/-- A coordinate whose error is not larger than the picked one's. -/
theorem Picked.succ_keep {n i : Nat} (h : Picked z lo hi boxed n (some i)) (hle : ¬ roundError z i < roundError z n) :
    Picked z lo hi boxed (n + 1) (some i) := by
  obtain ⟨hi, hok, hmax⟩ := h
  refine ⟨hi.trans (Nat.lt_succ_self n), hok, fun j hj hj' => ?_⟩
  rcases Nat.lt_succ_iff_lt_or_eq.1 hj with hjn | rfl
  · exact hmax j hjn hj'
  · rcases lt_or_eq_of_le (not_lt.1 hle) with h' | h'
    · exact .inl h'
    · exact .inr ⟨h', hi.le⟩

variable (z lo hi boxed)

/-- The picked coordinate is the one to move. -/
theorem find_eq_of_picked {best : Option Nat} (h : Picked z lo hi boxed 8 best) :
    (List.range 8).find? (flipsFirst z lo hi boxed) = best := by
  cases best with
  | none =>
    refine List.find?_eq_none.2 (fun i hi8 hf => ?_)
    rw [flipsFirst, Bool.and_eq_true, h i (List.mem_range.1 hi8)] at hf
    exact Bool.noConfusion hf.1
  | some i =>
    obtain ⟨hi8, hok, hmax⟩ := h
    have hfirst : flipsFirst z lo hi boxed i = true := by
      rw [flipsFirst, hok, Bool.true_and, List.all_eq_true]
      intro j hj
      cases hj' : mayFlip z lo hi boxed j with
      | false => rfl
      | true => simpa using hmax j (List.mem_range.1 hj) hj'
    have huniq (j : Nat) (hj : j < 8) (hf : flipsFirst z lo hi boxed j = true) : j = i := by
      rw [flipsFirst, Bool.and_eq_true, List.all_eq_true] at hf
      obtain ⟨hokj, hall⟩ := hf
      have hij := hall i (List.mem_range.2 hi8)
      simp only [hok, Bool.not_true, Bool.false_or, Bool.or_eq_true, Bool.and_eq_true, decide_eq_true_eq] at hij
      rcases hmax j hj hokj with hlt | ⟨heq, hle⟩
      · rcases hij with h' | ⟨h', -⟩ <;> linarith
      · rcases hij with h' | ⟨-, hle'⟩
        · linarith
        · exact le_antisymm hle' hle
    cases hfind : (List.range 8).find? (flipsFirst z lo hi boxed) with
    | none => exact absurd hfirst (List.find?_eq_none.1 hfind i (List.mem_range.2 hi8))
    | some j =>
      exact congrArg some (huniq j (List.mem_range.1 (List.mem_of_find?_eq_some hfind)) (List.find?_some hfind))

end

/-! ### Numbers in units of `1/u` -/

section
variable (Z : Nat → Int) {u : Nat} (hu : 0 < u) (lo hi : Int) (boxed : Bool)

/-- The numbers that the model holds in units of `1/u`. -/
def perUnit (Z : Nat → Int) (u i : Nat) : Rat := (Z i : Rat) / u

include hu

theorem nearest_perUnit (i : Nat) : nearest (perUnit Z u i) = nearestEven (Z i) u := (nearestEven_eq (Z i) hu).symm

theorem plFlip_eq (i : Nat) : plFlip (Z i) (nearestEven (Z i) u) u = flipped (perUnit Z u) i := by
  have hu' : (0 : Rat) < u := Nat.cast_pos.2 hu
  have h : Z i < nearestEven (Z i) u * (u : Int) ↔ perUnit Z u i < nearestEven (Z i) u := by
    rw [perUnit, div_lt_iff₀ hu', ← Int.cast_lt (R := Rat)]
    push_cast; rfl
  rw [plFlip, flipped, nearest_perUnit Z hu]
  simp only [h]

theorem roundError_eq (i : Nat) : (((Z i - nearestEven (Z i) u * (u : Int)).natAbs : Nat) : Rat) = roundError (perUnit Z u) i * u := by
  have hu' : (0 : Rat) < u := Nat.cast_pos.2 hu
  have habs : (((Z i - nearestEven (Z i) u * (u : Int)).natAbs : Nat) : Rat) = |((Z i - nearestEven (Z i) u * (u : Int) : Int) : Rat)| := by
    rw [← Int.cast_abs, Int.abs_eq_natAbs]; rfl
  have hmul : ((Z i - nearestEven (Z i) u * (u : Int) : Int) : Rat) = (perUnit Z u i - nearestEven (Z i) u) * u := by
    rw [perUnit]; push_cast; field_simp
  rw [habs, hmul, abs_mul, abs_of_pos hu', roundError, ratAbs_eq, nearest_perUnit Z hu]

/-- The model's choice over the coordinates from `i` on. -/
theorem plPick_picked (n i : Nat) (best : Option (Nat × Nat)) (hbest : Picked (perUnit Z u) lo hi boxed i (best.map Prod.fst))
    (herr : ∀ p ∈ best, p.2 = (Z p.1 - nearestEven (Z p.1) u * (u : Int)).natAbs) :
    Picked (perUnit Z u) lo hi boxed (i + n)
      (plPick lo hi boxed u ((List.range' i n).map (fun j => (Z j, nearestEven (Z j) u))) i best) := by
  have hu' : (0 : Rat) < u := Nat.cast_pos.2 hu
  induction n generalizing i best with
  | zero => exact hbest
  | succ n ih =>
    have hlt (j : Nat) : (Z j - nearestEven (Z j) u * (u : Int)).natAbs < (Z i - nearestEven (Z i) u * (u : Int)).natAbs ↔
        roundError (perUnit Z u) j < roundError (perUnit Z u) i := by
      rw [← Nat.cast_lt (α := Rat), roundError_eq Z hu, roundError_eq Z hu, mul_lt_mul_iff_left₀ hu']
    have hok : (!boxed || (decide (lo ≤ flipped (perUnit Z u) i) && decide (flipped (perUnit Z u) i ≤ hi))) =
      mayFlip (perUnit Z u) lo hi boxed i := rfl
    simp only [List.range'_succ, List.map_cons, plPick, plFlip_eq Z hu, hok]
    rw [show i + (n + 1) = i + 1 + n by omega]
    cases hm : mayFlip (perUnit Z u) lo hi boxed i with
    | false =>
      refine ih (i + 1) best ?_ herr
      exact hbest.succ_of_not hm
    | true =>
      cases best with
      | none => exact ih (i + 1) _ (Picked.succ_first hbest hm) (fun p hp => by cases hp; rfl)
      | some p =>
        obtain ⟨j, b⟩ := p
        obtain rfl : b = (Z j - nearestEven (Z j) u * (u : Int)).natAbs := herr _ rfl
        simp only [if_true]
        split
        · next h => exact ih (i + 1) _ (Picked.succ_larger hbest hm ((hlt j).1 h)) (fun p hp => by cases hp; rfl)
        · next h => exact ih (i + 1) _ (Picked.succ_keep hbest (fun h' => h ((hlt j).2 h'))) (fun p hp => by cases hp; rfl)

/-- CosetRound of the model is that of R45. -/
theorem cosetRound_eq : cosetRound ((List.range 8).map Z) u lo hi boxed = (List.range 8).map (rounded (perUnit Z u) lo hi boxed) := by
  have hpick : Picked (perUnit Z u) lo hi boxed 8
      (plPick lo hi boxed u ((List.range 8).map (fun i => (Z i, nearestEven (Z i) u))) 0 none) :=
    plPick_picked Z hu lo hi boxed 8 0 none (fun j hj => absurd hj (Nat.not_lt_zero j)) (fun _ hp => by cases hp)
  have hfind := find_eq_of_picked _ _ _ _ hpick
  have hzip : ((List.range 8).map Z).zip (((List.range 8).map Z).map (fun x => nearestEven x u)) =
      (List.range 8).map (fun i => (Z i, nearestEven (Z i) u)) := rfl
  have hround : (List.range 8).map (rounded (perUnit Z u) lo hi boxed) = (List.range 8).map (fun i =>
      if ((List.range 8).map (fun i => nearestEven (Z i) u)).sum % 2 ≠ 0 ∧
        plPick lo hi boxed u ((List.range 8).map (fun i => (Z i, nearestEven (Z i) u))) 0 none = some i
      then plFlip (Z i) (nearestEven (Z i) u) u else nearestEven (Z i) u) := by
    refine List.map_congr_left (fun i _ => ?_)
    rw [rounded_eq, hfind, plFlip_eq Z hu]
    simp only [nearest_perUnit Z hu]
  rw [hround, cosetRound]
  simp only [hzip]
  rw [List.map_map]
  by_cases hs : ((List.range 8).map (fun i => nearestEven (Z i) u)).sum % 2 = 0
  · rw [if_pos (by exact hs)]
    refine List.map_congr_left (fun i _ => ?_)
    rw [if_neg (fun h => h.1 hs)]; rfl
  · rw [if_neg (by exact hs)]
    cases plPick lo hi boxed u ((List.range 8).map (fun i => (Z i, nearestEven (Z i) u))) 0 none with
    | none =>
      refine List.map_congr_left (fun i _ => ?_)
      rw [if_neg (by simp)]; rfl
    | some k =>
      simp only [hs, ne_eq, not_false_eq_true, true_and, Option.some.injEq, eq_comm (a := k)]
      rfl

end

/-! ### What CosetRound gives -/

section
variable {z : Nat → Rat} {lo hi : Int} {boxed : Bool}

/-- Among any first coordinates one is picked, or none may be moved. -/
theorem exists_picked (z : Nat → Rat) (lo hi : Int) (boxed : Bool) (n : Nat) : ∃ best, Picked z lo hi boxed n best := by
  induction n with
  | zero => exact ⟨none, fun j hj => absurd hj (Nat.not_lt_zero j)⟩
  | succ n ih =>
    obtain ⟨best, h⟩ := ih
    cases hn : mayFlip z lo hi boxed n with
    | false => exact ⟨best, h.succ_of_not hn⟩
    | true =>
      cases best with
      | none => exact ⟨some n, Picked.succ_first h hn⟩
      | some i =>
        by_cases hlt : roundError z i < roundError z n
        · exact ⟨some n, Picked.succ_larger h hn hlt⟩
        · exact ⟨some i, Picked.succ_keep h hlt⟩

/-- A sum in which one of its terms is replaced. -/
theorem sum_range_replaced (f g : Nat → Int) {k : Nat} (hk : k < 8) :
    ((List.range 8).map (fun i => if k = i then g i else f i)).sum = ((List.range 8).map f).sum + (g k - f k) := by
  interval_cases k <;> simp [List.range, List.range.loop] <;> ring

/-- The coordinates have an even sum, if one of them may be moved where the nearest ones have an odd sum. -/
theorem rounded_even (h : ((List.range 8).map (fun i => nearest (z i))).sum % 2 ≠ 0 → ∃ i, i < 8 ∧ mayFlip z lo hi boxed i = true) :
    ((List.range 8).map (rounded z lo hi boxed)).sum % 2 = 0 := by
  by_cases hs : ((List.range 8).map (fun i => nearest (z i))).sum % 2 = 0
  · rw [List.map_congr_left (fun i _ => (rounded_eq z lo hi boxed i).trans (if_neg fun h => h.1 hs))]
    exact hs
  · obtain ⟨i, hi8, hok⟩ := h hs
    obtain ⟨best, hbest⟩ := exists_picked z lo hi boxed 8
    have hfind := find_eq_of_picked z lo hi boxed hbest
    cases best with
    | none => exact Bool.noConfusion ((hbest i hi8).symm.trans hok)
    | some k =>
      obtain ⟨hk, -, -⟩ := hbest
      have hround (i : Nat) : rounded z lo hi boxed i = if k = i then flipped z i else nearest (z i) := by
        rw [rounded_eq, hfind]
        simp only [hs, ne_eq, not_false_eq_true, true_and, Option.some.injEq]
      rw [List.map_congr_left (fun i _ => hround i), sum_range_replaced _ _ hk]
      unfold flipped
      split <;> omega

/-- Inputs in the box, and coordinates that move only in it, stay in the box. -/
theorem rounded_bounds {i : Nat} (h : (lo : Rat) ≤ z i ∧ z i ≤ hi) : lo ≤ rounded z lo hi true i ∧ rounded z lo hi true i ≤ hi := by
  rw [rounded_eq]
  split
  · next hf =>
    have := List.find?_some hf.2
    rw [flipsFirst, Bool.and_eq_true] at this
    simpa [mayFlip] using this.1
  · exact nearest_bounds h.1 h.2

/-- A coordinate that may not move in the box is its upper bound. -/
theorem nearest_eq_of_not_mayFlip {i : Nat} (h : (lo : Rat) ≤ z i ∧ z i ≤ hi) (hn : mayFlip z lo hi true i = false) :
    nearest (z i) = hi := by
  obtain ⟨hlo, hhi⟩ := nearest_bounds h.1 h.2
  have hout : ¬ (lo ≤ flipped z i ∧ flipped z i ≤ hi) := by
    intro hc
    simp [mayFlip, hc.1, hc.2] at hn
  unfold flipped at hout
  split at hout
  · next hlt =>
    have : lo < nearest (z i) := Int.cast_lt.1 (h.1.trans_lt hlt)
    omega
  · omega

/-- In a box, coordinates with an odd sum are not all its upper bound, so one of them may move. -/
theorem exists_mayFlip (h : ∀ i, i < 8 → (lo : Rat) ≤ z i ∧ z i ≤ hi)
    (hs : ((List.range 8).map (fun i => nearest (z i))).sum % 2 ≠ 0) : ∃ i, i < 8 ∧ mayFlip z lo hi true i = true := by
  by_contra hnone
  refine hs ?_
  have hall (i : Nat) (hi8 : i ∈ List.range 8) : nearest (z i) = hi :=
    nearest_eq_of_not_mayFlip (h i (List.mem_range.1 hi8)) (by
      rw [← Bool.not_eq_true]
      exact fun hok => hnone ⟨i, List.mem_range.1 hi8, hok⟩)
  rw [List.map_congr_left hall]
  simp [List.range, List.range.loop]
  omega

end

end Sys2Proof
end

section
/-!
SUPPORT. The word of a lattice point, and the point of that word (spec/02 R40 to R42, Tables 2.3 to 2.5).
-/
namespace Sys2Proof
open Sys2Proof.Claims

/-- A word from its coset bit, its last bit and its seven codes. -/
def plWord (h e : Bool) (d : Nat → Nat) : Nat :=
  (if h then 2 ^ 15 else 0) + (if e then 2 ^ 14 else 0) + ((List.range 7).map (fun i => d i * 4 ^ i)).sum

theorem plWord_fields (h e : Bool) {d : Nat → Nat} (hd : ∀ i, i < 7 → d i < 4) : plWord h e d < 2 ^ 16 ∧
    (plWord h e d).testBit 15 = h ∧ (plWord h e d).testBit 14 = e ∧ ∀ i, i < 7 → plWord h e d / 4 ^ i % 4 = d i := by
  have hlow : ((List.range 7).map (fun i => d i * 4 ^ i)).sum =
      d 0 + d 1 * 4 + d 2 * 16 + d 3 * 64 + d 4 * 256 + d 5 * 1024 + d 6 * 4096 := by
    simp [List.range, List.range.loop]; ring
  have h0 := hd 0 (by decide)
  have h1 := hd 1 (by decide)
  have h2 := hd 2 (by decide)
  have h3 := hd 3 (by decide)
  have h4 := hd 4 (by decide)
  have h5 := hd 5 (by decide)
  have h6 := hd 6 (by decide)
  rw [plWord, hlow]
  refine ⟨?_, ?_, ?_, fun i hi => ?_⟩
  · cases h <;> cases e <;> simp only [Bool.false_eq_true, if_false, if_true] <;> omega
  · rw [Nat.testBit_eq_decide_div_mod_eq]
    cases h <;> cases e <;> simp only [Bool.false_eq_true, if_false, if_true, decide_eq_true_eq, decide_eq_false_iff_not] <;> omega
  · rw [Nat.testBit_eq_decide_div_mod_eq]
    cases h <;> cases e <;> simp only [Bool.false_eq_true, if_false, if_true, decide_eq_true_eq, decide_eq_false_iff_not] <;> omega
  · cases h <;> cases e <;> simp only [Bool.false_eq_true, if_false, if_true] <;> interval_cases i <;> omega

/-- A doubled coordinate of a coset's box (Tables 2.3, 2.4). -/
def InCoset (half : Bool) (x : Int) : Prop :=
  if half then x = 1 ∨ x = 3 ∨ x = -1 ∨ x = -3 else x = 0 ∨ x = 2 ∨ x = -2 ∨ x = 4

theorem plCode_lt (half : Bool) (x : Int) : plCode half x < 4 := by
  unfold plCode; split_ifs <;> decide

theorem plCoord_plCode {half : Bool} {x : Int} (h : InCoset half x) : plCoord half (plCode half x) = x := by
  cases half <;> simp only [InCoset, Bool.false_eq_true, if_false, if_true] at h <;> rcases h with rfl | rfl | rfl | rfl <;> decide

/-- The last coordinate is one of the two that the others' sum leaves, by its parity (Table 2.5). -/
theorem plLast_of_sum {half : Bool} {S x : Int} (hx : InCoset half x) (h : (S + x) % 4 = 0) :
    plLast half (decide (plLast half false S ≠ x)) S = x := by
  cases half <;> simp only [InCoset, Bool.false_eq_true, if_false, if_true] at hx
  · by_cases hS : S % 4 = 0
    · obtain rfl | rfl : x = 0 ∨ x = 4 := by omega
      · simp [plLast, hS]
      · simp [plLast, hS]
    · obtain rfl | rfl : x = 2 ∨ x = -2 := by omega
      · simp [plLast, hS]
      · simp [plLast, hS]
  · by_cases hS : (S + 1) % 4 = 0
    · obtain rfl | rfl : x = 1 ∨ x = -3 := by omega
      · simp [plLast, hS]
      · simp [plLast, hS]
    · obtain rfl | rfl : x = 3 ∨ x = -1 := by omega
      · simp [plLast, hS]
      · simp [plLast, hS]

theorem plEncode_eq (half : Bool) (C : Nat → Int) : plEncode half ((List.range 8).map C) =
    plWord half (decide (plLast half false ((List.range 7).map C).sum ≠ C 7)) (fun i => plCode half (C i)) := by
  have htake : ((List.range 8).map C).take 7 = (List.range 7).map C := rfl
  have hlow : (((List.range 7).map C).zipIdx.map (fun p => plCode half p.1 * 4 ^ p.2)) =
      (List.range 7).map (fun i => plCode half (C i) * 4 ^ i) := rfl
  have hlast : ((List.range 8).map C).getD 7 0 = C 7 := rfl
  rw [plEncode, plWord, htake, hlow, hlast]
  by_cases h : plLast half false ((List.range 7).map C).sum = C 7
  · simp [h]
  · simp [h]

/-- The word of a lattice point decodes to it. -/
theorem plDecode_plEncode {half : Bool} {C : Nat → Int} (hC : ∀ i, i < 8 → InCoset half (C i)) (hs : ((List.range 8).map C).sum % 4 = 0) :
    plEncode half ((List.range 8).map C) < 2 ^ 16 ∧ plDecode (plEncode half ((List.range 8).map C)) = (List.range 8).map C := by
  rw [plEncode_eq]
  have hfields := plWord_fields half (decide (plLast half false ((List.range 7).map C).sum ≠ C 7))
    (d := fun i => plCode half (C i)) (fun i _ => plCode_lt half (C i))
  generalize plWord half _ _ = w at hfields ⊢
  obtain ⟨hlt, h15, h14, hd⟩ := hfields
  have hcs : (List.range 7).map (fun i => plCoord (w.testBit 15) (w / 4 ^ i % 4)) = (List.range 7).map C :=
    List.map_congr_left (fun i hi => by
      have hi' := List.mem_range.1 hi
      rw [h15, hd i hi', plCoord_plCode (hC i (by omega))])
  have hsum : ((List.range 8).map C).sum = ((List.range 7).map C).sum + C 7 := by
    rw [List.range_succ, List.map_append, List.sum_append]; simp
  refine ⟨hlt, ?_⟩
  rw [plDecode]
  rw [hcs, h15, h14, plLast_of_sum (hC 7 (by decide)) (hsum ▸ hs)]
  rfl

/-- The coordinates of a lattice point's word. -/
theorem coordinate_plEncode {half : Bool} {C : Nat → Int} (hC : ∀ i, i < 8 → InCoset half (C i)) (hs : ((List.range 8).map C).sum % 4 = 0)
    {i : Nat} (hi : i < 8) : coordinate (plEncode half ((List.range 8).map C)) i = (C i : Rat) / 2 := by
  have h := plDecode_coordinate (plEncode half ((List.range 8).map C)) hi
  rw [(plDecode_plEncode hC hs).2, List.getD_eq_getElem _ _ (by simpa using hi), List.getElem_map, List.getElem_range] at h
  linarith

end Sys2Proof
end

section
/-!
SUPPORT. QuantPL16 (spec/02 R45, R46): the model's candidates, distances and boxes over numbers in units of `1/u` are those of the
rationals that they stand for.
-/
namespace Sys2Proof
open Sys2Proof.Claims

/-! ### Candidates -/

/-- The box of a coset, in whole steps from its shift (R42). -/
def cosetLow (half : Bool) : Int := if half then -2 else -1
def cosetHigh (half : Bool) : Int := if half then 1 else 2
def cosetShift (half : Bool) : Rat := if half then 1 / 2 else 0

/-- What is rounded for a coset: the inputs, clamped to the box where the candidate has to lie in it. -/
def cosetInput (half boxed : Bool) (y : Nat → Rat) (i : Nat) : Rat :=
  (if boxed then max (cosetLow half + cosetShift half) (min (cosetHigh half + cosetShift half) (y i)) else y i) - cosetShift half

/-- A coset's candidate, in doubled coordinates. -/
def candidate (half boxed : Bool) (y : Nat → Rat) (i : Nat) : Int :=
  2 * rounded (cosetInput half boxed y) (cosetLow half) (cosetHigh half) boxed i + (if half then 1 else 0)

/-- A point from its doubled coordinates. -/
def pointOf (C : Nat → Int) (i : Nat) : Rat := (C i : Rat) / 2

/-- A point of doubled coordinates lies in its coset's box. -/
def inBox (half : Bool) (C : Nat → Int) : Bool :=
  within (cosetLow half + cosetShift half) (cosetHigh half + cosetShift half) (pointOf C)

/-- A lattice point of the box, in doubled coordinates. -/
def LatticePoint (half : Bool) (C : Nat → Int) : Prop :=
  (∀ i, i < 8 → InCoset half (C i)) ∧ ((List.range 8).map C).sum % 4 = 0

theorem inBox_iff {half : Bool} {C : Nat → Int} : inBox half C = true ↔ ∀ i, i < 8 →
    2 * cosetLow half + (if half then 1 else 0) ≤ C i ∧ C i ≤ 2 * cosetHigh half + (if half then 1 else 0) := by
  rw [inBox, within, List.all_eq_true]
  refine forall_congr' fun i => ?_
  rw [List.mem_range, Bool.and_eq_true, decide_eq_true_eq, decide_eq_true_eq, pointOf]
  refine imp_congr_right fun _ => ?_
  rw [← Int.cast_le (R := Rat), ← Int.cast_le (R := Rat)]
  cases half <;> simp only [cosetLow, cosetHigh, cosetShift, Bool.false_eq_true, if_false, if_true] <;> push_cast <;>
    constructor <;> rintro ⟨h1, h2⟩ <;> constructor <;> linarith

theorem candidate_inCoset {half boxed : Bool} {y : Nat → Rat} {i : Nat}
    (h : 2 * cosetLow half + (if half then 1 else 0) ≤ candidate half boxed y i ∧
      candidate half boxed y i ≤ 2 * cosetHigh half + (if half then 1 else 0)) : InCoset half (candidate half boxed y i) := by
  unfold candidate at h ⊢
  generalize rounded _ _ _ _ i = r at h ⊢
  cases half <;> simp only [cosetLow, cosetHigh, InCoset, Bool.false_eq_true, if_false, if_true] at h ⊢ <;> omega

theorem candidate_sum {half boxed : Bool} {y : Nat → Rat}
    (h : ((List.range 8).map (rounded (cosetInput half boxed y) (cosetLow half) (cosetHigh half) boxed)).sum % 2 = 0) :
    ((List.range 8).map (candidate half boxed y)).sum % 4 = 0 := by
  have hsum : ((List.range 8).map (candidate half boxed y)).sum =
      2 * ((List.range 8).map (rounded (cosetInput half boxed y) (cosetLow half) (cosetHigh half) boxed)).sum +
        8 * (if half then 1 else 0) := by
    simp only [List.range, List.range.loop, List.map_cons, List.map_nil, List.sum_cons, List.sum_nil, candidate]
    ring
  rw [hsum]
  split <;> omega

/-- A candidate that lies in the box is a lattice point of it. -/
theorem latticePoint_of_inBox {half : Bool} {y : Nat → Rat} (h : inBox half (candidate half false y) = true) :
    LatticePoint half (candidate half false y) :=
  ⟨fun i hi => candidate_inCoset (inBox_iff.1 h i hi), candidate_sum (rounded_even fun _ => ⟨0, by decide, rfl⟩)⟩

/-- The candidate of clamped inputs lies in the box. -/
theorem latticePoint_boxed (half : Bool) (y : Nat → Rat) : LatticePoint half (candidate half true y) := by
  have hin (i : Nat) : (cosetLow half : Rat) ≤ cosetInput half true y i ∧ cosetInput half true y i ≤ cosetHigh half := by
    have hlh : (cosetLow half : Rat) ≤ cosetHigh half := by cases half <;> norm_num [cosetLow, cosetHigh]
    simp only [cosetInput, if_true]
    constructor
    · have := le_max_left ((cosetLow half : Rat) + cosetShift half) (min (cosetHigh half + cosetShift half) (y i))
      linarith
    · have : max ((cosetLow half : Rat) + cosetShift half) (min (cosetHigh half + cosetShift half) (y i)) ≤
          cosetHigh half + cosetShift half := max_le (by linarith) (min_le_left _ _)
      linarith
  refine ⟨fun i _ => candidate_inCoset ?_, candidate_sum (rounded_even (exists_mayFlip fun i _ => hin i))⟩
  have hb := rounded_bounds (hin i)
  unfold candidate
  constructor <;> split <;> omega

/-- The candidate of a coset that is compared once the nearer one lies outside its box. -/
def boxedCandidate (half : Bool) (y : Nat → Rat) : Nat → Int :=
  if inBox half (candidate half false y) then candidate half false y else candidate half true y

theorem latticePoint_boxedCandidate (half : Bool) (y : Nat → Rat) : LatticePoint half (boxedCandidate half y) := by
  unfold boxedCandidate
  split
  · next h => exact latticePoint_of_inBox h
  · exact latticePoint_boxed half y

/-- The choice of QuantPL16 by its candidates: coset, point and whether the nearer candidate lay outside its box (R45, R46). -/
def chosen (y : Nat → Rat) : Bool × (Nat → Int) × Bool :=
  let near := decide (distance y (pointOf (candidate false false y)) ≤ distance y (pointOf (candidate true false y)))
  if inBox (!near) (candidate (!near) false y) then (!near, candidate (!near) false y, false)
  else
    let near' := decide (distance y (pointOf (boxedCandidate false y)) ≤ distance y (pointOf (boxedCandidate true y)))
    (!near', boxedCandidate (!near') y, true)

theorem chosen_latticePoint (y : Nat → Rat) : LatticePoint (chosen y).1 (chosen y).2.1 := by
  unfold chosen
  dsimp only
  split
  · next h => exact latticePoint_of_inBox h
  · exact latticePoint_boxedCandidate _ y

theorem pointOf_whole (boxed : Bool) (y : Nat → Rat) : (fun i => ((rounded (if boxed then fun i => max (-1) (min 2 (y i)) else y) (-1) 2
    boxed i : Int) : Rat)) = pointOf (candidate false boxed y) := by
  have hz : cosetInput false boxed y = if boxed then fun i => max (-1) (min 2 (y i)) else y := by
    cases boxed <;> funext i <;> norm_num [cosetInput, cosetLow, cosetHigh, cosetShift]
  funext i
  rw [pointOf, candidate, hz]
  simp [cosetLow, cosetHigh]

theorem pointOf_half (boxed : Bool) (y : Nat → Rat) : (fun i => ((rounded (fun i => (if boxed then max (-3 / 2) (min (3 / 2) (y i)) else y i) - 1 / 2)
    (-2) 1 boxed i : Int) : Rat) + 1 / 2) = pointOf (candidate true boxed y) := by
  have hz : cosetInput true boxed y = fun i => (if boxed then max (-3 / 2) (min (3 / 2) (y i)) else y i) - 1 / 2 := by
    cases boxed <;> funext i <;> norm_num [cosetInput, cosetLow, cosetHigh, cosetShift]
  funext i
  rw [pointOf, candidate, hz]
  simp only [cosetLow, cosetHigh, if_true]
  push_cast; ring

theorem within_whole (C : Nat → Int) : within (-1) 2 (pointOf C) = inBox false C := by
  norm_num [inBox, cosetLow, cosetHigh, cosetShift]

theorem within_half (C : Nat → Int) : within (-3 / 2) (3 / 2) (pointOf C) = inBox true C := by
  norm_num [inBox, cosetLow, cosetHigh, cosetShift]

/-- QuantPL16 by its candidates. -/
theorem quantised_eq (y : Nat → Rat) : quantised y = (pointOf (chosen y).2.1, (chosen y).2.2) := by
  have hP : (fun i => ((rounded y (-1) 2 false i : Int) : Rat)) = pointOf (candidate false false y) := pointOf_whole false y
  have hP' : (fun i => ((rounded (fun i => max (-1) (min 2 (y i))) (-1) 2 true i : Int) : Rat)) = pointOf (candidate false true y) :=
    pointOf_whole true y
  have hH : (fun i => ((rounded (fun i => y i - 1 / 2) (-2) 1 false i : Int) : Rat) + 1 / 2) = pointOf (candidate true false y) :=
    pointOf_half false y
  have hH' : (fun i => ((rounded (fun i => max (-3 / 2) (min (3 / 2) (y i)) - 1 / 2) (-2) 1 true i : Int) : Rat) + 1 / 2) =
    pointOf (candidate true true y) := pointOf_half true y
  have hB (half : Bool) : (if inBox half (candidate half false y) then candidate half false y else candidate half true y) =
    boxedCandidate half y := rfl
  unfold quantised chosen
  simp only [hP, hH, hP', hH', within_whole, within_half, ← apply_ite pointOf, hB]
  generalize boxedCandidate = B
  have hfar : (pointOf (if distance y (pointOf (B false y)) ≤ distance y (pointOf (B true y)) then B false y else B true y), true) =
      (pointOf (B (!decide (distance y (pointOf (B false y)) ≤ distance y (pointOf (B true y)))) y), true) := by
    by_cases h : distance y (pointOf (B false y)) ≤ distance y (pointOf (B true y)) <;> simp only [h, if_true, if_false] <;> rfl
  by_cases hn : distance y (pointOf (candidate false false y)) ≤ distance y (pointOf (candidate true false y))
  · simp only [hn, decide_true, Bool.not_true, if_true]
    split
    · rfl
    · exact hfar
  · simp only [hn, decide_false, Bool.not_false, if_false]
    split
    · rfl
    · exact hfar

end Sys2Proof
end

section
/-!
PROOF. VQUANT's word (statement O27): QuantPL16 of the model is that of R45 and R46.
-/
namespace Sys2Proof
open Sys2Proof.Claims

section
variable {Y : Nat → Int} {u : Nat}

/-- The model's squared distance, in units of `1/(2u)` squared. -/
theorem plDist2_eq (hu : 0 < u) (C : Nat → Int) : ((plDist2 ((List.range 8).map Y) u ((List.range 8).map C) : Int) : Rat) =
    distance (perUnit Y u) (pointOf C) * (4 * (u : Rat) ^ 2) := by
  have hu' : (u : Rat) ≠ 0 := Nat.cast_ne_zero.2 hu.ne'
  have hterm (i : Nat) : (((2 * Y i - C i * (u : Int)) * (2 * Y i - C i * (u : Int)) : Int) : Rat) =
      (perUnit Y u i - pointOf C i) * (perUnit Y u i - pointOf C i) * (4 * (u : Rat) ^ 2) := by
    rw [perUnit, pointOf]; push_cast; field_simp; ring
  have hmodel : plDist2 ((List.range 8).map Y) u ((List.range 8).map C) =
      ((List.range 8).map (fun i => (2 * Y i - C i * (u : Int)) * (2 * Y i - C i * (u : Int)))).sum := rfl
  rw [hmodel, distance]
  simp only [List.range, List.range.loop, List.map_cons, List.map_nil, List.sum_cons, List.sum_nil, Int.cast_add, hterm, Int.cast_zero]
  ring

theorem plDist2_le (hu : 0 < u) (C D : Nat → Int) :
    plDist2 ((List.range 8).map Y) u ((List.range 8).map C) ≤ plDist2 ((List.range 8).map Y) u ((List.range 8).map D) ↔
      distance (perUnit Y u) (pointOf C) ≤ distance (perUnit Y u) (pointOf D) := by
  have hu' : (0 : Rat) < 4 * (u : Rat) ^ 2 := by have := Nat.cast_pos (α := Rat).2 hu; positivity
  rw [← Int.cast_le (R := Rat), plDist2_eq hu, plDist2_eq hu, mul_le_mul_iff_left₀ hu']

theorem plInBox_eq (half : Bool) (C : Nat → Int) : plInBox half ((List.range 8).map C) = inBox half C := by
  rw [Bool.eq_iff_iff, inBox_iff, plInBox, List.all_map, List.all_eq_true]
  refine forall_congr' fun i => ?_
  rw [List.mem_range]
  cases half <;> simp [cosetLow, cosetHigh]

/-- A candidate of the model, from the numbers that it rounds. -/
theorem cosetRound_candidate (hu : 0 < u) {V : Nat → Int} {half boxed : Bool} (hV : perUnit V u = cosetInput half boxed (perUnit Y u)) :
    (cosetRound ((List.range 8).map V) u (cosetLow half) (cosetHigh half) boxed).map (fun x => 2 * x + (if half then 1 else 0)) =
      (List.range 8).map (candidate half boxed (perUnit Y u)) := by
  rw [cosetRound_eq V hu, List.map_map, hV]
  rfl

end

section
variable (Y : Nat → Int) {uh : Nat} (huh : 0 < uh)
include huh

theorem perUnit_shifted : perUnit (fun i => Y i - uh) (2 * uh) = cosetInput true false (perUnit Y (2 * uh)) := by
  have h : (uh : Rat) ≠ 0 := Nat.cast_ne_zero.2 huh.ne'
  funext i
  simp only [perUnit, cosetInput, cosetShift, Bool.false_eq_true, if_false, if_true]
  push_cast; field_simp

omit huh in
/-- A number kept within bounds. -/
theorem clamp_div {a b : Int} (hab : a ≤ b) (x : Int) (u : Nat) : ((if x < a then a else if b < x then b else x : Int) : Rat) / u =
    max ((a : Rat) / u) (min ((b : Rat) / u) ((x : Rat) / u)) := by
  have h : (if x < a then a else if b < x then b else x) = max a (min b x) := by split_ifs <;> omega
  rw [h, Int.cast_max, Int.cast_min, min_div_div_right (Nat.cast_nonneg u), max_div_div_right (Nat.cast_nonneg u)]

theorem perUnit_clamped : perUnit (fun i => if Y i < -((2 * uh : Nat) : Int) then -((2 * uh : Nat) : Int)
      else if 2 * ((2 * uh : Nat) : Int) < Y i then 2 * ((2 * uh : Nat) : Int) else Y i) (2 * uh) =
    cosetInput false true (perUnit Y (2 * uh)) := by
  have h : (uh : Rat) ≠ 0 := Nat.cast_ne_zero.2 huh.ne'
  have hlo : ((-((2 * uh : Nat) : Int) : Int) : Rat) / (2 * uh : Nat) = (cosetLow false : Rat) + cosetShift false := by
    simp only [cosetLow, cosetShift, Bool.false_eq_true, if_false]; push_cast; field_simp; norm_num
  have hhi : ((2 * ((2 * uh : Nat) : Int) : Int) : Rat) / (2 * uh : Nat) = (cosetHigh false : Rat) + cosetShift false := by
    simp only [cosetHigh, cosetShift, Bool.false_eq_true, if_false]; push_cast; field_simp; norm_num
  funext i
  rw [perUnit, clamp_div (by omega), hlo, hhi, cosetInput, if_pos rfl]
  exact (sub_zero _).symm

theorem perUnit_clamped_shifted : perUnit (fun i => (if Y i < -(3 * (uh : Int)) then -(3 * (uh : Int))
      else if 3 * (uh : Int) < Y i then 3 * (uh : Int) else Y i) - uh) (2 * uh) =
    cosetInput true true (perUnit Y (2 * uh)) := by
  have h : (uh : Rat) ≠ 0 := Nat.cast_ne_zero.2 huh.ne'
  have hlo : ((-(3 * (uh : Int)) : Int) : Rat) / (2 * uh : Nat) = (cosetLow true : Rat) + cosetShift true := by
    simp only [cosetLow, cosetShift, if_true]; push_cast; field_simp; norm_num
  have hhi : ((3 * (uh : Int) : Int) : Rat) / (2 * uh : Nat) = (cosetHigh true : Rat) + cosetShift true := by
    simp only [cosetHigh, cosetShift, if_true]; push_cast; field_simp; norm_num
  have hsh : ((uh : Int) : Rat) / (2 * uh : Nat) = cosetShift true := by
    simp only [cosetShift, if_true]; push_cast; field_simp
  funext i
  rw [perUnit, Int.cast_sub, sub_div, clamp_div (by omega), hlo, hhi, hsh, cosetInput, if_pos rfl]
  rfl

/-- QuantPL16 of the model chooses as R45 and R46 do, and gives the point's word. -/
theorem quantUnits_eq : quantUnits ((List.range 8).map Y) (2 * uh) =
    (plEncode (chosen (perUnit Y (2 * uh))).1 ((List.range 8).map (chosen (perUnit Y (2 * uh))).2.1), (chosen (perUnit Y (2 * uh))).2.2) := by
  have hu : 0 < 2 * uh := by omega
  have hI := cosetRound_candidate (Y := Y) hu (V := Y) (half := false) (boxed := false) (by
    funext i; simp [cosetInput, cosetShift])
  have hH := cosetRound_candidate hu (perUnit_shifted Y huh)
  have hI' := cosetRound_candidate hu (perUnit_clamped Y huh)
  have hH' := cosetRound_candidate hu (perUnit_clamped_shifted Y huh)
  simp only [cosetLow, cosetHigh, Bool.false_eq_true, if_false, if_true, add_zero] at hI hH hI' hH'
  have huh2 : (2 * uh / 2 : Nat) = uh := by omega
  unfold quantUnits
  rw [huh2]
  simp only [List.map_map, Function.comp_def] at hI hH hI' hH' ⊢
  have hB (half : Bool) : (if inBox half (candidate half false (perUnit Y (2 * uh))) = true then
      (List.range 8).map (candidate half false (perUnit Y (2 * uh))) else (List.range 8).map (candidate half true (perUnit Y (2 * uh)))) =
      (List.range 8).map (boxedCandidate half (perUnit Y (2 * uh))) := by
    rw [boxedCandidate]; split <;> rfl
  simp only [hI, hH, hI', hH', plInBox_eq, hB, plDist2_le hu, chosen]
  generalize perUnit Y (2 * uh) = y
  generalize boxedCandidate = B
  have hfar : (if distance y (pointOf (B false y)) ≤ distance y (pointOf (B true y)) then
        (plEncode false ((List.range 8).map (B false y)), true) else (plEncode true ((List.range 8).map (B true y)), true)) =
      (plEncode (!decide (distance y (pointOf (B false y)) ≤ distance y (pointOf (B true y)))) ((List.range 8).map
        (B (!decide (distance y (pointOf (B false y)) ≤ distance y (pointOf (B true y)))) y)), true) := by
    by_cases h : distance y (pointOf (B false y)) ≤ distance y (pointOf (B true y)) <;> simp only [h, if_true, if_false] <;> rfl
  by_cases hn : distance y (pointOf (candidate false false y)) ≤ distance y (pointOf (candidate true false y))
  · simp only [hn, decide_true, Bool.not_true, if_true]
    split
    · rfl
    · exact hfar
  · simp only [hn, decide_false, Bool.not_false, Bool.false_eq_true, if_false]
    split
    · rfl
    · exact hfar

end

/-- The word of QuantPL16 has the chosen point's coordinates (R45, R46). -/
theorem quantUnits_quantised (Y : Nat → Int) {uh : Nat} (huh : 0 < uh) : let r := quantUnits ((List.range 8).map Y) (2 * uh)
    r.1 < 2 ^ 16 ∧ (∀ i, i < 8 → coordinate r.1 i = (quantised (perUnit Y (2 * uh))).1 i) ∧ r.2 = (quantised (perUnit Y (2 * uh))).2 := by
  intro r
  obtain ⟨hC, hs⟩ := chosen_latticePoint (perUnit Y (2 * uh))
  have hr : r = _ := quantUnits_eq Y huh
  rw [hr, quantised_eq]
  exact ⟨(plDecode_plEncode hC hs).1, fun i hi => coordinate_plEncode hC hs hi, rfl⟩

/-! ### Values as whole numbers of a common unit -/

theorem mapM_eq_some {α β : Type} {f : α → Option β} {g : α → β} {xs : List α} (h : ∀ x ∈ xs, f x = some (g x)) :
    xs.mapM f = some (xs.map g) := by
  induction xs with
  | nil => rfl
  | cons x xs ih =>
    obtain ⟨hx, hxs⟩ := List.forall_mem_cons.1 h
    rw [List.mapM_cons, hx, ih hxs]; rfl

theorem mapM_eq_none {α β : Type} {f : α → Option β} {xs : List α} (h : ∃ x ∈ xs, f x = none) : xs.mapM f = none := by
  induction xs with
  | nil => obtain ⟨x, hx, -⟩ := h; exact absurd hx List.not_mem_nil
  | cons x xs ih =>
    rw [List.mapM_cons]
    cases hx : f x with
    | none => rfl
    | some b =>
      obtain ⟨x', hm, hx'⟩ := h
      rcases List.mem_cons.1 hm with rfl | hm
      · rw [hx] at hx'; cases hx'
      · rw [ih ⟨x', hm, hx'⟩]; rfl

/-- A finite value in units of `2^e`. -/
theorem Val.units_real {v : Val} {n : Bool} {r : Rat} (hv : v.toQ = .fin n r) {e : Int}
    (he : ∀ n m ex st, v = .fin n m ex st → e ≤ ex) : ∃ k : Int, v.units e = some k ∧ (k : Rat) * 2 ^ e = r := by
  cases v with
  | nan => cases hv
  | inf b => cases hv
  | fin b m ex st =>
    have hle := he b m ex st rfl
    rw [toQ_fin] at hv
    injection hv with _ hr
    refine ⟨_, rfl, ?_⟩
    have hpow : ((m <<< (ex - e).toNat : Nat) : Rat) * 2 ^ e = (m : Rat) * 2 ^ ex := by
      rw [Nat.shiftLeft_eq, Nat.cast_mul, mul_assoc, ← zpow_split e ex hle]
    rw [← hr, ← hpow]
    generalize m <<< (ex - e).toNat = j
    cases b <;> simp only [Bool.false_eq_true, if_false, if_true] <;> push_cast <;> ring

theorem Val.units_none {v : Val} (h : ∀ n r, v.toQ ≠ .fin n r) (e : Int) : v.units e = none := by
  cases v with
  | nan => rfl
  | inf b => rfl
  | fin b m ex st => exact absurd (toQ_fin b m ex st) (h _ _)

/-- QuantPL16 of finite values is that of the numbers that they are (R45, R46). -/
theorem quantPL16_finite {V : Nat → Val} {y : Nat → Rat} (hV : ∀ i, i < 8 → ∃ n, (V i).toQ = .fin n (y i)) (hy : ∀ i, 8 ≤ i → y i = 0) :
    let r := quantPL16 ((List.range 8).map V)
    r.1 < 2 ^ 16 ∧ (∀ i, i < 8 → coordinate r.1 i = (quantised y).1 i) ∧ r.2 = if (quantised y).2 then flLatovf else 0 := by
  obtain ⟨hneg, hle⟩ := minExp_le ((List.range 8).map V) (-1)
  generalize he : minExp ((List.range 8).map V) (-1) = e at hneg hle
  have hk (i : Nat) : ∃ k : Int, (i < 8 → (V i).units e = some k) ∧ (k : Rat) * 2 ^ e = y i := by
    by_cases hi : i < 8
    · obtain ⟨n, hn⟩ := hV i hi
      obtain ⟨k, hk, hkr⟩ := Val.units_real hn (fun n m ex st h => hle n m ex st (h ▸ List.mem_map.2 ⟨i, List.mem_range.2 hi, rfl⟩))
      exact ⟨k, fun _ => hk, hkr⟩
    · exact ⟨0, fun h => absurd h hi, by rw [hy i (by omega)]; simp⟩
  choose K hK hreal using hk
  have hlist : ((List.range 8).map V).mapM (Val.units e) = some ((List.range 8).map K) := by
    rw [List.mapM_map]
    exact mapM_eq_some (fun i hi => hK i (List.mem_range.1 hi))
  obtain ⟨a, ha⟩ : ∃ a : Nat, (-e).toNat = a + 1 := ⟨(-e).toNat - 1, by omega⟩
  have hu : 2 ^ (-e).toNat = 2 * 2 ^ a := by rw [ha, pow_succ]; omega
  have hunit : perUnit K (2 * 2 ^ a) = y := by
    funext i
    have hpow : ((2 * 2 ^ a : Nat) : Rat) = 2 ^ (-e) := by
      rw [← hu, Nat.cast_pow, ← zpow_natCast, Int.toNat_of_nonneg (by omega)]; rfl
    rw [perUnit, hpow, ← hreal i, zpow_neg, div_inv_eq_mul]
  have hq : quantPL16 ((List.range 8).map V) = ((quantUnits ((List.range 8).map K) (2 * 2 ^ a)).1,
      if (quantUnits ((List.range 8).map K) (2 * 2 ^ a)).2 then flLatovf else flNone) := by
    rw [quantPL16]
    dsimp only
    rw [he, hlist, hu]
  obtain ⟨hlt, hcoord, hflag⟩ := quantUnits_quantised K (Nat.two_pow_pos a)
  rw [hunit] at hcoord hflag
  rw [hq]
  exact ⟨hlt, hcoord, by rw [hflag]; rfl⟩

/-- QuantPL16 of a value that is not finite is invalid (R45). -/
theorem quantPL16_invalid {V : Nat → Val} {i : Nat} (hi : i < 8) (h : ∀ n r, (V i).toQ ≠ .fin n r) :
    quantPL16 ((List.range 8).map V) = (0, flInvalid) := by
  rw [quantPL16]
  dsimp only
  rw [mapM_eq_none ⟨V i, List.mem_map.2 ⟨i, List.mem_range.2 hi, rfl⟩, Val.units_none h _⟩]

/-! ### VQUANT in a lane -/

/-- The eight inputs of VQUANT (R168). -/
def quantInput (fpmode : Word) (as : List LaneReg) (i : Nat) : Val :=
  Fmt.fp32.value false (flushOf fpmode .fp32) (subElem .fp32 (as.getD (i / 2) LaneReg.zero).bits (i % 2))

theorem quantInput_toQ (fpmode : Word) (as : List LaneReg) (i : Nat) : (quantInput fpmode as i).toQ =
    numOf .fp32 false (fpmode.getLsbD 4) (subElem .fp32 (as.getD (i / 2) LaneReg.zero).bits (i % 2)) := Fmt.value_toQ _ _ _ _

/-- Past the eight inputs stand zeros. -/
theorem quantInput_of_le (fpmode : Word) {as : List LaneReg} (has : as.length = 4) {i : Nat} (hi : 8 ≤ i) :
    (numOf .fp32 false (fpmode.getLsbD 4) (subElem .fp32 (as.getD (i / 2) LaneReg.zero).bits (i % 2))).real = 0 := by
  have h0 : subElem .fp32 LaneReg.zero.bits (i % 2) = 0 := by
    rw [subElem]; simp [LaneReg.zero]
  obtain ⟨e, he⟩ : ∃ e, Fmt.fp32.value false (fpmode.getLsbD 4) 0 = .fin false 0 e false := by
    cases fpmode.getLsbD 4 <;> exact ⟨_, rfl⟩
  rw [List.getD_eq_default _ _ (by omega), h0, ← Fmt.value_toQ, he, toQ_fin]
  simp [Quantity.real]

/-- VQUANT's word, its flags and its place (R168). -/
theorem laneQuant_eq (fpmode : Word) {as : List LaneReg} (old : Word) (c : BitVec 8) (word : Nat) (rng : Word) (has : as.length = 4)
    (htag : ∀ r ∈ as, r.tag = .fp32) : laneQuant fpmode as old c word rng =
      (let q := if c = 255 then (0, flInvalid) else quantPL16 ((List.range 8).map (fun i => (quantInput fpmode as i).scale (127 - (c.toNat : Int))))
       some ⟨joinElems .pl16 ((List.range 4).map (fun j => if j = word then q.1 else subElem .pl16 old j)), .pl16, some c, q.2, rng⟩) := by
  obtain ⟨a0, a1, a2, a3, rfl⟩ : ∃ a0 a1 a2 a3, as = [a0, a1, a2, a3] := by
    match as, has with
    | [a0, a1, a2, a3], _ => exact ⟨a0, a1, a2, a3, rfl⟩
  refine (if_pos (List.all_eq_true.2 fun r hr => decide_eq_true (htag r hr))).trans ?_
  rfl

theorem laneQuant_none (fpmode : Word) {as : List LaneReg} (old : Word) (c : BitVec 8) (word : Nat) (rng : Word)
    (h : ∃ r ∈ as, r.tag ≠ .fp32) : laneQuant fpmode as old c word rng = none := by
  refine if_neg fun hall => ?_
  obtain ⟨r, hr, hne⟩ := h
  exact hne (by simpa using List.all_eq_true.1 hall r hr)

/-- VQUANT in a lane: the word of QuantPL16's point in its place, the other words kept (R45, R46, R168). -/
theorem laneQuant_word (fpmode : Word) {as : List LaneReg} (old : Word) (c : BitVec 8) {word : Nat} (rng : Word) (has : as.length = 4)
    (hword : word < 4) (htag : ∀ r ∈ as, r.tag = .fp32) :
    let x (i : Nat) : Quantity := numOf .fp32 false (fpmode.getLsbD 4) (subElem .fp32 (as.getD (i / 2) LaneReg.zero).bits (i % 2))
    let y (i : Nat) : Rat := (x i).real * 2 ^ (127 - (c.toNat : Int))
    ∃ o, laneQuant fpmode as old c word rng = some o ∧ o.tag = .pl16 ∧ o.scale = some c ∧
       o.rng = rng ∧ (∀ j, j < 4 → j ≠ word → subElem .pl16 o.bits j = subElem .pl16 old j) ∧
       let w := subElem .pl16 o.bits word
       (c = 255 ∨ (∃ i, i < 8 ∧ (x i = .nan ∨ ∃ n, x i = .inf n)) → w = 0 ∧ o.fl = flInvalid) ∧
       (c ≠ 255 → (∀ i, i < 8 → x i ≠ .nan ∧ ∀ n, x i ≠ .inf n) →
         (∀ i, i < 8 → coordinate w i = (quantised y).1 i) ∧ o.fl = if (quantised y).2 then flLatovf else 0) := by
  intro x y
  have h := laneQuant_eq fpmode old c word rng has htag
  have hV (i : Nat) : ((quantInput fpmode as i).scale (127 - (c.toNat : Int))).toQ = (x i).times (127 - (c.toNat : Int)) := by
    rw [toQ_scale, quantInput_toQ]
  generalize hq : (if c = 255 then (0, flInvalid) else
    quantPL16 ((List.range 8).map (fun i => (quantInput fpmode as i).scale (127 - (c.toNat : Int))))) = q at h
  have hsub (j : Nat) (hj : j < 4) : subElem .pl16 (joinElems .pl16 ((List.range 4).map (fun j => if j = word then q.1
      else subElem .pl16 old j))) j = (if j = word then q.1 else subElem .pl16 old j) % 2 ^ 16 :=
    subElem_joinElems_map (f := .pl16) (by decide) _ hj
  refine ⟨_, h, rfl, rfl, rfl, fun j hj hne => ?_, fun hbad => ?_, fun hc hfin => ?_⟩
  · rw [hsub j hj, if_neg hne]
    exact Nat.mod_eq_of_lt (subElem_lt .pl16 old j)
  · have hq0 : q = (0, flInvalid) := by
      by_cases hc : c = 255
      · rw [← hq, if_pos hc]
      · obtain ⟨i, hi, hx⟩ := hbad.resolve_left hc
        rw [← hq, if_neg hc]
        refine quantPL16_invalid hi (fun n r hf => ?_)
        rw [hV] at hf
        rcases hx with hx | ⟨n', hx⟩ <;> rw [hx] at hf <;> cases hf
    rw [hsub word hword, if_pos rfl, hq0]
    exact ⟨rfl, rfl⟩
  · rw [if_neg hc] at hq
    have hfinite (i : Nat) (hi : i < 8) : ∃ n, ((quantInput fpmode as i).scale (127 - (c.toNat : Int))).toQ = .fin n (y i) := by
      obtain ⟨hnan, hinf⟩ := hfin i hi
      rw [hV]
      show ∃ n, (x i).times _ = .fin n ((x i).real * _)
      cases hx : x i with
      | nan => exact absurd hx hnan
      | inf n => exact absurd hx (hinf n)
      | fin n r => exact ⟨n, rfl⟩
    have hzero (i : Nat) (hi : 8 ≤ i) : y i = 0 := by
      show (x i).real * _ = 0
      rw [show (x i).real = 0 from quantInput_of_le fpmode has hi, zero_mul]
    obtain ⟨hlt, hcoord, hfl⟩ := quantPL16_finite hfinite hzero
    rw [hq] at hlt hcoord hfl
    rw [hsub word hword, if_pos rfl, Nat.mod_eq_of_lt hlt]
    exact ⟨hcoord, hfl⟩

end Sys2Proof
end

section
open Sys2Proof Sys2Proof.Claims Sys2Proof.Machine

/-- Settles O27: what each word leaves in its slot, then the values of conversions, of VDEQ, whose bounded exponent changes no rounding,
and of VQUANT, by the chosen lattice point. -/
theorem elementMoves : Obligations.ElementMoves := by
  refine ⟨⟨fun g d a b s hc hr hp => vmovx_acts hc hr hp, fun g d a b f s hc hr => vins_acts hc hr⟩,
    fun g a b f s hc hr hp hm => vins_sends hc hr hp hm, fun g d a b f rm sat word s hc hf hd hr htag => ?_,
    fun g a s hc hr hp => vseed_acts hc hr hp, fun g k a b sd part rng h1 h2 hk => ?_,
    fun g k a b word rng hg hk => ⟨laneDeq_elements hg hk b word rng, laneDeq_none k b word rng⟩,
    fun fpmode as old c word rng has hword => ⟨laneQuant_word fpmode old c rng has hword, laneQuant_none fpmode old c word rng⟩⟩
  · have hpl : ∀ l ∈ lanesOf (lanesOn s g), ((here s).vr a.reg l).tag = .pl16 := fun l hl =>
      htag l (mem_lanesOf.1 hl).1 (mem_lanesOf.1 hl).2
    have hout (l : Nat) (hl : l < 64) (hm : (lanesOn s g).getLsbD l = true) := (deqOut_spec (b := b) (f := f)
      (k := roundBy s rm sat false) (word := word) (htag l hl hm)).1
    refine ActsIn.mono (vdeq_acts hc hf hd hr hpl) ?_
    rintro c c' ⟨hv, he, hl, hs⟩
    refine ⟨fun l hl i hi => (hv l hl i hi).trans ?_, he, LaneState.congr hl (fun l hl hm => ?_), hs⟩
    · split
      · next h => dsimp only; rw [hout l hl h.1]; rfl
      · rfl
    · dsimp only
      rw [hout l hl hm]; rfl
  · exact ⟨laneCvt_elements h1 h2 hk sd rng, lanePack_elements h1 h2 hk sd rng, laneUnpk_elements h1 h2 hk sd rng,
      laneCvt_none k sd rng, lanePack_none k sd rng, laneUnpk_none k sd rng⟩
end

section
/-!
PROOF. An encoded word, field by field: what `encWords` puts into the fields of Tables 3.2 and 3.5 is what the decoder's checks and
readings of those fields find there (spec/03 R63 to R74).
-/
namespace Sys2Proof
open Sys2Proof.Claims

/-! ### The fields of an encoded word -/

theorem RawWord.ofWord_toWord (r : RawWord) : RawWord.ofWord r.toWord = r := by
  obtain ⟨cls, opc, g, n, gp, d, a, ma, low⟩ := r
  simp (disch := omega) only [RawWord.ofWord, RawWord.toWord, BitVec.extractLsb'_cast, BitVec.extractLsb'_append_eq_of_le,
    BitVec.extractLsb'_append_eq_of_add_le, BitVec.extractLsb'_eq_self, Nat.reduceSub]

theorem RawWord.cls_toWord (r : RawWord) : r.toWord.extractLsb' 62 2 = r.cls :=
  congrArg RawWord.cls r.ofWord_toWord

/-- The class of a word by its field B (R62). -/
def BEnc.cls : BEnc → BitVec 2
  | .reg .. => 0
  | .imm _ => 2
  | .lit _ => 3

/-- Bits [30:0] of a word: fields B and C and the modifier, or the immediate (R72). -/
def BEnc.low (c : SEnc) (m : BitVec 13) : BEnc → BitVec 31
  | .reg code mode => code ++ mode ++ c.1 ++ c.2 ++ m
  | .imm i => i
  | .lit _ => 0x7F#7 ++ 0#2 ++ c.1 ++ c.2 ++ m

/-- The words after the first one. -/
def BEnc.literal : BEnc → List Word
  | .lit w => [w]
  | _ => []

/-- The word behind an encoded one is its literal, where it has one. -/
def BEnc.Follows (b : BEnc) (lit : Word) : Prop := ∀ w, b = .lit w → lit = w

/-- An opcode that admits classes 00, 10 and 11 as the flags say admits that of field B (R93). -/
def BEnc.admitted (f i x : Bool) : BEnc → Bool
  | .reg .. => f
  | .imm _ => i
  | .lit _ => x

/-- Field B leaves room for C and the modifier (R72). -/
def BEnc.noImm : BEnc → Bool
  | .imm _ => false
  | _ => true

def guardOn (g : Option Guard) : BitVec 1 := if g.isSome then 1 else 0
def guardNeg (g : Option Guard) : BitVec 1 :=
  match g with
  | some x => if x.neg then 1 else 0
  | none => 0
def guardReg (g : Option Guard) : BitVec 3 :=
  match g with
  | some x => .ofNat 3 x.p.val
  | none => 0

/-- The fields of the first word that `encWords` writes. -/
def rawWord (opc : BitVec 10) (g : Option Guard) (d : BitVec 7) (a : SEnc) (b : BEnc) (c : SEnc) (m : BitVec 13) : RawWord where
  cls := b.cls
  opc := opc
  g := guardOn g
  n := guardNeg g
  gp := guardReg g
  d := d
  a := a.1
  ma := a.2
  low := b.low c m

section
variable {opc : BitVec 10} {g : Option Guard} {d : BitVec 7} {a : SEnc} {b : BEnc} {c : SEnc} {m : BitVec 13} {lit : Word}

theorem encWords_eq : encWords opc g d a b c m = (rawWord opc g d a b c m).toWord :: b.literal := by
  cases b <;> rfl

theorem decode_toWord {r : RawWord} {i : Instr} (hc : r.cls ≠ 1) (h : decodeSingle .full r lit = .ok i) :
    decode r.toWord lit = i := by
  rw [decode, decodeIn, r.cls_toWord, if_neg hc, r.ofWord_toWord, h]

/-- An instruction whose fields decode to it codes back. -/
theorem codesBack_of_fields {i : Instr} (he : encode i = some (encWords opc g d a b c m))
    (hd : ∀ lit, b.Follows lit → decodeSingle .full (rawWord opc g d a b c m) lit = .ok i) : CodesBack i := by
  rw [encWords_eq] at he
  have hx : wordIsExtended (rawWord opc g d a b c m).toWord = (b.cls == 3) := by
    rw [wordIsExtended, RawWord.cls_toWord]; rfl
  have hcls : (rawWord opc g d a b c m).cls ≠ 1 := by
    show b.cls ≠ 1
    cases b <;> simp [BEnc.cls]
  cases b with
  | reg code mode => exact .inl ⟨_, he, hx, fun lit => decode_toWord hcls (hd lit nofun)⟩
  | imm i => exact .inl ⟨_, he, hx, fun lit => decode_toWord hcls (hd lit nofun)⟩
  | lit w => exact .inr ⟨_, w, he, hx, decode_toWord hcls (hd w (fun _ h => by cases h; rfl))⟩

@[simp] theorem rawWord_cls : (rawWord opc g d a b c m).cls = b.cls := rfl
@[simp] theorem rawWord_opc : (rawWord opc g d a b c m).opc = opc := rfl
@[simp] theorem rawWord_d : (rawWord opc g d a b c m).d = d := rfl
@[simp] theorem rawWord_a : (rawWord opc g d a b c m).a = a.1 := rfl
@[simp] theorem rawWord_ma : (rawWord opc g d a b c m).ma = a.2 := rfl

@[simp] theorem rawWord_b_reg (a' : SEnc) : (rawWord opc g d a a'.b c m).b = a'.1 := by
  simp (disch := omega) only [rawWord, RawWord.b, BEnc.low, SEnc.b, BitVec.extractLsb'_append_eq_of_le, BitVec.extractLsb'_eq_self,
    Nat.reduceSub]

@[simp] theorem rawWord_mb_reg (a' : SEnc) : (rawWord opc g d a a'.b c m).mb = a'.2 := by
  simp (disch := omega) only [rawWord, RawWord.mb, BEnc.low, SEnc.b, BitVec.extractLsb'_append_eq_of_le,
    BitVec.extractLsb'_append_eq_of_add_le, BitVec.extractLsb'_eq_self, Nat.reduceSub]

theorem rawWord_b_lit (w : Word) : (rawWord opc g d a (.lit w) c m).b = 0x7F := by
  simp (disch := omega) only [rawWord, RawWord.b, BEnc.low, BitVec.extractLsb'_append_eq_of_le, BitVec.extractLsb'_eq_self,
    Nat.reduceSub]; rfl

theorem rawWord_mb_lit (w : Word) : (rawWord opc g d a (.lit w) c m).mb = 0 := by
  simp (disch := omega) only [rawWord, RawWord.mb, BEnc.low, BitVec.extractLsb'_append_eq_of_le,
    BitVec.extractLsb'_append_eq_of_add_le, BitVec.extractLsb'_eq_self, Nat.reduceSub]; rfl

/-- A word that is no immediate word holds C and the modifier below field B. -/
theorem BEnc.low_eq (h : b.noImm = true) : ∃ high : BitVec 9, b.low c m = high ++ c.1 ++ c.2 ++ m := by
  cases b with
  | imm i => cases h
  | reg code mode => exact ⟨code ++ mode, rfl⟩
  | lit w => exact ⟨0x7F#7 ++ 0#2, rfl⟩

theorem BEnc.cls_ne_two (h : b.noImm = true) : b.cls ≠ 2 := by
  cases b with
  | imm i => cases h
  | reg code mode | lit w => simp [BEnc.cls]

theorem rawWord_c (h : b.noImm = true) : (rawWord opc g d a b c m).c = c.1 := by
  obtain ⟨high, hl⟩ := BEnc.low_eq (c := c) (m := m) h
  rw [RawWord.c, if_neg (show (rawWord opc g d a b c m).cls ≠ 2 from BEnc.cls_ne_two h)]
  simp (disch := omega) only [rawWord, hl, BitVec.extractLsb'_append_eq_of_le,
    BitVec.extractLsb'_append_eq_of_add_le, BitVec.extractLsb'_eq_self, Nat.reduceSub]

theorem rawWord_mc (h : b.noImm = true) : (rawWord opc g d a b c m).mc = c.2 := by
  obtain ⟨high, hl⟩ := BEnc.low_eq (c := c) (m := m) h
  rw [RawWord.mc, if_neg (show (rawWord opc g d a b c m).cls ≠ 2 from BEnc.cls_ne_two h)]
  simp (disch := omega) only [rawWord, hl, BitVec.extractLsb'_append_eq_of_le,
    BitVec.extractLsb'_append_eq_of_add_le, BitVec.extractLsb'_eq_self, Nat.reduceSub]

theorem rawWord_m_of_noImm (h : b.noImm = true) : (rawWord opc g d a b c m).m = m := by
  obtain ⟨high, hl⟩ := BEnc.low_eq (c := c) (m := m) h
  rw [RawWord.m, if_neg (show (rawWord opc g d a b c m).cls ≠ 2 from BEnc.cls_ne_two h)]
  simp (disch := omega) only [rawWord, hl, BitVec.extractLsb'_append_eq_of_add_le, BitVec.extractLsb'_eq_self]

/-- An immediate word reads an absent C and the zero modifier (R72). -/
theorem rawWord_of_imm (h : b.noImm = false) :
    (rawWord opc g d a b c m).c = 0 ∧ (rawWord opc g d a b c m).mc = 0 ∧ (rawWord opc g d a b c m).m = 0 := by
  cases b with
  | imm i => exact ⟨rfl, rfl, rfl⟩
  | reg code mode | lit w => cases h

/-- A modifier that the word has room for: a class 10 word has the zero one (R72). -/
def BEnc.Fits (b : BEnc) (m : BitVec 13) : Prop := b.noImm = true ∨ m = 0

theorem rawWord_m (h : b.Fits m) : (rawWord opc g d a b c m).m = m := by
  cases hb : b.noImm with
  | true => exact rawWord_m_of_noImm hb
  | false => exact (rawWord_of_imm hb).2.2.trans (h.resolve_left (by simp [hb])).symm

@[simp] theorem BEnc.fits_zero : b.Fits 0#13 := .inr rfl
@[simp] theorem BEnc.fits_of_noImm (h : b.noImm = true) : b.Fits m := .inl h
@[simp] theorem SEnc.noImm_b (a : SEnc) : a.b.noImm = true := (rfl)
@[simp] theorem BEnc.admitted_imm (j : BitVec 31) (f i x : Bool) : (BEnc.imm j).admitted f i x = i := (rfl)
@[simp] theorem SEnc.admitted_b (a : SEnc) (f i x : Bool) : a.b.admitted f i x = f := (rfl)

/-! ### Checks of the class, the guard and absent fields -/

/-- In the decoder's monad a field that reads goes on with what it read. -/
@[simp] theorem Dec.ok_bind {α β : Type} (x : α) (f : α → Dec β) : ((.ok x : Dec α) >>= f) = f x := rfl

@[simp] theorem Dec.pure_eq {α : Type} (x : α) : (pure x : Dec α) = .ok x := rfl

@[simp] theorem Dec.map_ok {α β : Type} (f : α → β) (x : α) : (f <$> (.ok x : Dec α)) = .ok (f x) := rfl

@[simp] theorem Dec.need_true (e : Dec Unit) : Dec.need true e = .ok () := rfl

theorem admitCls_rawWord {f i x : Bool} (h : b.admitted f i x = true) : admitCls f i x (rawWord opc g d a b c m) = .ok () := by
  unfold admitCls
  cases b with
  | reg code mode => simp_all [BEnc.admitted, rawWord, BEnc.cls]
  | imm j => simp_all [BEnc.admitted, rawWord, BEnc.cls]
  | lit w =>
    rw [rawWord_b_lit]
    simp_all [BEnc.admitted, rawWord, BEnc.cls]

@[simp] theorem guardS_rawWord : guardS (rawWord opc none d a b c m) = .ok () := rfl

@[simp] theorem guardL_rawWord : guardL (rawWord opc g d a b c m) = .ok g := by
  cases g with
  | none => rfl
  | some x => 
    obtain ⟨neg, p⟩ := x
    cases neg <;> simp [guardL, rawWord, guardOn, guardNeg, guardReg]

@[simp] theorem dNone_rawWord : dNone (rawWord opc g 0#7 a b c m) = .ok () := rfl
@[simp] theorem dSouth_rawWord : dSouth (rawWord opc g 0x79#7 a b c m) = .ok () := rfl
@[simp] theorem aNone_rawWord : aNone (rawWord opc g d noSrc b c m) = .ok () := rfl
@[simp] theorem bNone_rawWord : bNone (rawWord opc g d a noSrc.b c m) = .ok () := by
  simp [bNone, noSrc]

/-- C is absent where the word has no C, an immediate word included. -/
@[simp] theorem cNone_rawWord : cNone (rawWord opc g d a b noSrc m) = .ok () := by
  unfold cNone
  cases hb : b.noImm with
  | true => rw [rawWord_c hb, rawWord_mc hb]; rfl
  | false => rw [(rawWord_of_imm hb).1, (rawWord_of_imm hb).2.1]; rfl

@[simp] theorem modZero_rawWord : modZero (rawWord opc g d a b c 0#13) = .ok () := by
  rw [modZero, gap, RawWord.mbits, rawWord_m BEnc.fits_zero]; rfl

/-! ### Operand codes -/

@[simp] theorem xCode_xEnc (i : Fin 32) (f : Nat) : xCode (xEnc i) f = .ok i := by
  have h := i.isLt
  simp [xCode, xEnc, Nat.mod_eq_of_lt (show i.val < 128 by omega)]

@[simp] theorem xName_code (n : XName) (f : Nat) : xName n.code f = .ok n := by
  cases n with
  | rowid => rfl
  | x i =>
    have h := i.isLt
    have hne : BitVec.ofNat 7 i.val ≠ 0x7B := by
      intro he
      have := congrArg BitVec.toNat he
      simp at this
      omega
    rw [XName.code, xName, if_neg hne]
    exact congrArg (XName.x <$> ·) (xCode_xEnc i f)

@[simp] theorem vCode_vEnc (i : Fin 64) (f : Nat) : vCode .full (vEnc i) f = .ok i := by
  have hi := i.isLt
  have hc : (vEnc i).toNat = 0x20 + i.val := Nat.mod_eq_of_lt (by omega)
  rw [vCode, dif_pos ⟨by omega, by omega, by rw [hc]; show _ < 64; omega⟩]
  exact congrArg Except.ok (Fin.ext (by show (vEnc i).toNat - 0x20 = _; omega))

@[simp] theorem aCode_aEnc (i : Fin 4) (f : Nat) : aCode .full (aEnc i) f = .ok i := by
  have hi := i.isLt
  have hc : (aEnc i).toNat = 0x60 + i.val := Nat.mod_eq_of_lt (by omega)
  rw [aCode, dif_pos ⟨by omega, by omega, by rw [hc]; show _ < 4; omega⟩]
  exact congrArg Except.ok (Fin.ext (by show (aEnc i).toNat - 0x60 = _; omega))

@[simp] theorem wCode_wEnc (i : Fin 4) (f : Nat) : wCode .full (wEnc i) f = .ok i := by
  have hi := i.isLt
  have hc : (wEnc i).toNat = 0x64 + i.val := Nat.mod_eq_of_lt (by omega)
  rw [wCode, dif_pos ⟨by omega, by omega, by rw [hc]; show _ < 4; omega⟩]
  exact congrArg Except.ok (Fin.ext (by show (wEnc i).toNat - 0x64 = _; omega))

@[simp] theorem pCode_pEnc (i : Fin 8) (f : Nat) : pCode (pEnc i) f = .ok i := by
  have hi := i.isLt
  have hc : (pEnc i).toNat = 0x68 + i.val := Nat.mod_eq_of_lt (by omega)
  rw [pCode, dif_pos ⟨by omega, by omega⟩]
  exact congrArg Except.ok (Fin.ext (by show (pEnc i).toNat - 0x68 = _; omega))

@[simp] theorem dCode_dEnc (i : Fin 8) (f : Nat) : dCode .full (dEnc i) f = .ok i := by
  have hi := i.isLt
  have hc : (dEnc i).toNat = 0x70 + i.val := Nat.mod_eq_of_lt (by omega)
  rw [dCode, dif_pos ⟨by omega, by omega, by rw [hc]; show _ < 8; omega⟩]
  exact congrArg Except.ok (Fin.ext (by show (dEnc i).toNat - 0x70 = _; omega))

/-- A code outside the lane registers' is none of theirs. -/
theorem vEnc_ne (i : Fin 64) {c : BitVec 7} (h : c.toNat < 0x20 ∨ 0x60 ≤ c.toNat) : vEnc i ≠ c := by
  have hi := i.isLt
  have hc : (vEnc i).toNat = 0x20 + i.val := Nat.mod_eq_of_lt (by omega)
  rintro rfl
  omega

@[simp] theorem vName_code (v : VName) (f : Nat) : vName .full v.code f = .ok v := by
  cases v with
  | n | lane => rfl
  | v i =>
    rw [vName, if_neg (show (VName.v i).code ≠ 0x78 from vEnc_ne i (by decide)), if_neg (show (VName.v i).code ≠ 0x7A from vEnc_ne i (by decide))]
    exact congrArg (VName.v <$> ·) (vCode_vEnc i f)

@[simp] theorem vDst_code (v : VDst) (f : Nat) : vDst .full v.code f = .ok v := by
  cases v with
  | s => rfl
  | v i =>
    rw [vDst, if_neg (show (VDst.v i).code ≠ 0x79 from vEnc_ne i (by decide))]
    exact congrArg (VDst.v <$> ·) (vCode_vEnc i f)

@[simp] theorem SrcMode.ofCode_code (m : SrcMode) : SrcMode.ofCode m.code = m := by cases m <;> rfl

/-! ### Sources -/

@[simp] theorem aX_rawWord (x : XSrc) : aX (rawWord opc g d x.enc b c m) = .ok x := by
  simp [aX, XSrc.enc, RawWord.aMode]

@[simp] theorem aV_rawWord (x : VSrc) : aV .full (rawWord opc g d x.enc b c m) = .ok x := by
  simp [aV, VSrc.enc, RawWord.aMode]

@[simp] theorem aR_rawWord (x : RSrc) : aR .full (rawWord opc g d x.enc b c m) = .ok x := by
  simp [aR, RSrc.enc, RawWord.aMode]

@[simp] theorem aA_rawWord (x : ASrc) : aA .full (rawWord opc g d x.enc b c m) = .ok x := by
  simp [aA, ASrc.enc, RawWord.aMode]

@[simp] theorem aW_rawWord (x : WSrc) : aW .full (rawWord opc g d x.enc b c m) = .ok x := by
  simp [aW, WSrc.enc, RawWord.aMode]

@[simp] theorem aP_rawWord (x : PSrc) : aP (rawWord opc g d x.enc b c m) = .ok x := by
  simp [aP, PSrc.enc, RawWord.aMode]

@[simp] theorem aD_rawWord (x : DSrc) : aD .full (rawWord opc g d x.enc b c m) = .ok x := by
  simp [aD, DSrc.enc, RawWord.aMode]

@[simp] theorem aN_rawWord (mode : SrcMode) : aN (rawWord opc g d (0x78#7, mode.code) b c m) = .ok mode := by
  simp [aN, RawWord.aMode]

@[simp] theorem bXr_rawWord (x : XSrc) : bXr (rawWord opc g d a x.enc.b c m) = .ok x := by
  simp [bXr, XSrc.enc, RawWord.bMode]

@[simp] theorem bVr_rawWord (x : VSrc) : bVr .full (rawWord opc g d a x.enc.b c m) = .ok x := by
  simp [bVr, VSrc.enc, RawWord.bMode]

@[simp] theorem bR_rawWord (x : RSrc) : bR .full (rawWord opc g d a x.enc.b c m) = .ok x := by
  simp [bR, RSrc.enc, RawWord.bMode]

@[simp] theorem bW_rawWord (x : WSrc) : bW .full (rawWord opc g d a x.enc.b c m) = .ok x := by
  simp [bW, WSrc.enc, RawWord.bMode]

@[simp] theorem bP_rawWord (x : PSrc) : bP (rawWord opc g d a x.enc.b c m) = .ok x := by
  simp [bP, PSrc.enc, RawWord.bMode]

@[simp] theorem bD_rawWord (x : DSrc) : bD .full (rawWord opc g d a x.enc.b c m) = .ok x := by
  simp [bD, DSrc.enc, RawWord.bMode]

theorem cX_rawWord (h : b.noImm = true) (x : XSrc) : cX (rawWord opc g d a b x.enc m) = .ok x := by
  simp [cX, XSrc.enc, RawWord.cMode, rawWord_c h, rawWord_mc h]

theorem cV_rawWord (h : b.noImm = true) (x : VSrc) : cV .full (rawWord opc g d a b x.enc m) = .ok x := by
  simp [cV, VSrc.enc, RawWord.cMode, rawWord_c h, rawWord_mc h]

theorem cR_rawWord (h : b.noImm = true) (x : RSrc) : cR .full (rawWord opc g d a b x.enc m) = .ok x := by
  simp [cR, RSrc.enc, RawWord.cMode, rawWord_c h, rawWord_mc h]

theorem cP_rawWord (h : b.noImm = true) (x : PSrc) : cP (rawWord opc g d a b x.enc m) = .ok x := by
  simp [cP, PSrc.enc, RawWord.cMode, rawWord_c h, rawWord_mc h]

theorem cD_rawWord (h : b.noImm = true) (x : DSrc) : cD .full (rawWord opc g d a b x.enc m) = .ok x := by
  simp [cD, DSrc.enc, RawWord.cMode, rawWord_c h, rawWord_mc h]

/-- Field B of kind x in the class that its operand gives the word (R72, R74, R95). -/
theorem bX_rawWord (x : XOp) (h : x.enc.Follows lit) : bX (rawWord opc g d a x.enc c m) lit = .ok x := by
  cases x with
  | reg s => exact congrArg (XOp.reg <$> ·) (bXr_rawWord s)
  | imm i => rfl
  | lit w => simp [bX, XOp.enc, BEnc.cls, rawWord_mb_lit, h w rfl]

/-- Field B of kind v in the class that its operand gives the word. -/
theorem bV_rawWord (x : VOp) (h : x.enc.Follows lit) : bV .full (rawWord opc g d a x.enc c m) lit = .ok x := by
  cases x with
  | reg s => exact congrArg (VOp.reg <$> ·) (bVr_rawWord s)
  | imm i => rfl
  | lit w => simp [bV, VOp.enc, BEnc.cls, rawWord_mb_lit, h w rfl]

@[simp] theorem rawWord_low_imm (i : BitVec 31) : (rawWord opc g d a (.imm i) c m).low = i := rfl

/-! ### What well-formedness says of field B -/

@[simp] theorem XOp.admitted_all (x : XOp) : x.enc.admitted true true true = true := by cases x <;> rfl
@[simp] theorem VOp.admitted_all (x : VOp) : x.enc.admitted true true true = true := by cases x <;> rfl

@[simp] theorem XOp.noImm_enc (x : XOp) : x.enc.noImm = x.noImm := by cases x <;> rfl
@[simp] theorem VOp.noImm_enc (x : VOp) : x.enc.noImm = x.noImm := by cases x <;> rfl

theorem XOp.admitted_of_noImm {x : XOp} (h : x.noImm = true) : x.enc.admitted true false true = true := by
  cases x <;> first | rfl | cases h

theorem VOp.admitted_of_noImm {x : VOp} (h : x.noImm = true) : x.enc.admitted true false true = true := by
  cases x <;> first | rfl | cases h

theorem XOp.admitted_of_noLit {x : XOp} (h : x.noLit = true) : x.enc.admitted true true false = true := by
  cases x <;> first | rfl | cases h

theorem XOp.fits_of_orZero {x : XOp} {zero : Bool} (h : x.orZero zero = true) (hm : zero = true → m = 0) : x.enc.Fits m := by
  rw [XOp.orZero, Bool.or_eq_true] at h
  exact h.imp (x.noImm_enc.trans ·) hm

theorem VOp.fits_of_orZero {x : VOp} {zero : Bool} (h : x.orZero zero = true) (hm : zero = true → m = 0) : x.enc.Fits m := by
  rw [VOp.orZero, Bool.or_eq_true] at h
  exact h.imp (x.noImm_enc.trans ·) hm

end
end Sys2Proof
end

section
/-!
PROOF. The modifier of an encoded word: the bits that the entries of spec/04 give it are those that the decoder reads, and the others
are zeros (spec/03 R65, R66, spec/10 Tables 10.1 and 10.3).
-/
namespace Sys2Proof
open Sys2Proof.Claims

section
variable {opc : BitVec 10} {g : Option Guard} {d : BitVec 7} {a : SEnc} {b : BEnc} {c : SEnc} {m : BitVec 13} {lit : Word}

@[simp] theorem mbits_rawWord (h : b.Fits m) (lo len : Nat) : (rawWord opc g d a b c m).mbits lo len = m.extractLsb' lo len := by
  rw [RawWord.mbits, rawWord_m h]

@[simp] theorem mbit_rawWord (h : b.Fits m) (i : Nat) : (rawWord opc g d a b c m).mbit i = m.getLsbD i := by
  rw [RawWord.mbit, rawWord_m h]

@[simp] theorem gap_rawWord (h : b.Fits m) {undef : BitVec 13} {lo len : Nat} (hz : m.extractLsb' lo len = 0) :
    gap (rawWord opc g d a b c m) undef lo len = .ok () := by
  rw [gap, mbits_rawWord h, hz]
  simp

/-! ### The common modifier (R65) -/

section
variable (rm : RMode) (sat : Bool) (f : Fmt) (low : BitVec 5)

@[simp] theorem RMode.ofCode_code : RMode.ofCode rm.code = some rm := by cases rm <;> rfl
@[simp] theorem Fmt.ofCode_code : Fmt.ofCode f.code = f := by cases f <;> rfl

theorem modR_round : (modR rm sat f low).extractLsb' 10 3 = rm.code := by
  simp (disch := omega) only [modR, BitVec.extractLsb'_append_eq_of_le, BitVec.extractLsb'_eq_self, Nat.reduceSub]

theorem modR_fmt : (modR rm sat f low).extractLsb' 5 4 = f.code := by
  simp (disch := omega) only [modR, BitVec.extractLsb'_append_eq_of_le, BitVec.extractLsb'_append_eq_of_add_le,
    BitVec.extractLsb'_eq_self, Nat.reduceSub]

@[simp] theorem modR_raw : (modR rm sat .raw low).extractLsb' 5 4 = 0#4 := modR_fmt rm sat .raw low

@[simp] theorem modR_sat : (modR rm sat f low)[9] = sat := by
  rw [← BitVec.getLsbD_eq_getElem]
  simp only [modR, BitVec.getLsbD_append]
  simp

@[simp] theorem modR_rne : (modR .rne sat f low).extractLsb' 10 3 = 0#3 := modR_round .rne sat f low

@[simp] theorem modR_rne_false : (modR .rne false f low).extractLsb' 9 4 = 0#4 := by
  simp (disch := omega) only [modR, BitVec.extractLsb'_append_eq_of_le, Nat.reduceSub]; rfl

@[simp] theorem modR_rne_false_raw : (modR .rne false .raw low).extractLsb' 5 8 = 0#8 := by
  simp (disch := omega) only [modR, BitVec.extractLsb'_append_eq_of_le, Nat.reduceSub]; rfl

@[simp] theorem modR_raw_zero : (modR rm sat .raw 0#5).extractLsb' 0 9 = 0#9 := by
  cases rm <;> cases sat <;> rfl

@[simp] theorem modR_low {lo len : Nat} (h : lo + len ≤ 5) : (modR rm sat f low).extractLsb' lo len = low.extractLsb' lo len :=
  BitVec.extractLsb'_append_eq_of_add_le h

@[simp] theorem modR_low_bit {i : Nat} (h : i < 5) : (modR rm sat f low)[i] = low[i] := by
  simp only [← BitVec.getLsbD_eq_getElem, modR, BitVec.getLsbD_append, h, if_true]

end

@[simp] theorem modUn_un (un : Bool) (low : BitVec 4) : (modUn un low)[4] = un := by
  rw [← BitVec.getLsbD_eq_getElem]
  simp only [modUn, BitVec.getLsbD_append]
  simp

@[simp] theorem modUn_low (un : Bool) (low : BitVec 4) {lo len : Nat} (h : lo + len ≤ 4) :
    (modUn un low).extractLsb' lo len = low.extractLsb' lo len :=
  BitVec.extractLsb'_append_eq_of_add_le h

@[simp] theorem modUn_low_bit (un : Bool) (low : BitVec 4) {i : Nat} (h : i < 4) : (modUn un low)[i] = low[i] := by
  simp only [← BitVec.getLsbD_eq_getElem, modUn, BitVec.getLsbD_append, h, if_true]

@[simp] theorem mRound_rawWord {rm : RMode} {sat : Bool} {f : Fmt} {low : BitVec 5} (h : b.Fits (modR rm sat f low)) :
    mRound (rawWord opc g d a b c (modR rm sat f low)) = .ok rm := by
  rw [mRound, mbits_rawWord h, modR_round, RMode.ofCode_code]

@[simp] theorem fmt_rawWord {rm : RMode} {sat : Bool} {f : Fmt} {low : BitVec 5} (h : b.Fits (modR rm sat f low)) :
    (rawWord opc g d a b c (modR rm sat f low)).fmt = f := by
  rw [RawWord.fmt, mbits_rawWord h, modR_fmt, Fmt.ofCode_code]

@[simp] theorem mArith_rawWord {rm : RMode} {sat un : Bool} (h : b.Fits (modR rm sat .raw (modUn un 0#4))) :
    mArith (rawWord opc g d a b c (modR rm sat .raw (modUn un 0#4))) = .ok (rm, sat, un) := by
  simp [mArith, h]

/-! ### Numbers, flags and codes in the low bits -/

/-- A number in the low bits of a field. -/
def numMod (w : Nat) {n : Nat} (k : Fin n) : BitVec w := .ofNat w k.val

@[simp] theorem numMod_high (w : Nat) {n lo : Nat} (k : Fin n) (len : Nat) (h : n ≤ 2 ^ lo) :
    (numMod w k).extractLsb' lo len = 0#len := by
  have hk : k.val % 2 ^ w < 2 ^ lo := (Nat.mod_le _ _).trans_lt (k.isLt.trans_le h)
  apply BitVec.eq_of_toNat_eq
  rw [numMod, BitVec.extractLsb'_toNat, BitVec.toNat_ofNat, Nat.shiftRight_eq_div_pow, Nat.div_eq_of_lt hk]
  simp

@[simp] theorem toNat_numMod (w : Nat) {n : Nat} (k : Fin n) (h : n ≤ 2 ^ w) : (numMod w k).toNat = k.val := by
  rw [numMod, BitVec.toNat_ofNat, Nat.mod_eq_of_lt (k.isLt.trans_le h)]

@[simp] theorem Fin.mk_val_mod {n : Nat} (k : Fin n) (h : k.val % n < n) : (⟨k.val % n, h⟩ : Fin n) = k :=
  Fin.ext (Nat.mod_eq_of_lt k.isLt)

/-- A flag in bit 0 of the modifier. -/
def flagMod (x : Bool) : BitVec 13 := 0#12 ++ BitVec.ofBool x

@[simp] theorem flagMod_high (x : Bool) : (flagMod x).extractLsb' 1 12 = 0#12 := by cases x <;> rfl
@[simp] theorem flagMod_bit (x : Bool) : (flagMod x)[0] = x := by cases x <;> rfl

/-- CLR in bit 0 below ACCRD's format. -/
def clrLow (x : Bool) : BitVec 5 := 0#4 ++ BitVec.ofBool x

@[simp] theorem clrLow_high (x : Bool) : (clrLow x).extractLsb' 1 4 = 0#4 := by cases x <;> rfl
@[simp] theorem clrLow_bit (x : Bool) : (clrLow x)[0] = x := by cases x <;> rfl

/-- The flags t and loc of ENQ and ENQB (R298). -/
def enqMod (t loc : Bool) : BitVec 13 := 0#11 ++ BitVec.ofBool t ++ BitVec.ofBool loc

@[simp] theorem enqMod_high (t loc : Bool) : (enqMod t loc).extractLsb' 2 11 = 0#11 := by cases t <;> cases loc <;> rfl
@[simp] theorem enqMod_t (t loc : Bool) : (enqMod t loc)[1] = t := by cases t <;> cases loc <;> rfl
@[simp] theorem enqMod_loc (t loc : Bool) : (enqMod t loc)[0] = loc := by cases t <;> cases loc <;> rfl

/-- A flag above a three-bit code: VCMP, VRED and VSCAN (R155, R158). -/
def codeLow (x : Bool) (code : BitVec 3) : BitVec 4 := BitVec.ofBool x ++ code

@[simp] theorem codeLow_code (x : Bool) (code : BitVec 3) : (codeLow x code).extractLsb' 0 3 = code :=
  BitVec.extractLsb'_append_eq_right

@[simp] theorem codeLow_bit (x : Bool) (code : BitVec 3) : (codeLow x code)[3] = x := by
  rw [← BitVec.getLsbD_eq_getElem]
  simp only [codeLow, BitVec.getLsbD_append]
  simp

@[simp] theorem codeLow_false_high (code : BitVec 3) : (codeLow false code).extractLsb' 3 1 = 0#1 :=
  BitVec.extractLsb'_append_eq_left

@[simp] theorem Cmp.ofCode_code (cc : Cmp) : Cmp.ofCode cc.code = some cc := by cases cc <;> rfl
@[simp] theorem RedOp.ofCode_code (op : RedOp) : RedOp.ofCode op.code = some op := by cases op <;> rfl
@[simp] theorem WKind.ofCode_code (k : WKind) : WKind.ofCode k.code = some k := by cases k <;> rfl
@[simp] theorem ChunkKind.ofCode_code (k : ChunkKind) : ChunkKind.ofCode k.code = some k := by cases k <;> rfl
@[simp] theorem PortKind.ofCode_code (k : PortKind) : PortKind.ofCode k.code = some k := by cases k <;> rfl
@[simp] theorem FenceKind.ofCode_code (k : FenceKind) : FenceKind.ofCode k.code = some k := by cases k <;> rfl
@[simp] theorem Scope.ofCode_code (sc : Scope) : Scope.ofCode sc.code = some sc := by cases sc <;> rfl
@[simp] theorem Width.ofCode_code (w : Width) : Width.ofCode w.code = w := by cases w <;> rfl
@[simp] theorem AtomOp.ofCode_code (op : AtomOp) : AtomOp.ofCode op.code = op := by cases op <;> rfl

/-! ### Tensor steps, WLD, PBIND, SGROW -/

/-- The tensor steps' modifier (R180). -/
def tensorMod (kw : BitVec 5) (slice : Fin 8) : BitVec 13 := 0#5 ++ kw ++ BitVec.ofNat 3 slice.val

@[simp] theorem mTensor_rawWord {kw : BitVec 5} {slice : Fin 8} (h : b.Fits (tensorMod kw slice)) :
    mTensor (rawWord opc g d a b c (tensorMod kw slice)) = .ok (kw, slice) := by
  have hz : (tensorMod kw slice).extractLsb' 8 5 = 0#5 := BitVec.extractLsb'_append_eq_of_le (by omega) |>.trans (by
    rw [show 8 - 3 = 5 from rfl]; exact BitVec.extractLsb'_append_eq_left)
  have hk : (tensorMod kw slice).extractLsb' 3 5 = kw := BitVec.extractLsb'_append_eq_of_le (by omega) |>.trans
    BitVec.extractLsb'_append_eq_right
  have hs : (tensorMod kw slice).extractLsb' 0 3 = BitVec.ofNat 3 slice.val := BitVec.extractLsb'_append_eq_right
  simp [mTensor, h, hz, hk, hs]

/-- WLD's format and kind (R190). -/
def wldMod (f : Fmt) (k : WKind) : BitVec 13 := 0#4 ++ f.code ++ k.code ++ 0#3

@[simp] theorem wldMod_high (f : Fmt) (k : WKind) : (wldMod f k).extractLsb' 9 4 = 0#4 := by cases f <;> cases k <;> rfl
@[simp] theorem wldMod_kind (f : Fmt) (k : WKind) : (wldMod f k).extractLsb' 3 2 = k.code := by cases f <;> cases k <;> rfl
@[simp] theorem wldMod_low (f : Fmt) (k : WKind) : (wldMod f k).extractLsb' 0 3 = 0#3 := by cases f <;> cases k <;> rfl
@[simp] theorem fmt_wldMod {f : Fmt} {k : WKind} (h : b.Fits (wldMod f k)) : (rawWord opc g d a b c (wldMod f k)).fmt = f := by
  rw [RawWord.fmt, mbits_rawWord h]
  cases f <;> cases k <;> rfl

/-- PBIND's kind and edge (R194). -/
def pbindMod (k : PortKind) (nad : Bool) : BitVec 13 := 0#10 ++ k.code ++ BitVec.ofBool nad

@[simp] theorem pbindMod_high (k : PortKind) (nad : Bool) : (pbindMod k nad).extractLsb' 3 10 = 0#10 := by cases k <;> cases nad <;> rfl
@[simp] theorem pbindMod_kind (k : PortKind) (nad : Bool) : (pbindMod k nad).extractLsb' 1 2 = k.code := by cases k <;> cases nad <;> rfl
@[simp] theorem pbindMod_nad (k : PortKind) (nad : Bool) : (pbindMod k nad)[0] = nad := by cases k <;> cases nad <;> rfl

/-- SGROW's chunk kind (R257). -/
def chunkMod (k : ChunkKind) : BitVec 13 := 0#11 ++ k.code

@[simp] theorem chunkMod_high (k : ChunkKind) : (chunkMod k).extractLsb' 2 11 = 0#11 := by cases k <;> rfl
@[simp] theorem chunkMod_kind (k : ChunkKind) : (chunkMod k).extractLsb' 0 2 = k.code := by cases k <;> rfl

/-! ### Memory, atomics, fences (Tables 10.1 and 10.3, R252) -/

theorem mScope_rawWord {sc : Scope} {m : BitVec 13} (h : b.Fits m) (hm : m.extractLsb' 9 4 = sc.code) :
    mScope (rawWord opc g d a b c m) = .ok sc := by
  rw [mScope, mbits_rawWord h, hm, Scope.ofCode_code]

section
variable (m : MemMod)

theorem MemMod.enc_scope : m.enc.extractLsb' 9 4 = m.scope.code := by
  simp (disch := omega) only [MemMod.enc, BitVec.extractLsb'_append_eq_of_le, BitVec.extractLsb'_eq_self, Nat.reduceSub]

theorem MemMod.enc_fmt : m.enc.extractLsb' 5 4 = m.fmt.code := by
  simp (disch := omega) only [MemMod.enc, BitVec.extractLsb'_append_eq_of_le, BitVec.extractLsb'_append_eq_of_add_le,
    BitVec.extractLsb'_eq_self, Nat.reduceSub]

theorem MemMod.enc_gap : m.enc.extractLsb' 4 1 = 0#1 := by
  simp (disch := omega) only [MemMod.enc, BitVec.extractLsb'_append_eq_of_le, BitVec.extractLsb'_append_eq_of_add_le,
    BitVec.extractLsb'_eq_self, Nat.reduceSub]

theorem MemMod.enc_width : m.enc.extractLsb' 0 2 = m.width.code := BitVec.extractLsb'_append_eq_right

theorem MemMod.enc_ordered : m.enc[3] = m.ordered := by
  rw [← BitVec.getLsbD_eq_getElem]
  simp only [MemMod.enc, BitVec.getLsbD_append]
  simp

theorem MemMod.enc_x : m.enc[2] = m.x := by
  rw [← BitVec.getLsbD_eq_getElem]
  simp only [MemMod.enc, BitVec.getLsbD_append]
  simp

end

@[simp] theorem mMem_rawWord {fmtOk xOk : Bool} {m : MemMod} (h : b.Fits m.enc) (hm : m.ok fmtOk xOk = true) :
    mMem fmtOk xOk (rawWord opc g d a b c m.enc) = .ok m := by
  obtain ⟨hfmt, hx⟩ := Bool.and_eq_true_iff.1 hm
  have hf : (rawWord opc g d a b c m.enc).fmt = m.fmt := by
    rw [RawWord.fmt, mbits_rawWord h, MemMod.enc_fmt, Fmt.ofCode_code]
  simp [mMem, mScope_rawWord h m.enc_scope, h, hf, hfmt, hx, m.enc_gap, m.enc_width, m.enc_ordered, m.enc_x]

section
variable (m : AtomMod) (op : BitVec 3)

theorem AtomMod.enc_scope : (m.enc op).extractLsb' 9 4 = m.scope.code := by
  simp (disch := omega) only [AtomMod.enc, BitVec.extractLsb'_append_eq_of_le, BitVec.extractLsb'_eq_self, Nat.reduceSub]

theorem AtomMod.enc_op : (m.enc op).extractLsb' 6 3 = op := by
  simp (disch := omega) only [AtomMod.enc, BitVec.extractLsb'_append_eq_of_le, BitVec.extractLsb'_append_eq_of_add_le,
    BitVec.extractLsb'_eq_self, Nat.reduceSub]

theorem AtomMod.enc_flags : (m.enc op)[5] = m.f ∧ (m.enc op)[4] = m.un ∧ (m.enc op)[3] = m.glob ∧ (m.enc op)[2] = m.acqrel ∧
    (m.enc op)[1] = true ∧ (m.enc op)[0] = m.wide := by
  simp only [← BitVec.getLsbD_eq_getElem, AtomMod.enc, BitVec.getLsbD_append]
  simp

end

@[simp] theorem mAtom_rawWord {scalar : Bool} {m : AtomMod} (h : b.Fits (m.enc m.op.code)) (hm : m.ok scalar = true) :
    mAtom scalar (rawWord opc g d a b c (m.enc m.op.code)) = .ok m := by
  simp only [AtomMod.ok, Bool.and_eq_true] at hm
  obtain ⟨⟨⟨⟨hop, hf⟩, hun⟩, hglob⟩, hwide⟩ := hm
  obtain ⟨e5, e4, e3, e2, e1, e0⟩ := m.enc_flags m.op.code
  simp [mAtom, mScope_rawWord h (m.enc_scope _), h, m.enc_op, e5, e4, e3, e2, e1, e0, hop, hf, hun, hglob, hwide]

@[simp] theorem mCas_rawWord {m : AtomMod} (h : b.Fits (m.enc 0#3)) (hop : m.op = .cas) (hf : m.f = false) (hun : m.un = false) :
    mCas (rawWord opc g d a b c (m.enc 0#3)) = .ok m := by
  obtain ⟨sc, op, f, un, glob, acqrel, wide⟩ := m
  obtain rfl : op = .cas := hop
  obtain rfl : f = false := hf
  obtain rfl : un = false := hun
  obtain ⟨e5, e4, e3, e2, e1, e0⟩ := AtomMod.enc_flags ⟨sc, .cas, false, false, glob, acqrel, wide⟩ 0#3
  simp [mCas, mScope_rawWord h (AtomMod.enc_scope _ _), h, AtomMod.enc_op, e5, e4, e3, e2, e1, e0]

/-- The modifier of FENCE and FENCEX: scope, kind and path set. -/
def fenceMod (sc : Scope) (k : FenceKind) (paths : BitVec 7) : BitVec 13 := sc.code ++ k.code ++ paths

@[simp] theorem fenceMod_paths (sc : Scope) (k : FenceKind) (paths : BitVec 7) : (fenceMod sc k paths).extractLsb' 0 7 = paths :=
  BitVec.extractLsb'_append_eq_right

@[simp] theorem mFence_rawWord {sc : Scope} {k : FenceKind} {paths : BitVec 7} (h : b.Fits (fenceMod sc k paths)) :
    mFence (rawWord opc g d a b c (fenceMod sc k paths)) = .ok (sc, k) := by
  have hs : (fenceMod sc k paths).extractLsb' 9 4 = sc.code := by
    simp (disch := omega) only [fenceMod, BitVec.extractLsb'_append_eq_of_le, BitVec.extractLsb'_eq_self, Nat.reduceSub]
  have hk : (fenceMod sc k paths).extractLsb' 7 2 = k.code := by
    simp (disch := omega) only [fenceMod, BitVec.extractLsb'_append_eq_of_le, BitVec.extractLsb'_append_eq_of_add_le,
      BitVec.extractLsb'_eq_self, Nat.reduceSub]
  simp [mFence, mScope_rawWord h hs, h, hk]

/-- The immediate that names a CSR (R100). -/
def csrImm (n : BitVec 12) : BitVec 31 := 0#19 ++ n

@[simp] theorem csrNum_rawWord {n : BitVec 12} (h : csrAssigned n = true) : csrNum (rawWord opc g d a (.imm (csrImm n)) c m) = .ok n := by
  have hh : (csrImm n).extractLsb' 12 19 = 0#19 := BitVec.extractLsb'_append_eq_left
  have hn : (csrImm n).extractLsb' 0 12 = n := BitVec.extractLsb'_append_eq_right
  simp [csrNum, hh, hn, h]

end
end Sys2Proof
end

section
/-!
PROOF. Scalar, address and control instructions decode to themselves (statement O1; spec/04 Table 4.2).
-/
namespace Sys2Proof
open Sys2Proof.Claims

section
variable {opc : BitVec 10} {lit : Word} {d : Fin 32} {a : XSrc} {b : XOp}

theorem dNil_rawWord (i : Instr) : dNil i (rawWord opc none 0#7 noSrc noSrc.b noSrc 0#13) = .ok i := by
  simp [dNil, admitCls_rawWord]

theorem dXX_rawWord (mk : Fin 32 → XSrc → Instr) :
    dXX mk (rawWord opc none (xEnc d) a.enc noSrc.b noSrc 0#13) = .ok (mk d a) := by
  simp [dXX, admitCls_rawWord]

theorem dXXB_rawWord (mk : XXB) (h : b.enc.Follows lit) :
    dXXB mk (rawWord opc none (xEnc d) a.enc b.enc noSrc 0#13) lit = .ok (mk d a b) := by
  simp [dXXB, admitCls_rawWord, bX_rawWord b h]

theorem dXXBC_rawWord (mk : Fin 32 → XSrc → XOp → XSrc → Instr) {c : XSrc} (h : b.enc.Follows lit) (hb : b.noImm = true) :
    dXXBC mk (rawWord opc none (xEnc d) a.enc b.enc c.enc 0#13) lit = .ok (mk d a b c) := by
  simp [dXXBC, admitCls_rawWord, bX_rawWord b h, cX_rawWord, XOp.admitted_of_noImm hb, hb]

theorem dA_rawWord (mk : XSrc → Instr) : dA mk (rawWord opc none 0#7 a.enc noSrc.b noSrc 0#13) = .ok (mk a) := by
  simp [dA, admitCls_rawWord]

theorem dAImm_rawWord (mk : XSrc → BitVec 31 → Instr) {imm : BitVec 31} :
    dAImm mk (rawWord opc none 0#7 a.enc (.imm imm) noSrc 0#13) = .ok (mk a imm) := by
  simp [dAImm, admitCls_rawWord]

theorem dB_rawWord (x : Bool) (mk : XOp → Instr) (h : b.enc.Follows lit) (hx : b.enc.admitted true true x = true) :
    dB x mk (rawWord opc none 0#7 noSrc b.enc noSrc 0#13) lit = .ok (mk b) := by
  simp [dB, admitCls_rawWord hx, bX_rawWord b h]

theorem dAB_rawWord (x : Bool) (mk : XSrc → XOp → Instr) (h : b.enc.Follows lit) (hx : b.enc.admitted true true x = true) :
    dAB x mk (rawWord opc none 0#7 a.enc b.enc noSrc 0#13) lit = .ok (mk a b) := by
  simp [dAB, admitCls_rawWord hx, bX_rawWord b h]

theorem dDB_rawWord (mk : Fin 32 → XOp → Instr) (h : b.enc.Follows lit) (hx : b.noLit = true) :
    dDB mk (rawWord opc none (xEnc d) noSrc b.enc noSrc 0#13) lit = .ok (mk d b) := by
  simp [dDB, admitCls_rawWord (XOp.admitted_of_noLit hx), bX_rawWord b h]

theorem dP_rawWord (mk : PSrc → Instr) {p : PSrc} : dP mk (rawWord opc none 0#7 p.enc noSrc.b noSrc 0#13) = .ok (mk p) := by
  simp [dP, admitCls_rawWord]

theorem dPk_rawWord (mk : PSrc → Fin 32 → Instr) {p : PSrc} {k : Fin 32} :
    dPk mk (rawWord opc none 0#7 p.enc noSrc.b noSrc (numMod 13 k)) = .ok (mk p k) := by
  simp [dPk, admitCls_rawWord]

theorem dXP_rawWord (mk : Fin 32 → PSrc → Instr) {p : PSrc} :
    dXP mk (rawWord opc none (xEnc d) p.enc noSrc.b noSrc 0#13) = .ok (mk d p) := by
  simp [dXP, admitCls_rawWord]

end

theorem codesBack_scalar {i : Instr} (hi : isScalarOrControl i = true) (hw : i.wf = true) : CodesBack i := by
  cases i with
  | nop | lelse | lendif | lloop | exit | brk =>
    exact codesBack_of_fields rfl fun lit h => by simp [decodeSingle, decodeG0, decodeG1, dNil_rawWord]
  | add d a b | sub d a b | mul d a b | mulh d a b | mulhn d a b | div d a b | divn d a b | rem d a b | remn d a b | and d a b
  | or d a b | xor d a b | andn d a b | shl d a b | shr d a b | sar d a b | rot d a b | min d a b | max d a b | minn d a b
  | maxn d a b | seq d a b | sne d a b | slt d a b | sltn d a b | sle d a b | slen d a b =>
    exact codesBack_of_fields rfl fun lit h => by simp [decodeSingle, decodeG0, dXXB_rawWord, h]
  | clz d a | ctz d a | popc d a | mov d a | callr d a =>
    exact codesBack_of_fields rfl fun lit h => by simp [decodeSingle, decodeG0, decodeG1, dXX_rawWord]
  | sel d a b c | madd d a b c =>
    exact codesBack_of_fields rfl fun lit h => by simp [decodeSingle, decodeG0, dXXBC_rawWord _ h hw]
  | lea d a b k =>
    have hf : b.enc.Fits (numMod 13 k) := XOp.fits_of_orZero hw fun hk => by rw [eq_of_beq hk]; rfl
    exact codesBack_of_fields (m := numMod 13 k) rfl fun lit h => by
      simp [decodeSingle, decodeG0, admitCls_rawWord, bX_rawWord b h, hf]
  | li d b =>
    have hx : b.enc.admitted false true true = true := by
      cases b with
      | reg s => cases hw
      | imm i | lit w => rfl
    exact codesBack_of_fields rfl fun lit h => by simp [decodeSingle, decodeG0, admitCls_rawWord hx, bX_rawWord b h]
  | bfx d a b sx =>
    exact codesBack_of_fields (m := flagMod sx) rfl fun lit h => by simp [decodeSingle, decodeG0, admitCls_rawWord]
  | bfi d a b =>
    exact codesBack_of_fields rfl fun lit h => by simp [decodeSingle, decodeG0, admitCls_rawWord]
  | j imm =>
    exact codesBack_of_fields rfl fun lit h => by simp [decodeSingle, decodeG1, admitCls_rawWord]
  | call d imm =>
    exact codesBack_of_fields rfl fun lit h => by simp [decodeSingle, decodeG1, admitCls_rawWord]
  | dbnz d a imm =>
    exact codesBack_of_fields rfl fun lit h => by simp [decodeSingle, decodeG1, admitCls_rawWord]
  | jr a => exact codesBack_of_fields rfl fun lit h => by simp [decodeSingle, decodeG1, dA_rawWord]
  | bz a imm | bnz a imm => exact codesBack_of_fields rfl fun lit h => by simp [decodeSingle, decodeG1, dAImm_rawWord]
  | lif p => exact codesBack_of_fields rfl fun lit h => by simp [decodeSingle, decodeG1, dP_rawWord]
  | lbreak p k | lcont p k =>
    exact codesBack_of_fields (m := numMod 13 k) rfl fun lit h => by simp [decodeSingle, decodeG1, dPk_rawWord]
  | lendl p back =>
    exact codesBack_of_fields rfl fun lit h => by simp [decodeSingle, decodeG1, admitCls_rawWord, rawWord_m]
  | lany d p | lall d p | lcnt d p =>
    exact codesBack_of_fields rfl fun lit h => by simp [decodeSingle, decodeG1, dXP_rawWord]
  | waitc d a b =>
    exact codesBack_of_fields rfl fun lit h => by simp [decodeSingle, decodeG1, admitCls_rawWord, bX_rawWord b h]
  | yield b => exact codesBack_of_fields rfl fun lit h => by simp [decodeSingle, decodeG1, dB_rawWord, h]
  | trap b =>
    exact codesBack_of_fields rfl fun lit h => by simp [decodeSingle, decodeG1, dB_rawWord, h, XOp.admitted_of_noLit hw]
  | _ => cases hi
end Sys2Proof
end

section
open Sys2Proof Sys2Proof.Claims

/-- Settles O1: instruction by instruction, every field that the encoder writes is one that the opcode's decoder admits and reads
back. -/
theorem roundTripScalar : Obligations.RoundTripScalar := fun _ => codesBack_scalar
end

section
/-!
PROOF. Lane, conversion, crossbar and predicate instructions decode to themselves (statement O2; spec/04 Table 4.3).
-/
namespace Sys2Proof
open Sys2Proof.Claims

/-! ### The north port in the sources (R68) -/

theorem oneN_of_atMostOneN {x y z : Bool} (h : atMostOneN x y z = true) (f : Nat) :
    oneN x y f = .ok () ∧ oneN (x || y) z f = .ok () := by
  cases x <;> cases y <;> cases z <;> first | exact ⟨rfl, rfl⟩ | cases h

/-! ### The shapes of lane instructions -/

section
variable {opc : BitVec 10} {lit : Word} {g : Option Guard} {d : VDst} {a : VSrc} {b : VOp} {c : VSrc} {rm : RMode} {sat un : Bool}

theorem dVArith_rawWord (mk : Option Guard → VDst → VSrc → VOp → RMode → Bool → Bool → Instr) (h : b.enc.Follows lit)
    (hw : wfArith a b rm sat un = true) :
    dVArith mk .full (rawWord opc g d.code a.enc b.enc noSrc (modR rm sat .raw (modUn un 0#4))) lit = .ok (mk g d a b rm sat un) := by
  obtain ⟨hn, hz⟩ := Bool.and_eq_true_iff.1 hw
  have hf : b.enc.Fits (modR rm sat .raw (modUn un 0#4)) := VOp.fits_of_orZero hz fun hm => by
    cases rm <;> cases sat <;> cases un <;> first | rfl | cases hm
  simp [dVArith, admitCls_rawWord, bV_rawWord b h, (oneN_of_atMostOneN hn _).1, hf]

theorem dVFma_rawWord (mk : Option Guard → VDst → VSrc → VOp → VSrc → RMode → Bool → Bool → Instr) (h : b.enc.Follows lit)
    (hw : wfFma a b c = true) :
    dVFma mk .full (rawWord opc g d.code a.enc b.enc c.enc (modR rm sat .raw (modUn un 0#4))) lit =
      .ok (mk g d a b c rm sat un) := by
  obtain ⟨hb, hn⟩ := Bool.and_eq_true_iff.1 hw
  simp [dVFma, admitCls_rawWord (VOp.admitted_of_noImm hb), bV_rawWord b h, (oneN_of_atMostOneN hn _).1,
    (oneN_of_atMostOneN hn _).2, cV_rawWord, hb]

theorem dVMinMax_rawWord (mk : Option Guard → VDst → VSrc → VOp → Bool → Instr) (h : b.enc.Follows lit)
    (hw : (wfVV a b && b.orZero (!un)) = true) :
    dVMinMax mk .full (rawWord opc g d.code a.enc b.enc noSrc (modR .rne false .raw (modUn un 0#4))) lit = .ok (mk g d a b un) := by
  obtain ⟨hn, hz⟩ := Bool.and_eq_true_iff.1 hw
  have hf : b.enc.Fits (modR .rne false .raw (modUn un 0#4)) := VOp.fits_of_orZero hz fun hm => by
    cases un <;> first | rfl | cases hm
  simp [dVMinMax, admitCls_rawWord, bV_rawWord b h, (oneN_of_atMostOneN hn _).1, hf]

theorem dVAbs_rawWord (mk : Option Guard → VDst → VSrc → Bool → Instr) :
    dVAbs mk .full (rawWord opc g d.code a.enc noSrc.b noSrc (modR .rne sat .raw 0#5)) = .ok (mk g d a sat) := by
  simp [dVAbs, admitCls_rawWord]

theorem dVFun_rawWord (mk : Option Guard → VDst → VSrc → RMode → Bool → Instr) :
    dVFun mk .full (rawWord opc g d.code a.enc noSrc.b noSrc (modR rm sat .raw 0#5)) = .ok (mk g d a rm sat) := by
  simp [dVFun, admitCls_rawWord]

theorem dVVV_rawWord (mk : Option Guard → VDst → VSrc → VOp → Instr) (h : b.enc.Follows lit) (hn : wfVV a b = true) :
    dVVV mk .full (rawWord opc g d.code a.enc b.enc noSrc 0#13) lit = .ok (mk g d a b) := by
  simp [dVVV, admitCls_rawWord, bV_rawWord b h, (oneN_of_atMostOneN hn _).1]

theorem dVVX_rawWord (mk : Option Guard → VDst → VSrc → XOp → Instr) {b : XOp} (h : b.enc.Follows lit) (hb : b.noImm = true) :
    dVVX mk .full (rawWord opc g d.code a.enc b.enc noSrc 0#13) lit = .ok (mk g d a b) := by
  simp [dVVX, admitCls_rawWord (XOp.admitted_of_noImm hb), bX_rawWord b h]

theorem dPPP_rawWord (mk : Fin 8 → PSrc → PSrc → Instr) {d : Fin 8} {a b : PSrc} :
    dPPP mk (rawWord opc none (pEnc d) a.enc b.enc.b noSrc 0#13) = .ok (mk d a b) := by
  simp [dPPP, admitCls_rawWord]

@[simp] theorem mCvtFmt_rawWord {d : BitVec 7} {a c : SEnc} {b : BEnc} {f : Fmt} {low : BitVec 5} (h : b.Fits (modR rm sat f low))
    (hf : wfCvt f = true) : mCvtFmt (rawWord opc g d a b c (modR rm sat f low)) = .ok f := by
  have hf' : (f != .raw && f != .pl16) = true := hf
  simp only [mCvtFmt, fmt_rawWord h, hf', Dec.need_true, Dec.ok_bind, Dec.pure_eq]

end

/-- A group of `k` registers that ends within the file (R169, R187). -/
theorem vGroup_of_wfGroup {i : Fin 64} {k : Nat} (h : wfGroup i k = true) (f : Nat) : vGroup .full i k f = .ok () := by
  have hk : i.val + k ≤ 64 := of_decide_eq_true h
  have : decide (i.val + k ≤ 64 ∧ i.val + k ≤ Footprint.full.v) = true := decide_eq_true ⟨hk, hk⟩
  rw [vGroup, this]; rfl

theorem codesBack_lane {i : Instr} (hi : isLaneWord i = true) (hw : i.wf = true) : CodesBack i := by
  cases i with
  | vadd g d a b rm sat un | vsub g d a b rm sat un | vmul g d a b rm sat un =>
    exact codesBack_of_fields rfl fun lit h => by simp [decodeSingle, decodeG2, dVArith_rawWord _ h hw]
  | vfma g d a b c rm sat un | vfms g d a b c rm sat un | vdot g d a b c rm sat un =>
    exact codesBack_of_fields rfl fun lit h => by simp [decodeSingle, decodeG2, dVFma_rawWord _ h hw]
  | vmin g d a b un | vmax g d a b un =>
    exact codesBack_of_fields rfl fun lit h => by simp [decodeSingle, decodeG2, dVMinMax_rawWord _ h hw]
  | vabs g d a sat | vneg g d a sat =>
    exact codesBack_of_fields rfl fun lit h => by simp [decodeSingle, decodeG2, dVAbs_rawWord]
  | vrcp g d a rm sat | vrsq g d a rm sat | vsqrt g d a rm sat | vexp2 g d a rm sat | vlog2 g d a rm sat | vtanh g d a rm sat =>
    exact codesBack_of_fields rfl fun lit h => by simp [decodeSingle, decodeG2, dVFun_rawWord]
  | vand g d a b | vor g d a b | vxor g d a b | vshr g d a b | vsar g d a b =>
    exact codesBack_of_fields rfl fun lit h => by simp [decodeSingle, decodeG2, dVVV_rawWord _ h hw]
  | vrot g d a b | vbcast g d a b =>
    exact codesBack_of_fields rfl fun lit h => by simp [decodeSingle, decodeG3, dVVX_rawWord _ h hw]
  | pand d a b | por d a b | pxor d a b =>
    exact codesBack_of_fields rfl fun lit h => by simp [decodeSingle, decodeG3, dPPP_rawWord]
  | vcmp g d a b cc any un =>
    obtain ⟨hn, hz⟩ := Bool.and_eq_true_iff.1 hw
    have hf : b.enc.Fits (modR .rne false .raw (modUn un (codeLow any cc.code))) := VOp.fits_of_orZero hz fun hm => by
      cases cc <;> cases any <;> cases un <;> first | rfl | cases hm
    exact codesBack_of_fields (m := modR .rne false .raw (modUn un (codeLow any cc.code))) rfl fun lit h => by
      simp [decodeSingle, decodeG2, admitCls_rawWord, bV_rawWord b h, (oneN_of_atMostOneN hn _).1, hf]
  | vsel g d a b c =>
    exact codesBack_of_fields rfl fun lit h => by
      simp [decodeSingle, decodeG2, admitCls_rawWord, (oneN_of_atMostOneN (y := b.isN) hw _).1, cP_rawWord]
  | vshl g d a b sat un =>
    obtain ⟨hn, hz⟩ := Bool.and_eq_true_iff.1 hw
    have hf : b.enc.Fits (modR .rne sat .raw (modUn un 0#4)) := VOp.fits_of_orZero hz fun hm => by
      cases sat <;> cases un <;> first | rfl | cases hm
    exact codesBack_of_fields rfl fun lit h => by
      simp [decodeSingle, decodeG2, admitCls_rawWord, bV_rawWord b h, (oneN_of_atMostOneN hn _).1, hf]
  | vsplat g d a fmt =>
    exact codesBack_of_fields rfl fun lit h => by simp [decodeSingle, decodeG2, admitCls_rawWord]
  | vtag g d a fmt =>
    exact codesBack_of_fields rfl fun lit h => by simp [decodeSingle, decodeG3, admitCls_rawWord]
  | vmovx g d a b =>
    exact codesBack_of_fields rfl fun lit h => by
      simp [decodeSingle, decodeG2, admitCls_rawWord (XOp.admitted_of_noImm hw), bX_rawWord b h]
  | vins g d a b fmt =>
    have hb : b.noImm = true := hw
    exact codesBack_of_fields rfl fun lit h => by
      simp [decodeSingle, decodeG2, admitCls_rawWord (XOp.admitted_of_noImm hw), bX_rawWord b h, hb]
  | vred g d a op rm sat un =>
    have hrm : (rm != .sr) = true := hw
    exact codesBack_of_fields (m := modR rm sat .raw (modUn un (codeLow false op.code))) rfl fun lit h => by
      simp [decodeSingle, decodeG2, admitCls_rawWord, hrm]
  | vscan g d a op rm sat un excl =>
    exact codesBack_of_fields (m := modR rm sat .raw (modUn un (codeLow excl op.code))) rfl fun lit h => by
      simp [decodeSingle, decodeG2, admitCls_rawWord]
  | vcvt g d a fmt rm sat un =>
    exact codesBack_of_fields rfl fun lit h => by
      simp [decodeSingle, decodeG3, admitCls_rawWord, mCvtFmt_rawWord _ hw]
  | vpack g d a b fmt rm sat un =>
    obtain ⟨hn, hc⟩ := Bool.and_eq_true_iff.1 hw
    exact codesBack_of_fields rfl fun lit h => by
      simp [decodeSingle, decodeG3, admitCls_rawWord, (oneN_of_atMostOneN (y := b.isN) hn _).1, mCvtFmt_rawWord _ hc]
  | vunpk g d a fmt rm sat un part =>
    exact codesBack_of_fields (m := modR rm sat fmt (modUn un (numMod 4 part))) rfl fun lit h => by
      simp [decodeSingle, decodeG3, admitCls_rawWord, mCvtFmt_rawWord _ hw]
  | vscl g d a b add =>
    have hb : b.noImm = true := hw
    exact codesBack_of_fields (m := flagMod add) rfl fun lit h => by
      simp [decodeSingle, decodeG3, admitCls_rawWord (XOp.admitted_of_noImm hw), bX_rawWord b h, hb]
  | vquant g d a b word =>
    obtain ⟨hb, hg⟩ := Bool.and_eq_true_iff.1 hw
    exact codesBack_of_fields (m := numMod 13 word) rfl fun lit h => by
      simp [decodeSingle, decodeG3, admitCls_rawWord (XOp.admitted_of_noImm hb), bX_rawWord b h, hb, vGroup_of_wfGroup hg]
  | vdeq g d a b fmt rm sat word =>
    obtain ⟨hbf, hg⟩ := Bool.and_eq_true_iff.1 hw
    obtain ⟨hb, hfmt⟩ := Bool.and_eq_true_iff.1 hbf
    have hregs : fmt = .fp32 ∨ fmt = .fp16 ∨ fmt = .bf16 := by simpa [or_assoc] using hfmt
    exact codesBack_of_fields (m := modR rm sat fmt (numMod 5 word)) rfl fun lit h => by
      simp only [decodeSingle, decodeG3, fmt_rawWord (BEnc.fits_of_noImm (b.noImm_enc.trans hb)), if_pos hregs, hfmt]
      simp [admitCls_rawWord (XOp.admitted_of_noImm hb), bX_rawWord b h, hb, vGroup_of_wfGroup hg]
  | xbar g d a k =>
    exact codesBack_of_fields (m := numMod 13 k) rfl fun lit h => by simp [decodeSingle, decodeG3, admitCls_rawWord]
  | xbld a k =>
    exact codesBack_of_fields (m := numMod 13 k) rfl fun lit h => by simp [decodeSingle, decodeG3, admitCls_rawWord]
  | pnot d a => exact codesBack_of_fields rfl fun lit h => by simp [decodeSingle, decodeG3, admitCls_rawWord]
  | pset d b => exact codesBack_of_fields rfl fun lit h => by simp [decodeSingle, decodeG3, admitCls_rawWord, bX_rawWord b h]
  | vrng g d => exact codesBack_of_fields rfl fun lit h => by simp [decodeSingle, decodeG3, admitCls_rawWord]
  | vseed g a => exact codesBack_of_fields rfl fun lit h => by simp [decodeSingle, decodeG3, admitCls_rawWord]
  | _ => cases hi
end Sys2Proof
end

section
open Sys2Proof Sys2Proof.Claims

/-- Settles O2: as for the scalar words, with the guard, the north port's one source field and the modifier's sub-fields read back. -/
theorem roundTripLane : Obligations.RoundTripLane := fun _ => codesBack_lane
end

section
/-!
PROOF. Tensor, port, memory, copy, queue, counter and system instructions decode to themselves (statement O3; spec/04 Tables 4.4 to
4.6).
-/
namespace Sys2Proof
open Sys2Proof.Claims

section
variable {opc : BitVec 10} {lit : Word} {g : Option Guard} {d : VDst} {a : XSrc} {b : XOp} {m : MemMod}

theorem dLdR_rawWord {xOk : Bool} (mk : Option Guard → VDst → XSrc → RSrc → MemMod → Instr) {b : RSrc} (hm : m.ok true xOk = true) :
    dLdR xOk mk .full (rawWord opc g d.code a.enc b.enc.b noSrc m.enc) = .ok (mk g d a b m) := by
  simp [dLdR, admitCls_rawWord, hm]

/-- The zero memory modifier is the one an immediate word has room for. -/
theorem MemMod.enc_eq_zero {m : MemMod} (h : (m == .zero) = true) : m.enc = 0 := by
  rw [eq_of_beq h]; rfl

theorem dLdX_rawWord (mk : Option Guard → VDst → XSrc → XOp → MemMod → Instr) (h : b.enc.Follows lit)
    (hw : (m.ok true false && b.orZero (m == .zero)) = true) :
    dLdX mk .full (rawWord opc g d.code a.enc b.enc noSrc m.enc) lit = .ok (mk g d a b m) := by
  obtain ⟨hm, hz⟩ := Bool.and_eq_true_iff.1 hw
  simp [dLdX, admitCls_rawWord, bX_rawWord b h, hm, XOp.fits_of_orZero hz MemMod.enc_eq_zero]

theorem dStR_rawWord (mk : Option Guard → XSrc → RSrc → RSrc → MemMod → Instr) {b c : RSrc} (hm : m.ok false false = true) :
    dStR mk .full (rawWord opc g 0#7 a.enc b.enc.b c.enc m.enc) = .ok (mk g a b c m) := by
  simp [dStR, admitCls_rawWord, cR_rawWord, hm]

theorem dEnq_rawWord (mk : Fin 32 → XSrc → XSrc → XSrc → Bool → Bool → Instr) {d : Fin 32} {b c : XSrc} {t loc : Bool} :
    dEnq mk (rawWord opc none (xEnc d) a.enc b.enc.b c.enc (enqMod t loc)) = .ok (mk d a b c t loc) := by
  simp [dEnq, admitCls_rawWord, cX_rawWord]

theorem dCsrW_rawWord (mk : XSrc → BitVec 12 → Instr) {n : BitVec 12} (hn : csrAssigned n = true) :
    dCsrW mk (rawWord opc none 0#7 a.enc (.imm (csrImm n)) noSrc 0#13) = .ok (mk a n) := by
  simp [dCsrW, admitCls_rawWord, csrNum_rawWord hn]

theorem dSide_rawWord {d : Fin 32} {mod : BitVec 13} (h : b.enc.Follows lit) (hb : b.noLit = true) :
    dSide (rawWord opc none (xEnc d) noSrc b.enc noSrc mod) lit = .ok (d, b) := by
  simp [dSide, admitCls_rawWord (XOp.admitted_of_noLit hb), bX_rawWord b h]

/-- The even register of a pair operand (R95). -/
theorem vePair_of_even {i : Fin 64} (h : i.val % 2 = 0) (f : Nat) : vePair .full i f = .ok () := by
  have : decide (i.val % 2 = 0 ∧ i.val + 1 < Footprint.full.v) = true := decide_eq_true ⟨h, by show _ < 64; omega⟩
  rw [vePair, this]; rfl

end

/-! ### Operands of several kinds -/

theorem toNat_aEnc (i : Fin 4) : (aEnc i).toNat = 0x60 + i.val := Nat.mod_eq_of_lt (by omega)
theorem toNat_wEnc (i : Fin 4) : (wEnc i).toNat = 0x64 + i.val := Nat.mod_eq_of_lt (by omega)
theorem toNat_vEnc (i : Fin 64) : (vEnc i).toNat = 0x20 + i.val := Nat.mod_eq_of_lt (by omega)

theorem aEnc_ne_port (i : Fin 4) : aEnc i ≠ 0x78#7 ∧ aEnc i ≠ 0x79#7 := by
  have hi := i.isLt
  have hc := toNat_aEnc i
  constructor <;> intro h <;> rw [h] at hc <;> simp at hc <;> omega

theorem vEnc_ne_port (i : Fin 64) : vEnc i ≠ 0#7 ∧ vEnc i ≠ 0x79#7 :=
  ⟨vEnc_ne i (by decide), vEnc_ne i (by decide)⟩

@[simp] theorem VDst.code_v (i : Fin 64) : (VDst.v i).code = vEnc i := rfl
@[simp] theorem VDst.code_s : VDst.s.code = 0x79#7 := rfl
@[simp] theorem noSrc_fst : noSrc.1 = 0#7 := rfl
@[simp] theorem noSrc_snd : noSrc.2 = 0#2 := rfl

/-- The codes that name an accumulator, and those that name a stationary register (Table 3.3). -/
theorem aEnc_range (i : Fin 4) : 96 ≤ (aEnc i).toNat ∧ (aEnc i).toNat < 100 := by rw [toNat_aEnc]; omega

theorem wEnc_range (i : Fin 4) : 100 ≤ (wEnc i).toNat ∧ (wEnc i).toNat < 104 := by rw [toNat_wEnc]; omega

theorem wEnc_not_a (i : Fin 4) : ¬ (96 ≤ (wEnc i).toNat ∧ (wEnc i).toNat < 100) := by rw [toNat_wEnc]; omega

theorem vEnc_not_a (i : Fin 64) : ¬ 96 ≤ (vEnc i).toNat := by rw [toNat_vEnc]; omega

theorem vEnc_not_w (i : Fin 64) : ¬ 100 ≤ (vEnc i).toNat := by rw [toNat_vEnc]; omega

@[simp] theorem RSrc.enc_fst (s : RSrc) : s.enc.1 = vEnc s.reg := rfl
@[simp] theorem ASrc.enc_fst (s : ASrc) : s.enc.1 = aEnc s.reg := rfl
@[simp] theorem ASrc.enc_snd (s : ASrc) : s.enc.2 = s.mode.code := rfl
@[simp] theorem WSrc.enc_fst (s : WSrc) : s.enc.1 = wEnc s.reg := rfl

theorem AtomOp.code_eq_seven (op : AtomOp) : op.code = 7#3 ↔ op = .cas := by cases op <;> simp [AtomOp.code]

/-- The registers of ACCRD's destination, by its format (R187). -/
theorem accGroup_eq {f : Fmt} (h : wfAccFmt f = true) :
    (if f = .fp32 ∨ f = .fp16 ∨ f = .bf16 then regsOfEight f else 1) = regsOfEight f := by
  cases f <;> first | rfl | cases h

theorem codesBack_tensorOrMemory {i : Instr} (hi : isTensorOrMemory i = true) (hw : i.wf = true) : CodesBack i := by
  cases i with
  | mstep g d a b kw sl =>
    exact codesBack_of_fields (m := tensorMod kw sl) rfl fun lit h => by simp [decodeSingle, decodeG4, admitCls_rawWord]
  | mstepn g d a b c kw sl =>
    exact codesBack_of_fields (m := tensorMod kw sl) rfl fun lit h => by
      cases d with
      | s => simp [decodeSingle, decodeG4, admitCls_rawWord, ADst.code, rawWord_c, rawWord_mc, RawWord.cMode]
      | a i => simp [decodeSingle, decodeG4, admitCls_rawWord, ADst.code, aEnc_ne_port, rawWord_c, rawWord_mc, RawWord.cMode]
  | msteps g d a b kw sl =>
    exact codesBack_of_fields (m := tensorMod kw sl) rfl fun lit h => by
      simp [decodeSingle, decodeG4, admitCls_rawWord, vePair_of_even (of_decide_eq_true hw)]
  | accz g d => exact codesBack_of_fields rfl fun lit h => by simp [decodeSingle, decodeG4, admitCls_rawWord]
  | accrd g d a b fmt rm sat clr =>
    simp only [Instr.wf, wfAccrd, Bool.and_eq_true] at hw
    obtain ⟨⟨hfmt, hd⟩, hb⟩ := hw
    have hfmt' : (fmt == .fp32 || fmt == .bf16 || fmt == .fp16 || fmt == .e4m3 || fmt == .e5m2) = true := hfmt
    refine codesBack_of_fields (m := modR rm sat fmt (clrLow clr)) rfl fun lit h => ?_
    cases d with
    | s =>
      cases b with
      | none => simp [decodeSingle, decodeG4, admitCls_rawWord, hd, hfmt']
      | some r => simp [decodeSingle, decodeG4, admitCls_rawWord, hd, hfmt', vEnc_ne_port, vGroup_of_wfGroup hb]
    | v i =>
      cases b with
      | none => simp [decodeSingle, decodeG4, admitCls_rawWord, accGroup_eq hfmt, vEnc_ne_port, vGroup_of_wfGroup hd, hfmt']
      | some r =>
        simp [decodeSingle, decodeG4, admitCls_rawWord, accGroup_eq hfmt, vGroup_of_wfGroup hd, vEnc_ne_port, hfmt', vGroup_of_wfGroup hb]
  | accwr g d a => exact codesBack_of_fields rfl fun lit h => by simp [decodeSingle, decodeG4, admitCls_rawWord]
  | accadd g d a b =>
    exact codesBack_of_fields rfl fun lit h => by
      cases b with
      | n mode => simp [decodeSingle, decodeG4, admitCls_rawWord, AccOp.enc, RawWord.bMode]
      | a s => simp [decodeSingle, decodeG4, admitCls_rawWord, AccOp.enc, aEnc_ne_port, RawWord.bMode]
  | wld g d a b fmt k =>
    simp only [Instr.wf, wfWld, Bool.and_eq_true] at hw
    obtain ⟨⟨⟨⟨hfmt, hlat⟩, hpl⟩, hsp⟩, hz⟩ := hw
    have hf : b.enc.Fits (wldMod fmt k) := XOp.fits_of_orZero hz fun hm => by
      cases fmt <;> cases k <;> first | rfl | cases hm
    exact codesBack_of_fields (m := wldMod fmt k) rfl fun lit h => by
      simp [decodeSingle, decodeG4, admitCls_rawWord, bX_rawWord b h, hf, hfmt, hlat, hpl, hsp, -Bool.not_and]
  | wrecv g d a => exact codesBack_of_fields rfl fun lit h => by simp [decodeSingle, decodeG4, admitCls_rawWord]
  | wsend g a => exact codesBack_of_fields rfl fun lit h => by simp [decodeSingle, decodeG4, admitCls_rawWord]
  | psend g a rel =>
    exact codesBack_of_fields (m := flagMod rel) rfl fun lit h => by
      cases a with
      | v s => simp [decodeSingle, decodeG4, admitCls_rawWord, SendSrc.enc, vEnc_not_a, vEnc_not_w]
      | a s => simp [decodeSingle, decodeG4, admitCls_rawWord, SendSrc.enc, aEnc_range]
      | w s => simp [decodeSingle, decodeG4, admitCls_rawWord, SendSrc.enc, wEnc_not_a, wEnc_range]
  | precv g d a =>
    exact codesBack_of_fields rfl fun lit h => by
      cases d with
      | v i => simp [decodeSingle, decodeG4, admitCls_rawWord, RecvDst.code, vEnc_not_a]
      | a i => simp [decodeSingle, decodeG4, admitCls_rawWord, RecvDst.code, aEnc_range]
  | pbind a k nad =>
    exact codesBack_of_fields (m := pbindMod k nad) rfl fun lit h => by simp [decodeSingle, decodeG4, admitCls_rawWord]
  | pflush => exact codesBack_of_fields rfl fun lit h => by simp [decodeSingle, decodeG4, dNil_rawWord]
  | wscl g d a => exact codesBack_of_fields rfl fun lit h => by simp [decodeSingle, decodeG4, admitCls_rawWord]
  | ld g d a b m => exact codesBack_of_fields rfl fun lit h => by simp [decodeSingle, decodeG5, dLdR_rawWord _ hw]
  | gld g d a b m =>
    have hm : m.ok true true = true := by simp [MemMod.ok]
    exact codesBack_of_fields rfl fun lit h => by simp [decodeSingle, decodeG5, dLdR_rawWord _ hm]
  | ldv g d a b m | ldb g d a b m =>
    exact codesBack_of_fields rfl fun lit h => by simp [decodeSingle, decodeG5, dLdX_rawWord _ h hw]
  | st g a b c m | gst g a b c m =>
    exact codesBack_of_fields rfl fun lit h => by simp [decodeSingle, decodeG5, dStR_rawWord _ hw]
  | stv g a b c m =>
    obtain ⟨hb, hm⟩ := Bool.and_eq_true_iff.1 hw
    exact codesBack_of_fields rfl fun lit h => by
      simp [decodeSingle, decodeG5, admitCls_rawWord (XOp.admitted_of_noImm hb), bX_rawWord b h, cR_rawWord, hb, hm]
  | sts a b c m =>
    obtain ⟨hb, hm⟩ := Bool.and_eq_true_iff.1 hw
    exact codesBack_of_fields rfl fun lit h => by
      simp [decodeSingle, decodeG5, admitCls_rawWord (XOp.admitted_of_noImm hb), bX_rawWord b h, cX_rawWord, hb, hm]
  | lds d a b m =>
    obtain ⟨hm, hz⟩ := Bool.and_eq_true_iff.1 hw
    exact codesBack_of_fields rfl fun lit h => by
      simp [decodeSingle, decodeG5, admitCls_rawWord, bX_rawWord b h, hm, XOp.fits_of_orZero hz MemMod.enc_eq_zero]
  | atom g d a b c m =>
    exact codesBack_of_fields rfl fun lit h => by
      simp [decodeSingle, decodeG5, admitCls_rawWord, cR_rawWord, mAtom_rawWord _ hw]
  | red g a b c m =>
    exact codesBack_of_fields rfl fun lit h => by
      simp [decodeSingle, decodeG5, admitCls_rawWord, cR_rawWord, mAtom_rawWord _ hw]
  | cas g d a b c m =>
    simp only [Instr.wf, Bool.and_eq_true, decide_eq_true_eq, beq_iff_eq, Bool.not_eq_true'] at hw
    obtain ⟨⟨⟨hc, hop⟩, hf⟩, hun⟩ := hw
    exact codesBack_of_fields rfl fun lit h => by
      simp [decodeSingle, decodeG5, admitCls_rawWord, cR_rawWord, vePair_of_even hc, mCas_rawWord _ hop hf hun]
  | atoms d a b c m =>
    simp only [Instr.wf, Bool.and_eq_true, Bool.or_eq_true, beq_iff_eq] at hw
    obtain ⟨⟨hb, hm⟩, hc⟩ := hw
    refine codesBack_of_fields rfl fun lit h => ?_
    by_cases hop : m.op = .cas
    · simp [decodeSingle, decodeG5, admitCls_rawWord (XOp.admitted_of_noImm hb), bX_rawWord b h, cX_rawWord, hb,
        AtomMod.enc_op, eq_true (m.op.code_eq_seven.2 hop), mAtom_rawWord _ hm]
    · have hc' : XSrc.enc ⟨.x 0, .wait⟩ = noSrc := rfl
      simp [decodeSingle, decodeG5, admitCls_rawWord (XOp.admitted_of_noImm hb), bX_rawWord b h, hb, hc',
        AtomMod.enc_op, eq_false (mt m.op.code_eq_seven.1 hop), mAtom_rawWord _ hm, hc.resolve_left hop]
  | fence sc k =>
    exact codesBack_of_fields (m := fenceMod sc k 0#7) rfl fun lit h => by simp [decodeSingle, decodeG5, admitCls_rawWord]
  | fencex sc k paths =>
    have hp : (paths != 0#7) = true := hw
    exact codesBack_of_fields (m := fenceMod sc k paths) rfl fun lit h => by simp [decodeSingle, decodeG5, admitCls_rawWord, hp]
  | pref a b =>
    exact codesBack_of_fields rfl fun lit h => by simp [decodeSingle, decodeG5, dAB_rawWord _ _ h]
  | sgrow d b k =>
    obtain ⟨hb, hz⟩ := Bool.and_eq_true_iff.1 hw
    have hf : b.enc.Fits (chunkMod k) := XOp.fits_of_orZero hz fun hk => by rw [eq_of_beq hk]; rfl
    exact codesBack_of_fields (m := chunkMod k) rfl fun lit h => by simp [decodeSingle, decodeG5, dSide_rawWord h hb, hf]
  | sfree d b => exact codesBack_of_fields rfl fun lit h => by simp [decodeSingle, decodeG5, dSide_rawWord h hw]
  | _ => cases hi

theorem codesBack_unit {i : Instr} (hi : isUnitWord i = true) (hw : i.wf = true) : CodesBack i := by
  cases i with
  | copy d a b c => exact codesBack_of_fields rfl fun lit h => by simp [decodeSingle, decodeG6, admitCls_rawWord, cX_rawWord]
  | copyef d a b c => exact codesBack_of_fields rfl fun lit h => by simp [decodeSingle, decodeG6, admitCls_rawWord, cD_rawWord]
  | copys d a b => exact codesBack_of_fields rfl fun lit h => by simp [decodeSingle, decodeG6, admitCls_rawWord]
  | ldd d a b loc =>
    have hf : b.enc.Fits (flagMod loc) := XOp.fits_of_orZero hw fun hl => by cases loc <;> first | rfl | cases hl
    exact codesBack_of_fields (m := flagMod loc) rfl fun lit h => by
      simp [decodeSingle, decodeG6, admitCls_rawWord, bX_rawWord b h, hf]
  | std a b c loc =>
    have hb : b.noImm = true := hw
    exact codesBack_of_fields (m := flagMod loc) rfl fun lit h => by
      simp [decodeSingle, decodeG6, admitCls_rawWord (XOp.admitted_of_noImm hb), bX_rawWord b h, cD_rawWord, hb]
  | dset d a k | dget d a k =>
    exact codesBack_of_fields (m := numMod 13 k) rfl fun lit h => by simp [decodeSingle, decodeG6, admitCls_rawWord]
  | ccancel a => exact codesBack_of_fields rfl fun lit h => by simp [decodeSingle, decodeG6, admitCls_rawWord]
  | enq d a b c t loc | enqb d a b c t loc =>
    exact codesBack_of_fields (m := enqMod t loc) rfl fun lit h => by simp [decodeSingle, decodeG7, dEnq_rawWord]
  | qflush a => exact codesBack_of_fields rfl fun lit h => by simp [decodeSingle, decodeG7, dA_rawWord]
  | qstat d a | cstat d a => exact codesBack_of_fields rfl fun lit h => by simp [decodeSingle, decodeG7, dXX_rawWord]
  | recdone => exact codesBack_of_fields rfl fun lit h => by simp [decodeSingle, decodeG7, dNil_rawWord]
  | deq d b => exact codesBack_of_fields rfl fun lit h => by simp [decodeSingle, decodeG7, dDB_rawWord _ h hw]
  | coll d a b => exact codesBack_of_fields rfl fun lit h => by simp [decodeSingle, decodeG7, admitCls_rawWord, bX_rawWord b h]
  | jinit a b loc =>
    exact codesBack_of_fields (m := flagMod loc) rfl fun lit h => by simp [decodeSingle, decodeG89, admitCls_rawWord]
  | jdec d a | jread d a | evrd d a => exact codesBack_of_fields rfl fun lit h => by simp [decodeSingle, decodeG89, dXX_rawWord]
  | barr a b | bara a b | evsel a b =>
    exact codesBack_of_fields rfl fun lit h => by simp [decodeSingle, decodeG89, dAB_rawWord _ _ h (XOp.admitted_of_noLit hw)]
  | aset a b => exact codesBack_of_fields rfl fun lit h => by simp [decodeSingle, decodeG89, dAB_rawWord _ _ h]
  | barw b => exact codesBack_of_fields rfl fun lit h => by simp [decodeSingle, decodeG89, dB_rawWord _ _ h (XOp.admitted_of_noLit hw)]
  | acnt a b rel =>
    have hf : b.enc.Fits (flagMod rel) := XOp.fits_of_orZero hw fun hl => by cases rel <;> first | rfl | cases hl
    exact codesBack_of_fields (m := flagMod rel) rfl fun lit h => by
      simp [decodeSingle, decodeG89, admitCls_rawWord, bX_rawWord b h, hf]
  | csrr d n =>
    exact codesBack_of_fields (b := .imm (csrImm n)) rfl fun lit h => by
      simp [decodeSingle, decodeG89, admitCls_rawWord, csrNum_rawWord hw]
  | csrw a n | csrs a n | csrc a n =>
    exact codesBack_of_fields (b := .imm (csrImm n)) rfl fun lit h => by
      simp [decodeSingle, decodeG89, dCsrW_rawWord _ hw]
  | rett => exact codesBack_of_fields rfl fun lit h => by simp [decodeSingle, decodeG89, dNil_rawWord]
  | _ => cases hi
end Sys2Proof
end

section
open Sys2Proof Sys2Proof.Claims

/-- Settles O3: as for the scalar words; an operand that may be of several kinds is told apart by the range of its code. -/
theorem roundTripTensorMemoryUnits : Obligations.RoundTripTensorMemoryUnits :=
  ⟨fun _ => codesBack_tensorOrMemory, fun _ => codesBack_unit⟩
end

section
/-!
PROOF. Pair words decode to themselves (statement O4; spec/03 R75, R76, spec/04 Tables 4.8 and 4.9).
-/
namespace Sys2Proof
open Sys2Proof.Claims

/-! ### The halves of a pair word -/

theorem RawHalf.ofBits_toBits (h : RawHalf) : RawHalf.ofBits h.toBits = h := by
  obtain ⟨op, d, a, b, m⟩ := h
  simp (disch := omega) only [RawHalf.ofBits, RawHalf.toBits, BitVec.extractLsb'_append_eq_of_le,
    BitVec.extractLsb'_append_eq_of_add_le, BitVec.extractLsb'_eq_self, Nat.reduceSub]

/-- The word of class 01 that holds two halves. -/
def pairOf (x y : RawHalf) : Word := (1#2 ++ x.toBits ++ y.toBits).cast (by decide)

theorem pairOf_fields (x y : RawHalf) : (pairOf x y).extractLsb' 62 2 = 1#2 ∧
    RawHalf.ofBits ((pairOf x y).extractLsb' 31 31) = x ∧ RawHalf.ofBits ((pairOf x y).extractLsb' 0 31) = y := by
  simp (disch := omega) only [pairOf, BitVec.extractLsb'_cast, BitVec.extractLsb'_append_eq_of_le,
    BitVec.extractLsb'_append_eq_of_add_le, BitVec.extractLsb'_eq_self, Nat.reduceSub, RawHalf.ofBits_toBits, and_self]

theorem encode_pairWord {a b : Instr} {x y : RawHalf} (hx : RawHalf.ofInstr a = some x) (hy : RawHalf.ofInstr b = some y) :
    encode (.pairWord a b) = some [pairOf x y] := by
  show (match RawHalf.ofInstr a, RawHalf.ofInstr b with
    | some h0, some h1 => some [pairOf h0 h1]
    | _, _ => none) = some [pairOf x y]
  rw [hx, hy]

/-! ### Fields of a half -/

section
variable {f : Nat}

theorem hX_half {a : XSrc} (h : a.half = true) : hX a.enc.1 f = .ok a := by
  obtain ⟨n, mode⟩ := a
  simp only [XSrc.half, Bool.and_eq_true, beq_iff_eq, bne_iff_ne] at h
  obtain ⟨rfl, hn⟩ := h
  cases n with
  | rowid => exact absurd rfl hn
  | x i =>
    show (do return ⟨.x (← xCode (xEnc i) f), .wait⟩ : Dec XSrc) = _
    rw [xCode_xEnc]; rfl

theorem hXb_half {b : XOp} (h : b.half = true) : hXb (RawHalf.ofInstr.hb b.enc) f = .ok b := by
  cases b with
  | reg s => exact congrArg (XOp.reg <$> ·) (hX_half h)
  | imm i | lit w => cases h

theorem hV_half {a : VSrc} (h : a.half = true) : hV .full a.enc.1 f = .ok a := by
  obtain ⟨name, mode⟩ := a
  simp only [VSrc.half, Bool.and_eq_true, beq_iff_eq, bne_iff_ne] at h
  obtain ⟨⟨rfl, hn⟩, hl⟩ := h
  cases name with
  | n => exact absurd rfl hn
  | lane => exact absurd rfl hl
  | v i =>
    show (do return ⟨.v (← vCode .full (vEnc i) f), .wait⟩ : Dec VSrc) = _
    rw [vCode_vEnc]; rfl

theorem hVb_half {b : VOp} (h : b.half = true) : hVb .full (RawHalf.ofInstr.hb b.enc) f = .ok b := by
  cases b with
  | reg s => exact congrArg (VOp.reg <$> ·) (hV_half h)
  | imm i | lit w => cases h

theorem hVd_half {d : VDst} (h : d.half = true) : hVd .full d.code = .ok d := by
  cases d with
  | s => cases h
  | v i => exact congrArg (VDst.v <$> ·) (vCode_vEnc i 17)

theorem hR_half {a : RSrc} (h : a.mode = .wait) : hR .full a.enc.1 f = .ok a := by
  obtain ⟨r, mode⟩ := a
  obtain rfl : mode = .wait := h
  show (do return ⟨← vCode .full (vEnc r) f, .wait⟩ : Dec RSrc) = _
  rw [vCode_vEnc]; rfl

@[simp] theorem hNone_zero : hNone 0#7 f = .ok () := rfl

end

@[simp] theorem hNoMod_zero (op d a b : BitVec 7) : hNoMod ⟨op, d, a, b, 0#3⟩ = .ok () := rfl

@[simp] theorem hRound_code (op d a b : BitVec 7) (rm : RMode) : hRound ⟨op, d, a, b, rm.code⟩ = .ok rm := by
  simp [hRound]

theorem hMem_half {m : MemMod} (h : m.half = true) (op d a b : BitVec 7) : hMem ⟨op, d, a, b, 0#1 ++ m.width.code⟩ = .ok m := by
  obtain ⟨sc, f, o, x, w⟩ := m
  simp only [MemMod.half, beq_iff_eq, MemMod.mk.injEq] at h
  obtain ⟨rfl, rfl, rfl, rfl, -⟩ := h
  cases w <;> rfl

/-! ### The shapes of halves -/

section
variable {op : BitVec 7} {d : VDst} {a : VSrc} {b : VOp}

theorem hVArith_half (mk : Option Guard → VDst → VSrc → VOp → RMode → Bool → Bool → Instr) {rm : RMode} (hd : d.half = true)
    (ha : a.half = true) (hb : b.half = true) :
    hVArith mk .full ⟨op, d.code, a.enc.1, RawHalf.ofInstr.hb b.enc, rm.code⟩ = .ok (mk none d a b rm false false) := by
  simp [hVArith, hVd_half hd, hV_half ha, hVb_half hb]

theorem hVVV_half (mk : VDst → VSrc → VOp → Instr) (hd : d.half = true) (ha : a.half = true) (hb : b.half = true) :
    hVVV mk .full ⟨op, d.code, a.enc.1, RawHalf.ofInstr.hb b.enc, 0#3⟩ = .ok (mk d a b) := by
  simp [hVVV, hVd_half hd, hV_half ha, hVb_half hb]

theorem hVV_half (mk : VDst → VSrc → Instr) (hd : d.half = true) (ha : a.half = true) :
    hVV mk .full ⟨op, d.code, a.enc.1, 0#7, 0#3⟩ = .ok (mk d a) := by
  simp [hVV, hVd_half hd, hV_half ha]

theorem hVVX_half (mk : VDst → VSrc → XOp → Instr) {b : XOp} (hd : d.half = true) (ha : a.half = true) (hb : b.half = true) :
    hVVX mk .full ⟨op, d.code, a.enc.1, RawHalf.ofInstr.hb b.enc, 0#3⟩ = .ok (mk d a b) := by
  simp [hVVX, hVd_half hd, hV_half ha, hXb_half hb]

theorem hXXB_half (mk : XXB) {d : Fin 32} {a : XSrc} {b : XOp} (ha : a.half = true) (hb : b.half = true) :
    hXXB mk ⟨op, xEnc d, a.enc.1, RawHalf.ofInstr.hb b.enc, 0#3⟩ = .ok (mk d a b) := by
  simp [hXXB, hX_half ha, hXb_half hb]

end

theorem WSrc.eq_of_wait {s : WSrc} (h : s.mode = .wait) : (⟨s.reg, .wait⟩ : WSrc) = s := by rw [← h]
theorem ASrc.eq_of_wait {s : ASrc} (h : s.mode = .wait) : (⟨s.reg, .wait⟩ : ASrc) = s := by rw [← h]

/-- An instruction of Table 4.8 decodes from the fields that its half holds. -/
theorem decodeH0_ofInstr {i : Instr} (hw : wfH0 i = true) :
    ∃ x, RawHalf.ofInstr i = some x ∧ h0Assigned x.op = true ∧ decodeH0 .full x = .ok i := by
  cases i with
  | vadd g d a b rm sat un | vsub g d a b rm sat un | vmul g d a b rm sat un =>
    simp only [wfH0, Bool.and_eq_true, beq_iff_eq, Bool.not_eq_true'] at hw
    obtain ⟨⟨⟨⟨⟨rfl, hd⟩, ha⟩, hb⟩, rfl⟩, rfl⟩ := hw
    exact ⟨_, rfl, rfl, by simp [decodeH0, hVArith_half _ hd ha hb]⟩
  | vmin g d a b un | vmax g d a b un =>
    simp only [wfH0, Bool.and_eq_true, beq_iff_eq, Bool.not_eq_true'] at hw
    obtain ⟨⟨⟨⟨rfl, hd⟩, ha⟩, hb⟩, rfl⟩ := hw
    exact ⟨_, rfl, rfl, by simp [decodeH0, hVVV_half _ hd ha hb]⟩
  | vshl g d a b sat un =>
    simp only [wfH0, Bool.and_eq_true, beq_iff_eq, Bool.not_eq_true'] at hw
    obtain ⟨⟨⟨⟨⟨rfl, hd⟩, ha⟩, hb⟩, rfl⟩, rfl⟩ := hw
    exact ⟨_, rfl, rfl, by simp [decodeH0, hVVV_half _ hd ha hb]⟩
  | vabs g d a sat | vneg g d a sat =>
    simp only [wfH0, Bool.and_eq_true, beq_iff_eq, Bool.not_eq_true'] at hw
    obtain ⟨⟨⟨rfl, hd⟩, ha⟩, rfl⟩ := hw
    exact ⟨_, rfl, rfl, by simp [decodeH0, hVV_half _ hd ha]⟩
  | vand g d a b | vor g d a b | vxor g d a b | vshr g d a b | vsar g d a b =>
    simp only [wfH0, Bool.and_eq_true, beq_iff_eq] at hw
    obtain ⟨⟨⟨rfl, hd⟩, ha⟩, hb⟩ := hw
    exact ⟨_, rfl, rfl, by simp [decodeH0, hVVV_half _ hd ha hb]⟩
  | vrot g d a b | vbcast g d a b =>
    simp only [wfH0, Bool.and_eq_true, beq_iff_eq] at hw
    obtain ⟨⟨⟨rfl, hd⟩, ha⟩, hb⟩ := hw
    exact ⟨_, rfl, rfl, by simp [decodeH0, hVVX_half _ hd ha hb]⟩
  | mstep g d a b kw sl =>
    simp only [wfH0, Bool.and_eq_true, beq_iff_eq] at hw
    obtain ⟨⟨⟨⟨rfl, ha⟩, hb⟩, rfl⟩, rfl⟩ := hw
    exact ⟨_, rfl, rfl, by simp [decodeH0, hV_half ha, WSrc.eq_of_wait hb]⟩
  | msteps g d a b kw sl =>
    simp only [wfH0, Bool.and_eq_true, beq_iff_eq, decide_eq_true_eq] at hw
    obtain ⟨⟨⟨⟨⟨rfl, ha⟩, he⟩, hb⟩, rfl⟩, rfl⟩ := hw
    exact ⟨_, rfl, rfl, by simp [decodeH0, hR_half ha, vePair_of_even he, WSrc.eq_of_wait hb, -RSrc.enc_fst]⟩
  | accz g d =>
    obtain rfl : g = none := eq_of_beq hw
    exact ⟨_, rfl, rfl, by simp [decodeH0]⟩
  | accwr g d a =>
    simp only [wfH0, Bool.and_eq_true, beq_iff_eq] at hw
    obtain ⟨rfl, ha⟩ := hw
    exact ⟨_, rfl, rfl, by simp [decodeH0, hR_half ha, -RSrc.enc_fst]⟩
  | accadd g d a b =>
    cases b with
    | n mode => simp [wfH0] at hw
    | a s =>
      simp only [wfH0, Bool.and_eq_true, beq_iff_eq] at hw
      obtain ⟨⟨rfl, ha⟩, hs⟩ := hw
      exact ⟨_, rfl, rfl, by simp [decodeH0, AccOp.enc, ASrc.eq_of_wait ha, ASrc.eq_of_wait hs]⟩
  | _ => cases hw

/-- An instruction of Table 4.9 decodes from the fields that its half holds. -/
theorem decodeH1_ofInstr {i : Instr} (hw : wfH1 i = true) :
    ∃ x, RawHalf.ofInstr i = some x ∧ h1Assigned x.op = true ∧ decodeH1 .full x = .ok i := by
  cases i with
  | add d a b | sub d a b | mul d a b | and d a b | or d a b | xor d a b | shl d a b | shr d a b | sar d a b | min d a b
  | max d a b | slt d a b | sltn d a b | seq d a b =>
    obtain ⟨ha, hb⟩ := Bool.and_eq_true_iff.1 hw
    exact ⟨_, rfl, rfl, by simp [decodeH1, hXXB_half _ ha hb]⟩
  | mov d a => exact ⟨_, rfl, rfl, by simp [decodeH1, hX_half hw]⟩
  | ld g d a b m =>
    simp only [wfH1, Bool.and_eq_true, beq_iff_eq] at hw
    obtain ⟨⟨⟨⟨rfl, hd⟩, ha⟩, hb⟩, hm⟩ := hw
    exact ⟨_, rfl, rfl, by simp [decodeH1, hVd_half hd, hX_half ha, hR_half hb, hMem_half hm, -RSrc.enc_fst]⟩
  | ldv g d a b m | ldb g d a b m =>
    simp only [wfH1, Bool.and_eq_true, beq_iff_eq] at hw
    obtain ⟨⟨⟨⟨rfl, hd⟩, ha⟩, hb⟩, hm⟩ := hw
    exact ⟨_, rfl, rfl, by simp [decodeH1, hVd_half hd, hX_half ha, hXb_half hb, hMem_half hm]⟩
  | lds d a b m =>
    simp only [wfH1, Bool.and_eq_true] at hw
    obtain ⟨⟨ha, hb⟩, hm⟩ := hw
    exact ⟨_, rfl, rfl, by simp [decodeH1, hX_half ha, hXb_half hb, hMem_half hm]⟩
  | pref a b =>
    obtain ⟨ha, hb⟩ := Bool.and_eq_true_iff.1 hw
    exact ⟨_, rfl, rfl, by simp [decodeH1, hX_half ha, hXb_half hb]⟩
  | _ => cases hw

end Sys2Proof
end

section
open Sys2Proof Sys2Proof.Claims

/-- Settles O4: each half decodes from its own fields, and rules 3 and 4 of R76 are those of the two halves. -/
theorem roundTripPair : Obligations.RoundTripPair := by
  intro a b hw
  have hw' : wfPair a b = true := hw
  simp only [wfPair, Bool.and_eq_true] at hw'
  obtain ⟨⟨h0, h1⟩, hrules⟩ := hw'
  obtain ⟨x, hx, hx0, hxd⟩ := decodeH0_ofInstr h0
  obtain ⟨y, hy, hy1, hyd⟩ := decodeH1_ofInstr h1
  obtain ⟨hcls, hhi, hlo⟩ := pairOf_fields x y
  simp only [hx, hy] at hrules
  refine .inl ⟨pairOf x y, encode_pairWord hx hy, by rw [wordIsExtended, hcls]; rfl, fun lit => ?_⟩
  have hp : decodePair .full (pairOf x y) = .ok (.pairWord a b) := by
    simp [decodePair, hhi, hlo, hx0, hy1, hxd, hyd, hrules, inH1]
  rw [decode, decodeIn, hcls, if_pos (by rfl), hp]
end

section
open Sys2Proof Sys2Proof.Claims

/-- Settles O5: the decoder evaluated at each word. -/
theorem decodesSpecWords : Obligations.DecodesSpecWords := by
  unfold Obligations.DecodesSpecWords
  decide +kernel
end

section
/-!
PROOF. TRAP, BRK and words that are no instruction (statement O17; spec/03 R78, R79, spec/06 R141, R142, spec/16 R387).
-/
namespace Sys2Proof.Machine
open Sys2Proof.Claims

/-- A word that traps behind itself, in its row's own handler, does nothing else. -/
theorem traps_of_errorAfter {i : Instr} {s : State} {size : Nat} {e : Nat → State → Effect} {cause : Cause} {info : Word}
    (h : InRow s cause) (hi : exec i s = s.issue size e) (he : e s.cur s = .error (.trapAfter cause info)) :
    Traps i s cause info ((here s).pc + BitVec.ofNat 64 size) := by
  obtain ⟨v, hv, hst, hp, ht, hh, hd⟩ := h
  obtain ⟨b, hb, hvb⟩ := Option.bind_eq_some_iff.1 hv
  have hslot : (s.tookIssue s.cur).slot s.cur = stamped s (here s) := State.slot_tookIssue_same s s.cur
  have hrun : s.issue size e = .next (((s.tookIssue s.cur).evField (slotField s.cur) 0x12 cause.code.toNat).modSlot s.cur
      (fun c => c.enterHandler cause info ((here s).pc + BitVec.ofNat 64 size))) := by
    rw [State.issue_finish (by rw [hv]; rfl) (.inl hd), he]
    refine congrArg Host.Outcome.next (State.takeTrap_inRow (b := b) (v := v) info _ ?_ hvb hst ?_ ?_ ?_)
    · rw [hslot, stamped_shape]; exact hb
    · refine (State.policy_of_regions (s := s) ?_ _ _).trans hp
      rfl
    · rw [hslot, stamped_shape]; exact ht
    · rw [hslot, stamped_shape]; exact hh
  refine ⟨_, hi.trans hrun, rfl, fun j hj => ?_, fun _ => rfl, ?_⟩
  · rw [State.slot_modSlot_other _ _ hj, State.slot_evField, State.slot_tookIssue_other _ hj]
  · rw [State.slot_modSlot_same, State.slot_evField, hslot, took, Slot.enterHandler, stamped_shape]

theorem trapEffect_of_ready {b : XOp} {s : State} (h : Ready s (opUse b) []) :
    trapEffect b s.cur s = .error (.trapAfter .swtrap ((here s).opval s.cur b)) := by
  rw [trapEffect, State.ready_of h]; rfl

end Sys2Proof.Machine
end

section
open Sys2Proof Sys2Proof.Claims Sys2Proof.Machine

/-- Settles O17: each of the words has a trap for its effect. -/
theorem wordTraps : Obligations.WordTraps := by
  unfold Obligations.WordTraps
  refine ⟨⟨fun b s hin hr => ?_, fun s hin => ?_⟩, fun c h f s hin hc => ?_⟩
  · exact traps_of_errorAfter hin rfl (trapEffect_of_ready hr)
  · exact traps_of_error hin (by decide) rfl rfl
  · exact traps_of_error hin hc rfl rfl
end

section
/-!
PROOF. Empty sources of the two-operand integer instructions (statement O12; spec/03 R70, spec/16 Table 16.1).
-/
namespace Sys2Proof.Machine
open Sys2Proof.Claims

/-! ### The two-operand integer instructions have two effects -/

/-- Each is an ALU operation or a division. -/
theorem binaryForm_effect {i : Instr} {F : ScalarForm} (h : binaryForm i = some F) :
    ∃ d a b f g e, F = binary d a b f ∧ (∀ s, exec i s = s.issue (opSize b) e) ∧
      (e = aluEffect g d a b ∨ e = divEffect g d a b) := by
  cases i with
  | div d a b | divn d a b | rem d a b | remn d a b =>
    exact ⟨d, a, b, _, _, _, (Option.some.inj h).symm, fun s => rfl, .inr rfl⟩
  | add d a b | sub d a b | mul d a b | mulh d a b | mulhn d a b | and d a b | or d a b | xor d a b | andn d a b | shl d a b
  | shr d a b | sar d a b | rot d a b | min d a b | max d a b | minn d a b | maxn d a b | seq d a b | sne d a b | slt d a b
  | sltn d a b | sle d a b | slen d a b =>
    exact ⟨d, a, b, _, _, _, (Option.some.inj h).symm, fun s => rfl, .inl rfl⟩
  | lea d a b k => exact ⟨d, a, b, _, fun x y => x + (y <<< k.val), _, (Option.some.inj h).symm, fun s => rfl, .inl rfl⟩
  | bfx d a b sx => exact ⟨d, a, .reg b, _, aluBfx sx, _, (Option.some.inj h).symm, fun s => rfl, .inl rfl⟩
  | _ => cases h

/-- Its sources not ready, a two-operand integer instruction does what they ask. -/
theorem binaryForm_unready {i : Instr} {F : ScalarForm} {s : State} {x : Halt} (h : binaryForm i = some F)
    (hx : s.ready s.cur F.us [codeX F.d] = .error x) :
    ∃ e : Nat → State → Effect, exec i s = s.issue F.size e ∧ e s.cur s = .error x := by
  obtain ⟨d, a, b, f, g, e, rfl, hi, he⟩ := binaryForm_effect h
  refine ⟨e, hi s, ?_⟩
  have hr : s.ready s.cur (xUse 0 a ++ opUse b) [codeX d] = .error x := hx
  rcases he with rfl | rfl
  · rw [aluEffect, scalarEffect, hr]
  · rw [divEffect, hr]

/-! ### Empty trap-mode sources -/

theorem Use.empty_local {u : Use} {s : State} {k : Nat} (h : u.code ≠ codeN) : u.empty s k = (s.slot k).isEmpty u.code :=
  if_neg h

/-- Some trap-mode source is empty. -/
def trapsEmpty (c : Slot) (us : List Use) : Bool := us.any (fun u => decide (u.mode = .trap) && c.isEmpty u.code)

theorem any_empty_local {s : State} {us : List Use} (p : Use → Bool) (h : ∀ u ∈ us, u.code ≠ codeN) :
    us.any (fun u => p u && u.empty s s.cur) = us.any (fun u => p u && (here s).isEmpty u.code) := by
  rw [Bool.eq_iff_iff, List.any_eq_true, List.any_eq_true]
  refine exists_congr fun u => and_congr_right fun hu => ?_
  rw [Use.empty_local (h u hu)]; rfl

theorem binaryUse_local (a : XSrc) (b : XOp) : ∀ u ∈ xUse 0 a ++ opUse b, u.code ≠ codeN := fun u hu =>
  (List.mem_append.1 hu).elim (xUse_local 0 a u) (opUse_local b u)

theorem xUse_shape (bit : Nat) (a : XSrc) : xUse bit a = [] ∨ ∃ c, xUse bit a = [⟨bit, a.mode, c⟩] := by
  unfold xUse
  split
  · split
    · exact .inl rfl
    · exact .inr ⟨_, rfl⟩
  · exact .inl rfl

theorem opUse_shape (b : XOp) : opUse b = [] ∨ ∃ m c, opUse b = [⟨1, m, c⟩] := by
  cases b with
  | reg a => exact (xUse_shape 1 a).imp_right fun ⟨c, hc⟩ => ⟨_, c, hc⟩
  | imm i => exact .inl rfl
  | lit w => exact .inl rfl

/-- The bit of a source among at most one is set where it is an empty trap-mode source. -/
theorem emptyInfo_fold {s : State} {us : List Use} {bit : Nat} (w : Word) (h : us = [] ∨ ∃ m c, us = [⟨bit, m, c⟩])
    (hl : ∀ u ∈ us, u.code ≠ codeN) :
    us.foldl (fun w u => if u.mode = .trap ∧ u.empty s s.cur = true then w ||| (1#64 <<< u.bit) else w) w =
      w ||| if trapsEmpty (here s) us then 1#64 <<< bit else 0#64 := by
  rcases h with rfl | ⟨m, c, rfl⟩
  · simp [trapsEmpty]
  · have he : Use.empty ⟨bit, m, c⟩ s s.cur = (here s).isEmpty c := Use.empty_local (hl _ (List.mem_singleton.2 rfl))
    simp only [List.foldl_cons, List.foldl_nil, he, trapsEmpty, List.any_cons, List.any_nil, Bool.or_false, Bool.and_eq_true,
      decide_eq_true_eq]
    split <;> simp

/-- TRAPINFO of EMPTYSRC names field A by bit 0 and field B by bit 1 (Table 16.1). -/
theorem emptyInfo_binary (s : State) (a : XSrc) (b : XOp) : emptyInfo s s.cur (xUse 0 a ++ opUse b) =
    (if trapsEmpty (here s) (xUse 0 a) then 1 else 0) + if trapsEmpty (here s) (opUse b) then 2 else 0 := by
  rw [emptyInfo, List.foldl_append, emptyInfo_fold (bit := 0) _ ((xUse_shape 0 a).imp_right fun ⟨c, hc⟩ => ⟨_, c, hc⟩)
    (xUse_local 0 a), emptyInfo_fold (bit := 1) _ (opUse_shape b) (opUse_local b)]
  cases trapsEmpty (here s) (xUse 0 a) <;> cases trapsEmpty (here s) (opUse b) <;> rfl

theorem State.ready_trapEmpty {s : State} {us : List Use} {ds : List Nat} (hl : ∀ u ∈ us, u.code ≠ codeN)
    (h : trapsEmpty (here s) us = true) : s.ready s.cur us ds = .error (.trap .emptysrc (emptyInfo s s.cur us)) := by
  rw [State.ready, any_empty_local (fun u => decide (u.mode = .trap)) hl]
  exact if_pos h

/-! ### Empty sources that are waited for -/

theorem State.ready_waitEmpty {s : State} {us : List Use} {ds : List Nat} (hl : ∀ u ∈ us, u.code ≠ codeN)
    (ht : ∀ u ∈ us, ¬ (u.mode = .trap ∧ (here s).isEmpty u.code = true))
    (hw : ∃ u ∈ us, (u.mode = .wait ∨ u.mode = .take) ∧ (here s).isEmpty u.code = true) :
    s.ready s.cur us ds = .error (.empty (emptyCodes s s.cur us)) := by
  rw [State.ready, any_empty_local (fun u => decide (u.mode = .trap)) hl,
    any_empty_local (fun u => decide (u.mode = .wait) || decide (u.mode = .take)) hl, if_neg, if_pos]
  · simpa using hw
  · simpa using ht

theorem State.evField_foldl_slots_mem {α : Type} (l : List α) (field code : Nat) (s : State) :
    (l.foldl (fun s _ => s.evField field code 0) s).slots = s.slots ∧ (l.foldl (fun s _ => s.evField field code 0) s).mem = s.mem := by
  induction l generalizing s with
  | nil => exact ⟨rfl, rfl⟩
  | cons x l ih => exact ih _

/-- The urgency test marks accesses and counts; it changes no slot and no memory (R226). -/
theorem State.markUrgent_slots_mem (s : State) (field : Nat) :
    (s.markUrgent field).slots = s.slots ∧ (s.markUrgent field).mem = s.mem := by
  unfold State.markUrgent
  split
  · exact State.evField_foldl_slots_mem _ field 0x08 s
  · exact ⟨rfl, rfl⟩

/-- A word that waits for empty sources changes nothing of its slot but the note of what it waits for (R70). -/
theorem waits_of_empty {i : Instr} {s : State} {size : Nat} {e : Nat → State → Effect} {codes : List Nat} (hc : CanIssue s)
    (hi : exec i s = s.issue size e) (he : e s.cur s = .error (.empty codes)) :
    ∃ t, exec i s = .next t ∧ t.slot s.cur = { here s with blocked := (t.slot s.cur).blocked } ∧
      (∀ k, k ≠ s.cur → t.slot k = s.slot k) ∧ ∀ loc, t.byte loc = s.byte loc := by
  obtain ⟨hslots, hmem⟩ := State.markUrgent_slots_mem
    ((s.modSlot s.cur (fun c => { c with blocked := codes })).evField (slotField s.cur) 5 (slotQual s.cur)) (slotField s.cur)
  have hslot (k : Nat) : (s.finish s.cur size (.error (.empty codes))).slot k =
      (s.modSlot s.cur (fun c => { c with blocked := codes })).slot k := congrArg (Tab.get Slot.empty · k) hslots
  refine ⟨s.finish s.cur size (.error (.empty codes)), ?_, ?_, fun k hk => ?_, fun loc => ?_⟩
  · rw [hi, State.issue_finish hc.1 hc.2, he]
  · rw [hslot, State.slot_modSlot_same]; rfl
  · rw [hslot, State.slot_modSlot_other _ _ hk]
  · exact congrArg (Mem.read · loc) hmem

end Sys2Proof.Machine
end

section
open Sys2Proof Sys2Proof.Claims Sys2Proof.Machine

/-- Settles O12: the readiness of the sources decides before anything else of the word. -/
theorem emptySources : Obligations.EmptySources := by
  unfold Obligations.EmptySources
  refine ⟨fun i d a b f s hf hin hbad => ?_, fun i F s hF hc ht hw => ?_⟩
  · have hany : trapsEmpty (here s) (xUse 0 a ++ opUse b) = true := by rw [trapsEmpty, List.any_append]; exact hbad
    have hready := State.ready_trapEmpty (ds := [codeX d]) (binaryUse_local a b) hany
    rw [emptyInfo_binary] at hready
    obtain ⟨e, hi, he⟩ := binaryForm_unready hf hready
    exact traps_of_error hin (by decide) hi he
  · obtain ⟨d, a, b, f, -, -, rfl, -, -⟩ := binaryForm_effect hF
    obtain ⟨e, hi, he⟩ := binaryForm_unready hF (State.ready_waitEmpty (binaryUse_local a b) ht hw)
    exact waits_of_empty hc hi he
end

section
/-!
PROOF. WAITC and YIELD (statement O16; spec/06 R135 to R139).
-/
namespace Sys2Proof.Machine
open Sys2Proof.Claims

/-! ### The condition words of a vector -/

theorem descWord_eq (d : Desc) (i : Nat) : descWord d i = condWord d i := by
  rw [descWord, condWord, BitVec.extractLsb', Nat.shiftRight_eq_div_pow]

theorem condKind_eq (w : Word) : condKind w = w.toNat / 2 ^ 60 := by
  have := w.isLt
  unfold condKind bitsOf
  omega

theorem condArg_eq (w : Word) : condArg w = w.toNat % 2 ^ 56 := by
  unfold condArg bitsOf
  omega

theorem condCount_eq (d : Desc) : condCount d = (condWord d 0).toNat % 8 := by
  rw [condCount, descWord_eq]
  unfold bitsOf
  omega

/-! ### Offending words -/

/-- A condition word that step 3 of R137 lets pass (Table 6.9). -/
theorem condBad_of_good {dregs : Nat} {w : Word} (hz : w.toNat / 2 ^ 56 % 16 = 0)
    (h : (w.toNat / 2 ^ 60 = 1 ∧ w.toNat % 2 ^ 56 < 64 ∧ (32 ≤ w.toNat % 2 ^ 56 → w.toNat % 2 ^ 56 - 32 < 8 ∧ w.toNat % 2 ^ 56 - 32 < dregs)) ∨
      (w.toNat / 2 ^ 60 = 2 ∧ w.toNat % 2 ^ 56 < 2 ^ 54) ∨ (w.toNat / 2 ^ 60 = 3 ∧ w.toNat % 2 ^ 56 < 2 ^ 16) ∨
      w.toNat / 2 ^ 60 = 4 ∨ (w.toNat / 2 ^ 60 = 5 ∧ w.toNat % 2 ^ 56 = 0)) : condBad dregs w = false := by
  have hlow : bitsOf w.toNat 59 56 = 0 := by unfold bitsOf; omega
  rw [← condKind_eq, ← condArg_eq] at h
  unfold condBad
  rw [hlow]
  generalize condArg w = a at h
  rcases h with ⟨hk, ha, hd⟩ | ⟨hk, ha⟩ | ⟨hk, ha⟩ | hk | ⟨hk, ha⟩ <;> rw [hk]
  · simp; omega
  · simp; omega
  · simp; omega
  · rfl
  · simp [ha]

/-- A good vector has no offending word (R137). -/
theorem condOffends_of_good {dregs : Nat} {d : Desc} (h : goodVector dregs d) : condOffends dregs d = none := by
  obtain ⟨hn, hhead, hconds, hrest⟩ := h
  have hbits : bitsOf (condWord d 0).toNat 63 4 = 0 := by unfold bitsOf; omega
  rw [condOffends, condCount_eq, descWord_eq, if_neg (by simp [hn, hbits]), List.find?_eq_none]
  intro i hi
  have hi : 1 ≤ i ∧ i ≤ 7 := by simp at hi; omega
  rw [descWord_eq]
  by_cases hle : i ≤ (condWord d 0).toNat % 8
  · obtain ⟨hz, hk⟩ := hconds i hi.1 hle
    rw [if_pos hle, condBad_of_good hz hk]
    exact Bool.false_ne_true
  · rw [if_neg hle, hrest i (by omega) hi.2]
    simp

/-! ### The status of a vector -/

/-- A condition on a register names one of the 64 numbers of Table 6.9. -/
theorem State.condHolds_iff (s : State) (w : Word) (hk : w.toNat / 2 ^ 60 = 1 → w.toNat % 2 ^ 56 < 64) :
    s.condHolds s.cur w = true ↔ condTrue s w := by
  unfold State.condHolds condTrue
  rw [← condKind_eq, ← condArg_eq] at *
  generalize condKind w = n at *
  generalize condArg w = a at *
  match n with
  | 0 => simp
  | 1 =>
    have ha := hk rfl
    by_cases h32 : a < 32
    · have hx : a / 32 ≠ 1 := by omega
      simp [h32, hx, Nat.mod_eq_of_lt h32, here]
    · have hd : a / 32 = 1 ∧ a % 32 = a - 32 := by omega
      simp [h32, hd, here]
  | 2 =>
    refine decide_eq_true_iff.trans ?_
    simp [slotField, slotRow]
  | 3 => simp [ctrCount, bitsOf]
  | 4 => simp
  | 5 => simp
  | n + 6 => simp

theorem goodVector_regNumber {dregs : Nat} {d : Desc} (h : goodVector dregs d) {i : Nat} (hi : 1 ≤ i)
    (hn : i ≤ (condWord d 0).toNat % 8) (hk : (condWord d i).toNat / 2 ^ 60 = 1) : (condWord d i).toNat % 2 ^ 56 < 64 := by
  obtain ⟨-, -, hconds, -⟩ := h
  obtain ⟨-, hc⟩ := hconds i hi hn
  omega

/-- The status that WAITC computes is the status of the vector. -/
theorem State.condMet_eq {s : State} {dregs : Nat} {d : Desc} {met : Word} (h : goodVector dregs d) (hs : isStatus s d met) :
    s.condMet s.cur d = met := by
  rw [State.condMet, maskOf_eq_iff]
  intro i hi
  rw [hs i hi, List.mem_filter, List.mem_range, condCount_eq, descWord_eq]
  exact and_congr_right fun hn => (s.condHolds_iff _ (goodVector_regNumber h (by omega) (by omega))).symm

theorem getLsbD_lowOnes (n i : Nat) (hi : i < 64) : (BitVec.ofNat 64 (2 ^ n - 1)).getLsbD i = decide (i < n) := by
  rw [BitVec.getLsbD_ofNat, Nat.testBit_two_pow_sub_one, decide_eq_true hi, Bool.true_and]

theorem condDone_iff {s : State} {d : Desc} {met : Word} (hs : isStatus s d met) : condDone d met = true ↔ vectorMet d met := by
  unfold condDone vectorMet condAll
  rw [descWord_eq, condCount_eq]
  cases (condWord d 0).getLsbD 3 with
  | false => simp
  | true =>
    rw [if_pos rfl, if_pos rfl, decide_eq_true_iff]
    constructor
    · intro h i hi
      rw [h, getLsbD_lowOnes _ _ (by omega)]
      exact decide_eq_true hi
    · intro h
      refine BitVec.eq_of_getLsbD_eq fun i hi => ?_
      rw [getLsbD_lowOnes _ _ hi, Bool.eq_iff_iff, decide_eq_true_iff]
      exact ⟨fun hm => ((hs i hi).1 hm).1, h i⟩

/-! ### The port and poisoned counters -/

theorem condUnbound_of_bound {s : State} {d : Desc} (h : portBound s d) : s.condUnbound s.cur d = none := by
  unfold State.condUnbound
  split
  case isTrue hp =>
    obtain ⟨i, hi, hk⟩ := List.any_eq_true.1 hp
    rw [List.mem_range, condCount_eq] at hi
    rw [descWord_eq, decide_eq_true_iff, condKind_eq] at hk
    exact h ⟨i + 1, by omega, by omega, hk⟩
  case isFalse => rfl

theorem condPoison_of_none {s : State} {d : Desc} (h : noPoison s d) : s.condPoison d = none := by
  rw [State.condPoison, Option.map_eq_none_iff, List.find?_eq_none]
  intro w hw
  obtain ⟨i, hi, rfl⟩ := List.mem_map.1 hw
  rw [List.mem_range, condCount_eq] at hi
  rw [descWord_eq, condKind_eq, condArg_eq]
  have := h (i + 1) (by omega) (by omega)
  simp_all

/-! ### The effect of WAITC -/

section
variable {d : Fin 32} {a : DSrc} {b : XOp} {met : Word} {v : Band} {s : State}
variable (hb : s.bandOf s.cur = some v) (hr : Ready s (dUse 0 a ++ opUse b) [codeX d])
  (hg : goodVector v.dregs ((here s).dr a.reg)) (hp : portBound s ((here s).dr a.reg)) (hs : isStatus s ((here s).dr a.reg) met)
include hb hr hg hp hs

/-- What WAITC does once its vector is found good, and no counter of it that it would wait for is poisoned. -/
theorem waitcEffect_good (hn : ¬ vectorMet ((here s).dr a.reg) met → noPoison s ((here s).dr a.reg)) :
    waitcEffect d a b s.cur s =
      if condDone ((here s).dr a.reg) met then
        .ok (fun u => (u.takes s.cur (dUse 0 a ++ opUse b)).modSlot s.cur (fun c => c.setX d met))
      else if (here s).opval s.cur b = 0#64 then .ok (fun u => ((u.takes s.cur (dUse 0 a ++ opUse b)).modSlot s.cur
        (fun c => c.setX d (met ||| (1#64 <<< 63)))).evField (slotField s.cur) 0x15 0)
      else .ok (fun u => (u.notYet s).modSlot s.cur (fun c => c.waitTaking (here s).pc (.waitc d ((here s).dr a.reg)
        (if (here s).opval s.cur b = BitVec.allOnes 64 then none
          else some (s.time.toNat + ((here s).opval s.cur b).toNat))) (dUse 0 a ++ opUse b))) := by
  have hd : s.dregsOf s.cur = v.dregs := by rw [State.dregsOf, hb]
  rw [waitcEffect, State.ready_of hr]
  simp only [hd]
  rw [← here, condOffends_of_good hg, condUnbound_of_bound hp, State.condMet_eq hg hs]
  refine ite_congr rfl (fun _ => rfl) (fun hm => ?_)
  simp only [condPoison_of_none (hn fun h => hm ((condDone_iff hs).2 h))]

end

/-- What has changed since `u` is what has changed since a state with the same slots. -/
theorem SlotChanged.of_slots {k : Nat} {P : Slot → Slot → Prop} {u v t : State} (h : SlotChanged k P v t)
    (hu : u = { v with slots := u.slots }) (hs : ∀ j, u.slot j = v.slot j) : SlotChanged k P u t := by
  obtain ⟨ht, ho, hP⟩ := h
  refine ⟨?_, fun j hj => (ho j hj).trans (hs j).symm, by rwa [hs]⟩
  rw [hu]
  exact ht

theorem State.slot_takes_nil (s : State) (k j : Nat) : (s.takes k []).slot j = s.slot j := by
  by_cases hj : j = k
  · rw [hj]; exact State.slot_modSlot_same s k (fun c => c.takes [])
  · exact State.slot_modSlot_other s (fun c => c.takes []) hj

/-- A slot waits at its word, and nothing of the word is counted yet. -/
theorem waitsTaking_of_ok {i : Instr} {s : State} {us : List Use} {size : Nat} {e : Nat → State → Effect} {w : Wait}
    (hc : CanIssue s) (hi : exec i s = s.issue size e)
    (he : e s.cur s = .ok (fun u => (u.notYet s).modSlot s.cur (fun c => c.waitTaking (here s).pc w us))) :
    WaitsTaking i s us size w := by
  have hw (c : Slot) : ∃ c1, Waiting s w c c1 ∧ c.waitTaking (here s).pc w us = { c1 with late := tookCodes us } := ⟨_, rfl, rfl⟩
  refine actsIn_of_ok hc hi he (byte_sourced s [] size) (SlotChanged.of_slots (v := (s.issued s.cur size).notYet s) ?_ ?_ ?_)
  · exact .modSlot (hw _)
  · rfl
  · exact fun j => State.slot_takes_nil (s.issued s.cur size) s.cur j

end Sys2Proof.Machine
end

section
open Sys2Proof Sys2Proof.Claims Sys2Proof.Machine

/-- Settles O16: the effect of WAITC on a good vector, case by case, and that of YIELD. -/
theorem waitsAndYields : Obligations.WaitsAndYields := by
  unfold Obligations.WaitsAndYields
  refine ⟨fun d a b met v s hc hb hr => ?_, fun b v s hc hb hr => ?_⟩
  · intro V B hg hp hs
    have he := waitcEffect_good hb hr hg hp hs
    refine ⟨fun hm => ?_, fun hm hn hB => ?_, fun hm hn hB => ?_⟩
    · have hmet := (he (absurd hm)).trans (if_pos ((condDone_iff hs).2 hm))
      exact acts_modSlot hc rfl hmet (fun c => c.setX_wrote d met)
    · have hwaits := (he fun _ => hn).trans (if_neg (mt (condDone_iff hs).1 hm))
      refine actsIn_of_ok hc rfl (hwaits.trans (if_pos hB)) (byte_sourced s _ _) ?_
      exact SlotChanged.modSlot (u := (sourced s (dUse 0 a ++ opUse b) (opSize b)).evField (slotField s.cur) 0x15 0)
        (P := WroteX d (met ||| 0x8000000000000000)) (f := fun c => c.setX d (met ||| (1#64 <<< 63))) (Slot.setX_wrote _ d _)
    · have hwaits := (he fun _ => hn).trans (if_neg (mt (condDone_iff hs).1 hm))
      exact waitsTaking_of_ok hc rfl (hwaits.trans (if_neg hB))
  · have he : yieldEffect b s.cur s = .ok (fun u => (u.takes s.cur (opUse b)).modSlot s.cur (fun c =>
        if v.due then { c with wait := .yield (((here s).opval s.cur b).setWidth 32) } else c)) := by
      rw [yieldEffect, State.ready_of hr, State.dueAt, hb]
      rfl
    exact acts_modSlot hc rfl he (fun c => rfl)
end

section
/-!
PROOF. What issuing a word and reading its sources does (statement O9; spec/03 R62, R69, R70, spec/01 R16).
-/
namespace Sys2Proof.Machine
open Sys2Proof.Claims

/-! ### A word issued, its registers taken -/

/-- A word has issued, and its take-mode registers are empty. -/
def State.registersTaken (s : State) (us : List Use) (size : Nat) : State :=
  (s.issued s.cur size).modSlot s.cur (fun c => c.takes us)

theorem State.slot_registersTaken_same (s : State) (us : List Use) (size : Nat) : (s.registersTaken us size).slot s.cur =
    (stamped s (goesTo (here s) ((here s).pc + BitVec.ofNat 64 size))).takes us := by
  rw [State.registersTaken, State.slot_modSlot_same, State.slot_issued_same, Slot.stamp_eq_stamped, Slot.goto_eq_goesTo]
  rfl

theorem State.slot_registersTaken_other (s : State) (us : List Use) (size : Nat) {k : Nat} (hk : k ≠ s.cur) :
    (s.registersTaken us size).slot k = s.slot k := by
  rw [State.registersTaken, State.slot_modSlot_other _ _ hk, State.slot_issued_other _ _ hk]

theorem stamped_band (s : State) (c : Slot) : (stamped s c).band = c.band := by rw [stamped_shape]

theorem State.band_registersTaken (s : State) (us : List Use) (size : Nat) :
    ((s.registersTaken us size).slot s.cur).band = (here s).band := by
  rw [State.slot_registersTaken_same, Slot.takes_band, stamped_band]
  rfl

theorem northSlot_ne (k : Nat) : northSlot k ≠ k := by
  unfold northSlot slotKey slotRow slotAB
  omega

/-- Neither the stamp nor the takes change the value at the head of the north port. -/
theorem State.northHead_registersTaken (s : State) (us : List Use) (size : Nat) :
    (s.registersTaken us size).northHead s.cur = s.northHead s.cur := by
  have hb : (s.registersTaken us size).bandOf s.cur = s.bandOf s.cur := by
    rw [State.bandOf, State.band_registersTaken]; rfl
  rw [State.northHead, hb, State.slot_registersTaken_other s us size (northSlot_ne _)]
  rfl

/-! ### The value at the head of the north port consumed -/

theorem State.slot_setBand (s : State) (b : Nat) (v : Option Band) (k : Nat) : (s.setBand b v).slot k = s.slot k := rfl

theorem State.band_setBand_same (s : State) (b : Nat) (v : Option Band) : (s.setBand b v).band? b = v :=
  Tab.get_set_same none s.bands b v

theorem State.band_setBand_other (s : State) {b c : Nat} (v : Option Band) (h : c ≠ b) : (s.setBand b v).band? c = s.band? c :=
  Tab.get_set_other none s.bands v h

/-- In band row 0 the value is the zenith feed's. -/
theorem State.northTake_feed {s : State} {k b : Nat} {v : Band} {w : PortVal} (hb : (s.slot k).band = some b)
    (hv : s.band? b = some v) (hw : s.northHead k = some w) (h0 : v.rowIndex (slotRow k) = 0) : s.northTake k =
      (s.modSlot k (fun c => { c with lastTaken := some w })).setBand b
        (some { v with zen := { v.zen with buf := v.zen.buf.drop 1 }.pass }) := by
  have hbo : s.bandOf k = some v := by rw [State.bandOf, hb]; exact hv
  rw [State.northTake, hbo, hw]
  simp only [h0, if_true]
  rw [State.modBandOf, State.slot_modSlot_same]
  simp only [hb]
  rw [State.modBand, show (s.modSlot k _).band? b = s.band? b from rfl, hv]

/-- Elsewhere it is the south port's of the row above. -/
theorem State.northTake_above {s : State} {k b : Nat} {v : Band} {w : PortVal} (hb : (s.slot k).band = some b)
    (hv : s.band? b = some v) (hw : s.northHead k = some w) (h0 : v.rowIndex (slotRow k) ≠ 0) : s.northTake k =
      (s.modSlot k (fun c => { c with lastTaken := some w })).modSlot (northSlot k) (fun c => { c with south := c.south.drop 1 }) := by
  have hbo : s.bandOf k = some v := by rw [State.bandOf, hb]; exact hv
  rw [State.northTake, hbo, hw]
  simp only [h0, if_false]

/-- Taking a north value changes slots and bands, and of its own slot what was last taken. -/
theorem State.northTake_frame (s : State) (k : Nat) :
    s.northTake k = { s with slots := (s.northTake k).slots, bands := (s.northTake k).bands } ∧
      (s.northTake k).slot k = { s.slot k with lastTaken := ((s.northTake k).slot k).lastTaken } := by
  cases hw : s.northHead k with
  | none =>
    have h : s.northTake k = s := by
      rw [State.northTake, hw]
      cases s.bandOf k <;> rfl
    rw [h]
    exact ⟨rfl, rfl⟩
  | some w =>
    have hsome : ∃ v, s.bandOf k = some v := by
      rw [State.northHead] at hw
      cases hb : s.bandOf k with
      | none => rw [hb] at hw; cases hw
      | some v => exact ⟨v, rfl⟩
    obtain ⟨v, hbo⟩ := hsome
    obtain ⟨b, hb, hv⟩ := Option.bind_eq_some_iff.1 hbo
    by_cases h0 : v.rowIndex (slotRow k) = 0
    · rw [State.northTake_feed hb hv hw h0]
      refine ⟨rfl, ?_⟩
      rw [State.slot_setBand, State.slot_modSlot_same]
    · rw [State.northTake_above hb hv hw h0]
      refine ⟨rfl, ?_⟩
      rw [State.slot_modSlot_other _ _ (northSlot_ne k).symm, State.slot_modSlot_same]

/-! ### What reading the sources leaves -/

theorem sourced_of_local {s : State} {us : List Use} {size : Nat} (h : ∀ u ∈ us, u.code = codeN → u.mode = .peek) :
    sourced s us size = s.registersTaken us size := by
  refine if_neg ?_
  simpa using h

theorem sourced_of_north {s : State} {us : List Use} {size : Nat} (h : ∃ u ∈ us, u.code = codeN ∧ u.mode ≠ .peek) :
    sourced s us size = (s.registersTaken us size).northTake s.cur := by
  refine if_pos ?_
  simpa using h

/-- Beside the takes, reading the sources changes slots and bands, and of its own slot what was last taken. -/
theorem sourced_frame (s : State) (us : List Use) (size : Nat) :
    sourced s us size = { s.registersTaken us size with slots := (sourced s us size).slots, bands := (sourced s us size).bands } ∧
      (sourced s us size).slot s.cur = { (s.registersTaken us size).slot s.cur with
        lastTaken := ((sourced s us size).slot s.cur).lastTaken } := by
  by_cases h : ∃ u ∈ us, u.code = codeN ∧ u.mode ≠ .peek
  · rw [sourced_of_north h]
    exact State.northTake_frame _ _
  · rw [sourced_of_local (by simpa using h)]
    exact ⟨rfl, rfl⟩

/-- The registers of the slot after its sources are read. -/
theorem slot_sourced (s : State) (us : List Use) (size : Nat) : (sourced s us size).slot s.cur =
    { (stamped s (goesTo (here s) ((here s).pc + BitVec.ofNat 64 size))).takes us with
      lastTaken := ((sourced s us size).slot s.cur).lastTaken } := by
  rw [← State.slot_registersTaken_same]
  exact (sourced_frame s us size).2

theorem stamped_isEmpty (s : State) (c : Slot) (code : Nat) : (stamped s c).isEmpty code = c.isEmpty code := by
  rw [stamped_shape]; rfl

/-- The stamped slot at its next word, its takes done, differs from the slot before in nothing but these. -/
theorem stamped_takes_shape (s : State) (c : Slot) (us : List Use) : (stamped s c).takes us =
    { stamped s c with
      xEmpty := ((stamped s c).takes us).xEmpty, dEmpty := ((stamped s c).takes us).dEmpty
      vEmpty := ((stamped s c).takes us).vEmpty, wEmpty := ((stamped s c).takes us).wEmpty
      aEmpty := ((stamped s c).takes us).aEmpty } := Slot.takes_shape _ _

theorem registersTaken_ports (s : State) (us : List Use) (size : Nat) :
    ((s.registersTaken us size).slot s.cur).lastTaken = (here s).lastTaken ∧
      ((s.registersTaken us size).slot s.cur).south = (here s).south := by
  rw [State.slot_registersTaken_same, Slot.takes_shape, stamped_shape]
  exact ⟨rfl, rfl⟩

/-! ### The north value of a word that names the port -/

section
variable {s : State} {us : List Use} {size b : Nat} {v : Band} {w : PortVal}

/-- In band row 0 the zenith feed loses its first value. -/
theorem sourced_feed (hn : ∃ u ∈ us, u.code = codeN ∧ u.mode ≠ .peek) (hb : (here s).band = some b) (hv : s.band? b = some v)
    (hw : s.northHead s.cur = some w) (h0 : v.rowIndex (slotRow s.cur) = 0) : sourced s us size =
      ((s.registersTaken us size).modSlot s.cur (fun c => { c with lastTaken := some w })).setBand b
        (some { v with zen := { v.zen with buf := v.zen.buf.drop 1 }.pass }) := by
  rw [sourced_of_north hn]
  exact State.northTake_feed ((s.band_registersTaken us size).trans hb) hv
    ((s.northHead_registersTaken us size).trans hw) h0

/-- Elsewhere the south port of the row above does. -/
theorem sourced_above (hn : ∃ u ∈ us, u.code = codeN ∧ u.mode ≠ .peek) (hb : (here s).band = some b) (hv : s.band? b = some v)
    (hw : s.northHead s.cur = some w) (h0 : v.rowIndex (slotRow s.cur) ≠ 0) : sourced s us size =
      ((s.registersTaken us size).modSlot s.cur (fun c => { c with lastTaken := some w })).modSlot (northSlot s.cur)
        (fun c => { c with south := c.south.drop 1 }) := by
  rw [sourced_of_north hn]
  exact State.northTake_above ((s.band_registersTaken us size).trans hb) hv
    ((s.northHead_registersTaken us size).trans hw) h0

end

end Sys2Proof.Machine
end

section
open Sys2Proof Sys2Proof.Claims Sys2Proof.Machine

/-- Settles O9: the word's issue, then its takes, then the value of the north port. -/
theorem sourcesRead : Obligations.SourcesRead := by
  unfold Obligations.SourcesRead
  intro s us size _ u d
  have hd : d = _ := slot_sourced s us size
  refine ⟨fun code _ => ?_, ?_, (sourced_frame s us size).1, fun hn => ?_, fun v b w hn hb hv hw => ?_⟩
  · have h := (stamped s (goesTo (here s) ((here s).pc + BitVec.ofNat 64 size))).isEmpty_takes us code
    rw [stamped_isEmpty] at h
    rw [hd]
    exact h
  · rw [hd, stamped_takes_shape]
  · have hu : u = s.registersTaken us size := sourced_of_local hn
    have hp := registersTaken_ports s us size
    rw [← hu] at hp
    exact ⟨by rw [hu]; rfl, hp.1, hp.2, fun k hk => by rw [hu, State.slot_registersTaken_other s us size hk]⟩
  · have hother (k : Nat) (hk : k ≠ s.cur) := State.slot_registersTaken_other s us size hk
    obtain ⟨-, hsouth⟩ := registersTaken_ports s us size
    by_cases h0 : v.rowIndex (slotRow s.cur) = 0
    · have hu : u = _ := sourced_feed hn hb hv hw h0
      have hcur : d = { (s.registersTaken us size).slot s.cur with lastTaken := some w } := by
        rw [show d = u.slot s.cur from rfl, hu, State.slot_setBand, State.slot_modSlot_same]
      refine ⟨by rw [hcur], fun _ => ⟨?_, fun c hc => ?_, by rw [hcur]; exact hsouth, fun k hk => ?_⟩, fun h => absurd h0 h⟩
      · rw [hu, State.band_setBand_same]
      · rw [hu, State.band_setBand_other _ _ hc]
        rfl
      · rw [hu, State.slot_setBand, State.slot_modSlot_other _ _ hk, hother k hk]
    · have hu : u = _ := sourced_above hn hb hv hw h0
      have hne := northSlot_ne s.cur
      have hcur : d = { (s.registersTaken us size).slot s.cur with lastTaken := some w } := by
        rw [show d = u.slot s.cur from rfl, hu, State.slot_modSlot_other _ _ hne.symm, State.slot_modSlot_same]
      refine ⟨by rw [hcur], fun h => absurd h h0, fun _ => ⟨by rw [hu]; rfl, by rw [hcur]; exact hsouth, ?_, fun k hk hk' => ?_⟩⟩
      · rw [hu, State.slot_modSlot_same, State.slot_modSlot_other _ _ hne, hother _ hne]
      · rw [hu, State.slot_modSlot_other _ _ hk', State.slot_modSlot_other _ _ hk, hother k hk]
end

section
/-!
PROOF. Pair words (statement O60; spec/04 R77): why the statement fails, though the model joins its halves as R77 says. `Holding`
looks at the state after the word and not at what the word did: a word that goes to wait for translations (R220) is stamped (R19)
and writes its wait into its slot, and where the slot holds that very wait and that very stamp already, it looks as if it had
stalled on its registers. Beside a half that traps the two are told apart: a stall comes before the trap, the wait for
translations after it.
-/
namespace Sys2Proof.Machine
open Sys2Proof.Claims

/-! ### Effects that are no effect -/

/-- An effect is this halt. -/
def haltsWith (e : Effect) (x : Halt) : Bool :=
  match e with
  | .error y => decide (y = x)
  | .ok _ => false

theorem eq_error_of_haltsWith {e : Effect} {x : Halt} (h : haltsWith e x = true) : e = .error x := by
  cases e with
  | error y => rw [of_decide_eq_true (p := y = x) h]
  | ok u => cases h

/-! ### A wait for a translation that leaves its slot as it was -/

/-- A word that goes to wait for a walk in a slot which holds that wait and that stamp: `Holding` cannot tell. -/
theorem holding_of_walk {i : Instr} {s : State} {size : Nat} {e : Nat → State → Effect} {va : Word} {acc : AccKind} (hc : CanIssue s)
    (hi : exec i s = s.issue size e) (he : e s.cur s = .error (.hold (.walk [va] acc))) (hw : (here s).wait = .walk [va] acc)
    (hsel : (here s).selected = false) (hstamp : (here s).lastIssue = s.issueClk + 1) : Holding i s := by
  have hslot (k : Nat) : (s.finish s.cur size (.error (.hold (.walk [va] acc)))).slot k =
      ((s.tookIssue s.cur).modSlot s.cur (fun c => { c with wait := .walk [va] acc })).slot k := rfl
  refine ⟨s.finish s.cur size (.error (.hold (.walk [va] acc))), ?_, ?_, fun k hk => ?_, fun loc => rfl⟩
  · rw [hi, State.issue_finish hc.1 hc.2, he]
  · have hst : stamped s (here s) = { here s with lastIssue := s.issueClk + 1, blocked := [] } := if_neg (by rw [hsel]; decide)
    rw [hslot, State.slot_modSlot_same, State.slot_tookIssue_same, ← here, hst, ← hstamp, ← hw]
  · rw [hslot, State.slot_modSlot_other _ _ hk, State.slot_tookIssue_other _ hk]

/-! ### The counterexample -/

/-- Adds lane registers that hold raw bits: TAGMISMATCH (R147). -/
def rawAdd : Instr := .vadd none (.v 28) ⟨.v 1, .wait⟩ (.reg ⟨.v 2, .wait⟩) .rne false false

/-- Reads memory at x9 + x3. -/
def farLoad : Instr := .lds 9 ⟨.x 9, .wait⟩ (.reg ⟨.x 3, .wait⟩) ⟨.row, .raw, false, false, .w64⟩

/-- The slot holds the wait and the stamp that the load is about to write. -/
def walkSlot : Slot :=
  { Slot.empty with
    band := some 1, pc := 0x1000, tvec := 0x2000, x := [(3, 0x20000)], wait := .walk [0x20000] .read, lastIssue := 1 }

/-- It executes, no page translated; region 0 lets every trap go to the slot's handler. -/
def walkState : State :=
  { State.reset with
    bands := [(1, some fetchBand)], slots := [(0, walkSlot)]
    regions := [(0, (0x155555555555#512 <<< 386) ||| 0x8000000000000000#512)] }

theorem walkState_canIssue : CanIssue walkState := ⟨rfl, .inl rfl⟩

theorem walkState_inRow : InRow walkState .tagmismatch :=
  ⟨fetchBand, rfl, by decide, by decide +kernel, by decide, rfl, rfl⟩

theorem rawAdd_traps : Traps rawAdd walkState .tagmismatch (BitVec.allOnes 64) 0x1000 :=
  traps_of_error (size := 8) (e := halfEffect rawAdd) walkState_inRow (by decide) rfl (eq_error_of_haltsWith (by decide +kernel))

theorem farLoad_holding : Holding farLoad walkState :=
  holding_of_walk (size := 8) (e := halfEffect farLoad) walkState_canIssue rfl
    (eq_error_of_haltsWith (x := .hold (.walk [0x20000] .read)) (by decide +kernel)) rfl rfl rfl

/-- The handler bit of the executing slot after a word. -/
def handlerAfter (i : Instr) (s : State) : Bool :=
  match exec i s with
  | .next t => (t.slot s.cur).handler
  | _ => false

end Sys2Proof.Machine
end

section
open Sys2Proof Sys2Proof.Claims Sys2Proof.Machine

/-- Refutes O60, in its clause on a half H0 that traps beside a half H1 that `Holding` takes for one that stalls: in `walkState`
the load waits for a translation, and the pair takes H0's trap. Only a slot whose stamp lies after the last issue can be so. -/
theorem not_pairWords : ¬ Obligations.PairWords := by
  unfold Obligations.PairWords
  intro h
  obtain ⟨-, -, htrap, -, -⟩ := h
  have hwf : (Instr.pairWord rawAdd farLoad).wf = true := by decide +kernel
  obtain ⟨-, -, -, hwait, -⟩ := htrap rawAdd farLoad .tagmismatch (BitVec.allOnes 64) 0x1000 walkState walkState hwf
    walkState_canIssue walkState_inRow (fun f hf => nomatch hf)
  have hsame : handlerAfter (.pairWord rawAdd farLoad) walkState = handlerAfter farLoad walkState := by
    rw [handlerAfter, hwait rawAdd_traps farLoad_holding]
    rfl
  exact absurd hsame (by decide +kernel)
end

section
/-!
PROOF. Instruction-cache fills (statement O59; spec/09 R214, spec/06 R118): why the statement fails. The exit word is never mapped:
each of its eight bytes lies in no page, whatever a TLB holds. The clause on fills excludes the address of the word and not those of
its other seven bytes, where a fetch is a fault and its slot is parked.
-/
namespace Sys2Proof.Machine
open Sys2Proof.Claims

/-- A page of side memory that may be executed. -/
def sideLeaf : TlbLeaf := ⟨0x1800000000000100, 0⟩

/-- The address of the exit word's second byte. -/
def exitByte : Word := 0x01FFFFFFFFFFFFF9

/-- The executing slot stands at that address; its field's TLB holds the page, and the memory grants the field a read. -/
def exitByteState : State :=
  { State.reset with
    bands := [(1, some fetchBand)], slots := [(0, { Slot.empty with band := some 1, pc := exitByte })]
    tlb := [(tlbKey 0 0 (vaPage exitByte), some sideLeaf)], acl := [(0x40, 1)] }

theorem exitByteState_mayIssue : MayIssue exitByteState 0 := ⟨fetchBand, rfl, .inl rfl, rfl, rfl, rfl, rfl⟩

/-- The wait of a slot after an event. -/
def waitAfter (i : Instr) (s : State) (k : Nat) : Wait :=
  match exec i s with
  | .next t => (t.slot k).wait
  | _ => .none

theorem waitAfter_exitByte : waitAfter (.instructionCacheFill 0) exitByteState 0 = .parked exitByte .fetch := by decide +kernel

end Sys2Proof.Machine
end

section
open Sys2Proof Sys2Proof.Claims Sys2Proof.Machine

/-- Refutes O59, in its clause on instruction-cache fills: at `exitByte`, which no page maps, the fill parks the slot, where the
statement says that no slot changes. Only a misaligned PC can stand there. -/
theorem not_memoryEvents : ¬ Obligations.MemoryEvents := by
  unfold Obligations.MemoryEvents
  intro h
  obtain ⟨-, -, -, -, -, -, -, -, -, -, hfill⟩ := h
  obtain ⟨t, ht, hslots, -⟩ := hfill 0 fetchBand sideLeaf exitByte exitByteState rfl exitByteState_mayIssue (.inl ⟨rfl, rfl⟩) rfl
    (by decide) rfl (by decide) (by decide +kernel) rfl rfl (by decide +kernel) (by decide +kernel) (.inl (by decide +kernel))
  have hwait : waitAfter (.instructionCacheFill 0) exitByteState 0 = (exitByteState.slot 0).wait := by
    rw [waitAfter, ht]
    exact congrArg (fun slots => (Tab.get Slot.empty slots 0).wait) hslots
  rw [waitAfter_exitByte] at hwait
  exact absurd hwait (by decide)
end
